-- ==== Sys2Proof/Syntax.lean ====
section
/-! DEFINITION. The commands of the part, one constructor for each row of the spec's command table, with the operands the
rule of each row gives it. -/

namespace Sys2Proof

/-- Who makes a register access (R89, R207, R259, R387): PF0 or a VF through its BAR0 mirror, a foreman, a kneader
context, a tram or a hoist (the R386 kinds). -/
inductive Who where
  | pf0
  | vf (v : Fin 256)
  | foreman (f : Fin 2)
  | ctx (c : Fin 1024)
  | tram (t : Fin 320)
  | hoist (h : Fin 64)
deriving DecidableEq, Repr

/-- R22, R28: the state a seam retrain finds. -/
inductive LinkWidth where
  | down | half | full
deriving DecidableEq, Repr

/-- R212: a memory controller: HBM3E stack or DDR5 channel. -/
inductive Ctrl where
  | stack (s : Fin 16)
  | chan (c : Fin 12)
deriving DecidableEq, Repr

/-- R224: how the training of a stack or channel ends: trained (rate in MT/s, narrowest run, its lane, lanes repaired,
capacity in GiB, MRDIMM), to train again at the next lower rate, absent, or failed. -/
inductive TrainResult where
  | trained (rate eye lane repaired gib : Nat) (mrdimm : Bool)
  | lower (rate : Nat)
  | absent
  | failed
deriving DecidableEq, Repr

/-- R342: a lease message as it arrives: who sent it, its lease epoch, and BASE and SIZE in 64 KiB units. -/
structure LeaseMsg where
  peer  : BitVec 15
  epoch : BitVec 8
  units : BitVec 29
deriving DecidableEq, Repr

/-- R167, R168: what an SSD's completion says: an I/O command ended, well or not; or the SSD is ready, and Identify gave
its namespace in 4 KiB units, whether its format is usable, and whether it has a volatile write cache. -/
inductive NvmeResult where
  | io (ok : Bool)
  | ready (units : Nat) (usable volatile : Bool)
deriving DecidableEq, Repr

/-- R247, R279: what a tram's reads of host memory brought: the bytes, in order, or the offset of the first that failed. -/
inductive HostRead where
  | data (bs : List Byte)
  | error (at_ : Nat)
deriving DecidableEq, Repr

/-- R260, R262, R284: a configuration write: the register, by the name the PCI Express specification gives it. A base
register is written by dwords. -/
inductive CfgWrite where
  | command (bme mse : Bool)
  | bar (n : Fin 6) (val : BitVec 32)
  | deviceControl (val : BitVec 16)
  | deviceControl2 (val : BitVec 16)
  | msix (enable mask : Bool)
  | sriovControl (vfEnable vfMse ari : Bool)
  | numVfs (n : BitVec 16)
  | vfBar (n : Fin 6) (val : BitVec 32)
  /-- Advanced Error Reporting: the bits of the uncorrectable status that are cleared. -/
  | aerStatus (clear : BitVec 32)
  | aerMask (val : BitVec 32)
  | aerSeverity (val : BitVec 32)
deriving DecidableEq, Repr

/-- R286: a BAR4 request: a read of a length, or a write of bytes. -/
inductive WinOp where
  | read (len : Nat)
  | write (bs : List Byte)
deriving DecidableEq, Repr

/-- R290, R295, R300, R312: a CXL.mem request: the host's SPID, the tag of its response, the host physical address, whether a
read or a MemInv asks for ownership, whether it is a MemInv, which moves no data, and, for a write, its 64 bytes with the
mask of those written. -/
structure PoolReq where
  spid : BitVec 12
  tag  : BitVec 16
  hpa  : BitVec 52
  own  : Bool
  inv  : Bool
  data : Option (List Byte)
  mask : BitVec 64
deriving DecidableEq, Repr

/-- R328: an exchange record: coordinates, system size (DX, DY, DZ, each less one), port, link versions, and the
wavelengths that the sender receives well. -/
structure ExchRecord where
  coords   : BitVec 15
  size     : BitVec 15
  port     : Fin 16
  versions : BitVec 8
  good     : BitVec 8
deriving DecidableEq, Repr

/-- R353, R355: what a regulated request reaches: a part address, read or written; an SSD, read or written; or the host,
with data that the part sends or receives. -/
inductive RegTarget where
  | part (addr : BitVec 64) (write : Bool)
  | ssd (p : Fin 4) (write : Bool)
  | host (send : Bool)
deriving DecidableEq, Repr

/-- R353: a PCIe link of the part. -/
inductive PcieLink where
  | hp0 | hp1
  | nvme (p : Fin 4)
deriving DecidableEq, Repr

/-- The commands. -/
inductive Instr where
  -- Registers, counters and seam links (spec/00, spec/01)
  /-- REGISTER_WRITE: R5 to R9: a write of `width` bytes at control offset `off`. -/
  | registerWrite (who : Who) (off : Nat) (width : Nat) (val : BitVec 64)
  /-- COUNTER_LOW_READ: R71: a read of the lower half of a 64-bit counter. -/
  | counterLowRead (off : Nat)
  /-- SEAM_FLIT_RECEIVE: R21: a flit arrives at one end of a seam link. -/
  | seamFlitReceive (link : Fin 8) (dir : Bool) (seq : Nat) (crcOk : Bool)
  /-- SEAM_RETRAIN: R22: the link starts retraining. -/
  | seamRetrain (link : Fin 8)
  /-- SEAM_RETRAIN_DONE: R22: the retrain ends at the width found. -/
  | seamRetrainDone (link : Fin 8) (found : LinkWidth)
  /-- SEAM_FAILOVER_COMPLETE: R23: step 3 and 4 of the switch to the surviving routes. -/
  | seamFailoverComplete (link : Fin 8)
  -- Matrix engines and crews (spec/03)
  /-- MXE_QCTL_WRITE: R65: a write to MXE_QCTLi. -/
  | mxeQctlWrite (who : Who) (m : Fin 192) (q : Fin 4) (val : BitVec 64)
  /-- MXE_RELEASE_DONE: R65: the release has prepared the queue's resources. -/
  | mxeReleaseDone (m : Fin 192) (q : Fin 4)
  /-- MXE_QUEUE_SWITCH: R66, R67: the engine switches to queue `q`. -/
  | mxeQueueSwitch (m : Fin 192) (q : Fin 4)
  /-- MXE_CANCEL_DONE: R70: a cancel completes. -/
  | mxeCancelDone (m : Fin 192) (q : Fin 4)
  /-- MXE_CNT_CLEAR_EVENT: R71: EVENT_CNTS. -/
  | mxeCntClearEvent (who : Who) (m : Fin 192)
  /-- MXE_CNT_CLEAR_CYCLE: R71: CYCLE_CNTS. -/
  | mxeCntClearCycle (who : Who) (m : Fin 192)
  -- Tile commands (spec/04): the command at the head of queue `q` of MXE `m`
  /-- NOP: R73. -/
  | tNop (m : Fin 192) (q : Fin 4)
  /-- WLOAD: R81. -/
  | wload (m : Fin 192) (q : Fin 4)
  /-- HOIST_REFETCH_DONE: R154: the refetched tile lands. -/
  | hoistRefetchDone (h : Fin 64) (slot : Fin 16) (tile : Fin 65536)
  /-- TLOAD: R82. -/
  | tload (m : Fin 192) (q : Fin 4)
  /-- CBLOAD: R83. -/
  | cbload (m : Fin 192) (q : Fin 4)
  /-- MMA: R84, R85. -/
  | mma (m : Fin 192) (q : Fin 4)
  /-- ACLR: R86. -/
  | aclr (m : Fin 192) (q : Fin 4)
  /-- AMOVE: R86. -/
  | amove (m : Fin 192) (q : Fin 4)
  /-- REQUANT: R87. -/
  | requant (m : Fin 192) (q : Fin 4)
  /-- TSTORE: R88. -/
  | tstore (m : Fin 192) (q : Fin 4)
  /-- SEMSIG: R90. -/
  | semsig (m : Fin 192) (q : Fin 4)
  /-- SEMSIG_FIRE: R91: the oldest pending SEMSIG of the queue fires or fails. -/
  | semsigFire (m : Fin 192) (q : Fin 4)
  /-- SEMWAIT: R92. -/
  | semwait (m : Fin 192) (q : Fin 4)
  /-- SEMWAIT_SATISFIED: R92, R93. -/
  | semwaitSatisfied (m : Fin 192) (q : Fin 4)
  /-- SEMWAIT_TIMEOUT: R92, R77. -/
  | semwaitTimeout (m : Fin 192) (q : Fin 4)
  /-- HSWAIT: R94. -/
  | hswait (m : Fin 192) (q : Fin 4)
  /-- HSWAIT_RESOLVE: R94. -/
  | hswaitResolve (m : Fin 192) (q : Fin 4)
  /-- HSWAIT_TIMEOUT: R94, R77. -/
  | hswaitTimeout (m : Fin 192) (q : Fin 4)
  /-- HSREL: R97. -/
  | hsrel (m : Fin 192) (q : Fin 4)
  /-- MXE_COMMAND_COMPLETE: R78: the command executing on the unit finishes. -/
  | mxeCommandComplete (m : Fin 192) (q : Fin 4) (unit : Fin 3)
  /-- MXE_SEM_WRITE: R89, R93: a write to MXE_SEMn. -/
  | mxeSemWrite (who : Who) (n : Fin 64) (ix : Fin 128) (val : BitVec 64)
  /-- MXE_SEM_ADD: R89, R93: a write to MXE_SEM_ADDn. -/
  | mxeSemAdd (who : Who) (n : Fin 64) (ix : Fin 128) (val : BitVec 32)
  /-- RESERVED_TILE_OPCODE: R75: the head command's OPCODE is reserved. -/
  | reservedTileOpcode (m : Fin 192) (q : Fin 4)
  -- Idvoan-K scalar instructions (spec/05): the instruction at the PC of context `c` issues
  /-- ADD: R111: ADD rd, ra, rb. -/
  | kAdd (c : Fin 1024) (rd : Fin 32) (ra : Fin 32) (rb : Fin 32)
  /-- SUB: R111: SUB rd, ra, rb. -/
  | kSub (c : Fin 1024) (rd : Fin 32) (ra : Fin 32) (rb : Fin 32)
  /-- AND: R111: AND rd, ra, rb. -/
  | kAnd (c : Fin 1024) (rd : Fin 32) (ra : Fin 32) (rb : Fin 32)
  /-- OR: R111: OR rd, ra, rb. -/
  | kOr (c : Fin 1024) (rd : Fin 32) (ra : Fin 32) (rb : Fin 32)
  /-- XOR: R111: XOR rd, ra, rb. -/
  | kXor (c : Fin 1024) (rd : Fin 32) (ra : Fin 32) (rb : Fin 32)
  /-- SLL: R111: SLL rd, ra, rb. -/
  | kSll (c : Fin 1024) (rd : Fin 32) (ra : Fin 32) (rb : Fin 32)
  /-- SRL: R111: SRL rd, ra, rb. -/
  | kSrl (c : Fin 1024) (rd : Fin 32) (ra : Fin 32) (rb : Fin 32)
  /-- SRA: R111: SRA rd, ra, rb. -/
  | kSra (c : Fin 1024) (rd : Fin 32) (ra : Fin 32) (rb : Fin 32)
  /-- SLT: R111: SLT rd, ra, rb. -/
  | kSlt (c : Fin 1024) (rd : Fin 32) (ra : Fin 32) (rb : Fin 32)
  /-- SLTU: R111: SLTU rd, ra, rb. -/
  | kSltu (c : Fin 1024) (rd : Fin 32) (ra : Fin 32) (rb : Fin 32)
  /-- MIN: R111: MIN rd, ra, rb. -/
  | kMin (c : Fin 1024) (rd : Fin 32) (ra : Fin 32) (rb : Fin 32)
  /-- MAX: R111: MAX rd, ra, rb. -/
  | kMax (c : Fin 1024) (rd : Fin 32) (ra : Fin 32) (rb : Fin 32)
  /-- MUL: R111: MUL rd, ra, rb. -/
  | kMul (c : Fin 1024) (rd : Fin 32) (ra : Fin 32) (rb : Fin 32)
  /-- MULH: R111: MULH rd, ra, rb. -/
  | kMulh (c : Fin 1024) (rd : Fin 32) (ra : Fin 32) (rb : Fin 32)
  /-- MULHU: R111: MULHU rd, ra, rb. -/
  | kMulhu (c : Fin 1024) (rd : Fin 32) (ra : Fin 32) (rb : Fin 32)
  /-- DIV: R111: DIV rd, ra, rb. -/
  | kDiv (c : Fin 1024) (rd : Fin 32) (ra : Fin 32) (rb : Fin 32)
  /-- REM: R111: REM rd, ra, rb. -/
  | kRem (c : Fin 1024) (rd : Fin 32) (ra : Fin 32) (rb : Fin 32)
  /-- CLZ: R111: CLZ rd, ra. -/
  | kClz (c : Fin 1024) (rd : Fin 32) (ra : Fin 32)
  /-- POPC: R111: POPC rd, ra. -/
  | kPopc (c : Fin 1024) (rd : Fin 32) (ra : Fin 32)
  /-- SEXTB: R111: SEXTB rd, ra. -/
  | kSextb (c : Fin 1024) (rd : Fin 32) (ra : Fin 32)
  /-- SEXTH: R111: SEXTH rd, ra. -/
  | kSexth (c : Fin 1024) (rd : Fin 32) (ra : Fin 32)
  /-- SEXTW: R111: SEXTW rd, ra. -/
  | kSextw (c : Fin 1024) (rd : Fin 32) (ra : Fin 32)
  /-- ADDS: R111: ADDS rd, ra, rb. -/
  | kAdds (c : Fin 1024) (rd : Fin 32) (ra : Fin 32) (rb : Fin 32)
  /-- CTZ: R111: CTZ rd, ra. -/
  | kCtz (c : Fin 1024) (rd : Fin 32) (ra : Fin 32)
  /-- RQ8: R121: RQ8 rd, ra, rb. -/
  | kRq8 (c : Fin 1024) (rd : Fin 32) (ra : Fin 32) (rb : Fin 32)
  /-- RQ16: R121: RQ16 rd, ra, rb. -/
  | kRq16 (c : Fin 1024) (rd : Fin 32) (ra : Fin 32) (rb : Fin 32)
  /-- RQ32: R121: RQ32 rd, ra, rb. -/
  | kRq32 (c : Fin 1024) (rd : Fin 32) (ra : Fin 32) (rb : Fin 32)
  -- Idvoan-K immediate instructions
  /-- ADDI: R113: ADDI rd, ra, imm16. -/
  | kAddi (c : Fin 1024) (rd : Fin 32) (ra : Fin 32) (imm : BitVec 16)
  /-- ANDI: R113: ANDI rd, ra, imm16. -/
  | kAndi (c : Fin 1024) (rd : Fin 32) (ra : Fin 32) (imm : BitVec 16)
  /-- ORI: R113: ORI rd, ra, imm16. -/
  | kOri (c : Fin 1024) (rd : Fin 32) (ra : Fin 32) (imm : BitVec 16)
  /-- XORI: R113: XORI rd, ra, imm16. -/
  | kXori (c : Fin 1024) (rd : Fin 32) (ra : Fin 32) (imm : BitVec 16)
  /-- SLTI: R113: SLTI rd, ra, imm16. -/
  | kSlti (c : Fin 1024) (rd : Fin 32) (ra : Fin 32) (imm : BitVec 16)
  /-- SHI: R113: SHI rd, ra, imm16; kind 0b11 is reserved. -/
  | kShi (c : Fin 1024) (rd : Fin 32) (ra : Fin 32) (imm : BitVec 16)
  /-- SHORI: R113: SHORI rd, ra, imm16. -/
  | kShori (c : Fin 1024) (rd : Fin 32) (ra : Fin 32) (imm : BitVec 16)
  -- Idvoan-K scratch loads and stores
  /-- LSB: R114: scratch load of 1 byte. -/
  | kLsb (c : Fin 1024) (rd : Fin 32) (ra : Fin 32) (imm : BitVec 16)
  /-- LSH: R114: scratch load of 2 bytes. -/
  | kLsh (c : Fin 1024) (rd : Fin 32) (ra : Fin 32) (imm : BitVec 16)
  /-- LSW: R114: scratch load of 4 bytes. -/
  | kLsw (c : Fin 1024) (rd : Fin 32) (ra : Fin 32) (imm : BitVec 16)
  /-- LSD: R114: scratch load of 8 bytes. -/
  | kLsd (c : Fin 1024) (rd : Fin 32) (ra : Fin 32) (imm : BitVec 16)
  /-- SSB: R114: scratch store of 1 byte. -/
  | kSsb (c : Fin 1024) (rs : Fin 32) (ra : Fin 32) (imm : BitVec 16)
  /-- SSH: R114: scratch store of 2 bytes. -/
  | kSsh (c : Fin 1024) (rs : Fin 32) (ra : Fin 32) (imm : BitVec 16)
  /-- SSW: R114: scratch store of 4 bytes. -/
  | kSsw (c : Fin 1024) (rs : Fin 32) (ra : Fin 32) (imm : BitVec 16)
  /-- SSD: R114: scratch store of 8 bytes. -/
  | kSsd (c : Fin 1024) (rs : Fin 32) (ra : Fin 32) (imm : BitVec 16)
  /-- VLS: R117: vector load from scratch. -/
  | kVls (c : Fin 1024) (v : Fin 16) (ga : Fin 32) (pg : Fin 8) (disp : BitVec 14)
  /-- VSS: R117: vector store to scratch. -/
  | kVss (c : Fin 1024) (v : Fin 16) (ga : Fin 32) (pg : Fin 8) (disp : BitVec 14)
  -- Idvoan-K vector arithmetic
  /-- VADD: R118: VADD vd, va, vb under pg. -/
  | kVadd (c : Fin 1024) (vd : Fin 16) (va : Fin 16) (vb : Fin 16) (pg : Fin 8) (es : Fin 4) (zm : Bool)
  /-- VSUB: R118: VSUB vd, va, vb under pg. -/
  | kVsub (c : Fin 1024) (vd : Fin 16) (va : Fin 16) (vb : Fin 16) (pg : Fin 8) (es : Fin 4) (zm : Bool)
  /-- VADDS: R118: VADDS vd, va, vb under pg. -/
  | kVadds (c : Fin 1024) (vd : Fin 16) (va : Fin 16) (vb : Fin 16) (pg : Fin 8) (es : Fin 4) (zm : Bool)
  /-- VSUBS: R118: VSUBS vd, va, vb under pg. -/
  | kVsubs (c : Fin 1024) (vd : Fin 16) (va : Fin 16) (vb : Fin 16) (pg : Fin 8) (es : Fin 4) (zm : Bool)
  /-- VMUL: R118: VMUL vd, va, vb under pg. -/
  | kVmul (c : Fin 1024) (vd : Fin 16) (va : Fin 16) (vb : Fin 16) (pg : Fin 8) (es : Fin 4) (zm : Bool)
  /-- VMIN: R118: VMIN vd, va, vb under pg. -/
  | kVmin (c : Fin 1024) (vd : Fin 16) (va : Fin 16) (vb : Fin 16) (pg : Fin 8) (es : Fin 4) (zm : Bool)
  /-- VMAX: R118: VMAX vd, va, vb under pg. -/
  | kVmax (c : Fin 1024) (vd : Fin 16) (va : Fin 16) (vb : Fin 16) (pg : Fin 8) (es : Fin 4) (zm : Bool)
  /-- VAND: R118: VAND vd, va, vb under pg. -/
  | kVand (c : Fin 1024) (vd : Fin 16) (va : Fin 16) (vb : Fin 16) (pg : Fin 8) (es : Fin 4) (zm : Bool)
  /-- VOR: R118: VOR vd, va, vb under pg. -/
  | kVor (c : Fin 1024) (vd : Fin 16) (va : Fin 16) (vb : Fin 16) (pg : Fin 8) (es : Fin 4) (zm : Bool)
  /-- VXOR: R118: VXOR vd, va, vb under pg. -/
  | kVxor (c : Fin 1024) (vd : Fin 16) (va : Fin 16) (vb : Fin 16) (pg : Fin 8) (es : Fin 4) (zm : Bool)
  /-- VSLL: R118: VSLL vd, va, vb under pg. -/
  | kVsll (c : Fin 1024) (vd : Fin 16) (va : Fin 16) (vb : Fin 16) (pg : Fin 8) (es : Fin 4) (zm : Bool)
  /-- VSRL: R118: VSRL vd, va, vb under pg. -/
  | kVsrl (c : Fin 1024) (vd : Fin 16) (va : Fin 16) (vb : Fin 16) (pg : Fin 8) (es : Fin 4) (zm : Bool)
  /-- VSRA: R118: VSRA vd, va, vb under pg. -/
  | kVsra (c : Fin 1024) (vd : Fin 16) (va : Fin 16) (vb : Fin 16) (pg : Fin 8) (es : Fin 4) (zm : Bool)
  /-- VCLZ: R118: VCLZ vd, va under pg. -/
  | kVclz (c : Fin 1024) (vd : Fin 16) (va : Fin 16) (pg : Fin 8) (es : Fin 4) (zm : Bool)
  /-- VABS: R118: VABS vd, va under pg. -/
  | kVabs (c : Fin 1024) (vd : Fin 16) (va : Fin 16) (pg : Fin 8) (es : Fin 4) (zm : Bool)
  /-- VMOV: R118: VMOV vd, va under pg. -/
  | kVmov (c : Fin 1024) (vd : Fin 16) (va : Fin 16) (pg : Fin 8) (es : Fin 4) (zm : Bool)
  /-- VWIDL: R118: VWIDL vd, va; ES 0b00 is illegal. -/
  | kVwidl (c : Fin 1024) (vd : Fin 16) (va : Fin 16) (pg : Fin 8) (es : Fin 4) (zm : Bool)
  /-- VWIDH: R118: VWIDH vd, va; ES 0b00 is illegal. -/
  | kVwidh (c : Fin 1024) (vd : Fin 16) (va : Fin 16) (pg : Fin 8) (es : Fin 4) (zm : Bool)
  /-- VDOT4: R118: VDOT4 vd, va, vb; only ES 0b10. -/
  | kVdot4 (c : Fin 1024) (vd : Fin 16) (va : Fin 16) (vb : Fin 16) (pg : Fin 8) (es : Fin 4) (zm : Bool)
  /-- VPFX: R118: VPFX vd, va under pg. -/
  | kVpfx (c : Fin 1024) (vd : Fin 16) (va : Fin 16) (pg : Fin 8) (es : Fin 4) (zm : Bool)
  -- Idvoan-K predicates and reductions
  /-- VCMP: R119: VCMP pd, va, vb under pg; CC 6 and 7 are reserved. -/
  | kVcmp (c : Fin 1024) (pd : Fin 8) (va : Fin 16) (vb : Fin 16) (pg : Fin 8) (es : Fin 4) (cc : Fin 8)
  /-- PAND: R119: PAND pd, pa, pb. -/
  | kPand (c : Fin 1024) (pd : Fin 8) (pa : Fin 8) (pb : Fin 8)
  /-- POR: R119: POR pd, pa, pb. -/
  | kPor (c : Fin 1024) (pd : Fin 8) (pa : Fin 8) (pb : Fin 8)
  /-- PXOR: R119: PXOR pd, pa, pb. -/
  | kPxor (c : Fin 1024) (pd : Fin 8) (pa : Fin 8) (pb : Fin 8)
  /-- PANDN: R119: PANDN pd, pa, pb. -/
  | kPandn (c : Fin 1024) (pd : Fin 8) (pa : Fin 8) (pb : Fin 8)
  /-- PNOT: R119: PNOT pd, pa. -/
  | kPnot (c : Fin 1024) (pd : Fin 8) (pa : Fin 8)
  /-- PTOG: R119: PTOG g, pa. -/
  | kPtog (c : Fin 1024) (g : Fin 32) (pa : Fin 8)
  /-- GTOP: R119: GTOP pd, g. -/
  | kGtop (c : Fin 1024) (pd : Fin 8) (g : Fin 32)
  /-- VRED_SUM: R120: VRED SUM rd, va under pg. -/
  | kVredSum (c : Fin 1024) (rd : Fin 32) (va : Fin 16) (pg : Fin 8) (es : Fin 4)
  /-- VRED_MAX: R120: VRED MAX rd, va under pg. -/
  | kVredMax (c : Fin 1024) (rd : Fin 32) (va : Fin 16) (pg : Fin 8) (es : Fin 4)
  /-- VRED_MIN: R120: VRED MIN rd, va under pg. -/
  | kVredMin (c : Fin 1024) (rd : Fin 32) (va : Fin 16) (pg : Fin 8) (es : Fin 4)
  /-- VRED_ARGMAX: R120: VRED ARGMAX rd, va under pg. -/
  | kVredArgmax (c : Fin 1024) (rd : Fin 32) (va : Fin 16) (pg : Fin 8) (es : Fin 4)
  /-- VRED_ARGMIN: R120: VRED ARGMIN rd, va under pg. -/
  | kVredArgmin (c : Fin 1024) (rd : Fin 32) (va : Fin 16) (pg : Fin 8) (es : Fin 4)
  /-- VRED_POPC: R120: VRED POPC rd, va under pg. -/
  | kVredPopc (c : Fin 1024) (rd : Fin 32) (va : Fin 16) (pg : Fin 8) (es : Fin 4)
  /-- VBCAST: R120: VBCAST v, g under pg. -/
  | kVbcast (c : Fin 1024) (v : Fin 16) (g : Fin 32) (pg : Fin 8) (es : Fin 4)
  /-- VEXTR: R120: VEXTR g, v, LANE. -/
  | kVextr (c : Fin 1024) (g : Fin 32) (v : Fin 16) (lane : Fin 64) (es : Fin 4)
  /-- VINS: R120: VINS v, g, LANE. -/
  | kVins (c : Fin 1024) (v : Fin 16) (g : Fin 32) (lane : Fin 64) (es : Fin 4)
  -- Idvoan-K lookups and vector requantisation
  /-- LUT: R122: LUT vd, va, TBL under pg. -/
  | kLut (c : Fin 1024) (vd : Fin 16) (va : Fin 16) (tbl : Fin 4) (pg : Fin 8)
  /-- LUTN: R122: LUTN vd, va, TBL under pg. -/
  | kLutn (c : Fin 1024) (vd : Fin 16) (va : Fin 16) (tbl : Fin 4) (pg : Fin 8)
  /-- LUTLD: R123: LUTLD TBL, gs. -/
  | kLutld (c : Fin 1024) (tbl : Fin 4) (gs : Fin 32)
  /-- VRQ: R121: VRQ vd, va, gs under pg. -/
  | kVrq (c : Fin 1024) (vd : Fin 16) (va : Fin 16) (gs : Fin 32) (pg : Fin 8) (tfmt : Fin 4)
  -- Idvoan-K branches
  /-- BEQZ: R116: BEQZ ra, off21. -/
  | kBeqz (c : Fin 1024) (ra : Fin 32) (off : BitVec 21)
  /-- BNEZ: R116: BNEZ ra, off21. -/
  | kBnez (c : Fin 1024) (ra : Fin 32) (off : BitVec 21)
  /-- BLTZ: R116: BLTZ ra, off21. -/
  | kBltz (c : Fin 1024) (ra : Fin 32) (off : BitVec 21)
  /-- BGEZ: R116: BGEZ ra, off21. -/
  | kBgez (c : Fin 1024) (ra : Fin 32) (off : BitVec 21)
  /-- JAL: R116: JAL rd, off21. -/
  | kJal (c : Fin 1024) (rd : Fin 32) (off : BitVec 21)
  /-- JALR: R116: JALR rd, ra, imm16. -/
  | kJalr (c : Fin 1024) (rd : Fin 32) (ra : Fin 32) (imm : BitVec 16)
  /-- BP: R116: BP pa, SENSE, off21. -/
  | kBp (c : Fin 1024) (pa : Fin 8) (sense : Bool) (off : BitVec 21)
  -- Idvoan-K part-address loads, stores and AMOs
  /-- LGB: R114: part-address load of 1 byte. -/
  | kLgb (c : Fin 1024) (rd : Fin 32) (ra : Fin 32) (imm : BitVec 16)
  /-- LGH: R114: part-address load of 2 bytes. -/
  | kLgh (c : Fin 1024) (rd : Fin 32) (ra : Fin 32) (imm : BitVec 16)
  /-- LGW: R114: part-address load of 4 bytes. -/
  | kLgw (c : Fin 1024) (rd : Fin 32) (ra : Fin 32) (imm : BitVec 16)
  /-- LGD: R114: part-address load of 8 bytes. -/
  | kLgd (c : Fin 1024) (rd : Fin 32) (ra : Fin 32) (imm : BitVec 16)
  /-- SGB: R114: part-address store of 1 byte. -/
  | kSgb (c : Fin 1024) (rs : Fin 32) (ra : Fin 32) (imm : BitVec 16)
  /-- SGH: R114: part-address store of 2 bytes. -/
  | kSgh (c : Fin 1024) (rs : Fin 32) (ra : Fin 32) (imm : BitVec 16)
  /-- SGW: R114: part-address store of 4 bytes. -/
  | kSgw (c : Fin 1024) (rs : Fin 32) (ra : Fin 32) (imm : BitVec 16)
  /-- SGD: R114: part-address store of 8 bytes. -/
  | kSgd (c : Fin 1024) (rs : Fin 32) (ra : Fin 32) (imm : BitVec 16)
  /-- KNC_ACCESS_RESPONSE: R131: the response to the context's `n`th outstanding access returns. -/
  | kncAccessResponse (c : Fin 1024) (n : Nat)
  /-- KNC_ACCESS_TIMEOUT: R131: the context's `n`th outstanding access has had no response for 1 ms. -/
  | kncAccessTimeout (c : Fin 1024) (n : Nat)
  /-- AMOADD: R115: AMOADD rd, ra, rb, in scratch when S = 1. -/
  | kAmoadd (c : Fin 1024) (rd : Fin 32) (ra : Fin 32) (rb : Fin 32) (scr : Bool)
  /-- AMOSWAP: R115: AMOSWAP rd, ra, rb, in scratch when S = 1. -/
  | kAmoswap (c : Fin 1024) (rd : Fin 32) (ra : Fin 32) (rb : Fin 32) (scr : Bool)
  /-- AMOCAS: R115: AMOCAS rd, ra, rb, in scratch when S = 1. -/
  | kAmocas (c : Fin 1024) (rd : Fin 32) (ra : Fin 32) (rb : Fin 32) (scr : Bool)
  /-- AMOMAX: R115: AMOMAX rd, ra, rb, in scratch when S = 1. -/
  | kAmomax (c : Fin 1024) (rd : Fin 32) (ra : Fin 32) (rb : Fin 32) (scr : Bool)
  /-- AMOMIN: R115: AMOMIN rd, ra, rb, in scratch when S = 1. -/
  | kAmomin (c : Fin 1024) (rd : Fin 32) (ra : Fin 32) (rb : Fin 32) (scr : Bool)
  /-- AMOAND: R115: AMOAND rd, ra, rb, in scratch when S = 1. -/
  | kAmoand (c : Fin 1024) (rd : Fin 32) (ra : Fin 32) (rb : Fin 32) (scr : Bool)
  /-- AMOOR: R115: AMOOR rd, ra, rb, in scratch when S = 1. -/
  | kAmoor (c : Fin 1024) (rd : Fin 32) (ra : Fin 32) (rb : Fin 32) (scr : Bool)
  /-- VLG: R117: vector load from a part address. -/
  | kVlg (c : Fin 1024) (v : Fin 16) (ga : Fin 32) (pg : Fin 8) (disp : BitVec 14)
  /-- VSG: R117: vector store to a part address. -/
  | kVsg (c : Fin 1024) (v : Fin 16) (ga : Fin 32) (pg : Fin 8) (disp : BitVec 14)
  -- Idvoan-K fences, tile queues, intake and system instructions
  /-- FENCE: R130: FENCE MASK, IF. -/
  | kFence (c : Fin 1024) (mask : BitVec 4) (ifl : Bool)
  /-- TQPUSH: R124, R125: TQPUSH. -/
  | kTqpush (c : Fin 1024) (rd : Fin 32) (v : Fin 16) (qtr : Fin 4) (mxp : Fin 4) (q : Fin 4) (nb : Bool)
  /-- TQPUSH_RESUME: R125: the context's waiting TQPUSH resumes. -/
  | kTqpushResume (c : Fin 1024)
  /-- TQSTAT: R124: TQSTAT. -/
  | kTqstat (c : Fin 1024) (rd : Fin 32) (mxp : Fin 4) (q : Fin 4)
  /-- TQCANCEL: R124: TQCANCEL. -/
  | kTqcancel (c : Fin 1024) (rd : Fin 32) (mxp : Fin 4) (q : Fin 4)
  /-- TQDEPTH: R124: TQDEPTH. -/
  | kTqdepth (c : Fin 1024) (rd : Fin 32) (mxp : Fin 4) (q : Fin 4)
  /-- CSRR: R127: CSRR. -/
  | kCsrr (c : Fin 1024) (rd : Fin 32) (sel : BitVec 12)
  /-- CSRW: R127: CSRW. -/
  | kCsrw (c : Fin 1024) (ra : Fin 32) (sel : BitVec 12)
  /-- WAITEV: R127: WAITEV. -/
  | kWaitev (c : Fin 1024) (rd : Fin 32) (ra : Fin 32)
  /-- WAITEV_WAKE: R127: the context's waiting WAITEV sees a selected event. -/
  | kWaitevWake (c : Fin 1024)
  /-- YIELD: R127: YIELD. -/
  | kYield (c : Fin 1024)
  /-- STOP: R127: STOP. -/
  | kStop (c : Fin 1024) (ra : Fin 32)
  /-- BRK: R127: BRK. -/
  | kBrk (c : Fin 1024)
  /-- RNG: R127: RNG. -/
  | kRng (c : Fin 1024) (rd : Fin 32)
  /-- INTK: R126: INTK. -/
  | kIntk (c : Fin 1024) (rd : Fin 32) (v : Fin 16)
  /-- CMPL: R126: CMPL. -/
  | kCmpl (c : Fin 1024) (rd : Fin 32) (ra : Fin 32) (v : Fin 16)
  /-- ILLEGAL_INSTRUCTION: R110: the word at the PC is a reserved encoding. -/
  | illegalInstruction (c : Fin 1024) (word : BitVec 32)
  -- Kneader context and core registers
  /-- KNC_CTX_CTL_WRITE: R104: a write to KNC_CTX_CTL. -/
  | kncCtxCtlWrite (who : Who) (c : Fin 1024) (val : BitVec 64)
  /-- CTX_START: R132: START. -/
  | ctxStart (who : Who) (c : Fin 1024)
  /-- CTX_STOP: R133: STOP. -/
  | ctxStop (who : Who) (c : Fin 1024)
  /-- CTX_CLEAR: R135: CLEAR. -/
  | ctxClear (who : Who) (c : Fin 1024)
  /-- KNC_CNT_CLEAR: R135: KNC_CNT_CLEAR. -/
  | kncCntClear (who : Who) (k : Fin 256)
  -- Expander (spec/06)
  /-- MXE_XP_CNT_CLEAR: R162. -/
  | mxeXpCntClear (who : Who) (m : Fin 192)
  -- Hoist window, recovery and leases (spec/07)
  /-- FILL_SOURCE_RESIDENT: R190: PRIMARY has become resident in T1 or T2. -/
  | fillSourceResident (h : Fin 64) (slot : Fin 16)
  /-- SLOT_FILL_LANDED: R190: every index entry and frame has landed. -/
  | slotFillLanded (h : Fin 64) (slot : Fin 16)
  /-- LAYER_DEADLINE_MISS: R192, R193. -/
  | layerDeadlineMiss (h : Fin 64) (slot : Fin 16)
  /-- SLOT_DISCARD: R191. -/
  | slotDiscard (who : Who) (h : Fin 64) (slot : Fin 16)
  /-- RECOVERY_ENTRY_ALLOCATE: R196: the oldest waiting unit of the H-die gets an entry. -/
  | recoveryEntryAllocate (hd : Fin 2)
  /-- REPAIR_COMPLETE: R198: entry `n` of the H-die's recovery unit is repaired. -/
  | repairComplete (hd : Fin 2) (n : Nat)
  /-- REPAIR_FAIL: R199, R452: entry `n` of the H-die's recovery unit fails. -/
  | repairFail (hd : Fin 2) (n : Nat)
  /-- LEASE_OFFER: R210: OFFER. -/
  | leaseOffer (who : Who) (ix : Fin 64)
  /-- LEASE_ACCEPT: R210: ACCEPT. -/
  | leaseAccept (who : Who) (ix : Fin 64)
  /-- LEASE_RETURN: R204: RETURN. -/
  | leaseReturn (who : Who) (ix : Fin 64)
  /-- LEASE_REVOKE: R204: REVOKE. -/
  | leaseRevoke (who : Who) (ix : Fin 64)
  /-- LEASE_GROW: R201: a larger outgoing SIZE. -/
  | leaseGrow (who : Who) (ix : Fin 64) (units : Nat)
  /-- LEASE_MSG_OFFER: R342. -/
  | leaseMsgOffer (msg : LeaseMsg)
  /-- LEASE_MSG_ACCEPT: R342. -/
  | leaseMsgAccept (msg : LeaseMsg)
  /-- LEASE_MSG_GROW: R342. -/
  | leaseMsgGrow (msg : LeaseMsg)
  /-- LEASE_MSG_GROWN: R342. -/
  | leaseMsgGrown (msg : LeaseMsg)
  /-- LEASE_MSG_NOTICE: R204. -/
  | leaseMsgNotice (msg : LeaseMsg)
  /-- LEASE_MSG_RETURN: R342. -/
  | leaseMsgReturn (msg : LeaseMsg)
  /-- LEASE_DRAIN_DONE: R204: step 3 at the borrower. -/
  | leaseDrainDone (ix : Fin 64)
  /-- LEASE_MSG_DRAIN_DONE: R342. -/
  | leaseMsgDrainDone (msg : LeaseMsg)
  /-- LEASE_MSG_CLOSED: R342. -/
  | leaseMsgClosed (msg : LeaseMsg)
  /-- LEASE_MSG_RESEND: R342: an unanswered message is sent again. -/
  | leaseMsgResend (out : Bool) (ix : Fin 64)
  /-- LEASE_HOLD_START: R204: step 4 at the lender. -/
  | leaseHoldStart (ix : Fin 64)
  /-- LEASE_HOLD_END: R204: step 5 at the lender (`out`) or the borrower. -/
  | leaseHoldEnd (out : Bool) (ix : Fin 64)
  /-- LEASE_UNREACHABLE: R205. -/
  | leaseUnreachable (out : Bool) (ix : Fin 64)
  /-- LEASE_REACHABLE_AGAIN: R205. -/
  | leaseReachableAgain (out : Bool) (ix : Fin 64)
  /-- LEASE_UNREACHABLE_CLOSE: R205. -/
  | leaseUnreachableClose (out : Bool) (ix : Fin 64)
  -- Memory controllers and SSDs (spec/08, spec/07 on T3)
  /-- MEM_READ: R220: the word at part address `a` is read; `errs` are the codeword bits that have flipped since it was last written, `hard` if they flip again at every write; `sev` is the severity that a stack returns (R212); `act` is the bank and row the access activates. -/
  | memRead (a : BitVec 64) (errs : BitVec 80) (hard : Bool) (sev : BitVec 2) (act : Option (Nat × Nat))
  /-- MEM_WRITE: R221: the word at part address `a` is written. -/
  | memWrite (a : BitVec 64) (d : BitVec 64) (act : Option (Nat × Nat))
  /-- REFRESH: R226: a refresh falls due; `hot` above 85 °C. -/
  | refresh (c : Ctrl) (hot : Bool)
  /-- RD_TABLE_CLEAR: R227. -/
  | rdTableClear (c : Ctrl)
  /-- LANE_RECENTRE: R225: narrowest run, its lane, and lanes below 19 steps. -/
  | laneRecentre (c : Ctrl) (eye : BitVec 8) (lane : BitVec 16) (failed : Nat)
  /-- SCRUB_LINE: R231. -/
  | scrubLine (c : Ctrl)
  /-- MEM_TRAIN_DONE: R224. -/
  | memTrainDone (c : Ctrl) (res : TrainResult)
  /-- MEM_SELFTEST_DONE: R234: phase 1 to 5. -/
  | memSelftestDone (c : Ctrl) (phase : Fin 6) (pass : Bool)
  /-- MEM_FILL_DONE: R233. -/
  | memFillDone (c : Ctrl)
  /-- PPR_DONE: R428: hard post-package repair of the listed rows ends; `failed` are the lines whose repair failed. -/
  | pprDone (c : Ctrl) (failed : List Nat)
  /-- SELF_REFRESH_ENTER: R237. -/
  | selfRefreshEnter (who : Who) (c : Fin 12)
  /-- SELF_REFRESH_EXIT: R237. -/
  | selfRefreshExit (who : Who) (c : Fin 12)
  /-- SELF_REFRESH_REFILL_DONE: R237. -/
  | selfRefreshRefillDone (c : Fin 12)
  /-- RANK_POWER_DOWN: R235. -/
  | rankPowerDown (c : Fin 12) (rank : Fin 16)
  /-- INJECT_ARM: R238: a write of INJ_CTL with ARM set. -/
  | injectArm (who : Who) (c : Ctrl) (val : BitVec 32)
  /-- MEM_CNT_CLEAR: R238. -/
  | memCntClear (who : Who) (c : Ctrl)
  /-- NVME_COMPLETION: R168. -/
  | nvmeCompletion (port : Fin 4) (id : Nat) (res : NvmeResult)
  /-- NVME_COMMAND_TIMEOUT: R168. -/
  | nvmeCommandTimeout (port : Fin 4) (id : Nat)
  /-- NVME_RESET_TIMEOUT: R168. -/
  | nvmeResetTimeout (port : Fin 4)
  -- Trams and hoists (spec/09): engines 0 to 319 are trams, 320 to 383 hoists
  /-- DESCRIPTOR_FETCH: R243, R244: the engine fetches the descriptor at CUR and checks it. -/
  | descriptorFetch (e : Fin 384)
  /-- COPY: R247: the fetched COPY runs; `host` is what its host reads bring. -/
  | engCopy (e : Fin 384) (host : HostRead)
  /-- CFILL: R247. -/
  | engCfill (e : Fin 384)
  /-- COMPARE: R247. -/
  | engCompare (e : Fin 384) (src : HostRead) (dst : HostRead)
  /-- CODEC: R253. -/
  | engCodec (e : Fin 384) (src : HostRead)
  /-- PROOF: R157, R254. -/
  | engProof (e : Fin 384) (src : HostRead)
  /-- ENCODE: R158, R254. -/
  | engEncode (e : Fin 384) (src : HostRead)
  /-- CREATE: R174, R255. -/
  | objCreate (e : Fin 384)
  /-- OBJECT_COPY: R174, R255. -/
  | objCopy (e : Fin 384)
  /-- DROP: R174, R181. -/
  | objDrop (e : Fin 384)
  /-- FLUSH: R182. -/
  | objFlush (e : Fin 384)
  /-- REHOME: R174. -/
  | objRehome (e : Fin 384)
  /-- FREE: R174. -/
  | objFree (e : Fin 384)
  /-- REFILL: R200. -/
  | objRefill (e : Fin 384)
  /-- WAIT: R251: the first read. -/
  | engWait (e : Fin 384)
  /-- WAIT_POLL: R251. -/
  | waitPoll (e : Fin 384)
  /-- WAIT_TIMEOUT: R251. -/
  | waitTimeout (e : Fin 384)
  /-- LOOP: R252. -/
  | engLoop (e : Fin 384)
  /-- LFILL: R190, R256: starts the fill, and carries it on when issued again. -/
  | lfill (e : Fin 384)
  /-- STEP: R256. -/
  | hstStep (e : Fin 384)
  /-- HALF_NOTIFICATION: R250: step 1. -/
  | halfNotification (e : Fin 384)
  /-- DESCRIPTOR_COMPLETE: R250: steps 2 to 5. -/
  | descriptorComplete (e : Fin 384)
  /-- ENGINE_ACCESS_TIMEOUT: R245: an access of the current descriptor has had no response for 1 ms. -/
  | engineAccessTimeout (e : Fin 384) (addr : BitVec 64) (write : Bool)
  /-- GO: R259. -/
  | engGo (who : Who) (e : Fin 384)
  /-- RESUME: R246. -/
  | engResume (who : Who) (e : Fin 384)
  /-- SKIP: R246. -/
  | engSkip (who : Who) (e : Fin 384)
  /-- ABORT: R257. -/
  | engAbort (who : Who) (e : Fin 384)
  /-- ABORT_DONE: R257: steps 2 to 4. -/
  | engAbortDone (e : Fin 384)
  -- HP0 (spec/10): function 0 is PF0, function 1 + v is VF v
  /-- SQ_DOORBELL: R267: a BAR2 write at 16q + skew. -/
  | sqDoorbell (f : Fin 257) (q : Nat) (skew : Fin 8) (width : Nat) (val : BitVec 64)
  /-- CQ_DOORBELL: R267: a BAR2 write at 16q + 8 + skew. -/
  | cqDoorbell (f : Fin 257) (q : Nat) (skew : Fin 8) (width : Nat) (val : BitVec 64)
  /-- SUBMISSION_FETCH: R269: the entry that the host read brought, or none where it failed. -/
  | submissionFetch (f : Fin 257) (q : Fin 1024) (entry : Option (List Byte))
  /-- QROUTE_WRITE: R270. -/
  | qrouteWrite (who : Who) (ix : Fin 262144) (val : BitVec 64)
  /-- QUEUE_ENABLE: R266: a write of HP0_QP_CFG with ENABLE = 1. -/
  | queueEnable (who : Who) (f : Fin 257) (q : Fin 1024) (val : BitVec 64)
  /-- QUEUE_DISABLE: R275: a write of HP0_QP_CFG with ENABLE = 0. -/
  | queueDisable (who : Who) (f : Fin 257) (q : Fin 1024) (val : BitVec 64)
  /-- QUEUE_ENABLE_RELEASE: R275. -/
  | queueEnableRelease (f : Fin 257) (q : Fin 1024)
  /-- COMPLETION_WRITE: R274: the oldest completion of a context's path, or of HP0's own. -/
  | completionWrite (src : Option (Fin 1024))
  /-- MSIX_COALESCE_TIMER: R274. -/
  | msixCoalesceTimer (f : Fin 257) (q : Fin 1024)
  /-- IRQ_DELAYED_SEND: R364: a token returns to the VF's bucket. -/
  | irqDelayedSend (v : Fin 256)
  /-- HOST_ABORT: R276. -/
  | hostAbort (who : Who) (f : Fin 257) (token : BitVec 42)
  /-- HOT_RESET: R282. -/
  | hotReset
  /-- FUNCTION_LEVEL_RESET: R283: steps 1 to 5. -/
  | functionLevelReset (v : Fin 256)
  /-- PF0_FUNCTION_RESET: R285. -/
  | pf0FunctionReset
  /-- FLR_CHARGE_RELEASE: R283: steps 6 and 7. -/
  | flrChargeRelease (f : Fin 257)
  /-- BUS_MASTER_ENABLE: R260, R262, R284: a configuration write. -/
  | busMasterEnable (f : Fin 257) (w : CfgWrite)
  /-- PEER_WINDOW_REQUEST: R277, R286: with its Relaxed Ordering and ID-Based Ordering attributes. -/
  | peerWindowRequest (f : Fin 257) (off : BitVec 36) (rid : BitVec 16) (tag : BitVec 14) (ro : Bool) (ido : Bool) (op : WinOp)
  /-- WINDOW_COMMIT: R287: a write of HP0_WIN_SHD_CTL with COMMIT set. -/
  | windowCommit (who : Who) (f : Fin 257) (w : Fin 64) (val : BitVec 64)
  /-- WINDOW_COMMIT_DONE: R287: steps 3 to 5. -/
  | windowCommitDone (f : Fin 257) (w : Fin 64)
  /-- HP0_CNT_CLEAR: R289. -/
  | hp0CntClear (who : Who)
  /-- ADMIN_COMMAND: R265: the leading foreman serves the oldest admin entry. -/
  | adminCommand (status : BitVec 8) (result : BitVec 64)
  /-- D3HOT: R260. -/
  | d3hot (f : Fin 257) (on : Bool)
  /-- PCIE_LINK_STATE_CHANGE: R353: the state the link takes, its speed (as HP0_LINK_STAT codes it), width, and flit or PBR mode. -/
  | pcieLinkStateChange (link : PcieLink) (st : Fin 16) (speed : Fin 7) (width : Fin 17) (mode : Bool)
  -- HP1 and the pool (spec/11)
  /-- POOL_READ: R300. -/
  | poolRead (req : PoolReq)
  /-- POOL_WRITE: R300. -/
  | poolWrite (req : PoolReq)
  /-- BI_RESPONSE: R312: with the line's modified data, if any. -/
  | biResponse (spid : BitVec 12) (line : Nat) (data : Option (List Byte))
  /-- BI_TIMEOUT: R314. -/
  | biTimeout (spid : BitVec 12) (line : Nat)
  /-- FRAME_CACHE_EVICT: R301. -/
  | frameCacheEvict (page : Nat)
  /-- EXTENT_ASSIGN: R294. -/
  | extentAssign (who : Who) (x : Fin 65536) (val : BitVec 32)
  /-- EXTENT_CLEAR_DONE: R294. -/
  | extentClearDone (x : Fin 65536)
  /-- RANGE_OFFER: R296, R297. -/
  | rangeOffer (who : Who) (e : Fin 65536)
  /-- DC_ADD_RESPONSE: R297. -/
  | dcAddResponse (e : Fin 65536) (accept : Bool)
  /-- RANGE_WITHDRAW: R297, R298. -/
  | rangeWithdraw (who : Who) (e : Fin 65536)
  /-- DC_RELEASE: R298. -/
  | dcRelease (e : Fin 65536) (byHost : Bool)
  /-- WITHDRAW_CUTOFF: R298: step 3. -/
  | withdrawCutoff (e : Fin 65536)
  /-- WITHDRAW_CLOSE: R298: step 4. -/
  | withdrawClose (e : Fin 65536)
  /-- OPEN: R308. -/
  | snapOpen (spid : BitVec 12) (hpa : BitVec 52) (tag : BitVec 16) (seq : BitVec 8)
  /-- PUBLISH: R308. -/
  | snapPublish (spid : BitVec 12) (hpa : BitVec 52) (tag : BitVec 16) (seq : BitVec 8)
  /-- DISCARD: R308. -/
  | snapDiscard (spid : BitVec 12) (hpa : BitVec 52) (tag : BitVec 16) (seq : BitVec 8)
  /-- CLOSE: R308. -/
  | snapClose (spid : BitVec 12) (hpa : BitVec 52) (tag : BitVec 16) (seq : BitVec 8)
  /-- HP1_CNT_CLEAR: R315. -/
  | hp1CntClear (who : Who)
  /-- HP1_HOST_BUCKET_REFILL: R303: the bucket gains bytes, and held requests are served. -/
  | hp1HostBucketRefill (h : Fin 4096) (bytes : Nat)
  -- Plotre fabric (spec/12)
  /-- PORT_ENABLE: R327: PORT_EN. -/
  | portEnable (who : Who) (p : Fin 16) (on : Bool)
  /-- PORT_LIGHT_CHECK: R327: step 1; the wavelengths within limits. -/
  | portLightCheck (p : Fin 16) (feed : BitVec 8)
  /-- PORT_LOCK_DONE: R327: step 2. -/
  | portLockDone (p : Fin 16) (locked : BitVec 8)
  /-- PORT_PARTNER_LIGHT: R327: step 3; the wavelengths received, none where no light is found. -/
  | portPartnerLight (p : Fin 16) (rx : BitVec 8)
  /-- PORT_FEC_LOCK: R327: steps 4 and 5. -/
  | portFecLock (p : Fin 16)
  /-- EXCHANGE_RECORD: R327, R328: steps 6 and 7. -/
  | exchangeRecord (p : Fin 16) (rec : ExchRecord)
  /-- PORT_RETRY_TIMER: R328. -/
  | portRetryTimer (p : Fin 16)
  /-- CODEWORD_RECEIVE: R322: a codeword with `errs` symbol errors. -/
  | codewordReceive (p : Fin 16) (lane : Fin 8) (errs : Nat)
  /-- DATA_FLIT_RECEIVE: R325. -/
  | dataFlitReceive (p : Fin 16) (vc : Fin 4) (seq : BitVec 12) (crcOk : Bool) (payload : List Byte)
  /-- CONTROL_FLIT_RECEIVE: R324. -/
  | controlFlitReceive (p : Fin 16) (ack : BitVec 12) (nak : Bool) (credits : List Nat)
  /-- CONTROL_FLIT_SEND: R324. -/
  | controlFlitSend (p : Fin 16)
  /-- PORT_RETRAIN: R329: whether FEC lock is lost. -/
  | portRetrain (p : Fin 16) (lockLost : Bool)
  /-- PORT_RETRAIN_DONE: R329: with the wavelengths received and the partner's record, or failed. -/
  | portRetrainDone (p : Fin 16) (rx : BitVec 8) (rec : Option ExchRecord)
  /-- PARTNER_LIGHT_LOSS: R330. -/
  | partnerLightLoss (p : Fin 16)
  /-- FEED_OUT_OF_LIMITS: R329: the wavelengths still within limits. -/
  | feedOutOfLimits (p : Fin 16) (feed : BitVec 8)
  /-- PACKET_FORWARD: R335, R336: a slot of an output port. -/
  | packetForward (port : Fin 16)
  /-- RD: R339: the oldest request that has arrived on the plane. -/
  | pktRd (plane : Fin 2)
  /-- WR: R339. -/
  | pktWr (plane : Fin 2)
  /-- WRMASK: R339. -/
  | pktWrmask (plane : Fin 2)
  /-- AMO: R339. -/
  | pktAmo (plane : Fin 2)
  /-- RD_REPLY: R341: the oldest reply that has arrived on the plane. -/
  | pktRdReply (plane : Fin 2)
  /-- WR_ACK: R341. -/
  | pktWrAck (plane : Fin 2)
  /-- AMO_REPLY: R341. -/
  | pktAmoReply (plane : Fin 2)
  /-- NACK: R341. -/
  | pktNack (plane : Fin 2)
  /-- FABRIC_REQUEST_TIMEOUT: R340. -/
  | fabricRequestTimeout (plane : Fin 2) (slot : Fin 4096)
  /-- MGMT: R390. -/
  | pktMgmt (plane : Fin 2)
  /-- COLL_GO: R345. -/
  | collGo (who : Who) (c : Fin 64)
  /-- COLLECTIVE_ABORT: R347. -/
  | collectiveAbort (who : Who) (c : Fin 64)
  /-- COLL_UP: R345. -/
  | pktCollUp (plane : Fin 2)
  /-- COLL_DOWN: R345. -/
  | pktCollDown (plane : Fin 2)
  /-- COLL_ABORT: R347. -/
  | pktCollAbort (plane : Fin 2)
  /-- COLL_TIMEOUT: R347. -/
  | collTimeout (c : Fin 64)
  /-- PLT_TEST_CTL_WRITE: R348. -/
  | pltTestCtlWrite (who : Who) (p : Fin 16) (val : BitVec 64)
  /-- PLT_CNT_CLEAR: R349. -/
  | pltCntClear (who : Who)
  /-- RESERVED_PACKET_TYPE: R332: the oldest arrival of the plane and VC holds a reserved value. -/
  | reservedPacketType (plane : Fin 2) (vc : Fin 4)
  -- Bandwidth regulation (spec/13)
  /-- QOS_LEVEL_REPORT: R359: resources with their queue levels in eighths. -/
  | qosLevelReport (occ : List (Nat × Nat))
  /-- QOS_GUAR_WRITE: R356: a write of GUAR and LIMIT. -/
  | qosGuarWrite (who : Who) (src : Fin 259) (r : Fin 32) (val : BitVec 32)
  /-- REGULATED_REQUEST_ISSUE: R355: a request from a die for a target. -/
  | regulatedRequestIssue (die : Fin 6) (src : Fin 259) (target : RegTarget) (bytes : Nat)
  /-- LAT_CLEAR: R367. -/
  | latClear (who : Who) (t : Fin 256) (c : Fin 4)
  /-- QOS_CNT_CLEAR: R369. -/
  | qosCntClear (who : Who)
  -- Event recorder (spec/14)
  /-- EVENT_ACCEPT: R375, R379: the recorder accepts the oldest record of a source. -/
  | eventAccept (kind : Fin 32) (inst : Fin 2048)
  /-- EVENT_BUCKET_REFILL: R383: a bucket's period ends (of code index `k` and key, or of tenant ring `k`). -/
  | eventBucketRefill (ring : Bool) (k : Nat) (key : Nat)
  /-- MAIN_RING_BASE_SET: R378. -/
  | mainRingBaseSet (who : Who) (val : BitVec 64)
  /-- TENANT_RING_ENABLE: R381. -/
  | tenantRingEnable (who : Who) (t : Fin 256)
  /-- TENANT_RING_FILL_DONE: R381. -/
  | tenantRingFillDone (t : Fin 256)
  /-- EVR_CNT_CLEAR: R387. -/
  | evrCntClear (who : Who)
  -- Foremen, identity and sideband (spec/15)
  /-- ELECTION_STAND: R392: steps 1 and 2. -/
  | electionStand (f : Fin 2)
  /-- ELECTION_DECIDE: R392: steps 3 to 5. -/
  | electionDecide (f : Fin 2)
  /-- SPLIT_RESOLVE: R394. -/
  | splitResolve
  /-- HEARTBEAT_TIMEOUT: R393: the HEARTBEAT of foreman `f` has not advanced for 10 ms. -/
  | heartbeatTimeout (f : Fin 2)
  /-- FOREMAN_RESET: R393. -/
  | foremanReset (f : Fin 2)
  /-- FOREMAN_BOOT_DONE: R405: the boot flow ends; `unread` are the slots whose flash read failed. -/
  | foremanBootDone (f : Fin 2) (unread : List Nat)
  /-- RECOVERY_FLASH_WRITE: R406. -/
  | recoveryFlashWrite (off : BitVec 26) (data : List Byte)
  /-- RECOVERY_RESTART: R406. -/
  | recoveryRestart
  /-- FUSE_REVOKE: R400. -/
  | fuseRevoke (who : Who) (keys : BitVec 4)
  /-- FUSE_SVN_RAISE: R400. -/
  | fuseSvnRaise (who : Who) (target : BitVec 7)
  /-- FUSE_PROG_DONE: R400. -/
  | fuseProgDone
  /-- GET_VERSION: R407: the request, over MCTP or DOE. -/
  | spdmGetVersion (mctp : Bool) (req : List Byte)
  /-- GET_CAPABILITIES: R407. -/
  | spdmGetCapabilities (mctp : Bool) (req : List Byte)
  /-- NEGOTIATE_ALGORITHMS: R407. -/
  | spdmNegotiate (mctp : Bool) (req : List Byte)
  /-- GET_DIGESTS: R407. -/
  | spdmGetDigests (mctp : Bool) (req : List Byte)
  /-- GET_CERTIFICATE: R407. -/
  | spdmGetCertificate (mctp : Bool) (req : List Byte)
  /-- CHALLENGE: R407. -/
  | spdmChallenge (mctp : Bool) (req : List Byte)
  /-- GET_MEASUREMENTS: R408. -/
  | spdmGetMeasurements (mctp : Bool) (req : List Byte)
  /-- SET_ENDPOINT_ID: R410. -/
  | mctpSetEid (eid : BitVec 8)
  /-- GET_ENDPOINT_ID: R410. -/
  | mctpGetEid
  /-- GET_MCTP_VERSION_SUPPORT: R410. -/
  | mctpGetVersion (msgType : BitVec 8)
  /-- GET_MESSAGE_TYPE_SUPPORT: R410. -/
  | mctpGetTypes
  /-- FATAL_RECORD_COLLECT: R411. -/
  | fatalRecordCollect
  /-- TEST_MODE_ENABLE: R412. -/
  | testModeEnable (enable : List Byte)
  /-- POWER_SAMPLE: R413. -/
  | powerSample (watts : Nat)
  /-- POWER_CAP_DIVIDE: R413: the demand of half A and of half B in watts. -/
  | powerCapDivide (demand0 : Nat) (demand1 : Nat)
  /-- TEMP_SAMPLE: R414: the hottest reading of C0 to C3, H0 and H1 in °C; none for a sensor silent for 1 ms. -/
  | tempSample (dies : List (Option Nat))
  -- Supplies, clocks, resets and start-up (spec/16)
  /-- SUPPLY_FAULT: R419; `beyond`: past an absolute limit (R1). -/
  | supplyFault (rail : Fin 10) (beyond : Bool)
  /-- PERST_N_ASSERT: R442. -/
  | perstAssert
  /-- REFCLK_LOSS: R425. -/
  | refclkLoss
  /-- PLL_LOSS_OF_LOCK: R423. -/
  | pllLoss (die : Fin 6)
  /-- RELEASE: R427: with the straps read at release. -/
  | release (sris0 : Bool) (sris1 : Bool) (addrSel : BitVec 2)
  /-- ONDIE_FILL_DONE: R427: step 3. -/
  | ondieFillDone
  /-- SEAM_TRAIN_DONE: R427: step 4: links S0 to S7; the crews and stacks present. -/
  | seamTrainDone (links : List LinkWidth) (crews : BitVec 64) (stackSet : BitVec 16)
  /-- CONFIG_RETRY_END: R430. -/
  | configRetryEnd
  /-- RUNTIME_LOAD_DONE: R427: step 9: the component matches its digest. -/
  | runtimeLoadDone (ok : Bool)
  /-- COMPUTE_RELEASE: R429. -/
  | computeRelease
  /-- HOST_RELEASE: R429. -/
  | hostRelease
deriving DecidableEq, Repr

end Sys2Proof
end

