-- ==== Sys2Proof/Decode.lean ====
section
/-! DEFINITION. The command that a word spells by the bits of the command table. No row of the table gives bits: the
commands come from outside as they are, so no word spells one. -/

namespace Sys2Proof

/-- The command of a table word: none, for every word. -/
def decodeTableWord (_nbits _w : Nat) : Option Instr := none

end Sys2Proof
end

