-- ==== Sys2Proof/Machine/Ecc.lean ====
section
/-! DEFINITION. The word code (R215 to R217): GF(2^7), the encoder and the decoder; and the GF(2^8) arithmetic of the
Q parity (R184). The code is linear, so a decoder can be run on the mask of the flipped bits. -/

namespace Sys2Proof.Machine

/-- R215: multiplication in GF(2^7) on x^7 + x^3 + 1. -/
def gf7Mul (a b : Nat) : Nat :=
  ((List.range 7).foldl (fun (p : Nat × Nat) i =>
    let acc := if bitAt b i then p.1 ^^^ p.2 else p.1
    let d := p.2 * 2
    (acc, if d ≥ 128 then d ^^^ 0x89 else d)) (0, a)).1

/-- R215: α^k, with α a root of the polynomial. -/
def gf7Pow : Nat → Nat
  | 0 => 1
  | k + 1 => gf7Mul (gf7Pow k) 2

/-- Third power in GF(2^7). -/
def gf7Cube (a : Nat) : Nat := gf7Mul a (gf7Mul a a)

/-- Inverse in GF(2^7): the 126th power. -/
def gf7Inv (a : Nat) : Nat := (List.range 125).foldl (fun p _ => gf7Mul p a) a

/-- R215: the values x(i) of positions 0 to 71. -/
def codeXs : List Nat :=
  ((List.range 64).foldl (fun (p : List Nat × Nat) _ => (p.1 ++ [p.2], gf7Mul p.2 2)) ([], 9)).1 ++
    [1, 2, 4, 8, 16, 32, 64, 0]

/-- R217: the position whose x is `v`. -/
def codePos (v : Nat) : Option Nat := codeXs.idxOf? v

/-- Number of set bits among the low `n`. -/
def weightN (n v : Nat) : Nat := ((List.range n).filter (bitAt v)).length

/-- Parity of the low `n` bits. -/
def parityN (n v : Nat) : Nat := weightN n v % 2

/-- The XOR of a function of position over the set bits below 72. -/
def xorOver (f : Nat → Nat) (w : Nat) : Nat :=
  (codeXs.zipIdx.filter fun p => bitAt w p.2).foldl (fun acc p => acc ^^^ f p.1) 0

/-- R216: the lane byte and the inline byte of a data word. -/
def eccEncode (d : Nat) : Nat × Nat :=
  let s1 := xorOver id (d % 2 ^ 64)
  let lane7 := (parityN 64 d + parityN 7 s1) % 2
  let w := d % 2 ^ 64 + s1 * 2 ^ 64 + lane7 * 2 ^ 71
  let s3 := xorOver gf7Cube w
  (s1 + lane7 * 128, s3 + parityN 7 s3 * 128)

/-- R216: the whole 80-bit codeword. -/
def codeword (d : Nat) : Nat :=
  let (lane, inl) := eccEncode d
  d % 2 ^ 64 + lane * 2 ^ 64 + inl * 2 ^ 72

/-- R217: what a decode finds. -/
inductive Decoded where
  | clean
  | corrected (positions : List Nat)
  | uncorrectable
deriving DecidableEq, Repr

/-- The lowest set bit of a 7-bit value. -/
def lowBit (v : Nat) : Nat := ((List.range 7).find? (bitAt v)).getD 0

/-- R217: the decoder, on the four syndromes. -/
def eccDecodeSyn (s1 s3 p q : Nat) : Decoded :=
  let e := s3 ^^^ gf7Cube s1
  if s1 = 0 ∧ s3 = 0 ∧ p = 0 ∧ q = 0 then .clean
  else match codePos s1 with
    | some i =>
      if p = 1 ∧ q = 0 ∧ e = 0 then .corrected [i]
      else if p = 0 ∧ q = 1 ∧ s1 = 0 ∧ weightN 7 s3 ≤ 1 then
        .corrected [if s3 = 0 then 79 else 72 + lowBit s3]
      else if p = 1 ∧ q = 1 ∧ weightN 7 e ≤ 1 then .corrected [i, if e = 0 then 79 else 72 + lowBit e]
      else tail s1 s3 p q
    | none => tail s1 s3 p q
where
  /-- R217: the last three cases, where no single position of S1 is used. -/
  tail (s1 s3 p q : Nat) : Decoded :=
    if p = 0 ∧ q = 0 ∧ s1 = 0 ∧ weightN 7 s3 = 2 then
      .corrected (((List.range 7).filter (bitAt s3)).map (72 + ·))
    else if p = 0 ∧ q = 0 ∧ s1 = 0 ∧ weightN 7 s3 = 1 then .corrected [72 + lowBit s3, 79]
    else if p = 0 ∧ q = 0 ∧ s1 ≠ 0 then
      let c := gf7Mul s3 (gf7Inv s1) ^^^ gf7Mul s1 s1
      match codeXs.zipIdx.find? fun y => (codePos (y.1 ^^^ s1)).isSome && gf7Mul y.1 (y.1 ^^^ s1) == c with
      | some y => .corrected [y.2, (codePos (y.1 ^^^ s1)).getD 0]
      | none => .uncorrectable
    else .uncorrectable

/-- R217: decode an 80-bit value, or the mask of flips on a codeword. -/
def eccDecode (w : Nat) : Decoded :=
  eccDecodeSyn (xorOver id w) (xorOver gf7Cube w ^^^ bitsOf w 78 72) (parityN 72 w) (weightN 8 (w >>> 72) % 2)

/-- The mask of a list of positions. -/
def maskOf (ps : List Nat) : Nat := ps.foldl (fun m p => m ^^^ 2 ^ p) 0

/-- What a read of a word whose codeword has the bits of `mask` flipped delivers: the wrong data bits that remain
after correction (zero where the word is delivered right), or none where it is uncorrectable. `fast` is the read of
R220, which skips the inline byte when S1 and P are zero. The second part says whether the inline byte was fetched,
the third whether the word was corrected. -/
def readMask (fast : Bool) (mask : Nat) : Option Nat × Bool × Bool :=
  if fast && xorOver id mask == 0 && parityN 72 mask == 0 then (some (mask % 2 ^ 64), false, false)
  else match eccDecode mask with
    | .clean => (some (mask % 2 ^ 64), true, false)
    | .corrected ps => (some ((mask ^^^ maskOf ps) % 2 ^ 64), true, true)
    | .uncorrectable => (none, true, false)

/-! The Q parity of a protected T2 stripe. -/

/-- R184: doubling in GF(2^8) on 0x11D. -/
def gf8Double (a : Nat) : Nat := let d := a * 2; if d ≥ 256 then d ^^^ 0x11D else d

/-- R184: multiplication by g^d, g = 2. -/
def gf8MulPow : Nat → Nat → Nat
  | 0, a => a
  | d + 1, a => gf8MulPow d (gf8Double a)

/-- Byte-wise XOR of two byte strings of one length. -/
def xorBytes (a b : List Byte) : List Byte := (a.zip b).map fun p => p.1 ^^^ p.2

/-- R184: P of the data units of a stripe, each `n` bytes. -/
def parityP (n : Nat) (units : List (List Byte)) : List Byte := units.foldl xorBytes (List.replicate n 0)

/-- R184: Q of the data units of a stripe. -/
def parityQ (n : Nat) (units : List (List Byte)) : List Byte :=
  (units.zipIdx.map fun u => u.1.map fun b => BitVec.ofNat 8 (gf8MulPow u.2 b.toNat)).foldl xorBytes
    (List.replicate n 0)

end Sys2Proof.Machine
end

