-- ==== Sys2Proof/Config.lean ====
section
/-! DEFINITION. What the spec leaves open: each a constant with no body, so that no proof can see a value of it
(notes/assumptions/4.md and 7.md), and the fixed sizes of the part. -/

namespace Sys2Proof.Config

/-- A fresh value for each number: a 64-bit result the spec leaves undefined. DESIGN CHOICE (log 4). -/
opaque freeWord : Nat → BitVec 64

/-- A fresh choice for each number: an outcome of two that the spec leaves open. DESIGN CHOICE (log 4). -/
opaque freeBool : Nat → Bool

/-- A fresh byte string: bytes of a destination that the spec calls undefined, by draw and length. DESIGN CHOICE (log 4). -/
opaque freeByte : Nat → Nat → BitVec 8

/-- R37 gives no order for the additions into an accumulator; R45 makes it a function of the operands.
The list says which of the remaining terms is added next. DESIGN CHOICE (log 5). -/
opaque accOrder : Int → List Int → List Nat

/-- FIPS 180-4 SHA-256 of a byte string, a standard the spec cites and does not restate. DESIGN CHOICE (log 7). -/
opaque sha256 : List (BitVec 8) → List (BitVec 8)

/-- FIPS 186-5 ECDSA P-256 verification: public key, digest, signature. DESIGN CHOICE (log 7). -/
opaque ecdsaVerify : List (BitVec 8) → List (BitVec 8) → List (BitVec 8) → Bool

/-- FIPS 186-5 ECDSA P-256 signature by a private key of a digest. DESIGN CHOICE (log 7). -/
opaque ecdsaSign : List (BitVec 8) → List (BitVec 8) → List (BitVec 8)

/-- FIPS 186-5: the P-256 public key X ‖ Y of a private key. DESIGN CHOICE (log 7). -/
opaque p256Pub : Nat → List (BitVec 8)

/-- R397, R412: the root public key whose SHA-256 the fuses hold. DESIGN CHOICE (log 7). -/
opaque rootKey : List (BitVec 8) → List (BitVec 8)

/-- R399: the certificate chain that the persistent area of the flash holds, whose place there the spec does not give.
DESIGN CHOICE (log 7). -/
opaque certChain : List (Nat × BitVec 8) → List (BitVec 8)

/-- R399: the public key that the leaf of a certificate chain carries. DESIGN CHOICE (log 7). -/
opaque leafKey : List (BitVec 8) → List (BitVec 8)

/-- R408: the SHA-256 digest of the boot ROM. DESIGN CHOICE (log 7). -/
opaque romDigest : List (BitVec 8)

/-- R408: the digest of the fuse state, whose serialisation the spec does not give. DESIGN CHOICE (log 7). -/
opaque fuseDigest : List (BitVec 8) → List (BitVec 8)

/-- R413: the MXE duty that power control chooses, within what the rule allows: by draw. DESIGN CHOICE (log 4). -/
opaque freeDuty : Nat → Nat

/-- R235: the number of rank-select bits among the highest bits of a channel's address, which the module decides.
DESIGN CHOICE (log 90). -/
opaque rankBits : Nat → Nat

/-- R292, R236: the bytes of the pool directory for a number of extents. DESIGN CHOICE (log 91). -/
opaque dirBytes : Nat → Nat

/-- R292: where the pool directory keeps its word for a page. DESIGN CHOICE (log 91). -/
opaque dirOff : Nat → Nat

/-- R313: the bytes of the sharer directory. DESIGN CHOICE (log 91). -/
opaque sharerBytes : Nat

/-- R313: where the sharer directory keeps its entry for a line. DESIGN CHOICE (log 91). -/
opaque sharerOff : Nat → Nat

/-- R313: the set of the sharer directory that a line belongs to, of 2^22. DESIGN CHOICE (log 91). -/
opaque sharerSet : Nat → Nat

/-- R241: the function of a pass's host side, by operation: the spec gives CODEC, PROOF and ENCODE no FUNCTION field.
DESIGN CHOICE (log 102). -/
opaque passFunction : Nat → Nat

/-- The value an event gives a cause or reason that the spec names and does not number: by event code and case.
DESIGN CHOICE (log 67). -/
opaque causeCode : Nat → Nat → BitVec 32

end Sys2Proof.Config
end

