-- ==== Sys2Proof/Machine/Arith.lean ====
section
/-! DEFINITION. Integer arithmetic and shared scales (spec/02_integer_arithmetic.md): element formats, scale
records, saturating accumulation, requantisation. -/

namespace Sys2Proof.Machine

/-- R30: the element formats, all signed two's complement. -/
inductive Fmt where
  | int4 | int8 | int16 | int32
deriving DecidableEq, Repr

/-- R30: bits of an element. -/
def Fmt.bits : Fmt → Nat
  | .int4 => 4 | .int8 => 8 | .int16 => 16 | .int32 => 32

/-- R30, R42: the largest value of the format. -/
def Fmt.maxVal (f : Fmt) : Int := 2 ^ (f.bits - 1) - 1

/-- R30, R42: the most negative value of the format. -/
def Fmt.minVal (f : Fmt) : Int := -(2 ^ (f.bits - 1))

/-- Clamp an exact value to a format, and whether it was clamped. -/
def clampFmt (f : Fmt) (x : Int) : Int × Bool :=
  if x > f.maxVal then (f.maxVal, true) else if x < f.minVal then (f.minVal, true) else (x, false)

/-- R32: a scale record. -/
structure Scale where
  mult  : Int
  shift : Nat
  rnd   : Nat
deriving DecidableEq, Repr

/-- R32: the record a 32-bit word holds. -/
def scaleOf (w : Nat) : Scale :=
  { mult := sextNat 16 w, shift := bitsOf w 21 16, rnd := bitsOf w 23 22 }

/-- R33: RND = 0b11 is reserved. -/
def Scale.reserved (r : Scale) : Bool := r.rnd == 3

/-- R41: the exact product shifted right under a rounding mode (0 NEAREST_EVEN, 1 NEAREST_AWAY, 2 FLOOR). -/
def requantCore (x m : Int) (s rnd : Nat) : Int :=
  let p := x * m
  if s = 0 then p
  else
    let lo := p / ((2 ^ s : Nat) : Int)
    let f := p - lo * ((2 ^ s : Nat) : Int)
    let h : Int := ((2 ^ (s - 1) : Nat) : Int)
    if rnd = 2 then lo
    else if rnd = 0 then
      if f > h ∨ (f = h ∧ lo % 2 = 1) then lo + 1 else lo
    else if f > h ∨ (f = h ∧ p > 0) then lo + 1 else lo

/-- R41: requantisation to a format, and whether the value was clamped (R42 counts it). -/
def requantise (x : Int) (r : Scale) (f : Fmt) : Int × Bool :=
  clampFmt f (requantCore x r.mult r.shift r.rnd)

/-- R37: one saturating addition into an INT32 accumulator, and whether it saturated. -/
def satAdd32 (a x : Int) : Int × Bool := clampFmt .int32 (a + x)

/-- An order of additions: the numbers say which of the remaining terms comes next. -/
def permuteBy : List Nat → List Int → List Int
  | [], l => l
  | n :: ns, l =>
    match l with
    | [] => []
    | _ :: _ => let k := n % l.length
                (l.getD k 0) :: permuteBy ns (l.eraseIdx k)

/-- R37: add the terms one by one with saturation; the second part counts the additions that saturated. -/
def satFold (acc : Int) (ts : List Int) : Int × Nat :=
  ts.foldl (fun (p : Int × Nat) t => let (v, c) := satAdd32 p.1 t; (v, p.2 + c.toNat)) (acc, 0)

/-- R37: accumulate terms. When no order of the additions can saturate, the sum is exact; otherwise they are
added in an order the spec leaves open (log 5). -/
def accumulate (acc : Int) (ts : List Int) : Int × Nat :=
  let pos := (ts.filter (· > 0)).sum
  let neg := (ts.filter (· < 0)).sum
  if acc + pos ≤ Fmt.int32.maxVal ∧ Fmt.int32.minVal ≤ acc + neg then (acc + ts.sum, 0)
  else satFold acc (permuteBy (Config.accOrder acc ts) ts)

/-- R39: an INT16 element split into its unsigned low byte and signed high byte. -/
def splitLow (x : Int) : Int := x % 256
/-- R39: the high byte of the split. -/
def splitHigh (x : Int) : Int := x / 256

/-- R31: element `i` of a packed array of the format. -/
def elemAt (f : Fmt) (bs : List Byte) (i : Nat) : Int :=
  match f with
  | .int4 => sextNat 4 (bitsOf ((bs.getD (i / 2) 0).toNat) (4 * (i % 2) + 3) (4 * (i % 2)))
  | .int8 => sextNat 8 ((bs.getD i 0).toNat)
  | .int16 => sextNat 16 (leAt bs (2 * i) 2)
  | .int32 => sextNat 32 (leAt bs (4 * i) 4)

/-- R31: the elements of a packed array. -/
def unpackElems (f : Fmt) (bs : List Byte) (n : Nat) : List Int :=
  match f with
  | .int4 => ((bs.flatMap fun b => [sextNat 4 (b.toNat % 16), sextNat 4 (b.toNat / 16)])).take n
  | .int8 => (bs.map fun b => sextNat 8 b.toNat).take n
  | .int16 => ((chunksOf 2 bs).map fun c => sextNat 16 (leNat c)).take n
  | .int32 => ((chunksOf 4 bs).map fun c => sextNat 32 (leNat c)).take n

/-- Bytes that `n` packed elements take (R31: an odd INT4 array has a zero high half in its last byte). -/
def packedLen (f : Fmt) (n : Nat) : Nat := (n * f.bits + 7) / 8

/-- R30, R31: the stored form of a row of elements. -/
def packElems (f : Fmt) (xs : List Int) : List Byte :=
  match f with
  | .int4 => (chunksOf 2 xs).map fun c =>
      BitVec.ofNat 8 (wrapNat 4 (c.getD 0 0) + 16 * wrapNat 4 (c.getD 1 0))
  | .int8 => xs.map fun x => BitVec.ofNat 8 (wrapNat 8 x)
  | .int16 => xs.flatMap fun x => leBytes 2 (wrapNat 16 x)
  | .int32 => xs.flatMap fun x => leBytes 4 (wrapNat 32 x)

/-- R157: the quotient rounded to nearest, ties to even. -/
def divNearestEven (a : Int) (n : Nat) : Int :=
  let lo := a / (n : Int)
  let r2 := 2 * (a - lo * (n : Int))
  if r2 > (n : Int) ∨ (r2 = (n : Int) ∧ lo % 2 = 1) then lo + 1 else lo

end Sys2Proof.Machine
end

