-- ==== Sys2Proof/Machine/Regs.lean ====
section
/-! DEFINITION. The control registers of every block, from the register maps of the spec (R28, R71, R102, R122, R135,
R162, R207 to R211, R238, R259, R289, R315, R349 to R351, R369, R387, R388, R416, R417, R432): where each stands in the
control space of R11, its reset value, its width, and its fields with the access types of R5. -/

namespace Sys2Proof.Machine

/-- A register: its offset in control space and its reset value. -/
structure Reg where
  off : Nat
  rst : Nat
deriving DecidableEq, Repr

/-- A field: its highest and lowest bit. -/
structure Fld where
  hi : Nat
  lo : Nat
deriving DecidableEq, Repr

/-- R5: the access types. -/
inductive Acc where
  | ro | rw | w1c | w1s | wo | rwl
deriving DecidableEq, Repr

/-- One field of a register map. -/
structure FldDesc where
  hi  : Nat
  lo  : Nat
  acc : Acc
deriving DecidableEq, Repr

/-- One row of a register map: where its copies stand (count and stride of each index, widest stride first). `latch`
says that it is a 64-bit counter, which reads as R71 lays down. -/
structure RegDesc where
  name   : String
  base   : Nat
  dims   : List (Nat × Nat)
  width  : Nat
  latch  : Bool
  rst    : Nat
  fields : List FldDesc
deriving DecidableEq, Repr

/-- FMN_TOPO_CAP (R28). -/
abbrev R.FMN_TOPO_CAP : Reg := ⟨0x10000, 0x100000010⟩
/-- FMN_CREW_PRESENT (R28). -/
abbrev R.FMN_CREW_PRESENT : Reg := ⟨0x10008, 0x0⟩
/-- FMN_SEAM_STATE (R28). -/
abbrev R.FMN_SEAM_STATE : Reg := ⟨0x10010, 0x0⟩
/-- FMN_SEAM_CHANGED (R28). -/
abbrev R.FMN_SEAM_CHANGED : Reg := ⟨0x10014, 0x0⟩
/-- FMN_SEAM_RETRY_CNT (R28). -/
abbrev R.FMN_SEAM_RETRY_CNT (i : Nat) : Reg := ⟨0x10020 + i * 0x4, 0x0⟩
/-- MXE_CAP (R71). -/
abbrev R.MXE_CAP (m : Nat) : Reg := ⟨0x1000000 + m * 0x1000, 0x110404044200F⟩
/-- MXE_CTL (R71). -/
abbrev R.MXE_CTL (m : Nat) : Reg := ⟨0x1000008 + m * 0x1000, 0x1000⟩
/-- MXE_BANK_STAT (R71). -/
abbrev R.MXE_BANK_STAT (m : Nat) : Reg := ⟨0x1000010 + m * 0x1000, 0x0⟩
/-- MXE_CNT_CLEAR (R71). -/
abbrev R.MXE_CNT_CLEAR (m : Nat) : Reg := ⟨0x1000014 + m * 0x1000, 0x0⟩
/-- MXE_QCTL (R71). -/
abbrev R.MXE_QCTL (m : Nat) (i : Nat) : Reg := ⟨0x1000020 + m * 0x1000 + i * 0x8, 0x1000000⟩
/-- MXE_QSTAT (R71). -/
abbrev R.MXE_QSTAT (m : Nat) (i : Nat) : Reg := ⟨0x1000040 + m * 0x1000 + i * 0x4, 0x0⟩
/-- MXE_CNT_CYCLES (R71). -/
abbrev R.MXE_CNT_CYCLES (m : Nat) : Reg := ⟨0x1000100 + m * 0x1000, 0x0⟩
/-- MXE_CNT_BUSY (R71). -/
abbrev R.MXE_CNT_BUSY (m : Nat) : Reg := ⟨0x1000108 + m * 0x1000, 0x0⟩
/-- MXE_CNT_IDLE (R71). -/
abbrev R.MXE_CNT_IDLE (m : Nat) : Reg := ⟨0x1000110 + m * 0x1000, 0x0⟩
/-- MXE_CNT_WAIT (R71). -/
abbrev R.MXE_CNT_WAIT (m : Nat) : Reg := ⟨0x1000118 + m * 0x1000, 0x0⟩
/-- MXE_CNT_THROTTLE (R71). -/
abbrev R.MXE_CNT_THROTTLE (m : Nat) : Reg := ⟨0x1000120 + m * 0x1000, 0x0⟩
/-- MXE_CNT_RESTORE (R71). -/
abbrev R.MXE_CNT_RESTORE (m : Nat) : Reg := ⟨0x1000128 + m * 0x1000, 0x0⟩
/-- MXE_CNT_BANK (R71). -/
abbrev R.MXE_CNT_BANK (m : Nat) : Reg := ⟨0x1000130 + m * 0x1000, 0x0⟩
/-- MXE_CNT_OUTPUT (R71). -/
abbrev R.MXE_CNT_OUTPUT (m : Nat) : Reg := ⟨0x1000138 + m * 0x1000, 0x0⟩
/-- MXE_CNT_STARTER (R71). -/
abbrev R.MXE_CNT_STARTER (m : Nat) : Reg := ⟨0x1000140 + m * 0x1000, 0x0⟩
/-- MXE_CNT_T0 (R71). -/
abbrev R.MXE_CNT_T0 (m : Nat) : Reg := ⟨0x1000148 + m * 0x1000, 0x0⟩
/-- MXE_CNT_CREDIT (R71). -/
abbrev R.MXE_CNT_CREDIT (m : Nat) : Reg := ⟨0x1000150 + m * 0x1000, 0x0⟩
/-- MXE_CNT_WEIGHT (R71). -/
abbrev R.MXE_CNT_WEIGHT (m : Nat) : Reg := ⟨0x1000158 + m * 0x1000, 0x0⟩
/-- MXE_CNT_ACC_SAT (R71). -/
abbrev R.MXE_CNT_ACC_SAT (m : Nat) : Reg := ⟨0x1000160 + m * 0x1000, 0x0⟩
/-- MXE_CNT_RQ_SAT (R71). -/
abbrev R.MXE_CNT_RQ_SAT (m : Nat) : Reg := ⟨0x1000168 + m * 0x1000, 0x0⟩
/-- MXE_CNT_ECC_CORR (R71). -/
abbrev R.MXE_CNT_ECC_CORR (m : Nat) : Reg := ⟨0x1000170 + m * 0x1000, 0x0⟩
/-- MXE_CNT_ECC_UNCORR (R71). -/
abbrev R.MXE_CNT_ECC_UNCORR (m : Nat) : Reg := ⟨0x1000178 + m * 0x1000, 0x0⟩
/-- MXE_CNT_SWITCH (R71). -/
abbrev R.MXE_CNT_SWITCH (m : Nat) : Reg := ⟨0x1000180 + m * 0x1000, 0x0⟩
/-- MXE_CNT_ORDER (R71). -/
abbrev R.MXE_CNT_ORDER (m : Nat) : Reg := ⟨0x1000188 + m * 0x1000, 0x0⟩
/-- MXE_CREW_CAP (R102). -/
abbrev R.MXE_CREW_CAP (n : Nat) : Reg := ⟨0x2000000 + n * 0x1000, 0x18010040002⟩
/-- MXE_SEM (R102). -/
abbrev R.MXE_SEM (n : Nat) (i : Nat) : Reg := ⟨0x2000400 + n * 0x1000 + i * 0x8, 0x0⟩
/-- MXE_SEM_ADD (R102). -/
abbrev R.MXE_SEM_ADD (n : Nat) (i : Nat) : Reg := ⟨0x2000800 + n * 0x1000 + i * 0x4, 0x0⟩
/-- KNC_CAP (R135). -/
abbrev R.KNC_CAP (k : Nat) : Reg := ⟨0x3000000 + k * 0x4000, 0x101440100100F⟩
/-- KNC_CNT_CLEAR (R135). -/
abbrev R.KNC_CNT_CLEAR (k : Nat) : Reg := ⟨0x3000008 + k * 0x4000, 0x0⟩
/-- KNC_CNT_ISSUE (R135). -/
abbrev R.KNC_CNT_ISSUE (k : Nat) : Reg := ⟨0x3000010 + k * 0x4000, 0x0⟩
/-- KNC_CNT_RQ_SAT (R135). -/
abbrev R.KNC_CNT_RQ_SAT (k : Nat) : Reg := ⟨0x3000018 + k * 0x4000, 0x0⟩
/-- KNC_CNT_ACC_SAT (R135). -/
abbrev R.KNC_CNT_ACC_SAT (k : Nat) : Reg := ⟨0x3000020 + k * 0x4000, 0x0⟩
/-- KNC_CNT_LUT_CLAMP (R135). -/
abbrev R.KNC_CNT_LUT_CLAMP (k : Nat) : Reg := ⟨0x3000028 + k * 0x4000, 0x0⟩
/-- KNC_CNT_ECC_CORR (R135). -/
abbrev R.KNC_CNT_ECC_CORR (k : Nat) : Reg := ⟨0x3000030 + k * 0x4000, 0x0⟩
/-- KNC_CNT_ECC_UNCORR (R135). -/
abbrev R.KNC_CNT_ECC_UNCORR (k : Nat) : Reg := ⟨0x3000038 + k * 0x4000, 0x0⟩
/-- KNC_LUTCFG (R122). -/
abbrev R.KNC_LUTCFG (k : Nat) (t : Nat) : Reg := ⟨0x3000040 + k * 0x4000 + t * 0x8, 0x0⟩
/-- KNC_CTX_CTL (R135). -/
abbrev R.KNC_CTX_CTL (k : Nat) (c : Nat) : Reg := ⟨0x3000800 + k * 0x4000 + c * 0x800, 0x0⟩
/-- KNC_CTX_STAT (R135). -/
abbrev R.KNC_CTX_STAT (k : Nat) (c : Nat) : Reg := ⟨0x3000808 + k * 0x4000 + c * 0x800, 0x0⟩
/-- KNC_CTX_CMD (R135). -/
abbrev R.KNC_CTX_CMD (k : Nat) (c : Nat) : Reg := ⟨0x3000810 + k * 0x4000 + c * 0x800, 0x0⟩
/-- KNC_CTX_PC (R135). -/
abbrev R.KNC_CTX_PC (k : Nat) (c : Nat) : Reg := ⟨0x3000818 + k * 0x4000 + c * 0x800, 0x0⟩
/-- KNC_CTX_EPC (R135). -/
abbrev R.KNC_CTX_EPC (k : Nat) (c : Nat) : Reg := ⟨0x3000820 + k * 0x4000 + c * 0x800, 0x0⟩
/-- KNC_CTX_EXCADDR (R135). -/
abbrev R.KNC_CTX_EXCADDR (k : Nat) (c : Nat) : Reg := ⟨0x3000828 + k * 0x4000 + c * 0x800, 0x0⟩
/-- KNC_CTX_RGN (R135). -/
abbrev R.KNC_CTX_RGN (k : Nat) (c : Nat) (i : Nat) : Reg := ⟨0x3000840 + k * 0x4000 + c * 0x800 + i * 0x8, 0x0⟩
/-- KNC_CTX_GREG (R135). -/
abbrev R.KNC_CTX_GREG (k : Nat) (c : Nat) (i : Nat) : Reg := ⟨0x3000900 + k * 0x4000 + c * 0x800 + i * 0x8, 0x0⟩
/-- KNC_CTX_PREG (R135). -/
abbrev R.KNC_CTX_PREG (k : Nat) (c : Nat) (i : Nat) : Reg := ⟨0x3000A00 + k * 0x4000 + c * 0x800 + i * 0x8, 0x0⟩
/-- KNC_CTX_VREG (R135). -/
abbrev R.KNC_CTX_VREG (k : Nat) (c : Nat) (i : Nat) : Reg := ⟨0x3000C00 + k * 0x4000 + c * 0x800 + i * 0x8, 0x0⟩
/-- MXE_XP_CAP (R162). -/
abbrev R.MXE_XP_CAP (m : Nat) : Reg := ⟨0x4000000 + m * 0x1000, 0x140100002001F⟩
/-- MXE_XP_CNT_CLEAR (R162). -/
abbrev R.MXE_XP_CNT_CLEAR (m : Nat) : Reg := ⟨0x4000008 + m * 0x1000, 0x0⟩
/-- MXE_XP_LAST_DAMAGE (R162). -/
abbrev R.MXE_XP_LAST_DAMAGE (m : Nat) : Reg := ⟨0x4000010 + m * 0x1000, 0x0⟩
/-- MXE_XP_CNT_RAW (R162). -/
abbrev R.MXE_XP_CNT_RAW (m : Nat) : Reg := ⟨0x4000100 + m * 0x1000, 0x0⟩
/-- MXE_XP_CNT_VQ (R162). -/
abbrev R.MXE_XP_CNT_VQ (m : Nat) : Reg := ⟨0x4000108 + m * 0x1000, 0x0⟩
/-- MXE_XP_CNT_LR (R162). -/
abbrev R.MXE_XP_CNT_LR (m : Nat) : Reg := ⟨0x4000110 + m * 0x1000, 0x0⟩
/-- MXE_XP_CNT_ZERO (R162). -/
abbrev R.MXE_XP_CNT_ZERO (m : Nat) : Reg := ⟨0x4000118 + m * 0x1000, 0x0⟩
/-- MXE_XP_CNT_ESCAPES (R162). -/
abbrev R.MXE_XP_CNT_ESCAPES (m : Nat) : Reg := ⟨0x4000120 + m * 0x1000, 0x0⟩
/-- MXE_XP_CNT_LR_SAT (R162). -/
abbrev R.MXE_XP_CNT_LR_SAT (m : Nat) : Reg := ⟨0x4000128 + m * 0x1000, 0x0⟩
/-- MXE_XP_CNT_DAMAGED (R162). -/
abbrev R.MXE_XP_CNT_DAMAGED (m : Nat) : Reg := ⟨0x4000130 + m * 0x1000, 0x0⟩
/-- MXE_XP_CNT_REFETCH (R162). -/
abbrev R.MXE_XP_CNT_REFETCH (m : Nat) : Reg := ⟨0x4000138 + m * 0x1000, 0x0⟩
/-- MXE_XP_CNT_STARTER_MISMATCH (R162). -/
abbrev R.MXE_XP_CNT_STARTER_MISMATCH (m : Nat) : Reg := ⟨0x4000140 + m * 0x1000, 0x0⟩
/-- TRM_CAP (R259). -/
abbrev R.TRM_CAP (t : Nat) : Reg := ⟨0xC000000 + t * 0x1000, 0x10102000201BF⟩
/-- TRM_CTL (R259). -/
abbrev R.TRM_CTL (t : Nat) : Reg := ⟨0xC000008 + t * 0x1000, 0x0⟩
/-- TRM_HEAD (R259). -/
abbrev R.TRM_HEAD (t : Nat) : Reg := ⟨0xC000010 + t * 0x1000, 0x0⟩
/-- TRM_CMD (R259). -/
abbrev R.TRM_CMD (t : Nat) : Reg := ⟨0xC000018 + t * 0x1000, 0x0⟩
/-- TRM_STAT (R259). -/
abbrev R.TRM_STAT (t : Nat) : Reg := ⟨0xC00001C + t * 0x1000, 0x0⟩
/-- TRM_CUR (R259). -/
abbrev R.TRM_CUR (t : Nat) : Reg := ⟨0xC000020 + t * 0x1000, 0x0⟩
/-- TRM_ERR_ADDR (R259). -/
abbrev R.TRM_ERR_ADDR (t : Nat) : Reg := ⟨0xC000028 + t * 0x1000, 0x0⟩
/-- TRM_SOFF (R259). -/
abbrev R.TRM_SOFF (t : Nat) : Reg := ⟨0xC000030 + t * 0x1000, 0x0⟩
/-- TRM_DOFF (R259). -/
abbrev R.TRM_DOFF (t : Nat) : Reg := ⟨0xC000038 + t * 0x1000, 0x0⟩
/-- TRM_CNT_BYTES (R259). -/
abbrev R.TRM_CNT_BYTES (t : Nat) : Reg := ⟨0xC000100 + t * 0x1000, 0x0⟩
/-- TRM_CNT_DESC (R259). -/
abbrev R.TRM_CNT_DESC (t : Nat) : Reg := ⟨0xC000108 + t * 0x1000, 0x0⟩
/-- TRM_CNT_HALT (R259). -/
abbrev R.TRM_CNT_HALT (t : Nat) : Reg := ⟨0xC000110 + t * 0x1000, 0x0⟩
/-- TRM_CNT_TOO_LATE (R259). -/
abbrev R.TRM_CNT_TOO_LATE (t : Nat) : Reg := ⟨0xC000118 + t * 0x1000, 0x0⟩
/-- TRM_CNT_ABORT (R259). -/
abbrev R.TRM_CNT_ABORT (t : Nat) : Reg := ⟨0xC000120 + t * 0x1000, 0x0⟩
/-- HST_CAP (R259). -/
abbrev R.HST_CAP (n : Nat) : Reg := ⟨0x5000000 + n * 0x1000, 0x10302000207B1⟩
/-- HST_CTL (R259). -/
abbrev R.HST_CTL (n : Nat) : Reg := ⟨0x5000008 + n * 0x1000, 0x0⟩
/-- HST_HEAD (R259). -/
abbrev R.HST_HEAD (n : Nat) : Reg := ⟨0x5000010 + n * 0x1000, 0x0⟩
/-- HST_CMD (R259). -/
abbrev R.HST_CMD (n : Nat) : Reg := ⟨0x5000018 + n * 0x1000, 0x0⟩
/-- HST_STAT (R259). -/
abbrev R.HST_STAT (n : Nat) : Reg := ⟨0x500001C + n * 0x1000, 0x0⟩
/-- HST_CUR (R259). -/
abbrev R.HST_CUR (n : Nat) : Reg := ⟨0x5000020 + n * 0x1000, 0x0⟩
/-- HST_ERR_ADDR (R259). -/
abbrev R.HST_ERR_ADDR (n : Nat) : Reg := ⟨0x5000028 + n * 0x1000, 0x0⟩
/-- HST_SOFF (R259). -/
abbrev R.HST_SOFF (n : Nat) : Reg := ⟨0x5000030 + n * 0x1000, 0x0⟩
/-- HST_DOFF (R259). -/
abbrev R.HST_DOFF (n : Nat) : Reg := ⟨0x5000038 + n * 0x1000, 0x0⟩
/-- HST_CNT_BYTES (R259). -/
abbrev R.HST_CNT_BYTES (n : Nat) : Reg := ⟨0x5000100 + n * 0x1000, 0x0⟩
/-- HST_CNT_DESC (R259). -/
abbrev R.HST_CNT_DESC (n : Nat) : Reg := ⟨0x5000108 + n * 0x1000, 0x0⟩
/-- HST_CNT_HALT (R259). -/
abbrev R.HST_CNT_HALT (n : Nat) : Reg := ⟨0x5000110 + n * 0x1000, 0x0⟩
/-- HST_CNT_TOO_LATE (R259). -/
abbrev R.HST_CNT_TOO_LATE (n : Nat) : Reg := ⟨0x5000118 + n * 0x1000, 0x0⟩
/-- HST_CNT_ABORT (R259). -/
abbrev R.HST_CNT_ABORT (n : Nat) : Reg := ⟨0x5000120 + n * 0x1000, 0x0⟩
/-- HST_STEP_MARK (R259). -/
abbrev R.HST_STEP_MARK (n : Nat) : Reg := ⟨0x5000040 + n * 0x1000, 0x0⟩
/-- HST_LAYER_NEXT (R259). -/
abbrev R.HST_LAYER_NEXT (n : Nat) : Reg := ⟨0x5000048 + n * 0x1000, 0x0⟩
/-- HST_SLOT_CFG (R209). -/
abbrev R.HST_SLOT_CFG (n : Nat) (i : Nat) : Reg := ⟨0x5000200 + n * 0x1000 + i * 0x10, 0x0⟩
/-- HST_SLOT_STAT (R209). -/
abbrev R.HST_SLOT_STAT (n : Nat) (i : Nat) : Reg := ⟨0x5000208 + n * 0x1000 + i * 0x10, 0x0⟩
/-- HST_CNT_MISS (R211). -/
abbrev R.HST_CNT_MISS (n : Nat) : Reg := ⟨0x5000400 + n * 0x1000, 0x0⟩
/-- HST_CNT_STANDBY (R211). -/
abbrev R.HST_CNT_STANDBY (n : Nat) : Reg := ⟨0x5000408 + n * 0x1000, 0x0⟩
/-- HST_CNT_LOST (R211). -/
abbrev R.HST_CNT_LOST (n : Nat) : Reg := ⟨0x5000410 + n * 0x1000, 0x0⟩
/-- HST_CNT_ABSENT (R211). -/
abbrev R.HST_CNT_ABSENT (n : Nat) : Reg := ⟨0x5000418 + n * 0x1000, 0x0⟩
/-- HST_CNT_WAIT_CYC (R211). -/
abbrev R.HST_CNT_WAIT_CYC (n : Nat) : Reg := ⟨0x5000420 + n * 0x1000, 0x0⟩
/-- QOS_QUOTA (R207). -/
abbrev R.QOS_QUOTA (t : Nat) (i : Nat) : Reg := ⟨0x6000000 + t * 0x100 + i * 0x8, 0x0⟩
/-- QOS_CHARGE (R207). -/
abbrev R.QOS_CHARGE (t : Nat) (i : Nat) : Reg := ⟨0x6000040 + t * 0x100 + i * 0x8, 0x0⟩
/-- QOS_PHYS (R207). -/
abbrev R.QOS_PHYS (t : Nat) (i : Nat) : Reg := ⟨0x6000080 + t * 0x100 + i * 0x8, 0x0⟩
/-- T1C_OBJ_CAP (R208). -/
abbrev R.T1C_OBJ_CAP : Reg := ⟨0x7000000, 0x1021F01000000⟩
/-- T1C_OBJ_BASE (R208). -/
abbrev R.T1C_OBJ_BASE : Reg := ⟨0x7000008, 0x0⟩
/-- T1C_OBJ_MIRROR (R208). -/
abbrev R.T1C_OBJ_MIRROR : Reg := ⟨0x7000010, 0x0⟩
/-- T1C_OBJ_ENTRIES (R208). -/
abbrev R.T1C_OBJ_ENTRIES : Reg := ⟨0x7000018, 0x0⟩
/-- T1C_CAPACITY (R208). -/
abbrev R.T1C_CAPACITY (i : Nat) : Reg := ⟨0x7000040 + i * 0x8, 0x0⟩
/-- T1C_CHARGED (R208). -/
abbrev R.T1C_CHARGED (i : Nat) : Reg := ⟨0x7000080 + i * 0x8, 0x0⟩
/-- T1C_OBJ_CNT_STALE (R211). -/
abbrev R.T1C_OBJ_CNT_STALE : Reg := ⟨0x7000100, 0x0⟩
/-- T1C_OBJ_CNT_LOST (R211). -/
abbrev R.T1C_OBJ_CNT_LOST : Reg := ⟨0x7000108, 0x0⟩
/-- PLT_LIN_CTL (R210). -/
abbrev R.PLT_LIN_CTL (i : Nat) : Reg := ⟨0x8000000 + i * 0x20, 0x0⟩
/-- PLT_LIN_SIZE (R210). -/
abbrev R.PLT_LIN_SIZE (i : Nat) : Reg := ⟨0x8000008 + i * 0x20, 0x0⟩
/-- PLT_LIN_DIRTY (R210). -/
abbrev R.PLT_LIN_DIRTY (i : Nat) : Reg := ⟨0x8000018 + i * 0x20, 0x0⟩
/-- PLT_LOUT_CTL (R210). -/
abbrev R.PLT_LOUT_CTL (i : Nat) : Reg := ⟨0x8000800 + i * 0x20, 0x0⟩
/-- PLT_LOUT_SIZE (R210). -/
abbrev R.PLT_LOUT_SIZE (i : Nat) : Reg := ⟨0x8000808 + i * 0x20, 0x0⟩
/-- PLT_LOUT_BASE (R210). -/
abbrev R.PLT_LOUT_BASE (i : Nat) : Reg := ⟨0x8000810 + i * 0x20, 0x0⟩
/-- PLT_LEASE_CNT_STALE (R211). -/
abbrev R.PLT_LEASE_CNT_STALE : Reg := ⟨0x8001000, 0x0⟩
/-- T2C_RCV_STAT (R211). -/
abbrev R.T2C_RCV_STAT (h : Nat) : Reg := ⟨0x9000000 + h * 0x1000, 0x0⟩
/-- T2C_RCV_CNT_REPAIR (R211). -/
abbrev R.T2C_RCV_CNT_REPAIR (h : Nat) : Reg := ⟨0x9000100 + h * 0x1000, 0x0⟩
/-- T2C_RCV_CNT_REFETCH (R211). -/
abbrev R.T2C_RCV_CNT_REFETCH (h : Nat) : Reg := ⟨0x9000108 + h * 0x1000, 0x0⟩
/-- T2C_RCV_CNT_WAITERS (R211). -/
abbrev R.T2C_RCV_CNT_WAITERS (h : Nat) : Reg := ⟨0x9000110 + h * 0x1000, 0x0⟩
/-- T2C_RCV_CNT_LOST (R211). -/
abbrev R.T2C_RCV_CNT_LOST (h : Nat) : Reg := ⟨0x9000118 + h * 0x1000, 0x0⟩
/-- T2C_RCV_CNT_DEGRADED_READ (R211). -/
abbrev R.T2C_RCV_CNT_DEGRADED_READ (h : Nat) : Reg := ⟨0x9000120 + h * 0x1000, 0x0⟩
/-- T1C_CAP (R238). -/
abbrev R.T1C_CAP (s : Nat) : Reg := ⟨0xA000000 + s * 0x1000, 0x101100AA02580⟩
/-- T1C_CTL (R238). -/
abbrev R.T1C_CTL (s : Nat) : Reg := ⟨0xA000008 + s * 0x1000, 0x18001000⟩
/-- T1C_STAT (R238). -/
abbrev R.T1C_STAT (s : Nat) : Reg := ⟨0xA00000C + s * 0x1000, 0x0⟩
/-- T1C_TRAIN (R238). -/
abbrev R.T1C_TRAIN (s : Nat) : Reg := ⟨0xA000010 + s * 0x1000, 0x0⟩
/-- T1C_SCRUB_POS (R238). -/
abbrev R.T1C_SCRUB_POS (s : Nat) : Reg := ⟨0xA000018 + s * 0x1000, 0x0⟩
/-- T1C_INJ_ADDR (R238). -/
abbrev R.T1C_INJ_ADDR (s : Nat) : Reg := ⟨0xA000020 + s * 0x1000, 0x0⟩
/-- T1C_INJ_CTL (R238). -/
abbrev R.T1C_INJ_CTL (s : Nat) : Reg := ⟨0xA000028 + s * 0x1000, 0x0⟩
/-- T1C_CNT_CLEAR (R238). -/
abbrev R.T1C_CNT_CLEAR (s : Nat) : Reg := ⟨0xA000030 + s * 0x1000, 0x0⟩
/-- T1C_REMAP (R238). -/
abbrev R.T1C_REMAP (s : Nat) (i : Nat) : Reg := ⟨0xA000080 + s * 0x1000 + i * 0x8, 0x0⟩
/-- T1C_CNT_CORR (R238). -/
abbrev R.T1C_CNT_CORR (s : Nat) : Reg := ⟨0xA000100 + s * 0x1000, 0x0⟩
/-- T1C_CNT_UNCORR (R238). -/
abbrev R.T1C_CNT_UNCORR (s : Nat) : Reg := ⟨0xA000108 + s * 0x1000, 0x0⟩
/-- T1C_CNT_INLINE (R238). -/
abbrev R.T1C_CNT_INLINE (s : Nat) : Reg := ⟨0xA000110 + s * 0x1000, 0x0⟩
/-- T1C_CNT_REMAP (R238). -/
abbrev R.T1C_CNT_REMAP (s : Nat) : Reg := ⟨0xA000118 + s * 0x1000, 0x0⟩
/-- T1C_CNT_REMAP_FULL (R238). -/
abbrev R.T1C_CNT_REMAP_FULL (s : Nat) : Reg := ⟨0xA000120 + s * 0x1000, 0x0⟩
/-- T1C_CNT_RD_REFRESH (R238). -/
abbrev R.T1C_CNT_RD_REFRESH (s : Nat) : Reg := ⟨0xA000128 + s * 0x1000, 0x0⟩
/-- T1C_CNT_SCRUB_PASS (R238). -/
abbrev R.T1C_CNT_SCRUB_PASS (s : Nat) : Reg := ⟨0xA000130 + s * 0x1000, 0x0⟩
/-- T1C_CNT_TRACK (R238). -/
abbrev R.T1C_CNT_TRACK (s : Nat) : Reg := ⟨0xA000138 + s * 0x1000, 0x0⟩
/-- T1C_CNT_SEV (R238). -/
abbrev R.T1C_CNT_SEV (s : Nat) : Reg := ⟨0xA000140 + s * 0x1000, 0x0⟩
/-- T1C_CNT_PD_ENTRY (R238). -/
abbrev R.T1C_CNT_PD_ENTRY (s : Nat) : Reg := ⟨0xA000148 + s * 0x1000, 0x0⟩
/-- T2C_CAP (R238). -/
abbrev R.T2C_CAP (s : Nat) : Reg := ⟨0xB000000 + s * 0x1000, 0x102100AA02260⟩
/-- T2C_CTL (R238). -/
abbrev R.T2C_CTL (s : Nat) : Reg := ⟨0xB000008 + s * 0x1000, 0x18001000⟩
/-- T2C_STAT (R238). -/
abbrev R.T2C_STAT (s : Nat) : Reg := ⟨0xB00000C + s * 0x1000, 0x0⟩
/-- T2C_TRAIN (R238). -/
abbrev R.T2C_TRAIN (s : Nat) : Reg := ⟨0xB000010 + s * 0x1000, 0x0⟩
/-- T2C_SCRUB_POS (R238). -/
abbrev R.T2C_SCRUB_POS (s : Nat) : Reg := ⟨0xB000018 + s * 0x1000, 0x0⟩
/-- T2C_INJ_ADDR (R238). -/
abbrev R.T2C_INJ_ADDR (s : Nat) : Reg := ⟨0xB000020 + s * 0x1000, 0x0⟩
/-- T2C_INJ_CTL (R238). -/
abbrev R.T2C_INJ_CTL (s : Nat) : Reg := ⟨0xB000028 + s * 0x1000, 0x0⟩
/-- T2C_CNT_CLEAR (R238). -/
abbrev R.T2C_CNT_CLEAR (s : Nat) : Reg := ⟨0xB000030 + s * 0x1000, 0x0⟩
/-- T2C_LP (R238). -/
abbrev R.T2C_LP (s : Nat) : Reg := ⟨0xB00002C + s * 0x1000, 0x0⟩
/-- T2C_REMAP (R238). -/
abbrev R.T2C_REMAP (s : Nat) (i : Nat) : Reg := ⟨0xB000080 + s * 0x1000 + i * 0x8, 0x0⟩
/-- T2C_CNT_CORR (R238). -/
abbrev R.T2C_CNT_CORR (s : Nat) : Reg := ⟨0xB000100 + s * 0x1000, 0x0⟩
/-- T2C_CNT_UNCORR (R238). -/
abbrev R.T2C_CNT_UNCORR (s : Nat) : Reg := ⟨0xB000108 + s * 0x1000, 0x0⟩
/-- T2C_CNT_INLINE (R238). -/
abbrev R.T2C_CNT_INLINE (s : Nat) : Reg := ⟨0xB000110 + s * 0x1000, 0x0⟩
/-- T2C_CNT_REMAP (R238). -/
abbrev R.T2C_CNT_REMAP (s : Nat) : Reg := ⟨0xB000118 + s * 0x1000, 0x0⟩
/-- T2C_CNT_REMAP_FULL (R238). -/
abbrev R.T2C_CNT_REMAP_FULL (s : Nat) : Reg := ⟨0xB000120 + s * 0x1000, 0x0⟩
/-- T2C_CNT_RD_REFRESH (R238). -/
abbrev R.T2C_CNT_RD_REFRESH (s : Nat) : Reg := ⟨0xB000128 + s * 0x1000, 0x0⟩
/-- T2C_CNT_SCRUB_PASS (R238). -/
abbrev R.T2C_CNT_SCRUB_PASS (s : Nat) : Reg := ⟨0xB000130 + s * 0x1000, 0x0⟩
/-- T2C_CNT_TRACK (R238). -/
abbrev R.T2C_CNT_TRACK (s : Nat) : Reg := ⟨0xB000138 + s * 0x1000, 0x0⟩
/-- T2C_CNT_SEV (R238). -/
abbrev R.T2C_CNT_SEV (s : Nat) : Reg := ⟨0xB000140 + s * 0x1000, 0x0⟩
/-- T2C_CNT_PD_ENTRY (R238). -/
abbrev R.T2C_CNT_PD_ENTRY (s : Nat) : Reg := ⟨0xB000148 + s * 0x1000, 0x0⟩
/-- HP0_CAP (R289). -/
abbrev R.HP0_CAP : Reg := ⟨0xD000000, 0x14040000208AB⟩
/-- HP0_LINK_STAT (R289). -/
abbrev R.HP0_LINK_STAT : Reg := ⟨0xD000008, 0x0⟩
/-- HP0_CNT_CLEAR (R289). -/
abbrev R.HP0_CNT_CLEAR : Reg := ⟨0xD00000C, 0x0⟩
/-- HP0_CNT_STALE (R289). -/
abbrev R.HP0_CNT_STALE : Reg := ⟨0xD000100, 0x0⟩
/-- HP0_CNT_DB_DROP (R289). -/
abbrev R.HP0_CNT_DB_DROP : Reg := ⟨0xD000108, 0x0⟩
/-- HP0_CNT_CMPL_DUP (R289). -/
abbrev R.HP0_CNT_CMPL_DUP : Reg := ⟨0xD000110, 0x0⟩
/-- HP0_CNT_INTAKE_BAD (R289). -/
abbrev R.HP0_CNT_INTAKE_BAD : Reg := ⟨0xD000118, 0x0⟩
/-- HP0_CNT_UR (R289). -/
abbrev R.HP0_CNT_UR : Reg := ⟨0xD000120, 0x0⟩
/-- HP0_CNT_CPL_ERR (R289). -/
abbrev R.HP0_CNT_CPL_ERR : Reg := ⟨0xD000128, 0x0⟩
/-- HP0_CNT_POISON_TX (R289). -/
abbrev R.HP0_CNT_POISON_TX : Reg := ⟨0xD000130, 0x0⟩
/-- HP0_CNT_FLR (R289). -/
abbrev R.HP0_CNT_FLR : Reg := ⟨0xD000138, 0x0⟩
/-- HP0_WIN_ACT_BASE (R289). -/
abbrev R.HP0_WIN_ACT_BASE (f : Nat) (w : Nat) : Reg := ⟨0xD100000 + f * 0x800 + w * 0x20, 0x0⟩
/-- HP0_WIN_ACT_CTL (R289). -/
abbrev R.HP0_WIN_ACT_CTL (f : Nat) (w : Nat) : Reg := ⟨0xD100008 + f * 0x800 + w * 0x20, 0x0⟩
/-- HP0_WIN_SHD_BASE (R289). -/
abbrev R.HP0_WIN_SHD_BASE (f : Nat) (w : Nat) : Reg := ⟨0xD100010 + f * 0x800 + w * 0x20, 0x0⟩
/-- HP0_WIN_SHD_CTL (R289). -/
abbrev R.HP0_WIN_SHD_CTL (f : Nat) (w : Nat) : Reg := ⟨0xD100018 + f * 0x800 + w * 0x20, 0x0⟩
/-- HP0_QROUTE (R289). -/
abbrev R.HP0_QROUTE (i : Nat) : Reg := ⟨0xD400000 + i * 0x8, 0x0⟩
/-- HP0_FN_STAT (R289). -/
abbrev R.HP0_FN_STAT (f : Nat) : Reg := ⟨0x10000000 + f * 0x40000, 0x0⟩
/-- HP0_FN_ABORT (R289). -/
abbrev R.HP0_FN_ABORT (f : Nat) : Reg := ⟨0x10000008 + f * 0x40000, 0x0⟩
/-- HP0_FN_ABORT_STAT (R289). -/
abbrev R.HP0_FN_ABORT_STAT (f : Nat) : Reg := ⟨0x10000010 + f * 0x40000, 0x0⟩
/-- HP0_QP_SQ_BASE (R289). -/
abbrev R.HP0_QP_SQ_BASE (f : Nat) (q : Nat) : Reg := ⟨0x10020000 + f * 0x40000 + q * 0x40, 0x0⟩
/-- HP0_QP_CQ_BASE (R289). -/
abbrev R.HP0_QP_CQ_BASE (f : Nat) (q : Nat) : Reg := ⟨0x10020008 + f * 0x40000 + q * 0x40, 0x0⟩
/-- HP0_QP_CFG (R289). -/
abbrev R.HP0_QP_CFG (f : Nat) (q : Nat) : Reg := ⟨0x10020010 + f * 0x40000 + q * 0x40, 0x0⟩
/-- HP0_QP_STAT (R289). -/
abbrev R.HP0_QP_STAT (f : Nat) (q : Nat) : Reg := ⟨0x10020018 + f * 0x40000 + q * 0x40, 0x0⟩
/-- EVR_TR_WR (R388). -/
abbrev R.EVR_TR_WR (f : Nat) : Reg := ⟨0x10003000 + f * 0x40000, 0x0⟩
/-- EVR_TR_RD (R388). -/
abbrev R.EVR_TR_RD (f : Nat) : Reg := ⟨0x10003008 + f * 0x40000, 0x0⟩
/-- EVR_TR_STAT (R388). -/
abbrev R.EVR_TR_STAT (f : Nat) : Reg := ⟨0x10003010 + f * 0x40000, 0x0⟩
/-- EVR_TR_WHERE (R388). -/
abbrev R.EVR_TR_WHERE (f : Nat) : Reg := ⟨0x10003018 + f * 0x40000, 0x0⟩
/-- HP1_CAP (R315). -/
abbrev R.HP1_CAP : Reg := ⟨0xE000000, 0x11080100C1007⟩
/-- HP1_LINK_STAT (R315). -/
abbrev R.HP1_LINK_STAT : Reg := ⟨0xE000008, 0x0⟩
/-- HP1_CNT_CLEAR (R315). -/
abbrev R.HP1_CNT_CLEAR : Reg := ⟨0xE00000C, 0x0⟩
/-- HP1_POOL_T1 (R315). -/
abbrev R.HP1_POOL_T1 : Reg := ⟨0xE000010, 0x0⟩
/-- HP1_POOL_T2 (R315). -/
abbrev R.HP1_POOL_T2 : Reg := ⟨0xE000018, 0x0⟩
/-- HP1_POOL_T3 (R315). -/
abbrev R.HP1_POOL_T3 : Reg := ⟨0xE000020, 0x0⟩
/-- HP1_POOL_SIDE (R315). -/
abbrev R.HP1_POOL_SIDE : Reg := ⟨0xE000028, 0x0⟩
/-- HP1_DIR_BASE (R315). -/
abbrev R.HP1_DIR_BASE : Reg := ⟨0xE000030, 0x0⟩
/-- HP1_DIR_MIRROR (R315). -/
abbrev R.HP1_DIR_MIRROR : Reg := ⟨0xE000038, 0x0⟩
/-- HP1_SHARER_BASE (R315). -/
abbrev R.HP1_SHARER_BASE : Reg := ⟨0xE000040, 0x0⟩
/-- HP1_CNT_NOMATCH (R315). -/
abbrev R.HP1_CNT_NOMATCH : Reg := ⟨0xE000100, 0x0⟩
/-- HP1_CNT_REVOKE_DROP (R315). -/
abbrev R.HP1_CNT_REVOKE_DROP : Reg := ⟨0xE000108, 0x0⟩
/-- HP1_CNT_STALE (R315). -/
abbrev R.HP1_CNT_STALE : Reg := ⟨0xE000110, 0x0⟩
/-- HP1_CNT_POISON_TX (R315). -/
abbrev R.HP1_CNT_POISON_TX : Reg := ⟨0xE000118, 0x0⟩
/-- HP1_CNT_CACHE_HIT (R315). -/
abbrev R.HP1_CNT_CACHE_HIT : Reg := ⟨0xE000120, 0x0⟩
/-- HP1_CNT_CACHE_MISS (R315). -/
abbrev R.HP1_CNT_CACHE_MISS : Reg := ⟨0xE000128, 0x0⟩
/-- HP1_CNT_PLAIN_BYTES (R315). -/
abbrev R.HP1_CNT_PLAIN_BYTES : Reg := ⟨0xE000130, 0x0⟩
/-- HP1_CNT_FRAME_BYTES (R315). -/
abbrev R.HP1_CNT_FRAME_BYTES : Reg := ⟨0xE000138, 0x0⟩
/-- HP1_CNT_BISNP (R315). -/
abbrev R.HP1_CNT_BISNP : Reg := ⟨0xE000140, 0x0⟩
/-- HP1_CNT_BI_TIMEOUT (R315). -/
abbrev R.HP1_CNT_BI_TIMEOUT : Reg := ⟨0xE000148, 0x0⟩
/-- HP1_CNT_PUBLISH (R315). -/
abbrev R.HP1_CNT_PUBLISH : Reg := ⟨0xE000150, 0x0⟩
/-- HP1_CNT_CONFLICT (R315). -/
abbrev R.HP1_CNT_CONFLICT : Reg := ⟨0xE000158, 0x0⟩
/-- HP1_CNT_DRAFT_FULL (R315). -/
abbrev R.HP1_CNT_DRAFT_FULL : Reg := ⟨0xE000160, 0x0⟩
/-- HP1_CNT_HOLD (R315). -/
abbrev R.HP1_CNT_HOLD : Reg := ⟨0xE000168, 0x0⟩
/-- HP1_HOST (R315). -/
abbrev R.HP1_HOST (h : Nat) : Reg := ⟨0xE010000 + h * 0x8, 0x400000⟩
/-- HP1_REGION_CFG (R315). -/
abbrev R.HP1_REGION_CFG (r : Nat) : Reg := ⟨0xE020000 + r * 0x10, 0x0⟩
/-- HP1_REGION_STAT (R315). -/
abbrev R.HP1_REGION_STAT (r : Nat) : Reg := ⟨0xE020008 + r * 0x10, 0x0⟩
/-- HP1_EXT (R315). -/
abbrev R.HP1_EXT (x : Nat) : Reg := ⟨0xE100000 + x * 0x8, 0x0⟩
/-- HP1_RANGE_A (R315). -/
abbrev R.HP1_RANGE_A (e : Nat) : Reg := ⟨0xE200000 + e * 0x10, 0x0⟩
/-- HP1_RANGE_B (R315). -/
abbrev R.HP1_RANGE_B (e : Nat) : Reg := ⟨0xE200008 + e * 0x10, 0x0⟩
/-- PLT_CAP (R349). -/
abbrev R.PLT_CAP : Reg := ⟨0xF000000, 0x102104020080F⟩
/-- PLT_SYS (R349). -/
abbrev R.PLT_SYS : Reg := ⟨0xF000008, 0x0⟩
/-- PLT_CTL (R349). -/
abbrev R.PLT_CTL : Reg := ⟨0xF000010, 0xA00⟩
/-- PLT_TEST_EN (R349). -/
abbrev R.PLT_TEST_EN : Reg := ⟨0xF000014, 0x0⟩
/-- PLT_CNT_CLEAR (R349). -/
abbrev R.PLT_CNT_CLEAR : Reg := ⟨0xF000018, 0x0⟩
/-- PLT_CNT_STALE (R351). -/
abbrev R.PLT_CNT_STALE : Reg := ⟨0xF000100, 0x0⟩
/-- PLT_CNT_UNREACH (R351). -/
abbrev R.PLT_CNT_UNREACH : Reg := ⟨0xF000108, 0x0⟩
/-- PLT_CNT_TIMEOUT (R351). -/
abbrev R.PLT_CNT_TIMEOUT : Reg := ⟨0xF000110, 0x0⟩
/-- PLT_CNT_DETOUR (R351). -/
abbrev R.PLT_CNT_DETOUR : Reg := ⟨0xF000118, 0x0⟩
/-- PLT_CNT_NOLEASE (R351). -/
abbrev R.PLT_CNT_NOLEASE : Reg := ⟨0xF000120, 0x0⟩
/-- PLT_CNT_LOST_PKT (R351). -/
abbrev R.PLT_CNT_LOST_PKT : Reg := ⟨0xF000128, 0x0⟩
/-- PLT_CNT_COLL_FAIL (R351). -/
abbrev R.PLT_CNT_COLL_FAIL : Reg := ⟨0xF000130, 0x0⟩
/-- PLT_PORT_STAT (R350). -/
abbrev R.PLT_PORT_STAT (p : Nat) : Reg := ⟨0xF010000 + p * 0x1000, 0x0⟩
/-- PLT_PORT_LAMBDA (R350). -/
abbrev R.PLT_PORT_LAMBDA (p : Nat) : Reg := ⟨0xF010008 + p * 0x1000, 0x0⟩
/-- PLT_TEST_CTL (R350). -/
abbrev R.PLT_TEST_CTL (p : Nat) : Reg := ⟨0xF010010 + p * 0x1000, 0x0⟩
/-- PLT_CNT_FEC_CORR (R351). -/
abbrev R.PLT_CNT_FEC_CORR (p : Nat) : Reg := ⟨0xF010100 + p * 0x1000, 0x0⟩
/-- PLT_CNT_FEC_UNCORR (R351). -/
abbrev R.PLT_CNT_FEC_UNCORR (p : Nat) : Reg := ⟨0xF010108 + p * 0x1000, 0x0⟩
/-- PLT_CNT_CRC (R351). -/
abbrev R.PLT_CNT_CRC (p : Nat) : Reg := ⟨0xF010110 + p * 0x1000, 0x0⟩
/-- PLT_CNT_REPLAY (R351). -/
abbrev R.PLT_CNT_REPLAY (p : Nat) : Reg := ⟨0xF010118 + p * 0x1000, 0x0⟩
/-- PLT_CNT_RETRAIN (R351). -/
abbrev R.PLT_CNT_RETRAIN (p : Nat) : Reg := ⟨0xF010120 + p * 0x1000, 0x0⟩
/-- PLT_CNT_FLITS_TX (R351). -/
abbrev R.PLT_CNT_FLITS_TX (p : Nat) : Reg := ⟨0xF010128 + p * 0x1000, 0x0⟩
/-- PLT_CNT_FLITS_RX (R351). -/
abbrev R.PLT_CNT_FLITS_RX (p : Nat) : Reg := ⟨0xF010130 + p * 0x1000, 0x0⟩
/-- PLT_CNT_INJECT (R351). -/
abbrev R.PLT_CNT_INJECT (p : Nat) : Reg := ⟨0xF010138 + p * 0x1000, 0x0⟩
/-- PLT_COLL_CTL (R351). -/
abbrev R.PLT_COLL_CTL (c : Nat) : Reg := ⟨0xF020000 + c * 0x40, 0x0⟩
/-- PLT_COLL_BOX (R351). -/
abbrev R.PLT_COLL_BOX (c : Nat) : Reg := ⟨0xF020008 + c * 0x40, 0x0⟩
/-- PLT_COLL_SRC (R351). -/
abbrev R.PLT_COLL_SRC (c : Nat) : Reg := ⟨0xF020010 + c * 0x40, 0x0⟩
/-- PLT_COLL_DST (R351). -/
abbrev R.PLT_COLL_DST (c : Nat) : Reg := ⟨0xF020018 + c * 0x40, 0x0⟩
/-- PLT_COLL_STAT (R351). -/
abbrev R.PLT_COLL_STAT (c : Nat) : Reg := ⟨0xF020020 + c * 0x40, 0x0⟩
/-- PLT_COLL_NOTIFY (R351). -/
abbrev R.PLT_COLL_NOTIFY (c : Nat) : Reg := ⟨0xF020028 + c * 0x40, 0x0⟩
/-- QOS_CAP (R369). -/
abbrev R.QOS_CAP : Reg := ⟨0x18000000, 0x1150103045000⟩
/-- QOS_ADMIT_STAT (R369). -/
abbrev R.QOS_ADMIT_STAT : Reg := ⟨0x18000008, 0x0⟩
/-- QOS_CNT_CLEAR (R369). -/
abbrev R.QOS_CNT_CLEAR : Reg := ⟨0x18000010, 0x0⟩
/-- QOS_CNT_REFUSED (R369). -/
abbrev R.QOS_CNT_REFUSED : Reg := ⟨0x18000100, 0x0⟩
/-- QOS_CNT_SCALED (R369). -/
abbrev R.QOS_CNT_SCALED : Reg := ⟨0x18000108, 0x0⟩
/-- QOS_RES_STAT (R369). -/
abbrev R.QOS_RES_STAT (r : Nat) : Reg := ⟨0x18001000 + r * 0x20, 0x0⟩
/-- QOS_RES_CFG (R369). -/
abbrev R.QOS_RES_CFG (r : Nat) : Reg := ⟨0x18001008 + r * 0x20, 0x642⟩
/-- QOS_RES_CNT_HIGH (R369). -/
abbrev R.QOS_RES_CNT_HIGH (r : Nat) : Reg := ⟨0x18001010 + r * 0x20, 0x0⟩
/-- QOS_RES_CNT_CRIT (R369). -/
abbrev R.QOS_RES_CNT_CRIT (r : Nat) : Reg := ⟨0x18001018 + r * 0x20, 0x0⟩
/-- QOS_BW (R369). -/
abbrev R.QOS_BW (s : Nat) (r : Nat) : Reg := ⟨0x18010000 + s * 0x100 + r * 0x8, 0x0⟩
/-- QOS_TEN_CTL (R369). -/
abbrev R.QOS_TEN_CTL (t : Nat) : Reg := ⟨0x18030000 + t * 0x20, 0x1000⟩
/-- QOS_TEN_STAT (R369). -/
abbrev R.QOS_TEN_STAT (t : Nat) : Reg := ⟨0x18030008 + t * 0x20, 0x0⟩
/-- QOS_CNT_IRQ_DELAY (R369). -/
abbrev R.QOS_CNT_IRQ_DELAY (t : Nat) : Reg := ⟨0x18030010 + t * 0x20, 0x0⟩
/-- QOS_CNT_INFLIGHT_HOLD (R369). -/
abbrev R.QOS_CNT_INFLIGHT_HOLD (t : Nat) : Reg := ⟨0x18030018 + t * 0x20, 0x0⟩
/-- QOS_LAT_MAX (R369). -/
abbrev R.QOS_LAT_MAX (t : Nat) (c : Nat) : Reg := ⟨0x18040000 + t * 0x80 + c * 0x20, 0x0⟩
/-- QOS_LAT_CNT (R369). -/
abbrev R.QOS_LAT_CNT (t : Nat) (c : Nat) : Reg := ⟨0x18040008 + t * 0x80 + c * 0x20, 0x0⟩
/-- QOS_LAT_MISS (R369). -/
abbrev R.QOS_LAT_MISS (t : Nat) (c : Nat) : Reg := ⟨0x18040010 + t * 0x80 + c * 0x20, 0x0⟩
/-- QOS_LAT_CFG (R369). -/
abbrev R.QOS_LAT_CFG (t : Nat) (c : Nat) : Reg := ⟨0x18040018 + t * 0x80 + c * 0x20, 0x0⟩
/-- EVR_CAP (R387). -/
abbrev R.EVR_CAP : Reg := ⟨0x19000000, 0x10108150F0000⟩
/-- EVR_MAIN_BASE (R387). -/
abbrev R.EVR_MAIN_BASE : Reg := ⟨0x19000008, 0x0⟩
/-- EVR_MAIN_WR (R387). -/
abbrev R.EVR_MAIN_WR : Reg := ⟨0x19000010, 0x0⟩
/-- EVR_MAIN_RD (R387). -/
abbrev R.EVR_MAIN_RD : Reg := ⟨0x19000018, 0x0⟩
/-- EVR_CTL (R387). -/
abbrev R.EVR_CTL : Reg := ⟨0x19000020, 0x0⟩
/-- EVR_CNT_CLEAR (R387). -/
abbrev R.EVR_CNT_CLEAR : Reg := ⟨0x19000024, 0x0⟩
/-- EVR_CNT_OVERRUN (R387). -/
abbrev R.EVR_CNT_OVERRUN : Reg := ⟨0x19000100, 0x0⟩
/-- EVR_CNT_LOST (R387). -/
abbrev R.EVR_CNT_LOST : Reg := ⟨0x19000108, 0x0⟩
/-- EVR_CNT_SRC_DROP (R387). -/
abbrev R.EVR_CNT_SRC_DROP : Reg := ⟨0x19000110, 0x0⟩
/-- EVR_CODE_CFG (R387). -/
abbrev R.EVR_CODE_CFG (k : Nat) : Reg := ⟨0x19010000 + k * 0x8, 0x100801⟩
/-- EVR_CODE_CNT (R387). -/
abbrev R.EVR_CODE_CNT (k : Nat) : Reg := ⟨0x19020000 + k * 0x8, 0x0⟩
/-- EVR_T0_CNT_CORR (R387). -/
abbrev R.EVR_T0_CNT_CORR (n : Nat) : Reg := ⟨0x19030000 + n * 0x10, 0x0⟩
/-- EVR_T0_CNT_UNCORR (R387). -/
abbrev R.EVR_T0_CNT_UNCORR (n : Nat) : Reg := ⟨0x19030008 + n * 0x10, 0x0⟩
/-- EVR_TR_BASE (R387). -/
abbrev R.EVR_TR_BASE (t : Nat) : Reg := ⟨0x19040000 + t * 0x10, 0x0⟩
/-- EVR_TR_CTL (R387). -/
abbrev R.EVR_TR_CTL (t : Nat) : Reg := ⟨0x19040008 + t * 0x10, 0x202000000000⟩
/-- FMN_CAP (R416). -/
abbrev R.FMN_CAP : Reg := ⟨0x0, 0x102404000000F⟩
/-- FMN_LEAD_STAT (R416). -/
abbrev R.FMN_LEAD_STAT : Reg := ⟨0x8, 0x2⟩
/-- FMN_CLAIM (R416). -/
abbrev R.FMN_CLAIM (f : Nat) : Reg := ⟨0x10 + f * 0x8, 0x0⟩
/-- FMN_BOOT_STAT (R416). -/
abbrev R.FMN_BOOT_STAT (f : Nat) : Reg := ⟨0x20 + f * 0x8, 0x3⟩
/-- FMN_FUSE_STAT (R416). -/
abbrev R.FMN_FUSE_STAT : Reg := ⟨0x30, 0x0⟩
/-- FMN_FUSE_PROG (R416). -/
abbrev R.FMN_FUSE_PROG : Reg := ⟨0x38, 0x0⟩
/-- FMN_ID_PUB (R416). -/
abbrev R.FMN_ID_PUB (i : Nat) : Reg := ⟨0x40 + i * 0x8, 0x0⟩
/-- FMN_TEST_NONCE (R416). -/
abbrev R.FMN_TEST_NONCE : Reg := ⟨0x80, 0x0⟩
/-- FMN_SMB_CFG (R416). -/
abbrev R.FMN_SMB_CFG : Reg := ⟨0x88, 0x60⟩
/-- FMN_CNT_SPLIT (R416). -/
abbrev R.FMN_CNT_SPLIT : Reg := ⟨0x100, 0x0⟩
/-- FMN_CNT_GATED (R416). -/
abbrev R.FMN_CNT_GATED : Reg := ⟨0x108, 0x0⟩
/-- FMN_CNT_MGMT_DROP (R416). -/
abbrev R.FMN_CNT_MGMT_DROP : Reg := ⟨0x110, 0x0⟩
/-- FMN_CNT_TOKEN_REJECT (R416). -/
abbrev R.FMN_CNT_TOKEN_REJECT : Reg := ⟨0x118, 0x0⟩
/-- PWR_CAP_CFG (R417). -/
abbrev R.PWR_CAP_CFG : Reg := ⟨0x1A000000, 0x898⟩
/-- PWR_THERM_CFG (R417). -/
abbrev R.PWR_THERM_CFG : Reg := ⟨0x1A000004, 0x64⟩
/-- PWR_STAT (R417). -/
abbrev R.PWR_STAT : Reg := ⟨0x1A000008, 0x400040⟩
/-- PWR_TEMP (R417). -/
abbrev R.PWR_TEMP : Reg := ⟨0x1A000010, 0x0⟩
/-- PWR_HALF_CTL (R417). -/
abbrev R.PWR_HALF_CTL (h : Nat) : Reg := ⟨0x1A000018 + h * 0x4, 0x40⟩
/-- PWR_CNT_POWER_MS (R417). -/
abbrev R.PWR_CNT_POWER_MS : Reg := ⟨0x1A000100, 0x0⟩
/-- PWR_CNT_THERMAL_MS (R417). -/
abbrev R.PWR_CNT_THERMAL_MS : Reg := ⟨0x1A000108, 0x0⟩
/-- CLK_CAP (R432). -/
abbrev R.CLK_CAP : Reg := ⟨0x1B000000, 0x12A3064100604⟩
/-- CLK_STAT (R432). -/
abbrev R.CLK_STAT : Reg := ⟨0x1B000008, 0x0⟩
/-- CLK_RESET_CAUSE (R432). -/
abbrev R.CLK_RESET_CAUSE : Reg := ⟨0x1B00000C, 0x0⟩
/-- CLK_START_STAT (R432). -/
abbrev R.CLK_START_STAT : Reg := ⟨0x1B000010, 0x0⟩
/-- CLK_RAIL_STAT (R432). -/
abbrev R.CLK_RAIL_STAT : Reg := ⟨0x1B000018, 0x3FF⟩
/-- CLK_CNT_EARLY (R432). -/
abbrev R.CLK_CNT_EARLY : Reg := ⟨0x1B000100, 0x0⟩

/-! Fields: `F.<register>_<field>`. -/

abbrev F.FMN_TOPO_CAP_TOPO_VERSION : Fld := ⟨39, 32⟩
abbrev F.FMN_TOPO_CAP_DIE_PRESENT : Fld := ⟨29, 24⟩
abbrev F.FMN_TOPO_CAP_STACK_PRESENT_LO : Fld := ⟨23, 16⟩
abbrev F.FMN_TOPO_CAP_STACK_PRESENT_HI : Fld := ⟨15, 8⟩
abbrev F.FMN_TOPO_CAP_CREWS_PER_CDIE : Fld := ⟨7, 0⟩
abbrev F.FMN_CREW_PRESENT_CREW : Fld := ⟨63, 0⟩
abbrev F.FMN_SEAM_STATE_LINK : Fld := ⟨15, 0⟩
abbrev F.FMN_SEAM_CHANGED_LINK : Fld := ⟨7, 0⟩
abbrev F.FMN_SEAM_RETRY_CNT_COUNT : Fld := ⟨31, 0⟩
abbrev F.MXE_CAP_CAP_VERSION : Fld := ⟨55, 48⟩
abbrev F.MXE_CAP_DECODER_LANES : Fld := ⟨47, 40⟩
abbrev F.MXE_CAP_STARTER_KIB : Fld := ⟨39, 32⟩
abbrev F.MXE_CAP_QUEUE_DEPTH : Fld := ⟨31, 24⟩
abbrev F.MXE_CAP_QUEUES : Fld := ⟨23, 20⟩
abbrev F.MXE_CAP_BANKS : Fld := ⟨19, 16⟩
abbrev F.MXE_CAP_STREAM_BUF_KIB : Fld := ⟨15, 8⟩
abbrev F.MXE_CAP_FORMATS : Fld := ⟨3, 0⟩
abbrev F.MXE_CTL_QUANTUM : Fld := ⟨15, 8⟩
abbrev F.MXE_BANK_STAT_BANKS : Fld := ⟨31, 0⟩
abbrev F.MXE_CNT_CLEAR_EVENT_CNTS : Fld := ⟨1, 1⟩
abbrev F.MXE_CNT_CLEAR_CYCLE_CNTS : Fld := ⟨0, 0⟩
abbrev F.MXE_QCTL_SLOT_MASK : Fld := ⟨63, 32⟩
abbrev F.MXE_QCTL_BANK_MASK : Fld := ⟨31, 28⟩
abbrev F.MXE_QCTL_ARB_WEIGHT : Fld := ⟨27, 24⟩
abbrev F.MXE_QCTL_TENANT : Fld := ⟨23, 16⟩
abbrev F.MXE_QCTL_OWNER_CTX : Fld := ⟨15, 6⟩
abbrev F.MXE_QCTL_VALID : Fld := ⟨0, 0⟩
abbrev F.MXE_QSTAT_DEPTH : Fld := ⟨15, 8⟩
abbrev F.MXE_QSTAT_STATE : Fld := ⟨7, 4⟩
abbrev F.MXE_CNT_CYCLES_COUNT : Fld := ⟨63, 0⟩
abbrev F.MXE_CNT_BUSY_COUNT : Fld := ⟨63, 0⟩
abbrev F.MXE_CNT_IDLE_COUNT : Fld := ⟨63, 0⟩
abbrev F.MXE_CNT_WAIT_COUNT : Fld := ⟨63, 0⟩
abbrev F.MXE_CNT_THROTTLE_COUNT : Fld := ⟨63, 0⟩
abbrev F.MXE_CNT_RESTORE_COUNT : Fld := ⟨63, 0⟩
abbrev F.MXE_CNT_BANK_COUNT : Fld := ⟨63, 0⟩
abbrev F.MXE_CNT_OUTPUT_COUNT : Fld := ⟨63, 0⟩
abbrev F.MXE_CNT_STARTER_COUNT : Fld := ⟨63, 0⟩
abbrev F.MXE_CNT_T0_COUNT : Fld := ⟨63, 0⟩
abbrev F.MXE_CNT_CREDIT_COUNT : Fld := ⟨63, 0⟩
abbrev F.MXE_CNT_WEIGHT_COUNT : Fld := ⟨63, 0⟩
abbrev F.MXE_CNT_ACC_SAT_COUNT : Fld := ⟨63, 0⟩
abbrev F.MXE_CNT_RQ_SAT_COUNT : Fld := ⟨63, 0⟩
abbrev F.MXE_CNT_ECC_CORR_COUNT : Fld := ⟨63, 0⟩
abbrev F.MXE_CNT_ECC_UNCORR_COUNT : Fld := ⟨63, 0⟩
abbrev F.MXE_CNT_SWITCH_COUNT : Fld := ⟨63, 0⟩
abbrev F.MXE_CNT_ORDER_COUNT : Fld := ⟨63, 0⟩
abbrev F.MXE_CREW_CAP_CAP_VERSION : Fld := ⟨47, 40⟩
abbrev F.MXE_CREW_CAP_SEMAPHORES : Fld := ⟨39, 32⟩
abbrev F.MXE_CREW_CAP_HOIST_SLOTS : Fld := ⟨31, 24⟩
abbrev F.MXE_CREW_CAP_PENDING_SIGNALS : Fld := ⟨23, 16⟩
abbrev F.MXE_CREW_CAP_TCMD_VERSIONS : Fld := ⟨15, 0⟩
abbrev F.MXE_SEM_TENANT : Fld := ⟨63, 56⟩
abbrev F.MXE_SEM_OVF : Fld := ⟨32, 32⟩
abbrev F.MXE_SEM_COUNT : Fld := ⟨31, 0⟩
abbrev F.MXE_SEM_ADD_VALUE : Fld := ⟨15, 0⟩
abbrev F.KNC_CAP_CAP_VERSION : Fld := ⟨55, 48⟩
abbrev F.KNC_CAP_ISA_LEVEL : Fld := ⟨47, 40⟩
abbrev F.KNC_CAP_CONTEXTS : Fld := ⟨39, 36⟩
abbrev F.KNC_CAP_LUT_TABLES : Fld := ⟨35, 32⟩
abbrev F.KNC_CAP_SCRATCH_KIB : Fld := ⟨31, 16⟩
abbrev F.KNC_CAP_OUTSTANDING : Fld := ⟨15, 8⟩
abbrev F.KNC_CAP_FEATURES : Fld := ⟨7, 0⟩
abbrev F.KNC_CNT_CLEAR_ALL : Fld := ⟨0, 0⟩
abbrev F.KNC_CNT_ISSUE_COUNT : Fld := ⟨63, 0⟩
abbrev F.KNC_CNT_RQ_SAT_COUNT : Fld := ⟨63, 0⟩
abbrev F.KNC_CNT_ACC_SAT_COUNT : Fld := ⟨63, 0⟩
abbrev F.KNC_CNT_LUT_CLAMP_COUNT : Fld := ⟨63, 0⟩
abbrev F.KNC_CNT_ECC_CORR_COUNT : Fld := ⟨63, 0⟩
abbrev F.KNC_CNT_ECC_UNCORR_COUNT : Fld := ⟨63, 0⟩
abbrev F.KNC_LUTCFG_OUTSH : Fld := ⟨43, 40⟩
abbrev F.KNC_LUTCFG_RND : Fld := ⟨38, 37⟩
abbrev F.KNC_LUTCFG_FRAC : Fld := ⟨36, 32⟩
abbrev F.KNC_LUTCFG_BASE : Fld := ⟨31, 0⟩
abbrev F.KNC_CTX_CTL_TENANT : Fld := ⟨63, 56⟩
abbrev F.KNC_CTX_CTL_SUPV : Fld := ⟨55, 46⟩
abbrev F.KNC_CTX_CTL_LUT_MASK : Fld := ⟨43, 40⟩
abbrev F.KNC_CTX_CTL_PRIV : Fld := ⟨32, 32⟩
abbrev F.KNC_CTX_CTL_SCR_BASE : Fld := ⟨31, 24⟩
abbrev F.KNC_CTX_CTL_SCR_SIZE : Fld := ⟨23, 15⟩
abbrev F.KNC_CTX_CTL_VALID : Fld := ⟨0, 0⟩
abbrev F.KNC_CTX_STAT_CAUSE : Fld := ⟨47, 40⟩
abbrev F.KNC_CTX_STAT_INTK_DEPTH : Fld := ⟨39, 32⟩
abbrev F.KNC_CTX_STAT_STATE : Fld := ⟨3, 0⟩
abbrev F.KNC_CTX_CMD_CLEAR : Fld := ⟨2, 2⟩
abbrev F.KNC_CTX_CMD_STOP : Fld := ⟨1, 1⟩
abbrev F.KNC_CTX_CMD_START : Fld := ⟨0, 0⟩
abbrev F.KNC_CTX_PC_ADDR : Fld := ⟨63, 0⟩
abbrev F.KNC_CTX_EPC_ADDR : Fld := ⟨63, 0⟩
abbrev F.KNC_CTX_EXCADDR_ADDR : Fld := ⟨63, 0⟩
abbrev F.KNC_CTX_RGN_BASE : Fld := ⟨63, 16⟩
abbrev F.KNC_CTX_RGN_LOG2SIZE : Fld := ⟨15, 10⟩
abbrev F.KNC_CTX_RGN_EX : Fld := ⟨3, 3⟩
abbrev F.KNC_CTX_RGN_WR : Fld := ⟨2, 2⟩
abbrev F.KNC_CTX_RGN_RD : Fld := ⟨1, 1⟩
abbrev F.KNC_CTX_RGN_VALID : Fld := ⟨0, 0⟩
abbrev F.KNC_CTX_GREG_VALUE : Fld := ⟨63, 0⟩
abbrev F.KNC_CTX_PREG_VALUE : Fld := ⟨63, 0⟩
abbrev F.KNC_CTX_VREG_VALUE : Fld := ⟨63, 0⟩
abbrev F.MXE_XP_CAP_CAP_VERSION : Fld := ⟨55, 48⟩
abbrev F.MXE_XP_CAP_LR_MAX_RANK : Fld := ⟨47, 40⟩
abbrev F.MXE_XP_CAP_LANES : Fld := ⟨39, 32⟩
abbrev F.MXE_XP_CAP_HDR_VERSIONS : Fld := ⟨31, 16⟩
abbrev F.MXE_XP_CAP_FORMS : Fld := ⟨7, 0⟩
abbrev F.MXE_XP_CNT_CLEAR_ALL : Fld := ⟨0, 0⟩
abbrev F.MXE_XP_LAST_DAMAGE_REASON : Fld := ⟨63, 56⟩
abbrev F.MXE_XP_LAST_DAMAGE_OPCODE : Fld := ⟨55, 48⟩
abbrev F.MXE_XP_LAST_DAMAGE_TILE_INDEX : Fld := ⟨47, 32⟩
abbrev F.MXE_XP_LAST_DAMAGE_VALID : Fld := ⟨31, 31⟩
abbrev F.MXE_XP_LAST_DAMAGE_FRAME_OFF : Fld := ⟨23, 0⟩
abbrev F.MXE_XP_CNT_RAW_COUNT : Fld := ⟨63, 0⟩
abbrev F.MXE_XP_CNT_VQ_COUNT : Fld := ⟨63, 0⟩
abbrev F.MXE_XP_CNT_LR_COUNT : Fld := ⟨63, 0⟩
abbrev F.MXE_XP_CNT_ZERO_COUNT : Fld := ⟨63, 0⟩
abbrev F.MXE_XP_CNT_ESCAPES_COUNT : Fld := ⟨63, 0⟩
abbrev F.MXE_XP_CNT_LR_SAT_COUNT : Fld := ⟨63, 0⟩
abbrev F.MXE_XP_CNT_DAMAGED_COUNT : Fld := ⟨63, 0⟩
abbrev F.MXE_XP_CNT_REFETCH_COUNT : Fld := ⟨63, 0⟩
abbrev F.MXE_XP_CNT_STARTER_MISMATCH_COUNT : Fld := ⟨63, 0⟩
abbrev F.TRM_CAP_CAP_VERSION : Fld := ⟨55, 48⟩
abbrev F.TRM_CAP_KIND : Fld := ⟨47, 40⟩
abbrev F.TRM_CAP_LOOP_LEVELS : Fld := ⟨39, 32⟩
abbrev F.TRM_CAP_DESC_VERSIONS : Fld := ⟨31, 16⟩
abbrev F.TRM_CAP_OPS : Fld := ⟨15, 0⟩
abbrev F.TRM_CTL_TENANT : Fld := ⟨63, 56⟩
abbrev F.TRM_CTL_OWNER_CTX : Fld := ⟨55, 46⟩
abbrev F.TRM_CTL_OWNER_KIND : Fld := ⟨41, 40⟩
abbrev F.TRM_CTL_VALID : Fld := ⟨0, 0⟩
abbrev F.TRM_HEAD_ADDR : Fld := ⟨63, 6⟩
abbrev F.TRM_CMD_SKIP : Fld := ⟨3, 3⟩
abbrev F.TRM_CMD_RESUME : Fld := ⟨2, 2⟩
abbrev F.TRM_CMD_ABORT : Fld := ⟨1, 1⟩
abbrev F.TRM_CMD_GO : Fld := ⟨0, 0⟩
abbrev F.TRM_STAT_ABORT_RESULT : Fld := ⟨23, 16⟩
abbrev F.TRM_STAT_HALT_STATUS : Fld := ⟨15, 8⟩
abbrev F.TRM_STAT_ERR_DIR : Fld := ⟨7, 6⟩
abbrev F.TRM_STAT_LOOPS : Fld := ⟨5, 4⟩
abbrev F.TRM_STAT_STATE : Fld := ⟨3, 0⟩
abbrev F.TRM_CUR_VALUE : Fld := ⟨63, 0⟩
abbrev F.TRM_ERR_ADDR_VALUE : Fld := ⟨63, 0⟩
abbrev F.TRM_SOFF_VALUE : Fld := ⟨63, 0⟩
abbrev F.TRM_DOFF_VALUE : Fld := ⟨63, 0⟩
abbrev F.TRM_CNT_BYTES_COUNT : Fld := ⟨63, 0⟩
abbrev F.TRM_CNT_DESC_COUNT : Fld := ⟨63, 0⟩
abbrev F.TRM_CNT_HALT_COUNT : Fld := ⟨63, 0⟩
abbrev F.TRM_CNT_TOO_LATE_COUNT : Fld := ⟨63, 0⟩
abbrev F.TRM_CNT_ABORT_COUNT : Fld := ⟨63, 0⟩
abbrev F.HST_CAP_CAP_VERSION : Fld := ⟨55, 48⟩
abbrev F.HST_CAP_KIND : Fld := ⟨47, 40⟩
abbrev F.HST_CAP_LOOP_LEVELS : Fld := ⟨39, 32⟩
abbrev F.HST_CAP_DESC_VERSIONS : Fld := ⟨31, 16⟩
abbrev F.HST_CAP_OPS : Fld := ⟨15, 0⟩
abbrev F.HST_CTL_TENANT : Fld := ⟨63, 56⟩
abbrev F.HST_CTL_OWNER_CTX : Fld := ⟨55, 46⟩
abbrev F.HST_CTL_OWNER_KIND : Fld := ⟨41, 40⟩
abbrev F.HST_CTL_VALID : Fld := ⟨0, 0⟩
abbrev F.HST_HEAD_ADDR : Fld := ⟨63, 6⟩
abbrev F.HST_CMD_SKIP : Fld := ⟨3, 3⟩
abbrev F.HST_CMD_RESUME : Fld := ⟨2, 2⟩
abbrev F.HST_CMD_ABORT : Fld := ⟨1, 1⟩
abbrev F.HST_CMD_GO : Fld := ⟨0, 0⟩
abbrev F.HST_STAT_ABORT_RESULT : Fld := ⟨23, 16⟩
abbrev F.HST_STAT_HALT_STATUS : Fld := ⟨15, 8⟩
abbrev F.HST_STAT_ERR_DIR : Fld := ⟨7, 6⟩
abbrev F.HST_STAT_LOOPS : Fld := ⟨5, 4⟩
abbrev F.HST_STAT_STATE : Fld := ⟨3, 0⟩
abbrev F.HST_CUR_VALUE : Fld := ⟨63, 0⟩
abbrev F.HST_ERR_ADDR_VALUE : Fld := ⟨63, 0⟩
abbrev F.HST_SOFF_VALUE : Fld := ⟨63, 0⟩
abbrev F.HST_DOFF_VALUE : Fld := ⟨63, 0⟩
abbrev F.HST_CNT_BYTES_COUNT : Fld := ⟨63, 0⟩
abbrev F.HST_CNT_DESC_COUNT : Fld := ⟨63, 0⟩
abbrev F.HST_CNT_HALT_COUNT : Fld := ⟨63, 0⟩
abbrev F.HST_CNT_TOO_LATE_COUNT : Fld := ⟨63, 0⟩
abbrev F.HST_CNT_ABORT_COUNT : Fld := ⟨63, 0⟩
abbrev F.HST_STEP_MARK_CYCLE : Fld := ⟨63, 0⟩
abbrev F.HST_LAYER_NEXT_NEXT : Fld := ⟨15, 0⟩
abbrev F.HST_SLOT_CFG_SIZE : Fld := ⟨47, 24⟩
abbrev F.HST_SLOT_CFG_BASE : Fld := ⟨23, 0⟩
abbrev F.HST_SLOT_STAT_LAYER : Fld := ⟨63, 48⟩
abbrev F.HST_SLOT_STAT_RELEASED : Fld := ⟨47, 32⟩
abbrev F.HST_SLOT_STAT_DISCARD : Fld := ⟨8, 8⟩
abbrev F.HST_SLOT_STAT_FILL_DONE : Fld := ⟨4, 4⟩
abbrev F.HST_SLOT_STAT_STATE : Fld := ⟨3, 0⟩
abbrev F.HST_CNT_MISS_COUNT : Fld := ⟨63, 0⟩
abbrev F.HST_CNT_STANDBY_COUNT : Fld := ⟨63, 0⟩
abbrev F.HST_CNT_LOST_COUNT : Fld := ⟨63, 0⟩
abbrev F.HST_CNT_ABSENT_COUNT : Fld := ⟨63, 0⟩
abbrev F.HST_CNT_WAIT_CYC_COUNT : Fld := ⟨63, 0⟩
abbrev F.QOS_QUOTA_LIMIT : Fld := ⟨35, 0⟩
abbrev F.QOS_CHARGE_CHARGE : Fld := ⟨35, 0⟩
abbrev F.QOS_PHYS_BYTES : Fld := ⟨47, 0⟩
abbrev F.T1C_OBJ_CAP_CAP_VERSION : Fld := ⟨55, 48⟩
abbrev F.T1C_OBJ_CAP_ENTRY_VERSIONS : Fld := ⟨47, 40⟩
abbrev F.T1C_OBJ_CAP_TIERS : Fld := ⟨39, 32⟩
abbrev F.T1C_OBJ_CAP_MAX_ENTRIES : Fld := ⟨24, 0⟩
abbrev F.T1C_OBJ_BASE_ADDR : Fld := ⟨63, 12⟩
abbrev F.T1C_OBJ_MIRROR_ADDR : Fld := ⟨63, 12⟩
abbrev F.T1C_OBJ_ENTRIES_ENTRIES : Fld := ⟨24, 0⟩
abbrev F.T1C_CAPACITY_UNITS : Fld := ⟨35, 0⟩
abbrev F.T1C_CHARGED_UNITS : Fld := ⟨35, 0⟩
abbrev F.T1C_OBJ_CNT_STALE_COUNT : Fld := ⟨63, 0⟩
abbrev F.T1C_OBJ_CNT_LOST_COUNT : Fld := ⟨63, 0⟩
abbrev F.PLT_LIN_CTL_EPOCH : Fld := ⟨39, 32⟩
abbrev F.PLT_LIN_CTL_PEER : Fld := ⟨26, 12⟩
abbrev F.PLT_LIN_CTL_ACCEPT : Fld := ⟨7, 7⟩
abbrev F.PLT_LIN_CTL_RETURN : Fld := ⟨6, 6⟩
abbrev F.PLT_LIN_CTL_REVOKE : Fld := ⟨5, 5⟩
abbrev F.PLT_LIN_CTL_OFFER : Fld := ⟨4, 4⟩
abbrev F.PLT_LIN_CTL_STATE : Fld := ⟨3, 0⟩
abbrev F.PLT_LIN_SIZE_UNITS : Fld := ⟨28, 0⟩
abbrev F.PLT_LIN_DIRTY_LIMIT : Fld := ⟨63, 32⟩
abbrev F.PLT_LIN_DIRTY_NOW : Fld := ⟨31, 0⟩
abbrev F.PLT_LOUT_CTL_EPOCH : Fld := ⟨39, 32⟩
abbrev F.PLT_LOUT_CTL_PEER : Fld := ⟨26, 12⟩
abbrev F.PLT_LOUT_CTL_ACCEPT : Fld := ⟨7, 7⟩
abbrev F.PLT_LOUT_CTL_RETURN : Fld := ⟨6, 6⟩
abbrev F.PLT_LOUT_CTL_REVOKE : Fld := ⟨5, 5⟩
abbrev F.PLT_LOUT_CTL_OFFER : Fld := ⟨4, 4⟩
abbrev F.PLT_LOUT_CTL_STATE : Fld := ⟨3, 0⟩
abbrev F.PLT_LOUT_SIZE_UNITS : Fld := ⟨28, 0⟩
abbrev F.PLT_LOUT_BASE_ADDR : Fld := ⟨63, 16⟩
abbrev F.PLT_LEASE_CNT_STALE_COUNT : Fld := ⟨63, 0⟩
abbrev F.T2C_RCV_STAT_PEAK : Fld := ⟨15, 8⟩
abbrev F.T2C_RCV_STAT_ACTIVE : Fld := ⟨7, 0⟩
abbrev F.T2C_RCV_CNT_REPAIR_COUNT : Fld := ⟨63, 0⟩
abbrev F.T2C_RCV_CNT_REFETCH_COUNT : Fld := ⟨63, 0⟩
abbrev F.T2C_RCV_CNT_WAITERS_COUNT : Fld := ⟨63, 0⟩
abbrev F.T2C_RCV_CNT_LOST_COUNT : Fld := ⟨63, 0⟩
abbrev F.T2C_RCV_CNT_DEGRADED_READ_COUNT : Fld := ⟨63, 0⟩
abbrev F.T1C_CAP_CAP_VERSION : Fld := ⟨55, 48⟩
abbrev F.T1C_CAP_KIND : Fld := ⟨47, 40⟩
abbrev F.T1C_CAP_REMAP_ENTRIES : Fld := ⟨39, 32⟩
abbrev F.T1C_CAP_RD_MIN : Fld := ⟨31, 16⟩
abbrev F.T1C_CAP_MAX_RATE : Fld := ⟨15, 0⟩
abbrev F.T1C_CTL_SCRUB_HOURS : Fld := ⟨31, 24⟩
abbrev F.T1C_CTL_RD_THRESH : Fld := ⟨15, 0⟩
abbrev F.T1C_STAT_STATE : Fld := ⟨31, 28⟩
abbrev F.T1C_STAT_PRIV : Fld := ⟨27, 27⟩
abbrev F.T1C_STAT_MRDIMM : Fld := ⟨26, 26⟩
abbrev F.T1C_STAT_SIZE_GIB : Fld := ⟨25, 16⟩
abbrev F.T1C_STAT_RATE : Fld := ⟨15, 0⟩
abbrev F.T1C_TRAIN_MIN_EYE : Fld := ⟨63, 56⟩
abbrev F.T1C_TRAIN_WORST_LANE : Fld := ⟨55, 40⟩
abbrev F.T1C_TRAIN_REPAIRED : Fld := ⟨39, 32⟩
abbrev F.T1C_SCRUB_POS_LINE : Fld := ⟨47, 6⟩
abbrev F.T1C_INJ_ADDR_LINE : Fld := ⟨47, 6⟩
abbrev F.T1C_INJ_CTL_ARM : Fld := ⟨31, 31⟩
abbrev F.T1C_INJ_CTL_WORD : Fld := ⟨26, 24⟩
abbrev F.T1C_INJ_CTL_COUNT : Fld := ⟨23, 22⟩
abbrev F.T1C_INJ_CTL_POS2 : Fld := ⟨20, 14⟩
abbrev F.T1C_INJ_CTL_POS1 : Fld := ⟨13, 7⟩
abbrev F.T1C_INJ_CTL_POS0 : Fld := ⟨6, 0⟩
abbrev F.T1C_CNT_CLEAR_ALL : Fld := ⟨0, 0⟩
abbrev F.T1C_REMAP_VALID : Fld := ⟨63, 63⟩
abbrev F.T1C_REMAP_LINE : Fld := ⟨47, 6⟩
abbrev F.T1C_CNT_CORR_COUNT : Fld := ⟨63, 0⟩
abbrev F.T1C_CNT_UNCORR_COUNT : Fld := ⟨63, 0⟩
abbrev F.T1C_CNT_INLINE_COUNT : Fld := ⟨63, 0⟩
abbrev F.T1C_CNT_REMAP_COUNT : Fld := ⟨63, 0⟩
abbrev F.T1C_CNT_REMAP_FULL_COUNT : Fld := ⟨63, 0⟩
abbrev F.T1C_CNT_RD_REFRESH_COUNT : Fld := ⟨63, 0⟩
abbrev F.T1C_CNT_SCRUB_PASS_COUNT : Fld := ⟨63, 0⟩
abbrev F.T1C_CNT_TRACK_COUNT : Fld := ⟨63, 0⟩
abbrev F.T1C_CNT_SEV_COUNT : Fld := ⟨63, 0⟩
abbrev F.T1C_CNT_PD_ENTRY_COUNT : Fld := ⟨63, 0⟩
abbrev F.T2C_CAP_CAP_VERSION : Fld := ⟨55, 48⟩
abbrev F.T2C_CAP_KIND : Fld := ⟨47, 40⟩
abbrev F.T2C_CAP_REMAP_ENTRIES : Fld := ⟨39, 32⟩
abbrev F.T2C_CAP_RD_MIN : Fld := ⟨31, 16⟩
abbrev F.T2C_CAP_MAX_RATE : Fld := ⟨15, 0⟩
abbrev F.T2C_CTL_SCRUB_HOURS : Fld := ⟨31, 24⟩
abbrev F.T2C_CTL_RD_THRESH : Fld := ⟨15, 0⟩
abbrev F.T2C_STAT_STATE : Fld := ⟨31, 28⟩
abbrev F.T2C_STAT_PRIV : Fld := ⟨27, 27⟩
abbrev F.T2C_STAT_MRDIMM : Fld := ⟨26, 26⟩
abbrev F.T2C_STAT_SIZE_GIB : Fld := ⟨25, 16⟩
abbrev F.T2C_STAT_RATE : Fld := ⟨15, 0⟩
abbrev F.T2C_TRAIN_MIN_EYE : Fld := ⟨63, 56⟩
abbrev F.T2C_TRAIN_WORST_LANE : Fld := ⟨55, 40⟩
abbrev F.T2C_TRAIN_REPAIRED : Fld := ⟨39, 32⟩
abbrev F.T2C_SCRUB_POS_LINE : Fld := ⟨47, 6⟩
abbrev F.T2C_INJ_ADDR_LINE : Fld := ⟨47, 6⟩
abbrev F.T2C_INJ_CTL_ARM : Fld := ⟨31, 31⟩
abbrev F.T2C_INJ_CTL_WORD : Fld := ⟨26, 24⟩
abbrev F.T2C_INJ_CTL_COUNT : Fld := ⟨23, 22⟩
abbrev F.T2C_INJ_CTL_POS2 : Fld := ⟨20, 14⟩
abbrev F.T2C_INJ_CTL_POS1 : Fld := ⟨13, 7⟩
abbrev F.T2C_INJ_CTL_POS0 : Fld := ⟨6, 0⟩
abbrev F.T2C_CNT_CLEAR_ALL : Fld := ⟨0, 0⟩
abbrev F.T2C_LP_PASR_MASK : Fld := ⟨31, 24⟩
abbrev F.T2C_LP_SR_REQ : Fld := ⟨23, 23⟩
abbrev F.T2C_LP_PD_TIMER : Fld := ⟨15, 0⟩
abbrev F.T2C_REMAP_VALID : Fld := ⟨63, 63⟩
abbrev F.T2C_REMAP_LINE : Fld := ⟨47, 6⟩
abbrev F.T2C_CNT_CORR_COUNT : Fld := ⟨63, 0⟩
abbrev F.T2C_CNT_UNCORR_COUNT : Fld := ⟨63, 0⟩
abbrev F.T2C_CNT_INLINE_COUNT : Fld := ⟨63, 0⟩
abbrev F.T2C_CNT_REMAP_COUNT : Fld := ⟨63, 0⟩
abbrev F.T2C_CNT_REMAP_FULL_COUNT : Fld := ⟨63, 0⟩
abbrev F.T2C_CNT_RD_REFRESH_COUNT : Fld := ⟨63, 0⟩
abbrev F.T2C_CNT_SCRUB_PASS_COUNT : Fld := ⟨63, 0⟩
abbrev F.T2C_CNT_TRACK_COUNT : Fld := ⟨63, 0⟩
abbrev F.T2C_CNT_SEV_COUNT : Fld := ⟨63, 0⟩
abbrev F.T2C_CNT_PD_ENTRY_COUNT : Fld := ⟨63, 0⟩
abbrev F.HP0_CAP_CAP_VERSION : Fld := ⟨55, 48⟩
abbrev F.HP0_CAP_WINDOWS : Fld := ⟨47, 40⟩
abbrev F.HP0_CAP_ADMIN_QUEUES : Fld := ⟨39, 32⟩
abbrev F.HP0_CAP_SQE_VERSIONS : Fld := ⟨31, 16⟩
abbrev F.HP0_CAP_LOG2_VFS : Fld := ⟨11, 8⟩
abbrev F.HP0_CAP_LOG2_QPS : Fld := ⟨7, 4⟩
abbrev F.HP0_CAP_LOG2_MSIX : Fld := ⟨3, 0⟩
abbrev F.HP0_LINK_STAT_SPEED : Fld := ⟨23, 20⟩
abbrev F.HP0_LINK_STAT_WIDTH : Fld := ⟨19, 14⟩
abbrev F.HP0_LINK_STAT_FLIT : Fld := ⟨8, 8⟩
abbrev F.HP0_LINK_STAT_STATE : Fld := ⟨3, 0⟩
abbrev F.HP0_CNT_CLEAR_ALL : Fld := ⟨0, 0⟩
abbrev F.HP0_CNT_STALE_COUNT : Fld := ⟨63, 0⟩
abbrev F.HP0_CNT_DB_DROP_COUNT : Fld := ⟨63, 0⟩
abbrev F.HP0_CNT_CMPL_DUP_COUNT : Fld := ⟨63, 0⟩
abbrev F.HP0_CNT_INTAKE_BAD_COUNT : Fld := ⟨63, 0⟩
abbrev F.HP0_CNT_UR_COUNT : Fld := ⟨63, 0⟩
abbrev F.HP0_CNT_CPL_ERR_COUNT : Fld := ⟨63, 0⟩
abbrev F.HP0_CNT_POISON_TX_COUNT : Fld := ⟨63, 0⟩
abbrev F.HP0_CNT_FLR_COUNT : Fld := ⟨63, 0⟩
abbrev F.HP0_WIN_ACT_BASE_ADDR : Fld := ⟨63, 16⟩
abbrev F.HP0_WIN_ACT_CTL_EPOCH : Fld := ⟨47, 40⟩
abbrev F.HP0_WIN_ACT_CTL_LIMIT : Fld := ⟨31, 17⟩
abbrev F.HP0_WIN_ACT_CTL_PENDING : Fld := ⟨3, 3⟩
abbrev F.HP0_WIN_ACT_CTL_WR : Fld := ⟨2, 2⟩
abbrev F.HP0_WIN_ACT_CTL_RD : Fld := ⟨1, 1⟩
abbrev F.HP0_WIN_ACT_CTL_VALID : Fld := ⟨0, 0⟩
abbrev F.HP0_WIN_SHD_BASE_ADDR : Fld := ⟨63, 16⟩
abbrev F.HP0_WIN_SHD_CTL_EPOCH : Fld := ⟨47, 40⟩
abbrev F.HP0_WIN_SHD_CTL_LIMIT : Fld := ⟨31, 17⟩
abbrev F.HP0_WIN_SHD_CTL_COMMIT : Fld := ⟨3, 3⟩
abbrev F.HP0_WIN_SHD_CTL_WR : Fld := ⟨2, 2⟩
abbrev F.HP0_WIN_SHD_CTL_RD : Fld := ⟨1, 1⟩
abbrev F.HP0_WIN_SHD_CTL_VALID : Fld := ⟨0, 0⟩
abbrev F.HP0_QROUTE_CTX : Fld := ⟨10, 1⟩
abbrev F.HP0_QROUTE_VALID : Fld := ⟨0, 0⟩
abbrev F.HP0_FN_STAT_INFLIGHT : Fld := ⟨63, 32⟩
abbrev F.HP0_FN_STAT_MSE : Fld := ⟨9, 9⟩
abbrev F.HP0_FN_STAT_BME : Fld := ⟨8, 8⟩
abbrev F.HP0_FN_STAT_STATE : Fld := ⟨3, 0⟩
abbrev F.HP0_FN_ABORT_TOKEN : Fld := ⟨41, 0⟩
abbrev F.HP0_FN_ABORT_STAT_RESULT : Fld := ⟨63, 56⟩
abbrev F.HP0_FN_ABORT_STAT_VALID : Fld := ⟨55, 55⟩
abbrev F.HP0_FN_ABORT_STAT_TOKEN : Fld := ⟨41, 0⟩
abbrev F.HP0_QP_SQ_BASE_ADDR : Fld := ⟨63, 12⟩
abbrev F.HP0_QP_CQ_BASE_ADDR : Fld := ⟨63, 12⟩
abbrev F.HP0_QP_CFG_CQ_SIZE_M1 : Fld := ⟨63, 48⟩
abbrev F.HP0_QP_CFG_SQ_SIZE_M1 : Fld := ⟨47, 32⟩
abbrev F.HP0_QP_CFG_COAL_T : Fld := ⟨31, 24⟩
abbrev F.HP0_QP_CFG_COAL_N : Fld := ⟨23, 16⟩
abbrev F.HP0_QP_CFG_VECTOR : Fld := ⟨15, 5⟩
abbrev F.HP0_QP_CFG_IEN : Fld := ⟨4, 4⟩
abbrev F.HP0_QP_CFG_ENABLE : Fld := ⟨0, 0⟩
abbrev F.HP0_QP_STAT_SQ_TAIL : Fld := ⟨63, 48⟩
abbrev F.HP0_QP_STAT_SQ_HEAD : Fld := ⟨47, 32⟩
abbrev F.HP0_QP_STAT_CQ_TAIL : Fld := ⟨31, 16⟩
abbrev F.HP0_QP_STAT_EPOCH : Fld := ⟨15, 8⟩
abbrev F.HP0_QP_STAT_PHASE : Fld := ⟨7, 7⟩
abbrev F.HP0_QP_STAT_PENDING : Fld := ⟨1, 1⟩
abbrev F.HP0_QP_STAT_HELD : Fld := ⟨0, 0⟩
abbrev F.EVR_TR_WR_COUNT : Fld := ⟨63, 0⟩
abbrev F.EVR_TR_RD_COUNT : Fld := ⟨63, 0⟩
abbrev F.EVR_TR_STAT_DROPPED : Fld := ⟨63, 32⟩
abbrev F.EVR_TR_STAT_VALID : Fld := ⟨4, 4⟩
abbrev F.EVR_TR_STAT_SIZE : Fld := ⟨3, 0⟩
abbrev F.EVR_TR_WHERE_ADDR : Fld := ⟨63, 12⟩
abbrev F.HP1_CAP_CAP_VERSION : Fld := ⟨55, 48⟩
abbrev F.HP1_CAP_MAX_VERSIONS : Fld := ⟨47, 40⟩
abbrev F.HP1_CAP_LOG2_REGIONS : Fld := ⟨39, 36⟩
abbrev F.HP1_CAP_LOG2_RANGES : Fld := ⟨31, 24⟩
abbrev F.HP1_CAP_LOG2_HOSTS : Fld := ⟨23, 16⟩
abbrev F.HP1_CAP_LOG2_EXTENTS : Fld := ⟨15, 8⟩
abbrev F.HP1_CAP_FEATURES : Fld := ⟨7, 0⟩
abbrev F.HP1_LINK_STAT_SPEED : Fld := ⟨23, 20⟩
abbrev F.HP1_LINK_STAT_WIDTH : Fld := ⟨19, 14⟩
abbrev F.HP1_LINK_STAT_PBR : Fld := ⟨8, 8⟩
abbrev F.HP1_LINK_STAT_STATE : Fld := ⟨3, 0⟩
abbrev F.HP1_CNT_CLEAR_ALL : Fld := ⟨0, 0⟩
abbrev F.HP1_POOL_T1_SIZE_GIB : Fld := ⟨47, 32⟩
abbrev F.HP1_POOL_T1_BASE_GIB : Fld := ⟨9, 0⟩
abbrev F.HP1_POOL_T2_EXTENTS : Fld := ⟨63, 47⟩
abbrev F.HP1_POOL_T2_BASE : Fld := ⟨42, 0⟩
abbrev F.HP1_POOL_T3_EXTENTS : Fld := ⟨63, 47⟩
abbrev F.HP1_POOL_T3_BASE : Fld := ⟨42, 0⟩
abbrev F.HP1_POOL_SIDE_SLOTS : Fld := ⟨63, 32⟩
abbrev F.HP1_POOL_SIDE_BASE_PAGE : Fld := ⟨30, 0⟩
abbrev F.HP1_DIR_BASE_PAGE : Fld := ⟨42, 12⟩
abbrev F.HP1_DIR_MIRROR_PAGE : Fld := ⟨42, 12⟩
abbrev F.HP1_SHARER_BASE_PAGE : Fld := ⟨42, 12⟩
abbrev F.HP1_CNT_NOMATCH_COUNT : Fld := ⟨63, 0⟩
abbrev F.HP1_CNT_REVOKE_DROP_COUNT : Fld := ⟨63, 0⟩
abbrev F.HP1_CNT_STALE_COUNT : Fld := ⟨63, 0⟩
abbrev F.HP1_CNT_POISON_TX_COUNT : Fld := ⟨63, 0⟩
abbrev F.HP1_CNT_CACHE_HIT_COUNT : Fld := ⟨63, 0⟩
abbrev F.HP1_CNT_CACHE_MISS_COUNT : Fld := ⟨63, 0⟩
abbrev F.HP1_CNT_PLAIN_BYTES_COUNT : Fld := ⟨63, 0⟩
abbrev F.HP1_CNT_FRAME_BYTES_COUNT : Fld := ⟨63, 0⟩
abbrev F.HP1_CNT_BISNP_COUNT : Fld := ⟨63, 0⟩
abbrev F.HP1_CNT_BI_TIMEOUT_COUNT : Fld := ⟨63, 0⟩
abbrev F.HP1_CNT_PUBLISH_COUNT : Fld := ⟨63, 0⟩
abbrev F.HP1_CNT_CONFLICT_COUNT : Fld := ⟨63, 0⟩
abbrev F.HP1_CNT_DRAFT_FULL_COUNT : Fld := ⟨63, 0⟩
abbrev F.HP1_CNT_HOLD_COUNT : Fld := ⟨63, 0⟩
abbrev F.HP1_HOST_BURST : Fld := ⟨31, 16⟩
abbrev F.HP1_HOST_RATE : Fld := ⟨7, 0⟩
abbrev F.HP1_REGION_CFG_SIDE_LIMIT : Fld := ⟨63, 32⟩
abbrev F.HP1_REGION_CFG_FIRST_EXT : Fld := ⟨31, 16⟩
abbrev F.HP1_REGION_CFG_MODE : Fld := ⟨2, 1⟩
abbrev F.HP1_REGION_CFG_VALID : Fld := ⟨0, 0⟩
abbrev F.HP1_REGION_STAT_LATEST : Fld := ⟨63, 32⟩
abbrev F.HP1_REGION_STAT_SIDE_USED : Fld := ⟨31, 8⟩
abbrev F.HP1_REGION_STAT_VERSIONS : Fld := ⟨4, 0⟩
abbrev F.HP1_EXT_VALID : Fld := ⟨16, 16⟩
abbrev F.HP1_EXT_REGION : Fld := ⟨15, 8⟩
abbrev F.HP1_EXT_HOME : Fld := ⟨5, 4⟩
abbrev F.HP1_EXT_STATE : Fld := ⟨3, 0⟩
abbrev F.HP1_RANGE_A_SPID : Fld := ⟨63, 52⟩
abbrev F.HP1_RANGE_A_HPA_BASE : Fld := ⟨51, 28⟩
abbrev F.HP1_RANGE_A_FIRST_EXT : Fld := ⟨15, 0⟩
abbrev F.HP1_RANGE_B_EPOCH : Fld := ⟨47, 40⟩
abbrev F.HP1_RANGE_B_COUNT_M1 : Fld := ⟨39, 24⟩
abbrev F.HP1_RANGE_B_STATE : Fld := ⟨7, 4⟩
abbrev F.HP1_RANGE_B_WITHDRAW : Fld := ⟨3, 3⟩
abbrev F.HP1_RANGE_B_WR : Fld := ⟨2, 2⟩
abbrev F.HP1_RANGE_B_RD : Fld := ⟨1, 1⟩
abbrev F.HP1_RANGE_B_OFFER : Fld := ⟨0, 0⟩
abbrev F.PLT_CAP_CAP_VERSION : Fld := ⟨55, 48⟩
abbrev F.PLT_CAP_LINK_VERSIONS : Fld := ⟨47, 40⟩
abbrev F.PLT_CAP_PORTS : Fld := ⟨39, 32⟩
abbrev F.PLT_CAP_COLL_CONTEXTS : Fld := ⟨31, 24⟩
abbrev F.PLT_CAP_MAX_DIM : Fld := ⟨23, 16⟩
abbrev F.PLT_CAP_WAVELENGTHS : Fld := ⟨15, 8⟩
abbrev F.PLT_CAP_FEATURES : Fld := ⟨7, 0⟩
abbrev F.PLT_SYS_DX_M1 : Fld := ⟨46, 42⟩
abbrev F.PLT_SYS_DY_M1 : Fld := ⟨41, 37⟩
abbrev F.PLT_SYS_DZ_M1 : Fld := ⟨36, 32⟩
abbrev F.PLT_SYS_X : Fld := ⟨14, 10⟩
abbrev F.PLT_SYS_Y : Fld := ⟨9, 5⟩
abbrev F.PLT_SYS_Z : Fld := ⟨4, 0⟩
abbrev F.PLT_CTL_PORT_EN : Fld := ⟨31, 16⟩
abbrev F.PLT_CTL_COLL_TIMEOUT : Fld := ⟨15, 8⟩
abbrev F.PLT_TEST_EN_ARMED : Fld := ⟨0, 0⟩
abbrev F.PLT_CNT_CLEAR_ALL : Fld := ⟨0, 0⟩
abbrev F.PLT_CNT_STALE_COUNT : Fld := ⟨63, 0⟩
abbrev F.PLT_CNT_UNREACH_COUNT : Fld := ⟨63, 0⟩
abbrev F.PLT_CNT_TIMEOUT_COUNT : Fld := ⟨63, 0⟩
abbrev F.PLT_CNT_DETOUR_COUNT : Fld := ⟨63, 0⟩
abbrev F.PLT_CNT_NOLEASE_COUNT : Fld := ⟨63, 0⟩
abbrev F.PLT_CNT_LOST_PKT_COUNT : Fld := ⟨63, 0⟩
abbrev F.PLT_CNT_COLL_FAIL_COUNT : Fld := ⟨63, 0⟩
abbrev F.PLT_PORT_STAT_LINK_VERSION : Fld := ⟨55, 48⟩
abbrev F.PLT_PORT_STAT_PARTNER_PORT : Fld := ⟨47, 44⟩
abbrev F.PLT_PORT_STAT_PARTNER : Fld := ⟨43, 29⟩
abbrev F.PLT_PORT_STAT_RX_WIDTH : Fld := ⟨15, 12⟩
abbrev F.PLT_PORT_STAT_TX_WIDTH : Fld := ⟨11, 8⟩
abbrev F.PLT_PORT_STAT_STATE : Fld := ⟨3, 0⟩
abbrev F.PLT_PORT_LAMBDA_FEED : Fld := ⟨23, 16⟩
abbrev F.PLT_PORT_LAMBDA_TX_LOCK : Fld := ⟨15, 8⟩
abbrev F.PLT_PORT_LAMBDA_RX_GOOD : Fld := ⟨7, 0⟩
abbrev F.PLT_TEST_CTL_DROP_RATE : Fld := ⟨63, 48⟩
abbrev F.PLT_TEST_CTL_CORRUPT_RATE : Fld := ⟨47, 32⟩
abbrev F.PLT_TEST_CTL_REORDER_RATE : Fld := ⟨31, 16⟩
abbrev F.PLT_TEST_CTL_CW_SYMBOLS : Fld := ⟨15, 11⟩
abbrev F.PLT_TEST_CTL_ENABLE : Fld := ⟨8, 8⟩
abbrev F.PLT_TEST_CTL_CW_RATE : Fld := ⟨7, 0⟩
abbrev F.PLT_CNT_FEC_CORR_COUNT : Fld := ⟨63, 0⟩
abbrev F.PLT_CNT_FEC_UNCORR_COUNT : Fld := ⟨63, 0⟩
abbrev F.PLT_CNT_CRC_COUNT : Fld := ⟨63, 0⟩
abbrev F.PLT_CNT_REPLAY_COUNT : Fld := ⟨63, 0⟩
abbrev F.PLT_CNT_RETRAIN_COUNT : Fld := ⟨63, 0⟩
abbrev F.PLT_CNT_FLITS_TX_COUNT : Fld := ⟨63, 0⟩
abbrev F.PLT_CNT_FLITS_RX_COUNT : Fld := ⟨63, 0⟩
abbrev F.PLT_CNT_INJECT_COUNT : Fld := ⟨63, 0⟩
abbrev F.PLT_COLL_CTL_COUNT : Fld := ⟨63, 32⟩
abbrev F.PLT_COLL_CTL_SEQ : Fld := ⟨31, 24⟩
abbrev F.PLT_COLL_CTL_OP : Fld := ⟨11, 10⟩
abbrev F.PLT_COLL_CTL_KIND : Fld := ⟨9, 8⟩
abbrev F.PLT_COLL_CTL_ABORT : Fld := ⟨2, 2⟩
abbrev F.PLT_COLL_CTL_GO : Fld := ⟨1, 1⟩
abbrev F.PLT_COLL_CTL_VALID : Fld := ⟨0, 0⟩
abbrev F.PLT_COLL_BOX_Z1 : Fld := ⟨29, 25⟩
abbrev F.PLT_COLL_BOX_Z0 : Fld := ⟨24, 20⟩
abbrev F.PLT_COLL_BOX_Y1 : Fld := ⟨19, 15⟩
abbrev F.PLT_COLL_BOX_Y0 : Fld := ⟨14, 10⟩
abbrev F.PLT_COLL_BOX_X1 : Fld := ⟨9, 5⟩
abbrev F.PLT_COLL_BOX_X0 : Fld := ⟨4, 0⟩
abbrev F.PLT_COLL_SRC_ADDR : Fld := ⟨63, 0⟩
abbrev F.PLT_COLL_DST_ADDR : Fld := ⟨63, 0⟩
abbrev F.PLT_COLL_STAT_SAT_CHUNKS : Fld := ⟨63, 32⟩
abbrev F.PLT_COLL_STAT_STATUS : Fld := ⟨23, 16⟩
abbrev F.PLT_COLL_STAT_STATE : Fld := ⟨3, 0⟩
abbrev F.PLT_COLL_NOTIFY_ADDR : Fld := ⟨63, 0⟩
abbrev F.QOS_CAP_CAP_VERSION : Fld := ⟨55, 48⟩
abbrev F.QOS_CAP_RESOURCES : Fld := ⟨47, 40⟩
abbrev F.QOS_CAP_SOURCES : Fld := ⟨39, 24⟩
abbrev F.QOS_CAP_CLASSES : Fld := ⟨23, 16⟩
abbrev F.QOS_CAP_ADMIT_PCT : Fld := ⟨15, 8⟩
abbrev F.QOS_ADMIT_STAT_VALUE : Fld := ⟨39, 24⟩
abbrev F.QOS_ADMIT_STAT_SOURCE : Fld := ⟨23, 15⟩
abbrev F.QOS_ADMIT_STAT_RESOURCE : Fld := ⟨14, 10⟩
abbrev F.QOS_ADMIT_STAT_REFUSED : Fld := ⟨1, 1⟩
abbrev F.QOS_ADMIT_STAT_VALID : Fld := ⟨0, 0⟩
abbrev F.QOS_CNT_CLEAR_ALL : Fld := ⟨0, 0⟩
abbrev F.QOS_CNT_REFUSED_COUNT : Fld := ⟨63, 0⟩
abbrev F.QOS_CNT_SCALED_COUNT : Fld := ⟨63, 0⟩
abbrev F.QOS_RES_STAT_LEVEL : Fld := ⟨49, 48⟩
abbrev F.QOS_RES_STAT_ADMIT_MAX : Fld := ⟨47, 32⟩
abbrev F.QOS_RES_STAT_ADMITTED : Fld := ⟨31, 16⟩
abbrev F.QOS_RES_STAT_PEAK : Fld := ⟨15, 0⟩
abbrev F.QOS_RES_CFG_CRIT_TH : Fld := ⟨11, 8⟩
abbrev F.QOS_RES_CFG_HIGH_TH : Fld := ⟨7, 4⟩
abbrev F.QOS_RES_CFG_MED_TH : Fld := ⟨3, 0⟩
abbrev F.QOS_RES_CNT_HIGH_COUNT : Fld := ⟨63, 0⟩
abbrev F.QOS_RES_CNT_CRIT_COUNT : Fld := ⟨63, 0⟩
abbrev F.QOS_BW_RATE : Fld := ⟨47, 32⟩
abbrev F.QOS_BW_LIMIT : Fld := ⟨31, 16⟩
abbrev F.QOS_BW_GUAR : Fld := ⟨15, 0⟩
abbrev F.QOS_TEN_CTL_IRQ_RATE : Fld := ⟨31, 16⟩
abbrev F.QOS_TEN_CTL_INFLIGHT_LIMIT : Fld := ⟨15, 0⟩
abbrev F.QOS_TEN_STAT_CHARGE : Fld := ⟨31, 0⟩
abbrev F.QOS_CNT_IRQ_DELAY_COUNT : Fld := ⟨63, 0⟩
abbrev F.QOS_CNT_INFLIGHT_HOLD_COUNT : Fld := ⟨63, 0⟩
abbrev F.QOS_LAT_MAX_MAX_US : Fld := ⟨31, 0⟩
abbrev F.QOS_LAT_CNT_COUNT : Fld := ⟨63, 0⟩
abbrev F.QOS_LAT_MISS_COUNT : Fld := ⟨63, 0⟩
abbrev F.QOS_LAT_CFG_ALARMED : Fld := ⟨33, 33⟩
abbrev F.QOS_LAT_CFG_CLEAR : Fld := ⟨32, 32⟩
abbrev F.QOS_LAT_CFG_ALARM_US : Fld := ⟨31, 0⟩
abbrev F.EVR_CAP_CAP_VERSION : Fld := ⟨55, 48⟩
abbrev F.EVR_CAP_RECORD_FORMAT : Fld := ⟨47, 40⟩
abbrev F.EVR_CAP_SOURCE_QUEUE : Fld := ⟨39, 32⟩
abbrev F.EVR_CAP_LOG2_MAIN_SLOTS : Fld := ⟨31, 24⟩
abbrev F.EVR_CAP_LOG2_TR_MAX : Fld := ⟨23, 16⟩
abbrev F.EVR_MAIN_BASE_ADDR : Fld := ⟨63, 26⟩
abbrev F.EVR_MAIN_WR_COUNT : Fld := ⟨63, 0⟩
abbrev F.EVR_MAIN_RD_COUNT : Fld := ⟨63, 0⟩
abbrev F.EVR_CTL_VECTOR : Fld := ⟨15, 5⟩
abbrev F.EVR_CTL_IEN : Fld := ⟨0, 0⟩
abbrev F.EVR_CNT_CLEAR_ALL : Fld := ⟨0, 0⟩
abbrev F.EVR_CNT_OVERRUN_COUNT : Fld := ⟨63, 0⟩
abbrev F.EVR_CNT_LOST_COUNT : Fld := ⟨63, 0⟩
abbrev F.EVR_CNT_SRC_DROP_COUNT : Fld := ⟨63, 0⟩
abbrev F.EVR_CODE_CFG_BURST : Fld := ⟨23, 16⟩
abbrev F.EVR_CODE_CFG_RATE : Fld := ⟨15, 8⟩
abbrev F.EVR_CODE_CFG_FATAL : Fld := ⟨2, 2⟩
abbrev F.EVR_CODE_CFG_TENANT : Fld := ⟨1, 1⟩
abbrev F.EVR_CODE_CFG_ENABLE : Fld := ⟨0, 0⟩
abbrev F.EVR_CODE_CNT_COUNT : Fld := ⟨63, 0⟩
abbrev F.EVR_T0_CNT_CORR_COUNT : Fld := ⟨63, 0⟩
abbrev F.EVR_T0_CNT_UNCORR_COUNT : Fld := ⟨63, 0⟩
abbrev F.EVR_TR_BASE_ADDR : Fld := ⟨63, 12⟩
abbrev F.EVR_TR_BASE_SIZE : Fld := ⟨3, 0⟩
abbrev F.EVR_TR_CTL_BURST : Fld := ⟨47, 40⟩
abbrev F.EVR_TR_CTL_RATE : Fld := ⟨39, 32⟩
abbrev F.EVR_TR_CTL_VECTOR : Fld := ⟨15, 5⟩
abbrev F.EVR_TR_CTL_IEN : Fld := ⟨1, 1⟩
abbrev F.EVR_TR_CTL_VALID : Fld := ⟨0, 0⟩
abbrev F.FMN_CAP_CAP_VERSION : Fld := ⟨55, 48⟩
abbrev F.FMN_CAP_IMAGE_VERSIONS : Fld := ⟨47, 40⟩
abbrev F.FMN_CAP_SVN_MAX : Fld := ⟨39, 32⟩
abbrev F.FMN_CAP_ROOT_KEYS : Fld := ⟨31, 28⟩
abbrev F.FMN_CAP_FEATURES : Fld := ⟨7, 0⟩
abbrev F.FMN_LEAD_STAT_TERM : Fld := ⟨63, 32⟩
abbrev F.FMN_LEAD_STAT_SPLIT : Fld := ⟨3, 3⟩
abbrev F.FMN_LEAD_STAT_FROZEN : Fld := ⟨2, 2⟩
abbrev F.FMN_LEAD_STAT_NONE : Fld := ⟨1, 1⟩
abbrev F.FMN_LEAD_STAT_LEADER : Fld := ⟨0, 0⟩
abbrev F.FMN_CLAIM_TERM : Fld := ⟨63, 32⟩
abbrev F.FMN_CLAIM_HEARTBEAT : Fld := ⟨31, 16⟩
abbrev F.FMN_CLAIM_OUT : Fld := ⟨3, 3⟩
abbrev F.FMN_CLAIM_IMAGE_OK : Fld := ⟨2, 2⟩
abbrev F.FMN_CLAIM_CANDIDATE : Fld := ⟨1, 1⟩
abbrev F.FMN_CLAIM_ASSERT : Fld := ⟨0, 0⟩
abbrev F.FMN_BOOT_STAT_SVN : Fld := ⟨55, 48⟩
abbrev F.FMN_BOOT_STAT_REASON_B : Fld := ⟨47, 40⟩
abbrev F.FMN_BOOT_STAT_REASON_A : Fld := ⟨39, 32⟩
abbrev F.FMN_BOOT_STAT_STATE : Fld := ⟨7, 4⟩
abbrev F.FMN_BOOT_STAT_SLOT : Fld := ⟨1, 0⟩
abbrev F.FMN_FUSE_STAT_SVN_FLOOR : Fld := ⟨47, 40⟩
abbrev F.FMN_FUSE_STAT_KEY_REVOKE : Fld := ⟨35, 32⟩
abbrev F.FMN_FUSE_STAT_KEY_USAGE : Fld := ⟨23, 16⟩
abbrev F.FMN_FUSE_STAT_MISMATCH : Fld := ⟨1, 1⟩
abbrev F.FMN_FUSE_STAT_PRIORITY : Fld := ⟨0, 0⟩
abbrev F.FMN_FUSE_PROG_BUSY : Fld := ⟨31, 31⟩
abbrev F.FMN_FUSE_PROG_REVOKE : Fld := ⟨11, 8⟩
abbrev F.FMN_FUSE_PROG_SVN_TARGET : Fld := ⟨6, 0⟩
abbrev F.FMN_ID_PUB_BYTES : Fld := ⟨63, 0⟩
abbrev F.FMN_TEST_NONCE_NONCE : Fld := ⟨63, 0⟩
abbrev F.FMN_SMB_CFG_EID : Fld := ⟨15, 8⟩
abbrev F.FMN_SMB_CFG_ADDR : Fld := ⟨6, 0⟩
abbrev F.FMN_CNT_SPLIT_COUNT : Fld := ⟨63, 0⟩
abbrev F.FMN_CNT_GATED_COUNT : Fld := ⟨63, 0⟩
abbrev F.FMN_CNT_MGMT_DROP_COUNT : Fld := ⟨63, 0⟩
abbrev F.FMN_CNT_TOKEN_REJECT_COUNT : Fld := ⟨63, 0⟩
abbrev F.PWR_CAP_CFG_CAP_W : Fld := ⟨11, 0⟩
abbrev F.PWR_THERM_CFG_THROTTLE_C : Fld := ⟨7, 0⟩
abbrev F.PWR_STAT_PKG_W : Fld := ⟨43, 32⟩
abbrev F.PWR_STAT_DUTY_B : Fld := ⟨22, 16⟩
abbrev F.PWR_STAT_DUTY_A : Fld := ⟨6, 0⟩
abbrev F.PWR_TEMP_DIE_C : Fld := ⟨47, 0⟩
abbrev F.PWR_HALF_CTL_KNC_HALF : Fld := ⟨8, 8⟩
abbrev F.PWR_HALF_CTL_DUTY : Fld := ⟨6, 0⟩
abbrev F.PWR_CNT_POWER_MS_COUNT : Fld := ⟨63, 0⟩
abbrev F.PWR_CNT_THERMAL_MS_COUNT : Fld := ⟨63, 0⟩
abbrev F.CLK_CAP_CAP_VERSION : Fld := ⟨55, 48⟩
abbrev F.CLK_CAP_ROOT_MHZ : Fld := ⟨47, 32⟩
abbrev F.CLK_CAP_REF_MHZ : Fld := ⟨31, 24⟩
abbrev F.CLK_CAP_PDIV : Fld := ⟨23, 16⟩
abbrev F.CLK_CAP_NDIV : Fld := ⟨15, 8⟩
abbrev F.CLK_CAP_MDIV : Fld := ⟨7, 0⟩
abbrev F.CLK_STAT_PLL_LOCK : Fld := ⟨29, 24⟩
abbrev F.CLK_STAT_HP1_SRIS : Fld := ⟨1, 1⟩
abbrev F.CLK_STAT_HP0_SRIS : Fld := ⟨0, 0⟩
abbrev F.CLK_RESET_CAUSE_DIE : Fld := ⟨7, 4⟩
abbrev F.CLK_RESET_CAUSE_CAUSE : Fld := ⟨3, 0⟩
abbrev F.CLK_START_STAT_MS : Fld := ⟨47, 32⟩
abbrev F.CLK_START_STAT_STACK_WAIT : Fld := ⟨31, 16⟩
abbrev F.CLK_START_STAT_CHAN_WAIT : Fld := ⟨15, 4⟩
abbrev F.CLK_START_STAT_PHASE : Fld := ⟨3, 0⟩
abbrev F.CLK_RAIL_STAT_GOOD : Fld := ⟨9, 0⟩
abbrev F.CLK_CNT_EARLY_COUNT : Fld := ⟨63, 0⟩

/-- Rows of the register maps, part 0. -/
def regRows0 : List RegDesc := [
  { name := "FMN_TOPO_CAP", base := 0x10000, dims := [], width := 64, latch := false, rst := 0x100000010,
    fields := [⟨39, 32, .ro⟩, ⟨29, 24, .ro⟩, ⟨23, 16, .ro⟩, ⟨15, 8, .ro⟩, ⟨7, 0, .ro⟩] },
  { name := "FMN_CREW_PRESENT", base := 0x10008, dims := [], width := 64, latch := false, rst := 0x0,
    fields := [⟨63, 0, .ro⟩] },
  { name := "FMN_SEAM_STATE", base := 0x10010, dims := [], width := 32, latch := false, rst := 0x0,
    fields := [⟨15, 0, .ro⟩] },
  { name := "FMN_SEAM_CHANGED", base := 0x10014, dims := [], width := 32, latch := false, rst := 0x0,
    fields := [⟨7, 0, .w1c⟩] },
  { name := "FMN_SEAM_RETRY_CNT", base := 0x10020, dims := [(8, 0x4)], width := 32, latch := false, rst := 0x0,
    fields := [⟨31, 0, .ro⟩] },
  { name := "MXE_CAP", base := 0x1000000, dims := [(192, 0x1000)], width := 64, latch := false, rst := 0x110404044200F,
    fields := [⟨55, 48, .ro⟩, ⟨47, 40, .ro⟩, ⟨39, 32, .ro⟩, ⟨31, 24, .ro⟩, ⟨23, 20, .ro⟩, ⟨19, 16, .ro⟩, ⟨15, 8, .ro⟩, ⟨3, 0, .ro⟩] },
  { name := "MXE_CTL", base := 0x1000008, dims := [(192, 0x1000)], width := 32, latch := false, rst := 0x1000,
    fields := [⟨15, 8, .rw⟩] },
  { name := "MXE_BANK_STAT", base := 0x1000010, dims := [(192, 0x1000)], width := 32, latch := false, rst := 0x0,
    fields := [⟨31, 0, .ro⟩] },
  { name := "MXE_CNT_CLEAR", base := 0x1000014, dims := [(192, 0x1000)], width := 32, latch := false, rst := 0x0,
    fields := [⟨1, 1, .wo⟩, ⟨0, 0, .wo⟩] },
  { name := "MXE_QCTL", base := 0x1000020, dims := [(192, 0x1000), (4, 0x8)], width := 64, latch := false, rst := 0x1000000,
    fields := [⟨63, 32, .rw⟩, ⟨31, 28, .rw⟩, ⟨27, 24, .rw⟩, ⟨23, 16, .rw⟩, ⟨15, 6, .rw⟩, ⟨0, 0, .rw⟩] },
  { name := "MXE_QSTAT", base := 0x1000040, dims := [(192, 0x1000), (4, 0x4)], width := 32, latch := false, rst := 0x0,
    fields := [⟨15, 8, .ro⟩, ⟨7, 4, .ro⟩] },
  { name := "MXE_CNT_CYCLES", base := 0x1000100, dims := [(192, 0x1000)], width := 64, latch := true, rst := 0x0,
    fields := [⟨63, 0, .ro⟩] },
  { name := "MXE_CNT_BUSY", base := 0x1000108, dims := [(192, 0x1000)], width := 64, latch := true, rst := 0x0,
    fields := [⟨63, 0, .ro⟩] },
  { name := "MXE_CNT_IDLE", base := 0x1000110, dims := [(192, 0x1000)], width := 64, latch := true, rst := 0x0,
    fields := [⟨63, 0, .ro⟩] },
  { name := "MXE_CNT_WAIT", base := 0x1000118, dims := [(192, 0x1000)], width := 64, latch := true, rst := 0x0,
    fields := [⟨63, 0, .ro⟩] },
  { name := "MXE_CNT_THROTTLE", base := 0x1000120, dims := [(192, 0x1000)], width := 64, latch := true, rst := 0x0,
    fields := [⟨63, 0, .ro⟩] },
  { name := "MXE_CNT_RESTORE", base := 0x1000128, dims := [(192, 0x1000)], width := 64, latch := true, rst := 0x0,
    fields := [⟨63, 0, .ro⟩] },
  { name := "MXE_CNT_BANK", base := 0x1000130, dims := [(192, 0x1000)], width := 64, latch := true, rst := 0x0,
    fields := [⟨63, 0, .ro⟩] },
  { name := "MXE_CNT_OUTPUT", base := 0x1000138, dims := [(192, 0x1000)], width := 64, latch := true, rst := 0x0,
    fields := [⟨63, 0, .ro⟩] },
  { name := "MXE_CNT_STARTER", base := 0x1000140, dims := [(192, 0x1000)], width := 64, latch := true, rst := 0x0,
    fields := [⟨63, 0, .ro⟩] },
  { name := "MXE_CNT_T0", base := 0x1000148, dims := [(192, 0x1000)], width := 64, latch := true, rst := 0x0,
    fields := [⟨63, 0, .ro⟩] },
  { name := "MXE_CNT_CREDIT", base := 0x1000150, dims := [(192, 0x1000)], width := 64, latch := true, rst := 0x0,
    fields := [⟨63, 0, .ro⟩] },
  { name := "MXE_CNT_WEIGHT", base := 0x1000158, dims := [(192, 0x1000)], width := 64, latch := true, rst := 0x0,
    fields := [⟨63, 0, .ro⟩] },
  { name := "MXE_CNT_ACC_SAT", base := 0x1000160, dims := [(192, 0x1000)], width := 64, latch := true, rst := 0x0,
    fields := [⟨63, 0, .ro⟩] },
  { name := "MXE_CNT_RQ_SAT", base := 0x1000168, dims := [(192, 0x1000)], width := 64, latch := true, rst := 0x0,
    fields := [⟨63, 0, .ro⟩] }]

/-- Rows of the register maps, part 1. -/
def regRows1 : List RegDesc := [
  { name := "MXE_CNT_ECC_CORR", base := 0x1000170, dims := [(192, 0x1000)], width := 64, latch := true, rst := 0x0,
    fields := [⟨63, 0, .ro⟩] },
  { name := "MXE_CNT_ECC_UNCORR", base := 0x1000178, dims := [(192, 0x1000)], width := 64, latch := true, rst := 0x0,
    fields := [⟨63, 0, .ro⟩] },
  { name := "MXE_CNT_SWITCH", base := 0x1000180, dims := [(192, 0x1000)], width := 64, latch := true, rst := 0x0,
    fields := [⟨63, 0, .ro⟩] },
  { name := "MXE_CNT_ORDER", base := 0x1000188, dims := [(192, 0x1000)], width := 64, latch := true, rst := 0x0,
    fields := [⟨63, 0, .ro⟩] },
  { name := "MXE_CREW_CAP", base := 0x2000000, dims := [(64, 0x1000)], width := 64, latch := false, rst := 0x18010040002,
    fields := [⟨47, 40, .ro⟩, ⟨39, 32, .ro⟩, ⟨31, 24, .ro⟩, ⟨23, 16, .ro⟩, ⟨15, 0, .ro⟩] },
  { name := "MXE_SEM", base := 0x2000400, dims := [(64, 0x1000), (128, 0x8)], width := 64, latch := false, rst := 0x0,
    fields := [⟨63, 56, .rw⟩, ⟨32, 32, .w1c⟩, ⟨31, 0, .rw⟩] },
  { name := "MXE_SEM_ADD", base := 0x2000800, dims := [(64, 0x1000), (128, 0x4)], width := 32, latch := false, rst := 0x0,
    fields := [⟨15, 0, .wo⟩] },
  { name := "KNC_CAP", base := 0x3000000, dims := [(256, 0x4000)], width := 64, latch := false, rst := 0x101440100100F,
    fields := [⟨55, 48, .ro⟩, ⟨47, 40, .ro⟩, ⟨39, 36, .ro⟩, ⟨35, 32, .ro⟩, ⟨31, 16, .ro⟩, ⟨15, 8, .ro⟩, ⟨7, 0, .ro⟩] },
  { name := "KNC_CNT_CLEAR", base := 0x3000008, dims := [(256, 0x4000)], width := 32, latch := false, rst := 0x0,
    fields := [⟨0, 0, .wo⟩] },
  { name := "KNC_CNT_ISSUE", base := 0x3000010, dims := [(256, 0x4000)], width := 64, latch := true, rst := 0x0,
    fields := [⟨63, 0, .ro⟩] },
  { name := "KNC_CNT_RQ_SAT", base := 0x3000018, dims := [(256, 0x4000)], width := 64, latch := true, rst := 0x0,
    fields := [⟨63, 0, .ro⟩] },
  { name := "KNC_CNT_ACC_SAT", base := 0x3000020, dims := [(256, 0x4000)], width := 64, latch := true, rst := 0x0,
    fields := [⟨63, 0, .ro⟩] },
  { name := "KNC_CNT_LUT_CLAMP", base := 0x3000028, dims := [(256, 0x4000)], width := 64, latch := true, rst := 0x0,
    fields := [⟨63, 0, .ro⟩] },
  { name := "KNC_CNT_ECC_CORR", base := 0x3000030, dims := [(256, 0x4000)], width := 64, latch := true, rst := 0x0,
    fields := [⟨63, 0, .ro⟩] },
  { name := "KNC_CNT_ECC_UNCORR", base := 0x3000038, dims := [(256, 0x4000)], width := 64, latch := true, rst := 0x0,
    fields := [⟨63, 0, .ro⟩] },
  { name := "KNC_LUTCFG", base := 0x3000040, dims := [(256, 0x4000), (4, 0x8)], width := 64, latch := false, rst := 0x0,
    fields := [⟨43, 40, .rw⟩, ⟨38, 37, .rw⟩, ⟨36, 32, .rw⟩, ⟨31, 0, .rw⟩] },
  { name := "KNC_CTX_CTL", base := 0x3000800, dims := [(256, 0x4000), (4, 0x800)], width := 64, latch := false, rst := 0x0,
    fields := [⟨63, 56, .rw⟩, ⟨55, 46, .rw⟩, ⟨43, 40, .rw⟩, ⟨32, 32, .rw⟩, ⟨31, 24, .rw⟩, ⟨23, 15, .rw⟩, ⟨0, 0, .rw⟩] },
  { name := "KNC_CTX_STAT", base := 0x3000808, dims := [(256, 0x4000), (4, 0x800)], width := 64, latch := false, rst := 0x0,
    fields := [⟨47, 40, .ro⟩, ⟨39, 32, .ro⟩, ⟨3, 0, .ro⟩] },
  { name := "KNC_CTX_CMD", base := 0x3000810, dims := [(256, 0x4000), (4, 0x800)], width := 32, latch := false, rst := 0x0,
    fields := [⟨2, 2, .wo⟩, ⟨1, 1, .wo⟩, ⟨0, 0, .wo⟩] },
  { name := "KNC_CTX_PC", base := 0x3000818, dims := [(256, 0x4000), (4, 0x800)], width := 64, latch := false, rst := 0x0,
    fields := [⟨63, 0, .rw⟩] },
  { name := "KNC_CTX_EPC", base := 0x3000820, dims := [(256, 0x4000), (4, 0x800)], width := 64, latch := false, rst := 0x0,
    fields := [⟨63, 0, .ro⟩] },
  { name := "KNC_CTX_EXCADDR", base := 0x3000828, dims := [(256, 0x4000), (4, 0x800)], width := 64, latch := false, rst := 0x0,
    fields := [⟨63, 0, .ro⟩] },
  { name := "KNC_CTX_RGN", base := 0x3000840, dims := [(256, 0x4000), (4, 0x800), (8, 0x8)], width := 64, latch := false, rst := 0x0,
    fields := [⟨63, 16, .rw⟩, ⟨15, 10, .rw⟩, ⟨3, 3, .rw⟩, ⟨2, 2, .rw⟩, ⟨1, 1, .rw⟩, ⟨0, 0, .rw⟩] },
  { name := "KNC_CTX_GREG", base := 0x3000900, dims := [(256, 0x4000), (4, 0x800), (32, 0x8)], width := 64, latch := false, rst := 0x0,
    fields := [⟨63, 0, .rw⟩] },
  { name := "KNC_CTX_PREG", base := 0x3000A00, dims := [(256, 0x4000), (4, 0x800), (8, 0x8)], width := 64, latch := false, rst := 0x0,
    fields := [⟨63, 0, .rw⟩] }]

/-- Rows of the register maps, part 2. -/
def regRows2 : List RegDesc := [
  { name := "KNC_CTX_VREG", base := 0x3000C00, dims := [(256, 0x4000), (4, 0x800), (128, 0x8)], width := 64, latch := false, rst := 0x0,
    fields := [⟨63, 0, .rw⟩] },
  { name := "MXE_XP_CAP", base := 0x4000000, dims := [(192, 0x1000)], width := 64, latch := false, rst := 0x140100002001F,
    fields := [⟨55, 48, .ro⟩, ⟨47, 40, .ro⟩, ⟨39, 32, .ro⟩, ⟨31, 16, .ro⟩, ⟨7, 0, .ro⟩] },
  { name := "MXE_XP_CNT_CLEAR", base := 0x4000008, dims := [(192, 0x1000)], width := 32, latch := false, rst := 0x0,
    fields := [⟨0, 0, .wo⟩] },
  { name := "MXE_XP_LAST_DAMAGE", base := 0x4000010, dims := [(192, 0x1000)], width := 64, latch := false, rst := 0x0,
    fields := [⟨63, 56, .ro⟩, ⟨55, 48, .ro⟩, ⟨47, 32, .ro⟩, ⟨31, 31, .w1c⟩, ⟨23, 0, .ro⟩] },
  { name := "MXE_XP_CNT_RAW", base := 0x4000100, dims := [(192, 0x1000)], width := 64, latch := true, rst := 0x0,
    fields := [⟨63, 0, .ro⟩] },
  { name := "MXE_XP_CNT_VQ", base := 0x4000108, dims := [(192, 0x1000)], width := 64, latch := true, rst := 0x0,
    fields := [⟨63, 0, .ro⟩] },
  { name := "MXE_XP_CNT_LR", base := 0x4000110, dims := [(192, 0x1000)], width := 64, latch := true, rst := 0x0,
    fields := [⟨63, 0, .ro⟩] },
  { name := "MXE_XP_CNT_ZERO", base := 0x4000118, dims := [(192, 0x1000)], width := 64, latch := true, rst := 0x0,
    fields := [⟨63, 0, .ro⟩] },
  { name := "MXE_XP_CNT_ESCAPES", base := 0x4000120, dims := [(192, 0x1000)], width := 64, latch := true, rst := 0x0,
    fields := [⟨63, 0, .ro⟩] },
  { name := "MXE_XP_CNT_LR_SAT", base := 0x4000128, dims := [(192, 0x1000)], width := 64, latch := true, rst := 0x0,
    fields := [⟨63, 0, .ro⟩] },
  { name := "MXE_XP_CNT_DAMAGED", base := 0x4000130, dims := [(192, 0x1000)], width := 64, latch := true, rst := 0x0,
    fields := [⟨63, 0, .ro⟩] },
  { name := "MXE_XP_CNT_REFETCH", base := 0x4000138, dims := [(192, 0x1000)], width := 64, latch := true, rst := 0x0,
    fields := [⟨63, 0, .ro⟩] },
  { name := "MXE_XP_CNT_STARTER_MISMATCH", base := 0x4000140, dims := [(192, 0x1000)], width := 64, latch := true, rst := 0x0,
    fields := [⟨63, 0, .ro⟩] },
  { name := "TRM_CAP", base := 0xC000000, dims := [(320, 0x1000)], width := 64, latch := false, rst := 0x10102000201BF,
    fields := [⟨55, 48, .ro⟩, ⟨47, 40, .ro⟩, ⟨39, 32, .ro⟩, ⟨31, 16, .ro⟩, ⟨15, 0, .ro⟩] },
  { name := "TRM_CTL", base := 0xC000008, dims := [(320, 0x1000)], width := 64, latch := false, rst := 0x0,
    fields := [⟨63, 56, .rw⟩, ⟨55, 46, .rw⟩, ⟨41, 40, .rw⟩, ⟨0, 0, .rw⟩] },
  { name := "TRM_HEAD", base := 0xC000010, dims := [(320, 0x1000)], width := 64, latch := false, rst := 0x0,
    fields := [⟨63, 6, .rw⟩] },
  { name := "TRM_CMD", base := 0xC000018, dims := [(320, 0x1000)], width := 32, latch := false, rst := 0x0,
    fields := [⟨3, 3, .wo⟩, ⟨2, 2, .wo⟩, ⟨1, 1, .wo⟩, ⟨0, 0, .wo⟩] },
  { name := "TRM_STAT", base := 0xC00001C, dims := [(320, 0x1000)], width := 32, latch := false, rst := 0x0,
    fields := [⟨23, 16, .ro⟩, ⟨15, 8, .ro⟩, ⟨7, 6, .ro⟩, ⟨5, 4, .ro⟩, ⟨3, 0, .ro⟩] },
  { name := "TRM_CUR", base := 0xC000020, dims := [(320, 0x1000)], width := 64, latch := false, rst := 0x0,
    fields := [⟨63, 0, .ro⟩] },
  { name := "TRM_ERR_ADDR", base := 0xC000028, dims := [(320, 0x1000)], width := 64, latch := false, rst := 0x0,
    fields := [⟨63, 0, .ro⟩] },
  { name := "TRM_SOFF", base := 0xC000030, dims := [(320, 0x1000)], width := 64, latch := false, rst := 0x0,
    fields := [⟨63, 0, .ro⟩] },
  { name := "TRM_DOFF", base := 0xC000038, dims := [(320, 0x1000)], width := 64, latch := false, rst := 0x0,
    fields := [⟨63, 0, .ro⟩] },
  { name := "TRM_CNT_BYTES", base := 0xC000100, dims := [(320, 0x1000)], width := 64, latch := true, rst := 0x0,
    fields := [⟨63, 0, .ro⟩] },
  { name := "TRM_CNT_DESC", base := 0xC000108, dims := [(320, 0x1000)], width := 64, latch := true, rst := 0x0,
    fields := [⟨63, 0, .ro⟩] },
  { name := "TRM_CNT_HALT", base := 0xC000110, dims := [(320, 0x1000)], width := 64, latch := true, rst := 0x0,
    fields := [⟨63, 0, .ro⟩] }]

/-- Rows of the register maps, part 3. -/
def regRows3 : List RegDesc := [
  { name := "TRM_CNT_TOO_LATE", base := 0xC000118, dims := [(320, 0x1000)], width := 64, latch := true, rst := 0x0,
    fields := [⟨63, 0, .ro⟩] },
  { name := "TRM_CNT_ABORT", base := 0xC000120, dims := [(320, 0x1000)], width := 64, latch := true, rst := 0x0,
    fields := [⟨63, 0, .ro⟩] },
  { name := "HST_CAP", base := 0x5000000, dims := [(64, 0x1000)], width := 64, latch := false, rst := 0x10302000207B1,
    fields := [⟨55, 48, .ro⟩, ⟨47, 40, .ro⟩, ⟨39, 32, .ro⟩, ⟨31, 16, .ro⟩, ⟨15, 0, .ro⟩] },
  { name := "HST_CTL", base := 0x5000008, dims := [(64, 0x1000)], width := 64, latch := false, rst := 0x0,
    fields := [⟨63, 56, .rw⟩, ⟨55, 46, .rw⟩, ⟨41, 40, .rw⟩, ⟨0, 0, .rw⟩] },
  { name := "HST_HEAD", base := 0x5000010, dims := [(64, 0x1000)], width := 64, latch := false, rst := 0x0,
    fields := [⟨63, 6, .rw⟩] },
  { name := "HST_CMD", base := 0x5000018, dims := [(64, 0x1000)], width := 32, latch := false, rst := 0x0,
    fields := [⟨3, 3, .wo⟩, ⟨2, 2, .wo⟩, ⟨1, 1, .wo⟩, ⟨0, 0, .wo⟩] },
  { name := "HST_STAT", base := 0x500001C, dims := [(64, 0x1000)], width := 32, latch := false, rst := 0x0,
    fields := [⟨23, 16, .ro⟩, ⟨15, 8, .ro⟩, ⟨7, 6, .ro⟩, ⟨5, 4, .ro⟩, ⟨3, 0, .ro⟩] },
  { name := "HST_CUR", base := 0x5000020, dims := [(64, 0x1000)], width := 64, latch := false, rst := 0x0,
    fields := [⟨63, 0, .ro⟩] },
  { name := "HST_ERR_ADDR", base := 0x5000028, dims := [(64, 0x1000)], width := 64, latch := false, rst := 0x0,
    fields := [⟨63, 0, .ro⟩] },
  { name := "HST_SOFF", base := 0x5000030, dims := [(64, 0x1000)], width := 64, latch := false, rst := 0x0,
    fields := [⟨63, 0, .ro⟩] },
  { name := "HST_DOFF", base := 0x5000038, dims := [(64, 0x1000)], width := 64, latch := false, rst := 0x0,
    fields := [⟨63, 0, .ro⟩] },
  { name := "HST_CNT_BYTES", base := 0x5000100, dims := [(64, 0x1000)], width := 64, latch := true, rst := 0x0,
    fields := [⟨63, 0, .ro⟩] },
  { name := "HST_CNT_DESC", base := 0x5000108, dims := [(64, 0x1000)], width := 64, latch := true, rst := 0x0,
    fields := [⟨63, 0, .ro⟩] },
  { name := "HST_CNT_HALT", base := 0x5000110, dims := [(64, 0x1000)], width := 64, latch := true, rst := 0x0,
    fields := [⟨63, 0, .ro⟩] },
  { name := "HST_CNT_TOO_LATE", base := 0x5000118, dims := [(64, 0x1000)], width := 64, latch := true, rst := 0x0,
    fields := [⟨63, 0, .ro⟩] },
  { name := "HST_CNT_ABORT", base := 0x5000120, dims := [(64, 0x1000)], width := 64, latch := true, rst := 0x0,
    fields := [⟨63, 0, .ro⟩] },
  { name := "HST_STEP_MARK", base := 0x5000040, dims := [(64, 0x1000)], width := 64, latch := false, rst := 0x0,
    fields := [⟨63, 0, .ro⟩] },
  { name := "HST_LAYER_NEXT", base := 0x5000048, dims := [(64, 0x1000)], width := 32, latch := false, rst := 0x0,
    fields := [⟨15, 0, .rw⟩] },
  { name := "HST_SLOT_CFG", base := 0x5000200, dims := [(64, 0x1000), (16, 0x10)], width := 64, latch := false, rst := 0x0,
    fields := [⟨47, 24, .rw⟩, ⟨23, 0, .rw⟩] },
  { name := "HST_SLOT_STAT", base := 0x5000208, dims := [(64, 0x1000), (16, 0x10)], width := 64, latch := false, rst := 0x0,
    fields := [⟨63, 48, .ro⟩, ⟨47, 32, .ro⟩, ⟨8, 8, .wo⟩, ⟨4, 4, .ro⟩, ⟨3, 0, .ro⟩] },
  { name := "HST_CNT_MISS", base := 0x5000400, dims := [(64, 0x1000)], width := 64, latch := true, rst := 0x0,
    fields := [⟨63, 0, .ro⟩] },
  { name := "HST_CNT_STANDBY", base := 0x5000408, dims := [(64, 0x1000)], width := 64, latch := true, rst := 0x0,
    fields := [⟨63, 0, .ro⟩] },
  { name := "HST_CNT_LOST", base := 0x5000410, dims := [(64, 0x1000)], width := 64, latch := true, rst := 0x0,
    fields := [⟨63, 0, .ro⟩] },
  { name := "HST_CNT_ABSENT", base := 0x5000418, dims := [(64, 0x1000)], width := 64, latch := true, rst := 0x0,
    fields := [⟨63, 0, .ro⟩] },
  { name := "HST_CNT_WAIT_CYC", base := 0x5000420, dims := [(64, 0x1000)], width := 64, latch := true, rst := 0x0,
    fields := [⟨63, 0, .ro⟩] }]

/-- Rows of the register maps, part 4. -/
def regRows4 : List RegDesc := [
  { name := "QOS_QUOTA", base := 0x6000000, dims := [(256, 0x100), (5, 0x8)], width := 64, latch := false, rst := 0x0,
    fields := [⟨35, 0, .rw⟩] },
  { name := "QOS_CHARGE", base := 0x6000040, dims := [(256, 0x100), (5, 0x8)], width := 64, latch := false, rst := 0x0,
    fields := [⟨35, 0, .ro⟩] },
  { name := "QOS_PHYS", base := 0x6000080, dims := [(256, 0x100), (5, 0x8)], width := 64, latch := false, rst := 0x0,
    fields := [⟨47, 0, .ro⟩] },
  { name := "T1C_OBJ_CAP", base := 0x7000000, dims := [], width := 64, latch := false, rst := 0x1021F01000000,
    fields := [⟨55, 48, .ro⟩, ⟨47, 40, .ro⟩, ⟨39, 32, .ro⟩, ⟨24, 0, .ro⟩] },
  { name := "T1C_OBJ_BASE", base := 0x7000008, dims := [], width := 64, latch := false, rst := 0x0,
    fields := [⟨63, 12, .rwl⟩] },
  { name := "T1C_OBJ_MIRROR", base := 0x7000010, dims := [], width := 64, latch := false, rst := 0x0,
    fields := [⟨63, 12, .rwl⟩] },
  { name := "T1C_OBJ_ENTRIES", base := 0x7000018, dims := [], width := 32, latch := false, rst := 0x0,
    fields := [⟨24, 0, .rwl⟩] },
  { name := "T1C_CAPACITY", base := 0x7000040, dims := [(5, 0x8)], width := 64, latch := false, rst := 0x0,
    fields := [⟨35, 0, .ro⟩] },
  { name := "T1C_CHARGED", base := 0x7000080, dims := [(5, 0x8)], width := 64, latch := false, rst := 0x0,
    fields := [⟨35, 0, .ro⟩] },
  { name := "T1C_OBJ_CNT_STALE", base := 0x7000100, dims := [], width := 64, latch := true, rst := 0x0,
    fields := [⟨63, 0, .ro⟩] },
  { name := "T1C_OBJ_CNT_LOST", base := 0x7000108, dims := [], width := 64, latch := true, rst := 0x0,
    fields := [⟨63, 0, .ro⟩] },
  { name := "PLT_LIN_CTL", base := 0x8000000, dims := [(64, 0x20)], width := 64, latch := false, rst := 0x0,
    fields := [⟨39, 32, .ro⟩, ⟨26, 12, .rw⟩, ⟨7, 7, .wo⟩, ⟨6, 6, .wo⟩, ⟨5, 5, .wo⟩, ⟨4, 4, .wo⟩, ⟨3, 0, .ro⟩] },
  { name := "PLT_LIN_SIZE", base := 0x8000008, dims := [(64, 0x20)], width := 64, latch := false, rst := 0x0,
    fields := [⟨28, 0, .ro⟩] },
  { name := "PLT_LIN_DIRTY", base := 0x8000018, dims := [(64, 0x20)], width := 64, latch := false, rst := 0x0,
    fields := [⟨63, 32, .rw⟩, ⟨31, 0, .ro⟩] },
  { name := "PLT_LOUT_CTL", base := 0x8000800, dims := [(64, 0x20)], width := 64, latch := false, rst := 0x0,
    fields := [⟨39, 32, .ro⟩, ⟨26, 12, .rw⟩, ⟨7, 7, .wo⟩, ⟨6, 6, .wo⟩, ⟨5, 5, .wo⟩, ⟨4, 4, .wo⟩, ⟨3, 0, .ro⟩] },
  { name := "PLT_LOUT_SIZE", base := 0x8000808, dims := [(64, 0x20)], width := 64, latch := false, rst := 0x0,
    fields := [⟨28, 0, .rw⟩] },
  { name := "PLT_LOUT_BASE", base := 0x8000810, dims := [(64, 0x20)], width := 64, latch := false, rst := 0x0,
    fields := [⟨63, 16, .rw⟩] },
  { name := "PLT_LEASE_CNT_STALE", base := 0x8001000, dims := [], width := 64, latch := true, rst := 0x0,
    fields := [⟨63, 0, .ro⟩] },
  { name := "T2C_RCV_STAT", base := 0x9000000, dims := [(2, 0x1000)], width := 32, latch := false, rst := 0x0,
    fields := [⟨15, 8, .ro⟩, ⟨7, 0, .ro⟩] },
  { name := "T2C_RCV_CNT_REPAIR", base := 0x9000100, dims := [(2, 0x1000)], width := 64, latch := true, rst := 0x0,
    fields := [⟨63, 0, .ro⟩] },
  { name := "T2C_RCV_CNT_REFETCH", base := 0x9000108, dims := [(2, 0x1000)], width := 64, latch := true, rst := 0x0,
    fields := [⟨63, 0, .ro⟩] },
  { name := "T2C_RCV_CNT_WAITERS", base := 0x9000110, dims := [(2, 0x1000)], width := 64, latch := true, rst := 0x0,
    fields := [⟨63, 0, .ro⟩] },
  { name := "T2C_RCV_CNT_LOST", base := 0x9000118, dims := [(2, 0x1000)], width := 64, latch := true, rst := 0x0,
    fields := [⟨63, 0, .ro⟩] },
  { name := "T2C_RCV_CNT_DEGRADED_READ", base := 0x9000120, dims := [(2, 0x1000)], width := 64, latch := true, rst := 0x0,
    fields := [⟨63, 0, .ro⟩] },
  { name := "T1C_CAP", base := 0xA000000, dims := [(16, 0x1000)], width := 64, latch := false, rst := 0x101100AA02580,
    fields := [⟨55, 48, .ro⟩, ⟨47, 40, .ro⟩, ⟨39, 32, .ro⟩, ⟨31, 16, .ro⟩, ⟨15, 0, .ro⟩] }]

/-- Rows of the register maps, part 5. -/
def regRows5 : List RegDesc := [
  { name := "T1C_CTL", base := 0xA000008, dims := [(16, 0x1000)], width := 32, latch := false, rst := 0x18001000,
    fields := [⟨31, 24, .rw⟩, ⟨15, 0, .rw⟩] },
  { name := "T1C_STAT", base := 0xA00000C, dims := [(16, 0x1000)], width := 32, latch := false, rst := 0x0,
    fields := [⟨31, 28, .ro⟩, ⟨27, 27, .ro⟩, ⟨26, 26, .ro⟩, ⟨25, 16, .ro⟩, ⟨15, 0, .ro⟩] },
  { name := "T1C_TRAIN", base := 0xA000010, dims := [(16, 0x1000)], width := 64, latch := false, rst := 0x0,
    fields := [⟨63, 56, .ro⟩, ⟨55, 40, .ro⟩, ⟨39, 32, .ro⟩] },
  { name := "T1C_SCRUB_POS", base := 0xA000018, dims := [(16, 0x1000)], width := 64, latch := false, rst := 0x0,
    fields := [⟨47, 6, .ro⟩] },
  { name := "T1C_INJ_ADDR", base := 0xA000020, dims := [(16, 0x1000)], width := 64, latch := false, rst := 0x0,
    fields := [⟨47, 6, .rw⟩] },
  { name := "T1C_INJ_CTL", base := 0xA000028, dims := [(16, 0x1000)], width := 32, latch := false, rst := 0x0,
    fields := [⟨31, 31, .w1s⟩, ⟨26, 24, .rw⟩, ⟨23, 22, .rw⟩, ⟨20, 14, .rw⟩, ⟨13, 7, .rw⟩, ⟨6, 0, .rw⟩] },
  { name := "T1C_CNT_CLEAR", base := 0xA000030, dims := [(16, 0x1000)], width := 32, latch := false, rst := 0x0,
    fields := [⟨0, 0, .wo⟩] },
  { name := "T1C_REMAP", base := 0xA000080, dims := [(16, 0x1000), (16, 0x8)], width := 64, latch := false, rst := 0x0,
    fields := [⟨63, 63, .ro⟩, ⟨47, 6, .ro⟩] },
  { name := "T1C_CNT_CORR", base := 0xA000100, dims := [(16, 0x1000)], width := 64, latch := true, rst := 0x0,
    fields := [⟨63, 0, .ro⟩] },
  { name := "T1C_CNT_UNCORR", base := 0xA000108, dims := [(16, 0x1000)], width := 64, latch := true, rst := 0x0,
    fields := [⟨63, 0, .ro⟩] },
  { name := "T1C_CNT_INLINE", base := 0xA000110, dims := [(16, 0x1000)], width := 64, latch := true, rst := 0x0,
    fields := [⟨63, 0, .ro⟩] },
  { name := "T1C_CNT_REMAP", base := 0xA000118, dims := [(16, 0x1000)], width := 64, latch := true, rst := 0x0,
    fields := [⟨63, 0, .ro⟩] },
  { name := "T1C_CNT_REMAP_FULL", base := 0xA000120, dims := [(16, 0x1000)], width := 64, latch := true, rst := 0x0,
    fields := [⟨63, 0, .ro⟩] },
  { name := "T1C_CNT_RD_REFRESH", base := 0xA000128, dims := [(16, 0x1000)], width := 64, latch := true, rst := 0x0,
    fields := [⟨63, 0, .ro⟩] },
  { name := "T1C_CNT_SCRUB_PASS", base := 0xA000130, dims := [(16, 0x1000)], width := 64, latch := true, rst := 0x0,
    fields := [⟨63, 0, .ro⟩] },
  { name := "T1C_CNT_TRACK", base := 0xA000138, dims := [(16, 0x1000)], width := 64, latch := true, rst := 0x0,
    fields := [⟨63, 0, .ro⟩] },
  { name := "T1C_CNT_SEV", base := 0xA000140, dims := [(16, 0x1000)], width := 64, latch := true, rst := 0x0,
    fields := [⟨63, 0, .ro⟩] },
  { name := "T1C_CNT_PD_ENTRY", base := 0xA000148, dims := [(16, 0x1000)], width := 64, latch := true, rst := 0x0,
    fields := [⟨63, 0, .ro⟩] },
  { name := "T2C_CAP", base := 0xB000000, dims := [(12, 0x1000)], width := 64, latch := false, rst := 0x102100AA02260,
    fields := [⟨55, 48, .ro⟩, ⟨47, 40, .ro⟩, ⟨39, 32, .ro⟩, ⟨31, 16, .ro⟩, ⟨15, 0, .ro⟩] },
  { name := "T2C_CTL", base := 0xB000008, dims := [(12, 0x1000)], width := 32, latch := false, rst := 0x18001000,
    fields := [⟨31, 24, .rw⟩, ⟨15, 0, .rw⟩] },
  { name := "T2C_STAT", base := 0xB00000C, dims := [(12, 0x1000)], width := 32, latch := false, rst := 0x0,
    fields := [⟨31, 28, .ro⟩, ⟨27, 27, .ro⟩, ⟨26, 26, .ro⟩, ⟨25, 16, .ro⟩, ⟨15, 0, .ro⟩] },
  { name := "T2C_TRAIN", base := 0xB000010, dims := [(12, 0x1000)], width := 64, latch := false, rst := 0x0,
    fields := [⟨63, 56, .ro⟩, ⟨55, 40, .ro⟩, ⟨39, 32, .ro⟩] },
  { name := "T2C_SCRUB_POS", base := 0xB000018, dims := [(12, 0x1000)], width := 64, latch := false, rst := 0x0,
    fields := [⟨47, 6, .ro⟩] },
  { name := "T2C_INJ_ADDR", base := 0xB000020, dims := [(12, 0x1000)], width := 64, latch := false, rst := 0x0,
    fields := [⟨47, 6, .rw⟩] },
  { name := "T2C_INJ_CTL", base := 0xB000028, dims := [(12, 0x1000)], width := 32, latch := false, rst := 0x0,
    fields := [⟨31, 31, .w1s⟩, ⟨26, 24, .rw⟩, ⟨23, 22, .rw⟩, ⟨20, 14, .rw⟩, ⟨13, 7, .rw⟩, ⟨6, 0, .rw⟩] }]

/-- Rows of the register maps, part 6. -/
def regRows6 : List RegDesc := [
  { name := "T2C_CNT_CLEAR", base := 0xB000030, dims := [(12, 0x1000)], width := 32, latch := false, rst := 0x0,
    fields := [⟨0, 0, .wo⟩] },
  { name := "T2C_LP", base := 0xB00002C, dims := [(12, 0x1000)], width := 32, latch := false, rst := 0x0,
    fields := [⟨31, 24, .rw⟩, ⟨23, 23, .rw⟩, ⟨15, 0, .rw⟩] },
  { name := "T2C_REMAP", base := 0xB000080, dims := [(12, 0x1000), (16, 0x8)], width := 64, latch := false, rst := 0x0,
    fields := [⟨63, 63, .ro⟩, ⟨47, 6, .ro⟩] },
  { name := "T2C_CNT_CORR", base := 0xB000100, dims := [(12, 0x1000)], width := 64, latch := true, rst := 0x0,
    fields := [⟨63, 0, .ro⟩] },
  { name := "T2C_CNT_UNCORR", base := 0xB000108, dims := [(12, 0x1000)], width := 64, latch := true, rst := 0x0,
    fields := [⟨63, 0, .ro⟩] },
  { name := "T2C_CNT_INLINE", base := 0xB000110, dims := [(12, 0x1000)], width := 64, latch := true, rst := 0x0,
    fields := [⟨63, 0, .ro⟩] },
  { name := "T2C_CNT_REMAP", base := 0xB000118, dims := [(12, 0x1000)], width := 64, latch := true, rst := 0x0,
    fields := [⟨63, 0, .ro⟩] },
  { name := "T2C_CNT_REMAP_FULL", base := 0xB000120, dims := [(12, 0x1000)], width := 64, latch := true, rst := 0x0,
    fields := [⟨63, 0, .ro⟩] },
  { name := "T2C_CNT_RD_REFRESH", base := 0xB000128, dims := [(12, 0x1000)], width := 64, latch := true, rst := 0x0,
    fields := [⟨63, 0, .ro⟩] },
  { name := "T2C_CNT_SCRUB_PASS", base := 0xB000130, dims := [(12, 0x1000)], width := 64, latch := true, rst := 0x0,
    fields := [⟨63, 0, .ro⟩] },
  { name := "T2C_CNT_TRACK", base := 0xB000138, dims := [(12, 0x1000)], width := 64, latch := true, rst := 0x0,
    fields := [⟨63, 0, .ro⟩] },
  { name := "T2C_CNT_SEV", base := 0xB000140, dims := [(12, 0x1000)], width := 64, latch := true, rst := 0x0,
    fields := [⟨63, 0, .ro⟩] },
  { name := "T2C_CNT_PD_ENTRY", base := 0xB000148, dims := [(12, 0x1000)], width := 64, latch := true, rst := 0x0,
    fields := [⟨63, 0, .ro⟩] },
  { name := "HP0_CAP", base := 0xD000000, dims := [], width := 64, latch := false, rst := 0x14040000208AB,
    fields := [⟨55, 48, .ro⟩, ⟨47, 40, .ro⟩, ⟨39, 32, .ro⟩, ⟨31, 16, .ro⟩, ⟨11, 8, .ro⟩, ⟨7, 4, .ro⟩, ⟨3, 0, .ro⟩] },
  { name := "HP0_LINK_STAT", base := 0xD000008, dims := [], width := 32, latch := false, rst := 0x0,
    fields := [⟨23, 20, .ro⟩, ⟨19, 14, .ro⟩, ⟨8, 8, .ro⟩, ⟨3, 0, .ro⟩] },
  { name := "HP0_CNT_CLEAR", base := 0xD00000C, dims := [], width := 32, latch := false, rst := 0x0,
    fields := [⟨0, 0, .wo⟩] },
  { name := "HP0_CNT_STALE", base := 0xD000100, dims := [], width := 64, latch := true, rst := 0x0,
    fields := [⟨63, 0, .ro⟩] },
  { name := "HP0_CNT_DB_DROP", base := 0xD000108, dims := [], width := 64, latch := true, rst := 0x0,
    fields := [⟨63, 0, .ro⟩] },
  { name := "HP0_CNT_CMPL_DUP", base := 0xD000110, dims := [], width := 64, latch := true, rst := 0x0,
    fields := [⟨63, 0, .ro⟩] },
  { name := "HP0_CNT_INTAKE_BAD", base := 0xD000118, dims := [], width := 64, latch := true, rst := 0x0,
    fields := [⟨63, 0, .ro⟩] },
  { name := "HP0_CNT_UR", base := 0xD000120, dims := [], width := 64, latch := true, rst := 0x0,
    fields := [⟨63, 0, .ro⟩] },
  { name := "HP0_CNT_CPL_ERR", base := 0xD000128, dims := [], width := 64, latch := true, rst := 0x0,
    fields := [⟨63, 0, .ro⟩] },
  { name := "HP0_CNT_POISON_TX", base := 0xD000130, dims := [], width := 64, latch := true, rst := 0x0,
    fields := [⟨63, 0, .ro⟩] },
  { name := "HP0_CNT_FLR", base := 0xD000138, dims := [], width := 64, latch := true, rst := 0x0,
    fields := [⟨63, 0, .ro⟩] },
  { name := "HP0_WIN_ACT_BASE", base := 0xD100000, dims := [(257, 0x800), (64, 0x20)], width := 64, latch := false, rst := 0x0,
    fields := [⟨63, 16, .ro⟩] }]

/-- Rows of the register maps, part 7. -/
def regRows7 : List RegDesc := [
  { name := "HP0_WIN_ACT_CTL", base := 0xD100008, dims := [(257, 0x800), (64, 0x20)], width := 64, latch := false, rst := 0x0,
    fields := [⟨47, 40, .ro⟩, ⟨31, 17, .ro⟩, ⟨3, 3, .ro⟩, ⟨2, 2, .ro⟩, ⟨1, 1, .ro⟩, ⟨0, 0, .ro⟩] },
  { name := "HP0_WIN_SHD_BASE", base := 0xD100010, dims := [(257, 0x800), (64, 0x20)], width := 64, latch := false, rst := 0x0,
    fields := [⟨63, 16, .rw⟩] },
  { name := "HP0_WIN_SHD_CTL", base := 0xD100018, dims := [(257, 0x800), (64, 0x20)], width := 64, latch := false, rst := 0x0,
    fields := [⟨47, 40, .ro⟩, ⟨31, 17, .rw⟩, ⟨3, 3, .wo⟩, ⟨2, 2, .rw⟩, ⟨1, 1, .rw⟩, ⟨0, 0, .rw⟩] },
  { name := "HP0_QROUTE", base := 0xD400000, dims := [(262144, 0x8)], width := 64, latch := false, rst := 0x0,
    fields := [⟨10, 1, .rw⟩, ⟨0, 0, .rw⟩] },
  { name := "HP0_FN_STAT", base := 0x10000000, dims := [(257, 0x40000)], width := 64, latch := false, rst := 0x0,
    fields := [⟨63, 32, .ro⟩, ⟨9, 9, .ro⟩, ⟨8, 8, .ro⟩, ⟨3, 0, .ro⟩] },
  { name := "HP0_FN_ABORT", base := 0x10000008, dims := [(257, 0x40000)], width := 64, latch := false, rst := 0x0,
    fields := [⟨41, 0, .wo⟩] },
  { name := "HP0_FN_ABORT_STAT", base := 0x10000010, dims := [(257, 0x40000)], width := 64, latch := false, rst := 0x0,
    fields := [⟨63, 56, .ro⟩, ⟨55, 55, .ro⟩, ⟨41, 0, .ro⟩] },
  { name := "HP0_QP_SQ_BASE", base := 0x10020000, dims := [(257, 0x40000), (1024, 0x40)], width := 64, latch := false, rst := 0x0,
    fields := [⟨63, 12, .rw⟩] },
  { name := "HP0_QP_CQ_BASE", base := 0x10020008, dims := [(257, 0x40000), (1024, 0x40)], width := 64, latch := false, rst := 0x0,
    fields := [⟨63, 12, .rw⟩] },
  { name := "HP0_QP_CFG", base := 0x10020010, dims := [(257, 0x40000), (1024, 0x40)], width := 64, latch := false, rst := 0x0,
    fields := [⟨63, 48, .rw⟩, ⟨47, 32, .rw⟩, ⟨31, 24, .rw⟩, ⟨23, 16, .rw⟩, ⟨15, 5, .rw⟩, ⟨4, 4, .rw⟩, ⟨0, 0, .rw⟩] },
  { name := "HP0_QP_STAT", base := 0x10020018, dims := [(257, 0x40000), (1024, 0x40)], width := 64, latch := false, rst := 0x0,
    fields := [⟨63, 48, .ro⟩, ⟨47, 32, .ro⟩, ⟨31, 16, .ro⟩, ⟨15, 8, .ro⟩, ⟨7, 7, .ro⟩, ⟨1, 1, .ro⟩, ⟨0, 0, .ro⟩] },
  { name := "EVR_TR_WR", base := 0x10003000, dims := [(257, 0x40000)], width := 64, latch := false, rst := 0x0,
    fields := [⟨63, 0, .ro⟩] },
  { name := "EVR_TR_RD", base := 0x10003008, dims := [(257, 0x40000)], width := 64, latch := false, rst := 0x0,
    fields := [⟨63, 0, .rw⟩] },
  { name := "EVR_TR_STAT", base := 0x10003010, dims := [(257, 0x40000)], width := 64, latch := false, rst := 0x0,
    fields := [⟨63, 32, .ro⟩, ⟨4, 4, .ro⟩, ⟨3, 0, .ro⟩] },
  { name := "EVR_TR_WHERE", base := 0x10003018, dims := [(257, 0x40000)], width := 64, latch := false, rst := 0x0,
    fields := [⟨63, 12, .ro⟩] },
  { name := "HP1_CAP", base := 0xE000000, dims := [], width := 64, latch := false, rst := 0x11080100C1007,
    fields := [⟨55, 48, .ro⟩, ⟨47, 40, .ro⟩, ⟨39, 36, .ro⟩, ⟨31, 24, .ro⟩, ⟨23, 16, .ro⟩, ⟨15, 8, .ro⟩, ⟨7, 0, .ro⟩] },
  { name := "HP1_LINK_STAT", base := 0xE000008, dims := [], width := 32, latch := false, rst := 0x0,
    fields := [⟨23, 20, .ro⟩, ⟨19, 14, .ro⟩, ⟨8, 8, .ro⟩, ⟨3, 0, .ro⟩] },
  { name := "HP1_CNT_CLEAR", base := 0xE00000C, dims := [], width := 32, latch := false, rst := 0x0,
    fields := [⟨0, 0, .wo⟩] },
  { name := "HP1_POOL_T1", base := 0xE000010, dims := [], width := 64, latch := false, rst := 0x0,
    fields := [⟨47, 32, .rwl⟩, ⟨9, 0, .rwl⟩] },
  { name := "HP1_POOL_T2", base := 0xE000018, dims := [], width := 64, latch := false, rst := 0x0,
    fields := [⟨63, 47, .rwl⟩, ⟨42, 0, .rwl⟩] },
  { name := "HP1_POOL_T3", base := 0xE000020, dims := [], width := 64, latch := false, rst := 0x0,
    fields := [⟨63, 47, .rwl⟩, ⟨42, 0, .rwl⟩] },
  { name := "HP1_POOL_SIDE", base := 0xE000028, dims := [], width := 64, latch := false, rst := 0x0,
    fields := [⟨63, 32, .rwl⟩, ⟨30, 0, .rwl⟩] },
  { name := "HP1_DIR_BASE", base := 0xE000030, dims := [], width := 64, latch := false, rst := 0x0,
    fields := [⟨42, 12, .rwl⟩] },
  { name := "HP1_DIR_MIRROR", base := 0xE000038, dims := [], width := 64, latch := false, rst := 0x0,
    fields := [⟨42, 12, .rwl⟩] },
  { name := "HP1_SHARER_BASE", base := 0xE000040, dims := [], width := 64, latch := false, rst := 0x0,
    fields := [⟨42, 12, .rwl⟩] }]

/-- Rows of the register maps, part 8. -/
def regRows8 : List RegDesc := [
  { name := "HP1_CNT_NOMATCH", base := 0xE000100, dims := [], width := 64, latch := true, rst := 0x0,
    fields := [⟨63, 0, .ro⟩] },
  { name := "HP1_CNT_REVOKE_DROP", base := 0xE000108, dims := [], width := 64, latch := true, rst := 0x0,
    fields := [⟨63, 0, .ro⟩] },
  { name := "HP1_CNT_STALE", base := 0xE000110, dims := [], width := 64, latch := true, rst := 0x0,
    fields := [⟨63, 0, .ro⟩] },
  { name := "HP1_CNT_POISON_TX", base := 0xE000118, dims := [], width := 64, latch := true, rst := 0x0,
    fields := [⟨63, 0, .ro⟩] },
  { name := "HP1_CNT_CACHE_HIT", base := 0xE000120, dims := [], width := 64, latch := true, rst := 0x0,
    fields := [⟨63, 0, .ro⟩] },
  { name := "HP1_CNT_CACHE_MISS", base := 0xE000128, dims := [], width := 64, latch := true, rst := 0x0,
    fields := [⟨63, 0, .ro⟩] },
  { name := "HP1_CNT_PLAIN_BYTES", base := 0xE000130, dims := [], width := 64, latch := true, rst := 0x0,
    fields := [⟨63, 0, .ro⟩] },
  { name := "HP1_CNT_FRAME_BYTES", base := 0xE000138, dims := [], width := 64, latch := true, rst := 0x0,
    fields := [⟨63, 0, .ro⟩] },
  { name := "HP1_CNT_BISNP", base := 0xE000140, dims := [], width := 64, latch := true, rst := 0x0,
    fields := [⟨63, 0, .ro⟩] },
  { name := "HP1_CNT_BI_TIMEOUT", base := 0xE000148, dims := [], width := 64, latch := true, rst := 0x0,
    fields := [⟨63, 0, .ro⟩] },
  { name := "HP1_CNT_PUBLISH", base := 0xE000150, dims := [], width := 64, latch := true, rst := 0x0,
    fields := [⟨63, 0, .ro⟩] },
  { name := "HP1_CNT_CONFLICT", base := 0xE000158, dims := [], width := 64, latch := true, rst := 0x0,
    fields := [⟨63, 0, .ro⟩] },
  { name := "HP1_CNT_DRAFT_FULL", base := 0xE000160, dims := [], width := 64, latch := true, rst := 0x0,
    fields := [⟨63, 0, .ro⟩] },
  { name := "HP1_CNT_HOLD", base := 0xE000168, dims := [], width := 64, latch := true, rst := 0x0,
    fields := [⟨63, 0, .ro⟩] },
  { name := "HP1_HOST", base := 0xE010000, dims := [(4096, 0x8)], width := 64, latch := false, rst := 0x400000,
    fields := [⟨31, 16, .rw⟩, ⟨7, 0, .rw⟩] },
  { name := "HP1_REGION_CFG", base := 0xE020000, dims := [(256, 0x10)], width := 64, latch := false, rst := 0x0,
    fields := [⟨63, 32, .rw⟩, ⟨31, 16, .rw⟩, ⟨2, 1, .rw⟩, ⟨0, 0, .rw⟩] },
  { name := "HP1_REGION_STAT", base := 0xE020008, dims := [(256, 0x10)], width := 64, latch := false, rst := 0x0,
    fields := [⟨63, 32, .ro⟩, ⟨31, 8, .ro⟩, ⟨4, 0, .ro⟩] },
  { name := "HP1_EXT", base := 0xE100000, dims := [(65536, 0x8)], width := 64, latch := false, rst := 0x0,
    fields := [⟨16, 16, .rw⟩, ⟨15, 8, .rw⟩, ⟨5, 4, .ro⟩, ⟨3, 0, .ro⟩] },
  { name := "HP1_RANGE_A", base := 0xE200000, dims := [(65536, 0x10)], width := 64, latch := false, rst := 0x0,
    fields := [⟨63, 52, .rw⟩, ⟨51, 28, .rw⟩, ⟨15, 0, .rw⟩] },
  { name := "HP1_RANGE_B", base := 0xE200008, dims := [(65536, 0x10)], width := 64, latch := false, rst := 0x0,
    fields := [⟨47, 40, .ro⟩, ⟨39, 24, .rw⟩, ⟨7, 4, .ro⟩, ⟨3, 3, .wo⟩, ⟨2, 2, .rw⟩, ⟨1, 1, .rw⟩, ⟨0, 0, .wo⟩] },
  { name := "PLT_CAP", base := 0xF000000, dims := [], width := 64, latch := false, rst := 0x102104020080F,
    fields := [⟨55, 48, .ro⟩, ⟨47, 40, .ro⟩, ⟨39, 32, .ro⟩, ⟨31, 24, .ro⟩, ⟨23, 16, .ro⟩, ⟨15, 8, .ro⟩, ⟨7, 0, .ro⟩] },
  { name := "PLT_SYS", base := 0xF000008, dims := [], width := 64, latch := false, rst := 0x0,
    fields := [⟨46, 42, .rwl⟩, ⟨41, 37, .rwl⟩, ⟨36, 32, .rwl⟩, ⟨14, 10, .rwl⟩, ⟨9, 5, .rwl⟩, ⟨4, 0, .rwl⟩] },
  { name := "PLT_CTL", base := 0xF000010, dims := [], width := 32, latch := false, rst := 0xA00,
    fields := [⟨31, 16, .rw⟩, ⟨15, 8, .rw⟩] },
  { name := "PLT_TEST_EN", base := 0xF000014, dims := [], width := 32, latch := false, rst := 0x0,
    fields := [⟨0, 0, .ro⟩] },
  { name := "PLT_CNT_CLEAR", base := 0xF000018, dims := [], width := 32, latch := false, rst := 0x0,
    fields := [⟨0, 0, .wo⟩] }]

/-- Rows of the register maps, part 9. -/
def regRows9 : List RegDesc := [
  { name := "PLT_CNT_STALE", base := 0xF000100, dims := [], width := 64, latch := true, rst := 0x0,
    fields := [⟨63, 0, .ro⟩] },
  { name := "PLT_CNT_UNREACH", base := 0xF000108, dims := [], width := 64, latch := true, rst := 0x0,
    fields := [⟨63, 0, .ro⟩] },
  { name := "PLT_CNT_TIMEOUT", base := 0xF000110, dims := [], width := 64, latch := true, rst := 0x0,
    fields := [⟨63, 0, .ro⟩] },
  { name := "PLT_CNT_DETOUR", base := 0xF000118, dims := [], width := 64, latch := true, rst := 0x0,
    fields := [⟨63, 0, .ro⟩] },
  { name := "PLT_CNT_NOLEASE", base := 0xF000120, dims := [], width := 64, latch := true, rst := 0x0,
    fields := [⟨63, 0, .ro⟩] },
  { name := "PLT_CNT_LOST_PKT", base := 0xF000128, dims := [], width := 64, latch := true, rst := 0x0,
    fields := [⟨63, 0, .ro⟩] },
  { name := "PLT_CNT_COLL_FAIL", base := 0xF000130, dims := [], width := 64, latch := true, rst := 0x0,
    fields := [⟨63, 0, .ro⟩] },
  { name := "PLT_PORT_STAT", base := 0xF010000, dims := [(16, 0x1000)], width := 64, latch := false, rst := 0x0,
    fields := [⟨55, 48, .ro⟩, ⟨47, 44, .ro⟩, ⟨43, 29, .ro⟩, ⟨15, 12, .ro⟩, ⟨11, 8, .ro⟩, ⟨3, 0, .ro⟩] },
  { name := "PLT_PORT_LAMBDA", base := 0xF010008, dims := [(16, 0x1000)], width := 32, latch := false, rst := 0x0,
    fields := [⟨23, 16, .ro⟩, ⟨15, 8, .ro⟩, ⟨7, 0, .ro⟩] },
  { name := "PLT_TEST_CTL", base := 0xF010010, dims := [(16, 0x1000)], width := 64, latch := false, rst := 0x0,
    fields := [⟨63, 48, .rw⟩, ⟨47, 32, .rw⟩, ⟨31, 16, .rw⟩, ⟨15, 11, .rw⟩, ⟨8, 8, .rw⟩, ⟨7, 0, .rw⟩] },
  { name := "PLT_CNT_FEC_CORR", base := 0xF010100, dims := [(16, 0x1000)], width := 64, latch := true, rst := 0x0,
    fields := [⟨63, 0, .ro⟩] },
  { name := "PLT_CNT_FEC_UNCORR", base := 0xF010108, dims := [(16, 0x1000)], width := 64, latch := true, rst := 0x0,
    fields := [⟨63, 0, .ro⟩] },
  { name := "PLT_CNT_CRC", base := 0xF010110, dims := [(16, 0x1000)], width := 64, latch := true, rst := 0x0,
    fields := [⟨63, 0, .ro⟩] },
  { name := "PLT_CNT_REPLAY", base := 0xF010118, dims := [(16, 0x1000)], width := 64, latch := true, rst := 0x0,
    fields := [⟨63, 0, .ro⟩] },
  { name := "PLT_CNT_RETRAIN", base := 0xF010120, dims := [(16, 0x1000)], width := 64, latch := true, rst := 0x0,
    fields := [⟨63, 0, .ro⟩] },
  { name := "PLT_CNT_FLITS_TX", base := 0xF010128, dims := [(16, 0x1000)], width := 64, latch := true, rst := 0x0,
    fields := [⟨63, 0, .ro⟩] },
  { name := "PLT_CNT_FLITS_RX", base := 0xF010130, dims := [(16, 0x1000)], width := 64, latch := true, rst := 0x0,
    fields := [⟨63, 0, .ro⟩] },
  { name := "PLT_CNT_INJECT", base := 0xF010138, dims := [(16, 0x1000)], width := 64, latch := true, rst := 0x0,
    fields := [⟨63, 0, .ro⟩] },
  { name := "PLT_COLL_CTL", base := 0xF020000, dims := [(64, 0x40)], width := 64, latch := false, rst := 0x0,
    fields := [⟨63, 32, .rw⟩, ⟨31, 24, .ro⟩, ⟨11, 10, .rw⟩, ⟨9, 8, .rw⟩, ⟨2, 2, .wo⟩, ⟨1, 1, .wo⟩, ⟨0, 0, .rw⟩] },
  { name := "PLT_COLL_BOX", base := 0xF020008, dims := [(64, 0x40)], width := 64, latch := false, rst := 0x0,
    fields := [⟨29, 25, .rw⟩, ⟨24, 20, .rw⟩, ⟨19, 15, .rw⟩, ⟨14, 10, .rw⟩, ⟨9, 5, .rw⟩, ⟨4, 0, .rw⟩] },
  { name := "PLT_COLL_SRC", base := 0xF020010, dims := [(64, 0x40)], width := 64, latch := false, rst := 0x0,
    fields := [⟨63, 0, .rw⟩] },
  { name := "PLT_COLL_DST", base := 0xF020018, dims := [(64, 0x40)], width := 64, latch := false, rst := 0x0,
    fields := [⟨63, 0, .rw⟩] },
  { name := "PLT_COLL_STAT", base := 0xF020020, dims := [(64, 0x40)], width := 64, latch := false, rst := 0x0,
    fields := [⟨63, 32, .ro⟩, ⟨23, 16, .ro⟩, ⟨3, 0, .ro⟩] },
  { name := "PLT_COLL_NOTIFY", base := 0xF020028, dims := [(64, 0x40)], width := 64, latch := false, rst := 0x0,
    fields := [⟨63, 0, .rw⟩] },
  { name := "QOS_CAP", base := 0x18000000, dims := [], width := 64, latch := false, rst := 0x1150103045000,
    fields := [⟨55, 48, .ro⟩, ⟨47, 40, .ro⟩, ⟨39, 24, .ro⟩, ⟨23, 16, .ro⟩, ⟨15, 8, .ro⟩] }]

/-- Rows of the register maps, part 10. -/
def regRows10 : List RegDesc := [
  { name := "QOS_ADMIT_STAT", base := 0x18000008, dims := [], width := 64, latch := false, rst := 0x0,
    fields := [⟨39, 24, .ro⟩, ⟨23, 15, .ro⟩, ⟨14, 10, .ro⟩, ⟨1, 1, .ro⟩, ⟨0, 0, .ro⟩] },
  { name := "QOS_CNT_CLEAR", base := 0x18000010, dims := [], width := 32, latch := false, rst := 0x0,
    fields := [⟨0, 0, .wo⟩] },
  { name := "QOS_CNT_REFUSED", base := 0x18000100, dims := [], width := 64, latch := true, rst := 0x0,
    fields := [⟨63, 0, .ro⟩] },
  { name := "QOS_CNT_SCALED", base := 0x18000108, dims := [], width := 64, latch := true, rst := 0x0,
    fields := [⟨63, 0, .ro⟩] },
  { name := "QOS_RES_STAT", base := 0x18001000, dims := [(32, 0x20)], width := 64, latch := false, rst := 0x0,
    fields := [⟨49, 48, .ro⟩, ⟨47, 32, .ro⟩, ⟨31, 16, .ro⟩, ⟨15, 0, .ro⟩] },
  { name := "QOS_RES_CFG", base := 0x18001008, dims := [(32, 0x20)], width := 64, latch := false, rst := 0x642,
    fields := [⟨11, 8, .rw⟩, ⟨7, 4, .rw⟩, ⟨3, 0, .rw⟩] },
  { name := "QOS_RES_CNT_HIGH", base := 0x18001010, dims := [(32, 0x20)], width := 64, latch := true, rst := 0x0,
    fields := [⟨63, 0, .ro⟩] },
  { name := "QOS_RES_CNT_CRIT", base := 0x18001018, dims := [(32, 0x20)], width := 64, latch := true, rst := 0x0,
    fields := [⟨63, 0, .ro⟩] },
  { name := "QOS_BW", base := 0x18010000, dims := [(259, 0x100), (32, 0x8)], width := 64, latch := false, rst := 0x0,
    fields := [⟨47, 32, .ro⟩, ⟨31, 16, .rw⟩, ⟨15, 0, .rw⟩] },
  { name := "QOS_TEN_CTL", base := 0x18030000, dims := [(256, 0x20)], width := 64, latch := false, rst := 0x1000,
    fields := [⟨31, 16, .rw⟩, ⟨15, 0, .rw⟩] },
  { name := "QOS_TEN_STAT", base := 0x18030008, dims := [(256, 0x20)], width := 64, latch := false, rst := 0x0,
    fields := [⟨31, 0, .ro⟩] },
  { name := "QOS_CNT_IRQ_DELAY", base := 0x18030010, dims := [(256, 0x20)], width := 64, latch := true, rst := 0x0,
    fields := [⟨63, 0, .ro⟩] },
  { name := "QOS_CNT_INFLIGHT_HOLD", base := 0x18030018, dims := [(256, 0x20)], width := 64, latch := true, rst := 0x0,
    fields := [⟨63, 0, .ro⟩] },
  { name := "QOS_LAT_MAX", base := 0x18040000, dims := [(256, 0x80), (4, 0x20)], width := 64, latch := false, rst := 0x0,
    fields := [⟨31, 0, .ro⟩] },
  { name := "QOS_LAT_CNT", base := 0x18040008, dims := [(256, 0x80), (4, 0x20)], width := 64, latch := true, rst := 0x0,
    fields := [⟨63, 0, .ro⟩] },
  { name := "QOS_LAT_MISS", base := 0x18040010, dims := [(256, 0x80), (4, 0x20)], width := 64, latch := true, rst := 0x0,
    fields := [⟨63, 0, .ro⟩] },
  { name := "QOS_LAT_CFG", base := 0x18040018, dims := [(256, 0x80), (4, 0x20)], width := 64, latch := false, rst := 0x0,
    fields := [⟨33, 33, .ro⟩, ⟨32, 32, .wo⟩, ⟨31, 0, .rw⟩] },
  { name := "EVR_CAP", base := 0x19000000, dims := [], width := 64, latch := false, rst := 0x10108150F0000,
    fields := [⟨55, 48, .ro⟩, ⟨47, 40, .ro⟩, ⟨39, 32, .ro⟩, ⟨31, 24, .ro⟩, ⟨23, 16, .ro⟩] },
  { name := "EVR_MAIN_BASE", base := 0x19000008, dims := [], width := 64, latch := false, rst := 0x0,
    fields := [⟨63, 26, .rwl⟩] },
  { name := "EVR_MAIN_WR", base := 0x19000010, dims := [], width := 64, latch := false, rst := 0x0,
    fields := [⟨63, 0, .ro⟩] },
  { name := "EVR_MAIN_RD", base := 0x19000018, dims := [], width := 64, latch := false, rst := 0x0,
    fields := [⟨63, 0, .rw⟩] },
  { name := "EVR_CTL", base := 0x19000020, dims := [], width := 32, latch := false, rst := 0x0,
    fields := [⟨15, 5, .rw⟩, ⟨0, 0, .rw⟩] },
  { name := "EVR_CNT_CLEAR", base := 0x19000024, dims := [], width := 32, latch := false, rst := 0x0,
    fields := [⟨0, 0, .wo⟩] },
  { name := "EVR_CNT_OVERRUN", base := 0x19000100, dims := [], width := 64, latch := true, rst := 0x0,
    fields := [⟨63, 0, .ro⟩] },
  { name := "EVR_CNT_LOST", base := 0x19000108, dims := [], width := 64, latch := true, rst := 0x0,
    fields := [⟨63, 0, .ro⟩] }]

/-- Rows of the register maps, part 11. -/
def regRows11 : List RegDesc := [
  { name := "EVR_CNT_SRC_DROP", base := 0x19000110, dims := [], width := 64, latch := true, rst := 0x0,
    fields := [⟨63, 0, .ro⟩] },
  { name := "EVR_CODE_CFG", base := 0x19010000, dims := [(4096, 0x8)], width := 32, latch := false, rst := 0x100801,
    fields := [⟨23, 16, .rw⟩, ⟨15, 8, .rw⟩, ⟨2, 2, .ro⟩, ⟨1, 1, .ro⟩, ⟨0, 0, .rw⟩] },
  { name := "EVR_CODE_CNT", base := 0x19020000, dims := [(4096, 0x8)], width := 64, latch := true, rst := 0x0,
    fields := [⟨63, 0, .ro⟩] },
  { name := "EVR_T0_CNT_CORR", base := 0x19030000, dims := [(64, 0x10)], width := 64, latch := true, rst := 0x0,
    fields := [⟨63, 0, .ro⟩] },
  { name := "EVR_T0_CNT_UNCORR", base := 0x19030008, dims := [(64, 0x10)], width := 64, latch := true, rst := 0x0,
    fields := [⟨63, 0, .ro⟩] },
  { name := "EVR_TR_BASE", base := 0x19040000, dims := [(256, 0x10)], width := 64, latch := false, rst := 0x0,
    fields := [⟨63, 12, .rw⟩, ⟨3, 0, .rw⟩] },
  { name := "EVR_TR_CTL", base := 0x19040008, dims := [(256, 0x10)], width := 64, latch := false, rst := 0x202000000000,
    fields := [⟨47, 40, .rw⟩, ⟨39, 32, .rw⟩, ⟨15, 5, .rw⟩, ⟨1, 1, .rw⟩, ⟨0, 0, .rw⟩] },
  { name := "FMN_CAP", base := 0x0, dims := [], width := 64, latch := false, rst := 0x102404000000F,
    fields := [⟨55, 48, .ro⟩, ⟨47, 40, .ro⟩, ⟨39, 32, .ro⟩, ⟨31, 28, .ro⟩, ⟨7, 0, .ro⟩] },
  { name := "FMN_LEAD_STAT", base := 0x8, dims := [], width := 64, latch := false, rst := 0x2,
    fields := [⟨63, 32, .ro⟩, ⟨3, 3, .ro⟩, ⟨2, 2, .ro⟩, ⟨1, 1, .ro⟩, ⟨0, 0, .ro⟩] },
  { name := "FMN_CLAIM", base := 0x10, dims := [(2, 0x8)], width := 64, latch := false, rst := 0x0,
    fields := [⟨63, 32, .ro⟩, ⟨31, 16, .ro⟩, ⟨3, 3, .ro⟩, ⟨2, 2, .ro⟩, ⟨1, 1, .ro⟩, ⟨0, 0, .ro⟩] },
  { name := "FMN_BOOT_STAT", base := 0x20, dims := [(2, 0x8)], width := 64, latch := false, rst := 0x3,
    fields := [⟨55, 48, .ro⟩, ⟨47, 40, .ro⟩, ⟨39, 32, .ro⟩, ⟨7, 4, .ro⟩, ⟨1, 0, .ro⟩] },
  { name := "FMN_FUSE_STAT", base := 0x30, dims := [], width := 64, latch := false, rst := 0x0,
    fields := [⟨47, 40, .ro⟩, ⟨35, 32, .ro⟩, ⟨23, 16, .ro⟩, ⟨1, 1, .ro⟩, ⟨0, 0, .ro⟩] },
  { name := "FMN_FUSE_PROG", base := 0x38, dims := [], width := 32, latch := false, rst := 0x0,
    fields := [⟨31, 31, .ro⟩, ⟨11, 8, .wo⟩, ⟨6, 0, .wo⟩] },
  { name := "FMN_ID_PUB", base := 0x40, dims := [(8, 0x8)], width := 64, latch := false, rst := 0x0,
    fields := [⟨63, 0, .ro⟩] },
  { name := "FMN_TEST_NONCE", base := 0x80, dims := [], width := 64, latch := false, rst := 0x0,
    fields := [⟨63, 0, .ro⟩] },
  { name := "FMN_SMB_CFG", base := 0x88, dims := [], width := 32, latch := false, rst := 0x60,
    fields := [⟨15, 8, .ro⟩, ⟨6, 0, .ro⟩] },
  { name := "FMN_CNT_SPLIT", base := 0x100, dims := [], width := 64, latch := true, rst := 0x0,
    fields := [⟨63, 0, .ro⟩] },
  { name := "FMN_CNT_GATED", base := 0x108, dims := [], width := 64, latch := true, rst := 0x0,
    fields := [⟨63, 0, .ro⟩] },
  { name := "FMN_CNT_MGMT_DROP", base := 0x110, dims := [], width := 64, latch := true, rst := 0x0,
    fields := [⟨63, 0, .ro⟩] },
  { name := "FMN_CNT_TOKEN_REJECT", base := 0x118, dims := [], width := 64, latch := true, rst := 0x0,
    fields := [⟨63, 0, .ro⟩] },
  { name := "PWR_CAP_CFG", base := 0x1A000000, dims := [], width := 32, latch := false, rst := 0x898,
    fields := [⟨11, 0, .rw⟩] },
  { name := "PWR_THERM_CFG", base := 0x1A000004, dims := [], width := 32, latch := false, rst := 0x64,
    fields := [⟨7, 0, .rw⟩] },
  { name := "PWR_STAT", base := 0x1A000008, dims := [], width := 64, latch := false, rst := 0x400040,
    fields := [⟨43, 32, .ro⟩, ⟨22, 16, .ro⟩, ⟨6, 0, .ro⟩] },
  { name := "PWR_TEMP", base := 0x1A000010, dims := [], width := 64, latch := false, rst := 0x0,
    fields := [⟨47, 0, .ro⟩] },
  { name := "PWR_HALF_CTL", base := 0x1A000018, dims := [(2, 0x4)], width := 32, latch := false, rst := 0x40,
    fields := [⟨8, 8, .rw⟩, ⟨6, 0, .rw⟩] }]

/-- Rows of the register maps, part 12. -/
def regRows12 : List RegDesc := [
  { name := "PWR_CNT_POWER_MS", base := 0x1A000100, dims := [], width := 64, latch := true, rst := 0x0,
    fields := [⟨63, 0, .ro⟩] },
  { name := "PWR_CNT_THERMAL_MS", base := 0x1A000108, dims := [], width := 64, latch := true, rst := 0x0,
    fields := [⟨63, 0, .ro⟩] },
  { name := "CLK_CAP", base := 0x1B000000, dims := [], width := 64, latch := false, rst := 0x12A3064100604,
    fields := [⟨55, 48, .ro⟩, ⟨47, 32, .ro⟩, ⟨31, 24, .ro⟩, ⟨23, 16, .ro⟩, ⟨15, 8, .ro⟩, ⟨7, 0, .ro⟩] },
  { name := "CLK_STAT", base := 0x1B000008, dims := [], width := 32, latch := false, rst := 0x0,
    fields := [⟨29, 24, .ro⟩, ⟨1, 1, .ro⟩, ⟨0, 0, .ro⟩] },
  { name := "CLK_RESET_CAUSE", base := 0x1B00000C, dims := [], width := 32, latch := false, rst := 0x0,
    fields := [⟨7, 4, .ro⟩, ⟨3, 0, .ro⟩] },
  { name := "CLK_START_STAT", base := 0x1B000010, dims := [], width := 64, latch := false, rst := 0x0,
    fields := [⟨47, 32, .ro⟩, ⟨31, 16, .ro⟩, ⟨15, 4, .ro⟩, ⟨3, 0, .ro⟩] },
  { name := "CLK_RAIL_STAT", base := 0x1B000018, dims := [], width := 32, latch := false, rst := 0x3FF,
    fields := [⟨9, 0, .ro⟩] },
  { name := "CLK_CNT_EARLY", base := 0x1B000100, dims := [], width := 64, latch := true, rst := 0x0,
    fields := [⟨63, 0, .ro⟩] }]

/-- Every row of every register map. -/
def regTable : List RegDesc :=
  regRows0 ++ regRows1 ++ regRows2 ++ regRows3 ++ regRows4 ++ regRows5 ++ regRows6 ++ regRows7 ++ regRows8 ++ regRows9 ++ regRows10 ++ regRows11 ++ regRows12

/-- The indices that an offset inside an array of registers spells, if it is one of its copies. -/
def dimIndex : List (Nat × Nat) → Nat → Option (List Nat)
  | [], d => if d = 0 then some [] else none
  | (c, st) :: ds, d =>
    let i := d / st
    if i < c then (dimIndex ds (d % st)).map (i :: ·) else none

/-- The register whose first byte stands at a control offset, with its indices. -/
def regAt (off : Nat) : Option (RegDesc × List Nat) :=
  regTable.findSome? fun r => if r.base ≤ off then (dimIndex r.dims (off - r.base)).map fun i => (r, i) else none

end Sys2Proof.Machine
end

