-- ==== Sys2Proof/Machine/State.lean ====
section
/-! DEFINITION. The state of the part as plain data, the reasons a step can stop, and the state right after a
fundamental reset. Almost every control register lives in `ctl`, keyed by its offset in control space; a register
that `ctl` does not list reads as its reset value in Machine/Regs.lean. -/

namespace Sys2Proof.Machine

/-- Why the machine stops. -/
inductive Fault where
  /-- Raised by the SUPPLY_FAULT of a rail beyond an absolute limit (R1: past it, no statement of the manual holds for
  that part). Safe: the machine stops and the model then says nothing. -/
  | beyondAbsoluteLimits
deriving DecidableEq, Repr

/-- Why a command is refused. -/
inductive Refusal where
  /-- Raised by an arm of the dispatcher that has no meaning yet. Safe: nothing can be concluded of it. -/
  | notModelled (mnemonic : String)
deriving DecidableEq, Repr

/-! ### Events (spec/14_events_and_errors.md) -/

/-- R372: a record as its source holds it; PARAM3 holds the tenant in [31:24] for codes marked T. -/
structure EvRec where
  code   : Nat
  kind   : Nat
  inst   : Nat
  p0     : Nat
  p1     : Nat
  p2     : Nat
  p3     : Nat
  time   : Nat
  tenant : Option Nat
deriving DecidableEq, Repr

/-- R383, R384: a token bucket of a code (and key) or of a tenant ring: what it has spent, the records suppressed since the
last written one, and the PCLK time at which the running refill period ends while it is not full. -/
structure EvBucket where
  spent      : Nat
  suppressed : Nat
  ends       : Nat
deriving DecidableEq, Repr

/-- R378 to R384: the recorder's working state. -/
structure Recorder where
  /-- R380: records each source holds, oldest first; the key is KIND × 2048 + INSTANCE. -/
  queues   : SMap (List EvRec)
  /-- R383, R384: buckets by code × 65536 + key. -/
  buckets  : SMap EvBucket
  /-- R383: each tenant ring's bucket. -/
  trBucket : SMap EvBucket
  /-- R378: accepted records kept until EVR_MAIN_BASE is written, each with its MARK's SUPPRESSED and TENANT bits. -/
  preBase  : List (EvRec × Nat × Bool)
  /-- R381: tenant rings whose zero fill has not ended. -/
  filling  : List Nat
  /-- R411: FATAL records the sideband has not collected, oldest first. -/
  fatal    : List EvRec
deriving DecidableEq, Repr

/-! ### Seam links (spec/01_device_organisation.md) -/

/-- R21, R22, R23: one direction of a seam link: the next sequence number, the one that the sender's retry buffer begins
with, one past the highest known to have been sent, replays of the same flit in a row, the window of 2^20 flits with its
CRC failures, and the flits passed on. -/
structure SeamDir where
  rxSeq     : Nat
  acked     : Nat
  sent      : Nat
  replays   : Nat
  winFlits  : Nat
  winErrors : Nat
  delivered : Nat
deriving DecidableEq, Repr

/-- R22, R23: links whose failover is not complete, and the flit directions (link × 2 + direction). -/
structure Seams where
  dirs      : SMap SeamDir
  failing   : List Nat
deriving DecidableEq, Repr

/-! ### Memory and its controllers (spec/07, spec/08) -/

/-- R227: the activate table of one bank: rows with counts, and the spill count. -/
structure ActTable where
  rows  : List (Nat × Nat)
  spill : Nat
deriving DecidableEq, Repr

/-- The unit a recovery entry is keyed by (R195). -/
inductive UnitKey where
  | t0Page (p : Nat)
  | t1Page (p : Nat)
  | t2Stripe (row : Nat)
  | t2Page (p : Nat)
  | t3Chunk (c : Nat)
  | t3Stripe (row : Nat)
  | tdExtent (x : Nat)
deriving DecidableEq, Repr

/-- Who waits on a recovery entry (R196, R199): each is answered in its own form. -/
inductive Waiter where
  | outside
  | ctx (c : Nat)
  | engine (e : Nat)
  | fill (hoist slot : Nat)
  | refetch (hoist slot tile : Nat)
  | tile (mxe queue : Nat)
  | scrub (ctrl : Nat)
  | pool (page : Nat)
  | remote (peer tag : Nat)
  | host (id : Nat)
  | coll (c : Nat)
deriving DecidableEq, Repr

/-- R196, R237: a write that is held: its address and bytes, whether it sets dirty bits (R180), and whose it is. -/
structure Held where
  addr : Nat
  data : List Byte
  mark : Bool
  who  : Waiter
deriving DecidableEq, Repr

/-- R196: an open recovery entry: its H-die, its unit, the attached reads and the held writes, in arrival order. -/
structure RcvEntry where
  hdie    : Nat
  key     : UnitKey
  waiters : List Waiter
  writes  : List Held
deriving DecidableEq, Repr

/-- R198: bytes of a rebuilt unit that a requester has still to take, as they stood before the held writes. -/
structure Given where
  who  : Waiter
  addr : Nat
  data : List Byte
deriving DecidableEq, Repr

/-- The state of the memories beside their bytes. -/
structure MemSys where
  /-- 80-bit masks of codeword bits now wrong, by word address (part address / 8); only non-zero masks are listed. -/
  flips     : SMap Nat
  /-- Masks of codeword bits of a word that go wrong again at every write (a hard fault). -/
  stuck     : SMap Nat
  /-- R227: activate tables by controller × 65536 + bank (stacks 0 to 15, channels 16 to 27). -/
  acts      : SMap ActTable
  /-- R221: inline bursts in a stack's check cache, by stack, oldest first (group numbers), and whether each is dirty. -/
  ckCache   : SMap (List (Nat × Bool))
  /-- R232: distinct lines found uncorrectable, with the NCLK time, by controller. -/
  ucLines   : SMap (List (Nat × Nat))
  /-- R226: NCLK time of the last refresh, and whether the memory reported above 85 °C. -/
  refreshed : SMap (Nat × Bool)
  /-- R235: ranks in power-down (controller × 16 + rank), and the NCLK time of each rank's last access. -/
  pdRanks   : List Nat
  rankUsed  : SMap Nat
  /-- R237: PASR_MASK applied at the entry into self-refresh, by channel. -/
  srMask    : SMap Nat
  /-- R229: controllers whose full remap table has been recorded. -/
  fullTold  : List Nat
  /-- R180: dirty T1 pages, dirty T2 extents, dirty drift extents (lease × 2^29 + extent). -/
  dirtyT1   : List Nat
  dirtyT2   : List Nat
  dirtyTD   : List Nat
  /-- R196: open recovery entries, and damaged units that wait for one. -/
  rcv       : List RcvEntry
  rcvWait   : List RcvEntry
  /-- R196: requesters whose read stalls because its controller holds as many as it can. -/
  credit    : List Waiter
  /-- R198: answers of repairs not yet taken. -/
  given     : List Given
  /-- R237: writes that a channel in self-refresh holds, in arrival order. -/
  srHeld    : List Held
  /-- R214: GiB of the module of each trained channel. -/
  modGib    : SMap Nat
  /-- R233, R234: self-test phases a controller has passed (4: the fill runs; 5: filled, phase 5 runs). -/
  bring     : SMap Nat
  /-- R199: requesters whose held read ended in a failed repair and who have not yet been told. -/
  failed    : List Waiter
  /-- R450: the stored length L that CREATE fixed, by index; the entry has no field for it. -/
  stored    : SMap Nat
deriving DecidableEq, Repr

/-- R167, R168: a command the part has given an SSD, for bytes of one 128 KiB chunk from `off` up, on behalf of an engine or of a pool page. `flush` says that
the Flush after its completion is what is awaited. -/
structure NvmeCmd where
  id    : Nat
  port  : Nat
  chunk : Nat
  off   : Nat
  write : Bool
  flush : Bool
  owner : Nat
  data  : List Byte
  /-- NCLK time of its issue. -/
  time  : Nat
deriving DecidableEq, Repr

/-- R167, R168: the SSD of a root port. -/
structure Ssd where
  present  : Bool
  ready    : Bool
  volatile : Bool
  /-- NCLK time of the last controller reset from which it has not returned. -/
  resetAt  : Option Nat
  outOfService : Bool
  units    : Nat
  /-- R167: the I/O queue pairs that the part has created on it. -/
  queues   : Nat
  /-- Link speed in GT/s and width (R353). -/
  speed    : Nat
  width    : Nat
deriving DecidableEq, Repr

/-- A chunk transfer that has ended, for an engine: with its success. -/
structure NvmeEnd where
  owner : Nat
  chunk : Nat
  write : Bool
  ok    : Bool
deriving DecidableEq, Repr

/-- T3: bytes of the deep-lode group by group offset, chunks that read badly, the SSDs, and the NVMe commands. -/
structure DeepLode where
  cells   : List Host.Cell
  bad     : List Nat
  ssds    : SMap Ssd
  cmds    : List NvmeCmd
  nextId  : Nat
  ends    : List NvmeEnd
deriving DecidableEq, Repr


/-! ### Matrix engines (spec/03, spec/04) -/

/-- R52, R68: a weight buffer: the decoded tile, its BLOCK32 records, and how it came to hold them. -/
structure WBuf where
  valid   : Bool
  rows    : List (List Int)
  int4    : Bool
  scales  : Option (List Nat)
  standby : Bool
  /-- The hoist slot it was loaded through. -/
  slot    : Option Nat
  /-- Words with one flipped bit, and whether a word has two (R68). -/
  single  : Nat
  double  : Bool
deriving DecidableEq, Repr

/-- R82, R68: the stream buffer: 256 words of 128 bytes, by word; unlisted words are zero. -/
structure StreamBuf where
  valid  : Bool
  words  : SMap (List Byte)
  single : List Nat
  double : List Nat
deriving DecidableEq, Repr

/-- R64, R83: a starter granule: its bytes and what CBLOAD tagged it with. -/
structure Granule where
  held      : Bool
  usable    : Bool
  bytes     : List Byte
  starterId : Nat
  int4      : Bool
  wide      : Bool
  single    : Nat
  double    : Bool
deriving DecidableEq, Repr

/-- R54: an accumulator bank; unlisted rows are zero with no flag set. -/
structure Bank where
  rows     : SMap (List Int)
  flags    : SMap Nat
  sat      : Bool
  degraded : Bool
  poisoned : Bool
  single   : Nat
  double   : Bool
deriving DecidableEq, Repr

/-- R96: the view an HSWAIT binds: which copy, of which layer. `bind` tells one binding from another (R98). -/
structure SlotView where
  bind    : Nat
  standby : Bool
  layer   : Nat
  /-- Offsets of the view's index table and frame area, and their sizes: within the slice, or, where `units` gives the slice
  offsets of the 4 KiB units of a standby's T0 copy, within that copy. -/
  units   : List Nat
  idxOff  : Nat
  areaOff : Nat
  tiles   : Nat
  areaLen : Nat
deriving DecidableEq, Repr

/-- R149, R61: one MCLK cycle of a unit: the 128-byte word of the crew's slice that it needs, and whether the expander
delivers 128 bytes in it. -/
structure UCyc where
  word : Option Nat
  full : Bool
deriving DecidableEq, Repr

/-- R58: a command in the buffer in front of its unit (0 load, 1 array, 2 output): the weight buffer it loads or uses,
its view (R96), and the slot of its stationary tile (R97). `failed` marks a command that has completed already, whose
effect on its destination waits its turn (R76). -/
structure TIss where
  seq    : Nat
  unit   : Nat
  cmd    : BitVec 128
  wb     : Nat
  view   : Option SlotView
  slot   : Option Nat
  failed : Bool
deriving DecidableEq, Repr

/-- A command executing on a unit, with the status it will complete with and the cycles that its unit still needs. -/
structure TRun extends TIss where
  status : Nat
  detail : Nat
  cycles : List UCyc
deriving DecidableEq, Repr

/-- R67, R98: a remembered load: the weight buffer it targeted (none: a tile load), its view, and whether it failed. -/
structure Replay where
  cmd  : BitVec 128
  wb   : Option Nat
  view : Option SlotView
  bad  : Bool
deriving DecidableEq, Repr

/-- R90: an earlier command of the queue, with its status once it has completed. -/
structure Covered where
  seq    : Nat
  unit   : Nat
  status : Option Nat
deriving DecidableEq, Repr

/-- R90: a pending SEMSIG with the commands it covers. -/
structure PendSig where
  cmd : BitVec 128
  cov : List Covered
deriving DecidableEq, Repr

/-- What holds a queue: nothing, a wait with its MCLK deadline, or a hoist-slot release that has passed its checks
(R97). -/
inductive QHold where
  | none
  | sem (deadline : Option Nat)
  | slot (deadline : Option Nat)
  | rel
deriving DecidableEq, Repr

/-- Why a queue reads cancelling: no reason, a cancel (R70) or a failed wait (R77) with the status of what is
discarded, or a release with the value that is to be accepted (R65). -/
inductive QClosing where
  | none
  | cancel (status : Nat)
  | failedWait
  | release (val : BitVec 64)
deriving DecidableEq, Repr

/-- One of the four queues of an MXE. -/
structure MQueue where
  waiting : List (BitVec 128)
  issued  : List TIss
  running : List TRun
  entries : List (BitVec 64)
  /-- R52: the buffer the next stationary load targets, and that of the latest one since the queue was bound, with its
  FMT where it passed its checks, and its slot. -/
  nextWb  : Nat
  curWb   : Option Nat
  curFmt  : Option Bool
  curSlot : Option Nat
  views   : SMap SlotView
  hist    : List Covered
  sigs    : List PendSig
  hold    : QHold
  closing : QClosing
  /-- R67: the last two stationary loads, newest first, and the last tile load. -/
  loads   : List Replay
  tile    : Option Replay
deriving DecidableEq, Repr

/-- An MXE: buffers, banks, granules, the held COLUMN table, and its queues. -/
structure Mxe where
  wb0    : WBuf
  wb1    : WBuf
  sb     : StreamBuf
  grans  : SMap Granule
  banks  : SMap Bank
  table  : Option (Nat × List Nat)
  cur    : Option Nat
  /-- Which queue last loaded the weight buffers (0, 1) and the stream buffer (2). -/
  loaded : SMap Nat
  queues : SMap MQueue
  seq    : Nat
  /-- R66: round-robin credits spent by queue, and the MCLK time the current queue gained the engine. -/
  credit : SMap Nat
  since  : Nat
  /-- R67: loads still to be replayed for the current queue, and the cycles that replays still need. -/
  replays : List Replay
  restore : List UCyc
  /-- R63: cycles in a row that the slice has denied each unit. -/
  denied : SMap Nat
deriving DecidableEq, Repr

/-- R93: an add that a semaphore has taken in this NCLK cycle: the register before it, the value, the SEMSIG it came
from (MXE, queue and command) and whether it saturated. -/
structure SemAdd where
  crew   : Nat
  index  : Nat
  before : BitVec 64
  val    : Nat
  sig    : Option (Nat × Nat × BitVec 128)
  sat    : Bool
deriving DecidableEq, Repr

/-- R154: tiles a hoist has been asked to refetch or has refetched, of one slot's residence. -/
structure Refetch where
  slot    : Nat
  tile    : Nat
  asked   : Bool
  mxe     : Nat
  done    : Bool
deriving DecidableEq, Repr

/-- R188, R190: the layer a hoist slot holds: its descriptor, the step mark current when the fill started, and how far
the fill has come. -/
structure HSlot where
  policy    : Nat
  releases  : Nat
  deadline  : Nat
  primary   : Nat
  idxOff    : Nat
  areaOff   : Nat
  tiles     : Nat
  areaLen   : Nat
  standby   : Nat
  sbyIdx    : Nat
  sbyArea   : Nat
  mark      : Nat
  missed    : Bool
  /-- The fill has read bytes of the primary; it waits for PRIMARY to be resident (told once); it has been halted. -/
  reading   : Bool
  absent    : Bool
  halted    : Bool
deriving DecidableEq, Repr


/-! ### HP0 (spec/10_host_endpoint.md) -/

/-- R271, R272: a token in flight: the function, queue, epoch and slot; T_US at the fetch, the class, the deadline; the
first 16 bytes of the entry as delivered, and the context that took it (none: the leading foreman). -/
structure Token where
  fn      : Nat
  q       : Nat
  epoch   : Nat
  slot    : Nat
  fetchUs : Nat
  cls     : Nat
  due     : Option Nat
  head    : List Byte
  ctx     : Option Nat
deriving DecidableEq, Repr

/-- R274: a completion that the part has accepted or made itself, and not yet written. -/
structure Cpl where
  tok   : Token
  entry : List Byte
deriving DecidableEq, Repr

/-- R260, R286: the Advanced Error Reporting registers of a function, and the offset, requester and tag of the first
request it has logged. -/
structure Aer where
  status   : Nat
  mask     : Nat
  severity : Nat
  header   : Option (Nat × Nat × Nat)
deriving DecidableEq, Repr

/-- What the configuration space of a function says (R260, R262, R264): Bus Master Enable, Memory Space Enable, MSI-X Enable,
the MSI-X function mask, D3hot, Device Control and Device Control 2, the dwords of its base registers, Advanced Error
Reporting; and, on PF0, VF Enable, VF MSE, ARI and NumVFs, and the dwords of the VF BARs. -/
structure FnCfg where
  bme     : Bool
  mse     : Bool
  msixEn  : Bool
  fmask   : Bool
  d3      : Bool
  devCtl  : Nat
  devCtl2 : Nat
  bars    : SMap Nat
  aer     : Aer
  vfEn    : Bool
  vfMse   : Bool
  ari     : Bool
  numVfs  : Nat
  vfBars  : SMap Nat
deriving DecidableEq, Repr

/-- R277, R286: a BAR4 request: its number in the order of arrival, its function, offset, requester ID, tag and ordering
attributes, and the bytes it writes or asks for; R287: held during a commit; R288: waiting for a unit or a channel. -/
structure WinReq where
  id     : Nat
  ro     : Bool
  ido    : Bool
  held   : Bool
  parked : Bool
  fn   : Nat
  off  : Nat
  rid  : Nat
  tag  : Nat
  len  : Nat
  data : Option (List Byte)
deriving DecidableEq, Repr

/-- The state of HP0 beside its registers. Queue pairs are numbered function × 1024 + q. -/
structure Hp0 where
  /-- R272: the in-flight set. -/
  tokens    : List Token
  /-- R269, R276: completions that HP0 made itself. -/
  own       : List Cpl
  /-- R275, R276: abort notices that wait for room in an intake. -/
  notices   : List Token
  /-- Entries and notices delivered to the leading foreman and not yet taken. -/
  admin     : List (List Byte)
  cfg       : SMap FnCfg
  /-- R283, R284: functions in reset, and functions refused until Bus Master Enable is set. -/
  resetting : List Nat
  refused   : List Nat
  /-- R267: CQ_HEAD by queue. -/
  cqHead    : SMap Nat
  /-- R274: unsignalled completions and the NCLK time of the first, by queue. -/
  coal      : SMap (Nat × Nat)
  /-- R269: queues held by a failed submission read. -/
  heldErr   : List Nat
  /-- R364: messages sent in the bucket's window, and vectors that wait, by VF. -/
  irqSpent  : SMap (List Nat)
  irqWait   : SMap (List Nat)
  /-- R277: the number of the next BAR4 request, and by queue the number at its last submission doorbell. -/
  nextWin   : Nat
  doorAt    : SMap Nat
  /-- R277, R287, R288: the requests not yet performed, in order of arrival, and the posted writes performed whose
  response is held. -/
  winWait   : List WinReq
  winPosted : List WinReq
deriving DecidableEq, Repr

/-! ### Bandwidth regulation (spec/13_tenants_and_qos.md) -/

/-- R355, R361: a pair's bucket on one die: bytes held, and the NCLK time they were last counted. -/
structure QosBucket where
  bytes : Nat
  time  : Nat
deriving DecidableEq, Repr

/-- R361: bytes issued for a pair on a die, with their NCLK times, over the last 1 024 cycles. -/
structure Qos where
  /-- Key: (die × 512 + source) × 32 + resource. -/
  buckets : SMap QosBucket
  issued  : SMap (List (Nat × Nat))
  /-- R304, R362: resources the POOL source has used in this interval of 64 cycles, and in the one before. -/
  used       : List Nat
  usedBefore : List Nat
  /-- R359: the NCLK time at which the interval of 64 cycles ends. -/
  nextReport : Nat
deriving DecidableEq, Repr


/-! ### The Plotre fabric's packets (spec/12_plotre_fabric.md) -/

/-- R331: a packet: its header's fields and its payload. -/
structure Packet where
  type     : Nat
  version  : Nat
  dl       : Nat
  rev      : Nat
  dst      : Nat
  src      : Nat
  tag      : Nat
  tagEpoch : Nat
  epoch2   : Nat
  lenM8    : Nat
  fnStatus : Nat
  addr     : Nat
  payload  : List Byte
deriving DecidableEq, Repr

/-! ### Kneader contexts (spec/05_kneader_cores.md) -/

/-- R129: how far a part-address access of a context has come. -/
inductive AccState where
  /-- Performed; its response, with the bytes read, is on its way. -/
  | ready (bs : List Byte)
  /-- Performed with an error; its error response is on its way. -/
  | failed
  /-- Held in a recovery entry (R196). -/
  | parked
  /-- Sent over the fabric: the plane and slot of its tag (R340). -/
  | remote (tag : Nat)
deriving DecidableEq, Repr

/-- R114, R115, R117: what an access does with its answer. -/
inductive AccKind where
  | load (rd : Nat)
  | vload (v mask : Nat)
  | store
  | amo (fn rd rb cmp : Nat)
deriving DecidableEq, Repr

/-- R129, R131: an outstanding access of a context. -/
structure CtxAcc where
  kind  : AccKind
  pc    : Nat
  addr  : Nat
  size  : Nat
  /-- R131: the NCLK time of its issue. -/
  time  : Nat
  state : AccState
deriving DecidableEq, Repr

/-- R131: an error held for deferred reporting. `dest` is the register a load would have written (32 to 47: v0 to
v15); none for a store or an AMO. -/
structure HeldErr where
  timeout : Bool
  pc      : Nat
  addr    : Nat
  dest    : Option Nat
deriving DecidableEq, Repr

/-- R125, R127: what a waiting context waits for. -/
inductive CtxWait where
  | none
  | event (rd : Nat) (mask : Nat)
  | push (rd m q : Nat) (cmd : BitVec 128)
deriving DecidableEq, Repr

/-- A context's state beside the registers of its register block. -/
structure Ctx where
  instret : Nat
  timer   : Nat
  rng     : BitVec 64
  out     : List CtxAcc
  errs    : List HeldErr
  intake  : List (List Byte)
  unsent  : List Cpl
  wait    : CtxWait
  /-- R127 bit 3: a context supervised by this one has stopped or faulted since WAITEV last reported it. -/
  supEvt  : Bool
  /-- R108: general (0 to 31) and vector (32 to 47) registers whose parity is wrong. -/
  parity  : List Nat
deriving DecidableEq, Repr

/-- R107, R122, R123: the cores: scratch bytes by core × 2^18 + offset; scratch words with flipped bits (1 or 2), by
core × 2^15 + word; lookup tables by core × 4 + table; and the NCLK time a table's copy ends. -/
structure Cores where
  scratch  : List Host.Cell
  scrFlips : SMap Nat
  luts     : SMap (List Int)
  lutBusy  : SMap Nat
deriving DecidableEq, Repr

/-- R340: what a tag slot's request is: its packet, its requester, and the NCLK time of its issue. -/
structure FabReq where
  pkt  : Packet
  who  : Waiter
  time : Nat
deriving DecidableEq, Repr

/-- R340: a tag slot: its epoch and the request in flight. -/
structure FabSlot where
  epoch : Nat
  req   : Option FabReq
deriving DecidableEq, Repr


/-! ### Trams and hoists (spec/09) -/

/-- R246: a halt that waits: its status and DETAIL, the direction and the address of the access that failed. -/
structure Halting where
  status : Nat
  detail : Nat
  dir    : Nat
  addr   : Nat
deriving DecidableEq, Repr

/-- R243 to R258: an engine's working state beside its registers. Trams are 0 to 319, hoists 320 to 383. -/
structure Eng where
  /-- The descriptor fetched from CUR and not yet ended. -/
  desc   : Option (List Byte)
  /-- R244: it has passed its checks; R254: its pass block. -/
  checked : Bool
  block  : Option (List Byte)
  /-- R246: the halt that waits for the responses to its writes, or for its STATUS write. -/
  halting : Option Halting
  /-- R250: 1 once the STATUS word is written, 2 once the full notification is sent. -/
  told   : Nat
  /-- Its effect is done and every write issued; the STATUS it will complete with, its DETAIL, and where the chain goes. -/
  acted  : Bool
  status : Nat
  detail : Nat
  next   : Nat
  /-- R250: the half notification has been sent. Bytes moved so far. -/
  half   : Bool
  pos    : Nat
  /-- R252: active loops, by address with what remains. -/
  loops  : List (Nat × Nat)
  /-- R251: NCLK time of a WAIT's first read. -/
  waitAt : Option Nat
  /-- R257, R258: the status an abort will write. -/
  abort  : Option Nat
  /-- Source bytes gathered so far, by side (1: the second range of a COMPARE). -/
  bufs   : SMap (List Byte)
  /-- R341: bytes that a drift read has brought, and the status and address of a drift request that failed. -/
  reply  : Option (List Byte)
  failed : Option (Nat × Nat)
  /-- The stage of an object operation that moves bytes through the SSDs. -/
  stage  : Nat
deriving DecidableEq, Repr


/-! ### HP1 and the pool (spec/11) -/

/-- R293, R294: what the pool directory says of a page whose home holds it: the bytes of its frame, and, for a T3 block of
plain bytes, the CRC and the POISON bits of its RAW frame. -/
structure DirEnt where
  len    : Nat
  plain  : Bool
  crc    : Nat
  poison : Nat
deriving DecidableEq, Repr

/-- R301: a frame in the T1 cache. -/
structure CacheFrame where
  page  : Nat
  dirty : Bool
  frame : List Byte
deriving DecidableEq, Repr

/-- R303: a request of a host that the pool unit has accepted and not yet answered; the range entry it matched with its
EPOCH (R299). -/
structure PoolPend where
  req   : PoolReq
  entry : Nat
  epoch : Nat
  /-- R300: its hit or miss has been counted; R312: it is a write-back in answer to a snoop, which has no response. -/
  counted : Bool
  back    : Bool
deriving DecidableEq, Repr

/-- R306 to R308: what a host has of a SNAPSHOT region: its open version, the frames of its draft, DRAFT_FULL, and RESULT and
SEQ of the last command, with the NCLK time until which BUSY is 1 and those before it still read. -/
structure SnapHost where
  base   : Option Nat
  draft  : SMap (List Byte)
  /-- R309: pages of the draft whose write was lost. -/
  lost   : List Nat
  full   : Bool
  result : Nat
  seq    : Nat
  busy   : Nat
  before : Nat × Nat
deriving DecidableEq, Repr

/-- R310: a SNAPSHOT region: retained versions, oldest first, with the frames each holds in side slots, and its hosts. -/
structure Snap where
  versions : List (Nat × SMap (List Byte))
  hosts    : SMap SnapHost
deriving DecidableEq, Repr

/-- R312, R313: who holds a line of a DIRECTORY region; a region-wide line is held by every host but those known to have
given it up. -/
inductive Sharers where
  | shared (spids : List Nat)
  | owned (spid : Nat)
  | wide (gone : List Nat)
deriving DecidableEq, Repr

/-- R312, R314: a back-invalidation snoop not yet answered: to a host, for a line, with its NCLK time. -/
structure Snoop where
  spid : Nat
  line : Nat
  time : Nat
deriving DecidableEq, Repr

/-- R298: a withdrawal: its t0, whether the host asked for it, its cause (the case of R298, in order), and whether step
3 is done. -/
structure Drawn where
  t0     : Nat
  byHost : Bool
  cause  : Nat
  cut    : Bool
deriving DecidableEq, Repr

/-- The state of the pool unit beside its registers. A page is extent × 65536 + page, a line page × 64 + line. -/
structure Pool where
  /-- R293, R294: the pool directory: an unlisted page is 64 ZERO lines. -/
  dir     : SMap DirEnt
  /-- R301: the frames that the T1 cache holds, least recently used first. -/
  cache   : List CacheFrame
  snaps   : SMap Snap
  /-- R313: the sharer directory, and its lines, least recently used first. -/
  sharers : SMap Sharers
  dirUse  : List Nat
  snoops  : List Snoop
  /-- Requests that wait for snoops, in arrival order. -/
  biWait  : List PoolPend
  /-- R303: bytes spent from each host's bucket; requests held per host and in the shared queue. -/
  spent   : SMap Nat
  hostQ   : SMap (List PoolPend)
  sharedQ : List PoolPend
  /-- R303: requests that have no link credit while the shared queue is full, in order. -/
  linkQ   : List PoolReq
  /-- Requests that wait for their page: for a T3 read, a repair or a channel in self-refresh, in arrival order. -/
  parked  : List PoolPend
  /-- R298: withdrawals under way, by entry. -/
  drawn   : SMap Drawn
deriving DecidableEq, Repr


/-! ### Plotre (spec/12) -/

/-- R322 to R330: a port beside its registers. -/
structure Port where
  /-- R325, R326: the next SEQ to send; flits sent and not acknowledged, with the number of the packet each belongs to. -/
  txSeq  : Nat
  retry  : List (Nat × Nat)
  /-- R325: the next SEQ expected, and whether a NAK waits for the replay. -/
  rxSeq  : Nat
  naking : Bool
  /-- R329: replays of one flit in a row, and CRC failures in the window of 2^20 flits. -/
  again  : Nat
  winFlits  : Nat
  winErrors : Nat
  /-- R323: bytes received of each VC's packet stream that do not yet make a packet. -/
  rxBytes : SMap (List Byte)
  /-- R322, R329: of the last codewords on each lane, which were discarded, newest first. -/
  lanes  : SMap (List Bool)
  /-- R324: by VC × 2 + class (k): flits sent whose place is not yet returned (k), the partner's last count (8 + k), and
  flits freed here modulo 256 (16 + k). -/
  credit : SMap Nat
  /-- R328: the partner's record as last received. -/
  record : Option ExchRecord
  /-- R327: the next step of bring-up. -/
  step   : Nat
  /-- R336: by VC: flit slots for which it was passed over while it held flits ready, and the input served last. -/
  passed : SMap Nat
  turn   : SMap Nat
deriving DecidableEq, Repr

/-- R345: a chunk being combined: its elements (none yet: nothing has arrived), SAT, and the parts that have given
theirs. -/
structure CollChunk where
  acc  : Option (List Int)
  sat  : Bool
  gave  : List Nat
deriving DecidableEq, Repr

/-- R343 to R347: a collective context beside its registers. -/
structure Coll where
  /-- NCLK time of GO. -/
  time   : Nat
  chunks : SMap CollChunk
  /-- Chunks finished at this part. -/
  done   : List Nat
  /-- R346: packets one SEQ ahead, which wait for the local GO. -/
  ahead  : List (Nat × Packet)
deriving DecidableEq, Repr

/-- R201, R204, R205, R342: a lease beside its registers: the state before UNREACHABLE and since when; the time of the
notice; the messages that wait for their answers, each with when it was last sent; and the peer of the lease that closed
last. -/
structure Lease where
  was    : Nat
  since  : Nat
  t0     : Nat
  msgs   : SMap Nat
  last   : Option Nat
deriving DecidableEq, Repr

/-- The state of the fabric beside its registers. -/
structure Plotre where
  ports  : SMap Port
  colls  : SMap Coll
  /-- R201: incoming leases (0 to 63) and outgoing ones (64 to 127). -/
  leases : SMap Lease
  /-- Packets that have arrived for this part, each with 2 + the port it came by (or the plane it started on), oldest
  first. -/
  inq    : List (Nat × Packet)
  /-- R331: packets sent so far. -/
  sent   : Nat
deriving DecidableEq, Repr


/-! ### Foremen, identity, sideband, power (spec/15) and start-up (spec/16) -/

/-- R397: one copy of the fuse block. SVN_FLOOR is a thermometer code. -/
structure Fuses where
  rootHash : List (List Byte)
  usage    : Nat
  revoke   : Nat
  svn      : Nat
  seed     : List Byte
  priority : Bool
deriving DecidableEq, Repr

/-- R391 to R405: a foreman beside its claim: when its HEARTBEAT last advanced, since when it stands, whether it is in
reset, and the components of the image it runs (KIND and digest). -/
structure Foreman where
  /-- R404: a slot whose component has been found to differ since it booted. -/
  avoid   : Option Nat
  beatAt  : Nat
  standAt : Option Nat
  inReset : Bool
  comps   : List (Nat × List Byte)
deriving DecidableEq, Repr

/-- R407, R409: SPDM on one transport: how far the connection has come (0 nothing, 1 version, 2 capabilities,
3 algorithms), and the messages that the next signature covers: of the connection, of the certificates, and of the
measurements. -/
structure Spdm where
  stage : Nat
  conn  : List Byte
  certs : List Byte
  meas  : List Byte
deriving DecidableEq, Repr

/-- R413, R414: power and thermal control of one half: the duties each asks for, and since when they stand. -/
structure HalfCtl where
  powerDuty : Nat
  thermDuty : Nat
  atOneFor  : Nat
  powerHalf : Bool
  thermHalf : Bool
  /-- The share of CAP_W in watts, and the NCLK times of the last thermal fall and rise of DUTY. -/
  cap       : Nat
  fellAt    : Nat
  roseAt    : Nat
deriving DecidableEq, Repr

/-- The management complex and start-up. -/
structure Mgmt where
  /-- R397: the two fuse copies (kept by every reset). -/
  fuses    : List Fuses
  /-- R401: flash bytes (kept by every reset); unlisted bytes are zero. -/
  flash    : List Host.Cell
  foremen  : SMap Foreman
  /-- R394: NCLK time of a split claim. -/
  splitAt  : Option Nat
  /-- R390: MGMT messages in the leading foreman's inbound queue. -/
  inbound  : List (List Byte)
  /-- R407: SPDM over DOE and over MCTP. -/
  doe      : Spdm
  mctp     : Spdm
  /-- R413: the last power samples in watts, newest first, and the demand of each half. -/
  samples  : List Nat
  half0    : HalfCtl
  half1    : HalfCtl
  /-- R427, R430: which steps of start-up have ended. -/
  released : Bool
  /-- R430: NCLK time of compute release. -/
  computeAt : Nat
  filled   : Bool
  seamed   : Bool
  runtime  : Bool
  cfgOpen  : Bool
  /-- R415: a thermal trip is latched. R25: the halves are split. -/
  tripped  : Bool
  halved   : Bool
  /-- R421, R411, R415: output pins: asserted, or driven low. -/
  smbAlert  : Bool
  thermtrip : Bool
  nvmePerst : Bool
  ddrRst    : Bool
deriving DecidableEq, Repr

/-! ### What the part sends out -/

/-- R376, R407, R410: a message the part gives in answer over DOE (0), the sideband (1) or the FM API (2). -/
structure Reply where
  path : Nat
  msg  : List Byte
deriving DecidableEq, Repr

/-- R278: the ordering attributes of a request that the part sends. -/
structure OrderAttr where
  relaxed : Bool
  idBased : Bool
deriving DecidableEq, Repr

/-- What has left the part, oldest first. -/
inductive Out where
  /-- A memory write of a function through HP0. -/
  | hostWrite (fn addr : Nat) (bs : List Byte) (attr : OrderAttr)
  /-- R260: a memory read of a function through HP0. -/
  | hostRead (fn addr len : Nat)
  /-- An MSI-X message: function, vector, and its address and data. -/
  | msix (fn vector addr data : Nat) (attr : OrderAttr)
  /-- The completion of a BAR4 read, by requester and tag: its bytes and whether it is poisoned; none: Unsupported
  Request. -/
  | hostReply (rid tag : Nat) (data : Option (List Byte)) (poison : Bool)
  /-- R300, R304: an S2M response: the tag, the line (none for a write), poison, and DevLoad. -/
  | pool (tag : Nat) (data : Option (List Byte)) (poison : Bool) (load : Nat)
  /-- R312: a back-invalidation snoop. -/
  | snoop (spid line : Nat)
  /-- R297, R298: a dynamic-capacity event for an entry: 0 add, 1 release, 2 forced release. -/
  | capacity (spid entry kind : Nat)
  /-- R335: a packet leaves by a port. -/
  | packet (port : Nat) (p : Packet)
  /-- R324: a CONTROL flit: ACK, NAK, and the credits returned. -/
  | control (port ack : Nat) (nak : Bool) (credits : List Nat)
  | reply (r : Reply)
  /-- R411: a fatal record given to the sideband. -/
  | fatal (e : EvRec)
deriving DecidableEq, Repr


/-- The whole state of the part. -/
structure State where
  /-- The commands that wait, first in, first out. -/
  pending : List Instr
  /-- NCLK cycles since the release of fundamental reset. -/
  nclk    : Nat
  /-- The model's own: how many free values have been drawn (log 4). -/
  free    : Nat
  /-- Control registers by offset; unlisted ones read as their reset value. -/
  ctl     : SMap (BitVec 64)
  /-- R5: locked bits of RWL registers, by offset. -/
  locks   : SMap (BitVec 64)
  /-- R71: the latched value of a counter, by offset. -/
  latch   : SMap (BitVec 64)
  /-- Bytes of T0, T1, T2 and of borrowed drift leases, by part address; unlisted bytes read zero. -/
  mem     : List Host.Cell
  ev      : Recorder
  seams   : Seams
  ms      : MemSys
  t3      : DeepLode
  mxes    : SMap Mxe
  /-- R93: the adds of this NCLK cycle, in order of arrival. -/
  semNow  : List SemAdd
  /-- R188: the layer each hoist slot holds, by hoist × 16 + slot. -/
  slots   : SMap HSlot
  /-- R154: refetches of a slot's residence, by hoist × 16 + slot. -/
  refetch : SMap (List Refetch)
  qos     : Qos
  /-- The kneader contexts that are not as after reset. -/
  knc     : SMap Ctx
  cores   : Cores
  hp0     : Hp0
  /-- The trams (0 to 319) and hoists (320 to 383) that are not as after reset. -/
  engs    : SMap Eng
  pool    : Pool
  plt     : Plotre
  /-- R340: tag slots by plane × 4096 + slot. -/
  tags    : SMap FabSlot
  /-- R333, R335: packets that wait to be forwarded, each with the plane it starts on or 2 + the port it came by, oldest
  first. -/
  fabQ    : List (Nat × Packet)
  mgmt    : Mgmt
  /-- R420, R428: the persistent area of the flash: remapped lines by controller. -/
  persist : SMap (List Nat)
  /-- What has left the part, oldest first. -/
  out     : List Out
deriving DecidableEq, Repr

/-- SPDM before any request. -/
def spdmReset : Spdm := { stage := 0, conn := [], certs := [], meas := [] }

/-- R417: a half's control at full duty. -/
def halfReset : HalfCtl :=
  { powerDuty := 64, thermDuty := 64, atOneFor := 0, powerHalf := false, thermHalf := false, cap := 1100, fellAt := 0,
    roseAt := 0 }

/-- R397: a blank fuse block: the contents of the fuses are the part's own (log 8). -/
def fusesBlank : Fuses :=
  { rootHash := [], usage := 0, revoke := 0, svn := 0, seed := [], priority := false }

/-- The state right after a fundamental reset has taken effect (R426): every register at its reset value, every pin as
R421 gives it with the rails good, and the release of R427 still to come. -/
def State.reset : State :=
  { pending := []
    nclk := 0
    free := 0
    ctl := []
    locks := []
    latch := []
    mem := []
    ev := { queues := [], buckets := [], trBucket := [], preBase := [], filling := [], fatal := [] }
    seams := { dirs := [], failing := [] }
    ms := { flips := [], stuck := [], acts := [], ckCache := [], ucLines := [], refreshed := [], pdRanks := [],
            rankUsed := [], srMask := [], fullTold := [], dirtyT1 := [], dirtyT2 := [], dirtyTD := [], rcv := [],
            rcvWait := [], credit := [], given := [], srHeld := [], modGib := [], bring := [], failed := [], stored := [] }
    t3 := { cells := [], bad := [], ssds := [], cmds := [], nextId := 0, ends := [] }
    mxes := []
    semNow := []
    slots := []
    refetch := []
    qos := { buckets := [], issued := [], used := [], usedBefore := [], nextReport := 64 }
    knc := []
    cores := { scratch := [], scrFlips := [], luts := [], lutBusy := [] }
    hp0 := { tokens := [], own := [], notices := [], admin := [], cfg := [], resetting := [], refused := [], cqHead := [],
             coal := [], heldErr := [], irqSpent := [], irqWait := [], nextWin := 0, doorAt := [],
             winWait := [], winPosted := [] }
    engs := []
    pool := { dir := [], cache := [], snaps := [], sharers := [], dirUse := [], linkQ := [], snoops := [], biWait := [], spent := [], hostQ := [],
              sharedQ := [], parked := [], drawn := [] }
    plt := { ports := [], colls := [], leases := [], inq := [], sent := 0 }
    tags := []
    fabQ := []
    mgmt := { fuses := [fusesBlank, fusesBlank], flash := [], foremen := [], splitAt := none, inbound := [],
              doe := spdmReset, mctp := spdmReset, samples := [], half0 := halfReset, half1 := halfReset,
              released := false, computeAt := 0, filled := false, seamed := false, runtime := false, cfgOpen := false, tripped := false,
              halved := false, smbAlert := false, thermtrip := false, nvmePerst := true, ddrRst := true }
    persist := []
    out := [] }

end Sys2Proof.Machine
end

