-- ==== Sys2Proof/Machine/Ops.lean ====
section
/-! DEFINITION. The named operations over the state: sparse tables, memory bytes, control registers and their fields,
counters, time, events and free values. Every other file changes the state through them. -/

namespace Sys2Proof.Machine

/-! ### Sparse tables -/

/-- The value listed for a key. -/
def mapFind {α : Type} : SMap α → Nat → Option α
  | [], _ => none
  | (k', v) :: t, k => if k = k' then some v else mapFind t k

/-- The value of a key, or a default where it is not listed. -/
def mapGet {α : Type} (m : SMap α) (k : Nat) (d : α) : α := (mapFind m k).getD d

/-- List a value for a key, keeping the keys rising. -/
def mapPut {α : Type} : SMap α → Nat → α → SMap α
  | [], k, v => [(k, v)]
  | (k', v') :: t, k, v =>
    if k = k' then (k, v) :: t
    else if k < k' then (k, v) :: (k', v') :: t
    else (k', v') :: mapPut t k v

/-- Unlist a key. -/
def mapErase {α : Type} (m : SMap α) (k : Nat) : SMap α := m.filter fun p => p.1 != k

/-- Change the value of a key. -/
def mapUpd {α : Type} (m : SMap α) (k : Nat) (d : α) (f : α → α) : SMap α := mapPut m k (f (mapGet m k d))

/-- Add a number to a set kept as a list without repeats. -/
def setInsert (l : List Nat) (x : Nat) : List Nat := if l.contains x then l else x :: l

/-! ### Memory bytes (unlisted bytes read zero: R233, R427) -/

/-- The byte at an address. -/
def memByte (m : List Host.Cell) (a : Nat) : Byte := mapGet m a 0

/-- Store a byte: a zero byte is unlisted. -/
def memPut (m : List Host.Cell) (a : Nat) (b : Byte) : List Host.Cell :=
  if b = 0 then mapErase m a else mapPut m a b

/-- Store a byte string from an address up. -/
def memPuts : List Host.Cell → Nat → List Byte → List Host.Cell
  | m, _, [] => m
  | m, a, b :: bs => memPuts (memPut m a b) (a + 1) bs

/-- The `n` bytes from an address up. -/
def memGets (m : List Host.Cell) (a : Nat) : Nat → List Byte
  | 0 => []
  | n + 1 => memByte m a :: memGets m (a + 1) n

/-- Zero every byte of a range. -/
def memZero (m : List Host.Cell) (a n : Nat) : List Host.Cell := m.filter fun c => !(a ≤ c.1 && c.1 < a + n)

/-- Keys strictly above a bound and strictly rising. -/
def risingFrom {α : Type} : Option Nat → SMap α → Bool
  | _, [] => true
  | none, (k, _) :: t => risingFrom (some k) t
  | some b, (k, _) :: t => decide (b < k) && risingFrom (some k) t

/-- The canonical form of memory: addresses strictly rising, and no zero byte listed. -/
def Memory.wf (m : List Host.Cell) : Bool := risingFrom none m && m.all fun c => c.2 != 0

/-! ### Control registers -/

/-- The value of a register. -/
def State.reg (s : State) (r : Reg) : Nat :=
  match mapFind s.ctl r.off with
  | some v => v.toNat
  | none => r.rst

/-- Set the whole of a register. -/
def setReg (r : Reg) (v : Nat) (s : State) : State := { s with ctl := mapPut s.ctl r.off (BitVec.ofNat 64 v) }

/-- The value of a field. -/
def State.fld (s : State) (r : Reg) (f : Fld) : Nat := bitsOf (s.reg r) f.hi f.lo

/-- Whether a field is not zero. -/
def State.flag (s : State) (r : Reg) (f : Fld) : Bool := s.fld r f != 0

/-- Set a field of a register. -/
def setFld (r : Reg) (f : Fld) (v : Nat) (s : State) : State := setReg r (setBits (s.reg r) f.hi f.lo v) s

/-- The largest value of a 64-bit counter. -/
def counterMax : Nat := 2 ^ 64 - 1

/-- R371: a counter saturates and never wraps. -/
def bump (r : Reg) (n : Nat) (s : State) : State := setReg r (min counterMax (s.reg r + n)) s

/-- Zero a list of registers. -/
def zeroRegs (rs : List Reg) (s : State) : State := rs.foldl (fun s r => setReg r 0 s) s

/-! ### Time (R377, R61): NCLK is 1.8 GHz, PCLK 675 MHz, MCLK 2.7 GHz. -/

/-- PCLK cycles since release. -/
def State.pclk (s : State) : Nat := 6 * s.nclk / 16

/-- MCLK cycles since release. -/
def State.mclk (s : State) : Nat := 3 * s.nclk / 2

/-- Microseconds since release. -/
def State.usec (s : State) : Nat := s.nclk / 1800

/-- NCLK cycles in a number of microseconds. -/
def usCycles (us : Nat) : Nat := 1800 * us

/-! ### Free values -/

/-- Draw a free 64-bit value. -/
def freshWord (s : State) : BitVec 64 × State := (Config.freeWord s.free, { s with free := s.free + 1 })

/-- Draw a free choice. -/
def freshBool (s : State) : Bool × State := (Config.freeBool s.free, { s with free := s.free + 1 })

/-- Draw a free byte string. -/
def freshBytes (n : Nat) (s : State) : List Byte × State :=
  ((List.range n).map (Config.freeByte s.free), { s with free := s.free + 1 })

/-! ### Events (R372 to R386) -/

/-- R385: the fatal codes. -/
def evFatal (code : Nat) : Bool := code == 0x0204 || code == 0x0C02 || code == 0x0C04

/-- R386: the codes marked T. -/
def evTenantCodes : List Nat :=
  [0x0301, 0x0303, 0x0304, 0x0401, 0x0501, 0x0502, 0x0503, 0x0504, 0x0701, 0x0801, 0x0804, 0x0B03, 0x0B04]

/-- R386: the codes of the table. -/
def evCodes : List Nat :=
  [0x0101, 0x0102, 0x0103, 0x0201, 0x0202, 0x0203, 0x0204, 0x0301, 0x0302, 0x0303, 0x0304, 0x0305, 0x0401, 0x0501,
   0x0502, 0x0503, 0x0504, 0x0505, 0x0506, 0x0507, 0x0508, 0x0601, 0x0602, 0x0603, 0x0604, 0x0605, 0x0606, 0x0607,
   0x0701, 0x0801, 0x0802, 0x0803, 0x0804, 0x0901, 0x0902, 0x0903, 0x0A01, 0x0A02, 0x0A03, 0x0A04, 0x0A05, 0x0B01,
   0x0B02, 0x0B03, 0x0B04, 0x0C01, 0x0C02, 0x0C03, 0x0C04, 0x0C05, 0x0D01]

/-- R384: the key of a record's bucket: the SPID for HP1_NOMATCH, else none. -/
def evKey (e : EvRec) : Nat := if e.code = 0x0901 then e.p0 else 0

/-- R384: the bucket of a code and key. -/
def evBucketKey (code key : Nat) : Nat := (code % 4096) * 65536 + key % 65536

/-- An unused bucket is full and has suppressed nothing. -/
def evBucket0 : EvBucket := { spent := 0, suppressed := 0, ends := 0 }

/-- One more record not written. -/
def evMissed (b : EvBucket) : EvBucket := { b with suppressed := b.suppressed + 1 }

/-- R384: count one record of a code and key that was not written. -/
def evSuppress (e : EvRec) (s : State) : State :=
  let bs := mapUpd s.ev.buckets (evBucketKey e.code (evKey e)) evBucket0 evMissed
  { s with ev := { s.ev with buckets := bs } }

/-- R384: count one tenant copy that was not written. -/
def evSuppressTr (t : Nat) (s : State) : State :=
  let bs := mapUpd s.ev.trBucket t evBucket0 evMissed
  { s with ev := { s.ev with trBucket := bs } }

/-- R380: a record that finds no place is dropped, counted, and suppressed for its code and for its tenant's ring. -/
def evDrop (e : EvRec) (s : State) : State :=
  let s := evSuppress e (bump R.EVR_CNT_SRC_DROP 1 s)
  match e.tenant with
  | some t => evSuppressTr t s
  | none => s

/-- R373: the queue of a source. -/
def evSource (kind inst : Nat) : Nat := kind * 2048 + inst

/-- The newest element that satisfies a test, and the list without it. -/
def takeNewest {α : Type} (p : α → Bool) : List α → Option (α × List α)
  | [] => none
  | x :: t => match takeNewest p t with
    | some (y, t') => some (y, x :: t')
    | none => if p x then some (x, t) else none

/-- R380: a record enters its source's queue of eight places, one of them kept for FATAL records. -/
def evEnqueue (e : EvRec) (s : State) : State :=
  let k := evSource e.kind e.inst
  let q := mapGet s.ev.queues k []
  let put := fun (l : List EvRec) (s : State) => { s with ev := { s.ev with queues := mapPut s.ev.queues k l } }
  if evFatal e.code then
    if q.length < 8 then put (q ++ [e]) s
    else match takeNewest (fun x => !evFatal x.code) q with
      | some (x, q') => put (q' ++ [e]) (evDrop x s)
      | none => put (q ++ [e]) s
  else if q.length < 8 ∧ (q.filter fun x => !evFatal x.code).length < 7 then put (q ++ [e]) s
  else evDrop e s

/-- R371, R383: every occurrence of a code is counted; the record then waits in its source's queue. -/
def raise (e : EvRec) (s : State) : State := evEnqueue e (bump (R.EVR_CODE_CNT (e.code % 4096)) 1 s)

/-- An event of a code without T, with its parameters. -/
def event (code kind inst p0 p1 p2 p3 : Nat) (s : State) : State :=
  raise { code, kind, inst, p0 := p0 % 2 ^ 32, p1 := p1 % 2 ^ 32, p2 := p2 % 2 ^ 32, p3 := p3 % 2 ^ 32,
          time := s.pclk, tenant := none } s

/-- R372: an event of a code marked T, concerning a tenant: PARAM3 [31:24] holds it. -/
def tenantEvent (code kind inst tenant p0 p1 p2 p3 : Nat) (s : State) : State :=
  raise { code, kind, inst, p0 := p0 % 2 ^ 32, p1 := p1 % 2 ^ 32, p2 := p2 % 2 ^ 32,
          p3 := p3 % 2 ^ 24 + (tenant % 256) * 2 ^ 24, time := s.pclk, tenant := some (tenant % 256) } s

/-- R386: KIND and INSTANCE of a requester. -/
def whoSource : Who → Nat × Nat
  | .pf0 => (0x0A, 0)
  | .vf v => (0x0A, 1 + v.val)
  | .foreman f => (0x0F, f.val)
  | .ctx c => (0x02, c.val)
  | .tram t => (0x04, t.val)
  | .hoist h => (0x05, h.val)

/-- R372: KIND and INSTANCE packed as SOURCE does. -/
def packSource (kind inst : Nat) : Nat := kind * 2048 + inst

/-- The control address of an offset (R11, selector 0xF). -/
def ctlAddr (off : Nat) : Nat := 0xF * 2 ^ 60 + off

/-! ### The gates that a write passes first (R395, R430) -/

/-- R429: the host gate is open, and no thermal trip or half split has closed the queues (R415, R25). -/
def State.hostOpen (s : State) : Bool := s.fld R.CLK_START_STAT F.CLK_START_STAT_PHASE == 4

/-- R395: the gate of a foreman. -/
def State.gateOpen (s : State) (f : Nat) : Bool :=
  s.flag (R.FMN_CLAIM f) F.FMN_CLAIM_ASSERT && !s.flag R.FMN_LEAD_STAT F.FMN_LEAD_STAT_FROZEN

/-- R395: a foreman leads and its gate is open. -/
def State.leads (s : State) : Bool := s.gateOpen 0 || s.gateOpen 1

/-- The configuration of a function after its reset. -/
def fnCfg0 : FnCfg :=
  { bme := false, mse := false, msixEn := false, fmask := false, d3 := false, devCtl := 0x2910, devCtl2 := 0, bars := [],
    aer := { status := 0, mask := 0x400000, severity := 0x462030, header := none }, vfEn := false, vfMse := false, ari := false,
    numVfs := 0, vfBars := [] }
/-- The configuration of a function. -/
def State.fnCfg (s : State) (f : Nat) : FnCfg := mapGet s.hp0.cfg f fnCfg0
/-- R260: HP0's link is in L0. -/
def State.hp0Up (s : State) : Bool := s.fld R.HP0_LINK_STAT F.HP0_LINK_STAT_STATE == 2

/-- R261, R285: a VF exists while VF Enable is set, up to NumVFs of them (log 106). -/
def State.fnExists (s : State) (f : Nat) : Bool := f == 0 || ((s.fnCfg 0).vfEn && decide (f ≤ (s.fnCfg 0).numVfs))

/-- R289: Memory Space Enable of a function as PCIe reports it: VF MSE for a VF (log 106). -/
def State.fnMse (s : State) (f : Nat) : Bool := if f = 0 then (s.fnCfg 0).mse else (s.fnCfg 0).vfMse

/-- R260, R283: memory requests to the function's BARs are served. -/
def State.barOpen (s : State) (f : Nat) : Bool :=
  s.hp0Up && s.fnMse f && s.fnExists f && !(s.fnCfg f).d3 && !s.hp0.resetting.contains f

/-- R395, R415, R430: a write of this writer reaches a register: a foreman's through its gate, a host's after host
release. -/
def State.whoOpen (s : State) : Who → Bool
  | .foreman f => s.gateOpen f
  | .pf0 => s.hostOpen && s.barOpen 0 && !s.mgmt.tripped
  | .vf v => s.hostOpen && s.barOpen (1 + v) && !s.mgmt.tripped
  | _ => true

/-- R395, R430: a write stopped at a gate: a foreman's is counted; PF0's is counted before host release; any other has no
effect. -/
def stopWrite (who : Who) (s : State) : State :=
  match who with
  | .foreman _ => bump R.FMN_CNT_GATED 1 s
  | .pf0 => if s.hostOpen then s else bump R.CLK_CNT_EARLY 1 s
  | _ => s

/-- R373: the source of an event about a register: the instance whose block holds it, or the part as a whole (log 13). -/
def ctlSource (off : Nat) : Nat × Nat :=
  let b := off / 2 ^ 24
  let o := off % 2 ^ 24
  let i := o / 4096
  if b = 0x00 then (if 0x10 ≤ o ∧ o < 0x30 then (0x0F, o / 8 % 2) else (0, 0))
  else if b = 0x01 then (0x01, i)
  else if b = 0x02 then (0x10, i)
  else if b = 0x03 then (if o % 0x4000 < 0x800 then (0, 0) else (0x02, 4 * (o / 0x4000) + (o % 0x4000 / 0x800 - 1)))
  else if b = 0x04 then (0x03, i)
  else if b = 0x05 then (0x05, i)
  else if b = 0x09 then (0x0D, i)
  else if b = 0x0A then (0x06, i)
  else if b = 0x0B then (0x07, i)
  else if b = 0x0C then (0x04, i)
  else if b = 0x0D then (0x0A, if 0x100000 ≤ o ∧ o < 0x400000 then (o - 0x100000) / 0x800 else 0)
  else if b = 0x0E then (0x0B, 0)
  else if b = 0x0F then (if 0x10000 ≤ o ∧ o < 0x20000 then (0x0C, i - 16) else (0, 0))
  else if b = 0x06 ∨ b = 0x18 then (0x0E, 0)
  else if b = 0x19 then (0x11, 0)
  else if 0x10 ≤ b ∧ b < 0x18 then (0x0A, (off - 2 ^ 28) / 2 ^ 18)
  else (0, 0)

/-- R386: a refused or ignored write or command bit; a write stopped at a gate is none. -/
def ignoredWrite (who : Who) (off : Nat) (s : State) : State :=
  let (k, i) := whoSource who
  if !s.whoOpen who then stopWrite who s
  else event 0x0102 (ctlSource off).1 (ctlSource off).2 (ctlAddr off) (ctlAddr off / 2 ^ 32) (packSource k i) 0 s

/-- R7, R386: an access that is misaligned or of a width that is neither 32 nor 64 bits. -/
def badAccess (off width : Nat) (s : State) : State :=
  event 0x0101 (ctlSource off).1 (ctlSource off).2 (ctlAddr off) (ctlAddr off / 2 ^ 32) width 0 s

/-- R386: any other event that the manual requires without naming its code. -/
def blockEvent (base off val : Nat) (s : State) : State :=
  event 0x0103 (ctlSource (base + off)).1 (ctlSource (base + off)).2 (ctlAddr base) (ctlAddr base / 2 ^ 32) off val s

/-- The same for an event to which the spec gives no register and no value: both parameters are free values (log 4). -/
def blockEventOpen (base : Nat) (s : State) : State :=
  let (x, s) := freshWord s
  let (y, s) := freshWord s
  event 0x0103 (ctlSource base).1 (ctlSource base).2 (ctlAddr base) (ctlAddr base / 2 ^ 32) (x.toNat % 2 ^ 32) (y.toNat % 2 ^ 32) s

/-! ### The part: crews, dies, stacks and channels (R15, R16, R28) -/

/-- R28: the crew is in service. -/
def State.crewUp (s : State) (n : Nat) : Bool := bitAt (s.fld R.FMN_CREW_PRESENT F.FMN_CREW_PRESENT_CREW) n

/-- The STATE field of a stack controller (0 to 15) or channel controller (16 to 27). -/
def State.memState (s : State) (c : Nat) : Nat :=
  if c < 16 then s.fld (R.T1C_STAT c) F.T1C_STAT_STATE else s.fld (R.T2C_STAT (c - 16)) F.T2C_STAT_STATE

/-- R214: a channel is installed when its module was detected and trained. -/
def State.chanInstalled (s : State) (c : Nat) : Bool :=
  let st := s.memState (16 + c)
  st != 0 && st != 7

/-- R164: the installed channels in ascending order. -/
def State.chans (s : State) : List Nat := (List.range 12).filter s.chanInstalled

/-- R214: GiB used on each installed channel. -/
def State.chanGiB (s : State) : Nat :=
  match s.chans with
  | [] => 0
  | c :: _ => s.fld (R.T2C_STAT c) F.T2C_STAT_SIZE_GIB

/-- R214: installed T2 capacity in bytes. -/
def State.t2Bytes (s : State) : Nat := s.chans.length * s.chanGiB * 2 ^ 30

/-- R219: usable bytes of one stack. -/
def stackBytes : Nat := 0xAAAAAA000

/-- R219: the stack of a T1 offset. -/
def stackOf (o : Nat) : Nat := o / stackBytes

/-- R164: the channel of a T2 offset, as a controller number. -/
def State.chanOf (s : State) (o : Nat) : Nat := s.chans.getD (o / 4096 % max 1 s.chans.length) 0

/-- R11: the space of a part address. -/
inductive Space where
  | t0 | t1 | t2 | drift | control | reserved
deriving DecidableEq, Repr

/-- R11: bits [63:60]. -/
def spaceOf (a : Nat) : Space :=
  match a / 2 ^ 60 with
  | 0 => .t0 | 1 => .t1 | 2 => .t2 | 4 => .drift | 15 => .control | _ => .reserved

/-- R11: bits [59:0]. -/
def spaceOff (a : Nat) : Nat := a % 2 ^ 60

/-- R11: a part address in T0, T1 or T2. -/
def t0Addr (o : Nat) : Nat := o
/-- R11: a T1 part address. -/
def t1Addr (o : Nat) : Nat := 2 ^ 60 + o
/-- R11: a T2 part address. -/
def t2Addr (o : Nat) : Nat := 2 * 2 ^ 60 + o

/-- R16: the first T0 offset of a crew's slice. -/
def sliceBase (n : Nat) : Nat := n * 0x1000000

/-- R17: a stack or channel that is not installed, or has been taken out of service. -/
def State.memAbsent (s : State) (c : Nat) : Bool := s.memState c == 6 || s.memState c == 7

/-- R219, R233: a stack or channel that start-up has not brought into service; a refill of R237 is none. -/
def State.starting (s : State) (c : Nat) : Bool :=
  let st := s.memState c
  decide (1 ≤ st) && decide (st ≤ 3) && (mapFind s.ms.srMask c).isNone

/-- R219, R232: a stack that accesses reach: it is in service, or has been taken out of it. -/
def State.stackThere (s : State) (c : Nat) : Bool := s.memState c == 4 || s.memState c == 6

/-- R13: an access of `n` bytes at a T0, T1 or T2 part address that the part performs: selector, offset bits in use,
capacity, and no slice absent and no stack or channel that is not in service (one taken out of service is for R232). -/
def State.mapped (s : State) (a n : Nat) : Bool :=
  let o := spaceOff a
  match spaceOf a with
  | .t0 => decide (o + n ≤ 2 ^ 30) && s.crewUp (o / 2 ^ 24) && s.crewUp ((o + n - 1) / 2 ^ 24)
  | .t1 => decide (o + n ≤ 16 * stackBytes) && s.stackThere (stackOf o) && s.stackThere (stackOf (o + n - 1))
  | .t2 => decide (o + n ≤ s.t2Bytes) &&
      (List.range (min 12 ((o + n - 1) / 4096 - o / 4096 + 1))).all fun j => !s.starting (16 + s.chanOf (o + 4096 * j))
  | _ => false

end Sys2Proof.Machine
end

