-- ==== Sys2Proof/Machine/Objects.lean ====
section
/-! DEFINITION. Objects as the object table holds them (R169 to R174, R449, R450): handles, entries, locations, the
layout of protected homes (R183 to R186), quotas and charges (R165, R176 to R178), and which object owns an address. -/

namespace Sys2Proof.Machine

/-- R172: an object-table entry. -/
structure ObjEntry where
  state    : Nat
  version  : Nat
  epoch    : Nat
  tenant   : Nat
  cls      : Nat
  prot     : Bool
  pinned   : Bool
  home     : Nat
  resident : Nat
  size     : Nat
  phys     : Nat
  /-- Location words of T0, T1, T2, T3 and TD. -/
  locs     : List Nat
  standby  : Nat
  /-- R450: the stored length L where CREATE has fixed it; no byte of the entry holds it. -/
  len      : Option Nat
deriving DecidableEq, Repr

/-- R172: read an entry from its 64 bytes. -/
def objEntryOf (b : List Byte) : ObjEntry :=
  let c := leAt b 3 1
  { state := leAt b 0 1 % 16, version := leAt b 0 1 / 16, epoch := leAt b 1 1, tenant := leAt b 2 1, cls := c % 8,
    prot := bitAt c 3, pinned := bitAt c 4, home := leAt b 4 1, resident := leAt b 5 1, size := leAt b 8 4,
    phys := leAt b 12 4, locs := (List.range 5).map fun i => leAt b (16 + 8 * i) 8, standby := leAt b 56 8,
    len := none }

/-- R172, R449: the 64 bytes of an entry that the part writes; it carries VERSION 0x1. -/
def objEntryBytes (e : ObjEntry) : List Byte :=
  leBytes 1 (e.state % 16 + 16) ++ leBytes 1 e.epoch ++ leBytes 1 e.tenant ++
  leBytes 1 (e.cls % 8 + e.prot.toNat * 8 + e.pinned.toNat * 16) ++ leBytes 1 e.home ++ leBytes 1 e.resident ++
  leBytes 2 0 ++ leBytes 4 e.size ++ leBytes 4 e.phys ++ (e.locs.flatMap (leBytes 8)) ++ leBytes 8 e.standby

/-- R172: the STATE values. -/
def objFree : Nat := 0
/-- R172: LIVE. -/
def objLive : Nat := 1
/-- R172: MOVING. -/
def objMoving : Nat := 2
/-- R172: LOST. -/
def objLost : Nat := 3
/-- R172: REFILLING. -/
def objRefilling : Nat := 4

/-- Tier numbers, as in R207: T0 0, T1 1, T2 2, T3 3, TD 4. -/
def tierTD : Nat := 4

/-- R166: the rank of a tier, fastest first: T0, T1, T2, TD, T3. -/
def tierRank (t : Nat) : Nat := [0, 1, 2, 4, 3].getD t 5

/-- The location word of a tier. -/
def ObjEntry.loc (e : ObjEntry) (tier : Nat) : Nat := e.locs.getD tier 0

/-- The entry with a location word replaced. -/
def ObjEntry.setLoc (e : ObjEntry) (tier loc : Nat) : ObjEntry := { e with locs := e.locs.set tier loc }

/-- Whether the object has a copy or its home in a tier. -/
def ObjEntry.holds (e : ObjEntry) (tier : Nat) : Bool := bitAt e.resident tier

/-- The entry with a RESIDENT bit set or cleared. -/
def ObjEntry.setResident (e : ObjEntry) (tier : Nat) (b : Bool) : ObjEntry :=
  { e with resident := setBits e.resident tier tier b.toNat }

/-- R449: an entry that holds a reserved value in a defined field, other than the all-zero entry. -/
def objMalformed (b : List Byte) : Bool :=
  let e := objEntryOf b
  b.any (· != 0) && (e.state > 4 || e.version != 1 || e.cls > 4 || e.home == 0 || e.home > 3)

/-- R5: the RWL bits of a register that have been locked. -/
def State.locked (s : State) (r : Reg) : Bool := mapFind s.locks r.off != none

/-- Every bit of a 64-bit register. -/
def allBits : Nat := 2 ^ 64 - 1

/-- R5: the locked bits of a register with RWL fields. -/
def State.lockMask (s : State) (r : Reg) : Nat := ((mapFind s.locks r.off).map (·.toNat)).getD 0

/-- R5: lock the bits that an accepted write has stored. -/
def lockBits (r : Reg) (mask : Nat) (s : State) : State :=
  let l := mapPut s.locks r.off (BitVec.ofNat 64 (s.lockMask r ||| mask))
  { s with locks := l }

/-- R5, R7: what an RWL register would hold after a write of the bits in `mask`: locked bits keep their value. -/
def State.rwlMerge (s : State) (r : Reg) (mask val : Nat) : Nat :=
  let m := mask &&& (s.lockMask r ^^^ allBits)
  (val &&& m) ||| (s.reg r &&& (m ^^^ allBits))

/-- R5: every bit that a write covers is locked. -/
def State.lockedOut (s : State) (r : Reg) (mask : Nat) : Bool := mask &&& (s.lockMask r ^^^ allBits) == 0

/-- R170: the table exists once its three registers have been written. -/
def State.objTable (s : State) : Bool :=
  s.locked R.T1C_OBJ_BASE && s.locked R.T1C_OBJ_MIRROR && s.locked R.T1C_OBJ_ENTRIES

/-- R208: entries in the table. -/
def State.objCount (s : State) : Nat :=
  if s.objTable then s.fld R.T1C_OBJ_ENTRIES F.T1C_OBJ_ENTRIES_ENTRIES else 0

/-- R171: the part address of an entry. -/
def State.objAddr (s : State) (i : Nat) : Nat := s.reg R.T1C_OBJ_BASE / 4096 * 4096 + 64 * i

/-- R235: the privileged channels. -/
def privChannel (c : Nat) : Bool := c == 0 || c == 1 || c == 6 || c == 7

/-- R236: the T2 part address of byte `b` of a table whose base is a T2 part address: its pages are those on installed
privileged channels. -/
def State.privAddr (s : State) (base b : Nat) : Nat :=
  let n := max 1 s.chans.length
  let ps := (List.range n).filter fun j => privChannel (s.chans.getD j 0)
  let k := b / 4096
  let page := k / max 1 ps.length * n + ps.getD (k % max 1 ps.length) 0
  base / 4096 * 4096 + page * 4096 + b % 4096

/-- R236: an address lies in the first `len` bytes of a table on the privileged channels. -/
def State.inPriv (s : State) (base len a : Nat) : Bool :=
  let n := max 1 s.chans.length
  let ps := (List.range n).filter fun j => privChannel (s.chans.getD j 0)
  let j := a / 4096 - base / 4096
  decide (base / 4096 ≤ a / 4096) && spaceOf a == .t2 &&
    (match ps.idxOf? (j % n) with
     | some k => decide ((j / n * ps.length + k) * 4096 < len)
     | none => false)

/-- R171: the mirror of an entry. -/
def State.objMirror (s : State) (i : Nat) : Nat := s.privAddr (s.reg R.T1C_OBJ_MIRROR) (64 * i)

/-- R217, R232: the 64 bytes of an entry in T1 cannot be read: a word is uncorrectable, or the stack is out of service. -/
def State.objBad (s : State) (i : Nat) : Bool :=
  let a := s.objAddr i
  s.memState (stackOf (spaceOff a)) == 6 ||
    s.ms.flips.any fun p => decide (a / 8 ≤ p.1) && decide (p.1 < a / 8 + 8) && (readMask true p.2).1.isNone

/-- R171: the 64 bytes of an entry, from the mirror where the table's cannot be read. -/
def State.objBytes (s : State) (i : Nat) : List Byte :=
  memGets s.mem (if s.objBad i then s.objMirror i else s.objAddr i) 64

/-- An entry of the table. -/
def State.obj (s : State) (i : Nat) : ObjEntry := { objEntryOf (s.objBytes i) with len := mapFind s.ms.stored i }

/-- R169: TENANT, EPOCH and INDEX of a handle. -/
def handleIndex (h : Nat) : Nat := bitsOf h 47 24

/-- R169: the handle of an entry. -/
def objHandle (e : ObjEntry) (i : Nat) : Nat := e.tenant * 2 ^ 56 + e.epoch * 2 ^ 48 + i * 2 ^ 24

/-- R170: the checks of a handle that do not look at the entry. -/
def State.handleShape (s : State) (h : Nat) : Bool :=
  s.objTable && h % 2 ^ 24 == 0 && handleIndex h != 0 && decide (handleIndex h < s.objCount)

/-- R170: the handle names an entry that an operation can be performed on. -/
def State.handleOk (s : State) (h : Nat) : Bool :=
  s.handleShape h &&
    (let i := handleIndex h
     let e := s.obj i
     !objMalformed (s.objBytes i) && e.state != objFree && e.tenant == bitsOf h 63 56 && e.epoch == bitsOf h 55 48)

/-! ### Locations (R173, R450) -/

/-- R173: an entry of a segment list lies in T1. -/
def segInT1 (a : Nat) : Bool := spaceOf a == .t1 && decide (spaceOff a + 16 ≤ 16 * stackBytes)

/-- R173: the segments of a list in T1: address and length in 4 KiB units, ended by a length of 0. -/
def segList (m : List Host.Cell) : Nat → Nat → List (Nat × Nat)
  | 0, _ => []
  | k + 1, a =>
    let n := leNat (memGets m (a + 8) 4)
    if n = 0 || !segInT1 a then [] else (leNat (memGets m a 8), n) :: segList m k (a + 16)

/-- More entries than T1 can hold. -/
def maxSegs : Nat := stackBytes

/-- R173: a location word's segments. With SEG 0, one segment of `l` units. -/
def State.segsOf (s : State) (tier loc l : Nat) : List (Nat × Nat) :=
  if loc % 2 = 1 then segList s.mem maxSegs (if tier = 3 then loc / 2 ^ 17 * 2 ^ 17 else loc / 4096 * 4096)
  else [(if tier = 3 then loc / 2 ^ 17 * 2 ^ 17 else loc / 4096 * 4096, l)]

/-- Bytes of a row of a protected home, its data units, and its 4 KiB units (R450). -/
def rowShape (tier : Nat) : Nat × Nat × Nat := if tier = 3 then (4 * 2 ^ 17, 96, 128) else (12 * 4096, 10, 12)

/-- R183, R186: where data unit `d` (4 KiB) of stripe `st` stands within its row. -/
def dataUnitOff (tier st d : Nat) : Nat :=
  if tier = 3 then ((st + 1 + d / 32) % 4) * 2 ^ 17 + d % 32 * 4096 else ((st + 2 + d) % 12) * 4096

/-- R450: the rows of a protected home, in order. -/
def rowsOf (tier : Nat) (segs : List (Nat × Nat)) : List Nat :=
  segs.flatMap fun p => (List.range (p.2 / (rowShape tier).2.2)).map fun k => p.1 + k * (rowShape tier).1

/-- R450: the address of each 4 KiB data unit of a protected home. -/
def protUnits (tier : Nat) (rows : List Nat) : List Nat :=
  rows.zipIdx.flatMap fun r => (List.range (rowShape tier).2.1).map fun d => r.1 + dataUnitOff tier r.2 d

/-- The address of each 4 KiB unit of an unprotected copy or home. -/
def plainUnits (segs : List (Nat × Nat)) : List Nat :=
  segs.flatMap fun p => (List.range p.2).map fun k => p.1 + 4096 * k

/-- R450: a home or copy laid out: the addresses of its data units in order, and its parity rows. -/
structure Layout where
  units : List Nat
  rows  : List Nat
deriving DecidableEq, Repr

/-- R450: the segments of a home: SEG 0 covers SIZE units, or the rows that hold them. -/
def State.homeSegs (s : State) (tier : Nat) (prot : Bool) (loc size : Nat) : List (Nat × Nat) :=
  if loc % 2 = 1 then s.segsOf tier loc 0
  else
    let rows := (size + (rowShape tier).2.1 - 1) / (rowShape tier).2.1
    s.segsOf tier loc (if prot then rows * (rowShape tier).2.2 else size)

/-- R450: the stored length L that a home's location fixes at CREATE. -/
def State.storedLen (s : State) (tier : Nat) (prot : Bool) (loc size : Nat) : Nat :=
  if loc % 2 = 0 then size
  else
    let segs := s.segsOf tier loc 0
    if prot then (rowsOf tier segs).length * (rowShape tier).2.1 else (segs.map (·.2)).sum

/-- R450: the layout of a home that holds `l` units. -/
def State.homeLayout (s : State) (tier : Nat) (prot : Bool) (loc l : Nat) : Layout :=
  let segs := s.homeSegs tier prot loc l
  if prot then { units := (protUnits tier (rowsOf tier segs)).take l, rows := rowsOf tier segs }
  else { units := (plainUnits segs).take l, rows := [] }

/-- R450: the layout of a copy of `l` units. -/
def State.copyLayout (s : State) (tier loc l : Nat) : Layout :=
  { units := (plainUnits (s.segsOf tier loc l)).take l, rows := [] }

/-- R173, R166: a segment that a tier can hold: aligned, in the tier's space and within its capacity. -/
def State.segOk (s : State) (tier : Nat) (p : Nat × Nat) : Bool :=
  if tier = 3 then p.1 % 2 ^ 17 == 0
  else p.1 % 4096 == 0 &&
    (match tier with
     | 0 => spaceOf p.1 == .t0 && s.mapped p.1 (4096 * p.2)
     | 1 => spaceOf p.1 == .t1 && s.mapped p.1 (4096 * p.2)
     | 2 => spaceOf p.1 == .t2 && s.mapped p.1 (4096 * p.2)
     | _ => spaceOf p.1 == .drift)

/-- R450: the location rules of a home. -/
def State.homeLocOk (s : State) (tier : Nat) (prot : Bool) (loc size : Nat) : Bool :=
  let segs := s.homeSegs tier prot loc size
  !segs.isEmpty && segs.all (s.segOk tier) &&
    (!prot || segs.all fun p => p.1 % (rowShape tier).1 == (if tier = 2 then (2 * 2 ^ 60) % (12 * 4096) else 0) &&
      p.2 % (rowShape tier).2.2 == 0)

/-- R173, R450: the location rules of a copy of `l` units; a T0 copy lies within one crew's slice. -/
def State.copyLocOk (s : State) (tier loc l : Nat) : Bool :=
  let segs := s.segsOf tier loc l
  !segs.isEmpty && segs.all (s.segOk tier) && (segs.map (·.2)).sum == l &&
    (tier != 0 || (segs.all fun p => (p.1 + 4096 * p.2 - 1) / 2 ^ 24 == (segs.headD (0, 0)).1 / 2 ^ 24 &&
      p.1 / 2 ^ 24 == (segs.headD (0, 0)).1 / 2 ^ 24))

/-- R450: the stored length of an existing object: as CREATE fixed it, or as its home's location gives it. -/
def State.objLen (s : State) (e : ObjEntry) : Nat := e.len.getD (s.storedLen e.home e.prot (e.loc e.home) e.size)

/-- The layout of the object's home. -/
def State.objHome (s : State) (e : ObjEntry) : Layout := s.homeLayout e.home e.prot (e.loc e.home) (s.objLen e)

/-- The layout of what the object holds in a tier. -/
def State.objIn (s : State) (e : ObjEntry) (tier : Nat) : Layout :=
  if tier = e.home then s.objHome e else s.copyLayout tier (e.loc tier) (s.objLen e)

/-- R166: the tiers below another in which the object is resident, nearest first. -/
def ObjEntry.below (e : ObjEntry) (tier : Nat) : List Nat :=
  [0, 1, 2, 4, 3].filter fun t => tierRank tier < tierRank t && e.holds t

/-- R166: the writable copy: the highest resident copy other than a T0 copy. -/
def ObjEntry.writable (e : ObjEntry) : Nat := ([1, 2, 4, 3].find? e.holds).getD e.home

/-! ### Which object holds an address -/

/-- The entries of the table that are not FREE, with their indices. -/
def State.objects (s : State) : List (Nat × ObjEntry) :=
  ((List.range s.objCount).map fun i => (i, s.obj i)).filter fun p => p.1 != 0 && p.2.state != objFree

/-- The tier an address of a space belongs to. -/
def tierOf (a : Nat) : Nat :=
  match spaceOf a with
  | .t0 => 0 | .t1 => 1 | .t2 => 2 | .drift => 4 | _ => 5

/-- An object's hold on a 4 KiB page: the entry, the tier, and which data unit the page is (none for parity). -/
structure Owner where
  idx  : Nat
  ent  : ObjEntry
  tier : Nat
  unit : Option Nat
  row  : Option (Nat × Nat)
deriving DecidableEq, Repr

/-- The hold one object has on the page at `a` (or on the group offset `a` of T3). -/
def State.ownerBy (s : State) (p : Nat × ObjEntry) (tier a : Nat) : Option Owner :=
  if p.2.holds tier then
    let ly := s.objIn p.2 tier
    let size := (rowShape tier).1
    let row := (ly.rows.zipIdx.find? fun r => r.1 ≤ a && a < r.1 + size)
    match ly.units.idxOf? (a / 4096 * 4096), row with
    | some u, r => some { idx := p.1, ent := p.2, tier, unit := some u, row := r }
    | none, some r => some { idx := p.1, ent := p.2, tier, unit := none, row := some r }
    | none, none => none
  else none

/-- The object that holds the page of a part address. -/
def State.ownerOf (s : State) (a : Nat) : Option Owner := s.objects.findSome? fun p => s.ownerBy p (tierOf a) a

/-! ### Quotas (R165, R176, R177) -/

/-- R176: the charge of a home or copy, in 4 KiB units. -/
def chargeOf (tier : Nat) (prot : Bool) (size : Nat) : Nat :=
  if !prot then size
  else if tier = 3 then (size * 4 + 2) / 3 else (size * 6 + 4) / 5

/-- R207: the physical 4 KiB units of a home or copy: PHYS, or L. -/
def physOf (tier : Nat) (ly : Layout) : Nat :=
  if ly.rows.isEmpty then ly.units.length else ly.rows.length * (rowShape tier).2.2

/-- R292: the pool's extents: those in T2, then those in T3. -/
def State.poolExtents (s : State) : Nat :=
  s.fld R.HP1_POOL_T2 F.HP1_POOL_T2_EXTENTS + s.fld R.HP1_POOL_T3 F.HP1_POOL_T3_EXTENTS

/-- R292, R236: the pool unit's tables on the privileged channels that have been set: bases and bytes. -/
def State.poolTables (s : State) : List (Nat × Nat) :=
  let at_ (r : Reg) (f : Fld) (n : Nat) : List (Nat × Nat) := if s.locked r then [(t2Addr (s.fld r f * 4096), n)] else []
  at_ R.HP1_DIR_BASE F.HP1_DIR_BASE_PAGE (Config.dirBytes s.poolExtents) ++
  at_ R.HP1_DIR_MIRROR F.HP1_DIR_MIRROR_PAGE (Config.dirBytes s.poolExtents) ++
  at_ R.HP1_SHARER_BASE F.HP1_SHARER_BASE_PAGE Config.sharerBytes

/-- R165: units reserved in T1 (tier 1) or T2 (tier 2): the object table and its mirror, the rings, the pool, and lent
ranges. -/
def State.reservedUnits (s : State) (tier : Nat) : Nat :=
  let tbl := if s.locked R.T1C_OBJ_ENTRIES then (64 * s.fld R.T1C_OBJ_ENTRIES F.T1C_OBJ_ENTRIES_ENTRIES + 4095) / 4096 else 0
  let main := if s.locked R.EVR_MAIN_BASE then 16384 else 0
  let rings := ((List.range 256).map fun t =>
    if s.flag (R.EVR_TR_CTL t) F.EVR_TR_CTL_VALID then 2 ^ s.fld (R.EVR_TR_BASE t) F.EVR_TR_BASE_SIZE else 0).sum
  let lent := ((List.range 64).map fun i =>
    let sp := spaceOf (s.reg (R.PLT_LOUT_BASE i))
    if s.flag (R.PLT_LOUT_CTL i) F.PLT_LOUT_CTL_STATE && (if tier = 1 then sp == .t1 else sp == .t2)
    then 16 * s.fld (R.PLT_LOUT_SIZE i) F.PLT_LOUT_SIZE_UNITS else 0).sum
  match tier with
  | 1 => tbl + main + rings + lent + s.fld R.HP1_POOL_T1 F.HP1_POOL_T1_SIZE_GIB * 2 ^ 18
  | 2 => tbl + lent + s.fld R.HP1_POOL_T2 F.HP1_POOL_T2_EXTENTS * 66560 +
      (s.fld R.HP1_POOL_SIDE F.HP1_POOL_SIDE_SLOTS * 4160 + 4095) / 4096 +
      (s.poolTables.map fun x => (x.2 + 4095) / 4096).sum
  | 3 => s.fld R.HP1_POOL_T3 F.HP1_POOL_T3_EXTENTS * 65536
  | _ => 0

/-- Whether the SSD of a root port is in service. -/
def State.ssdUp (s : State) (p : Nat) : Bool :=
  match mapFind s.t3.ssds p with
  | some d => d.present && d.ready && !d.outOfService
  | none => false

/-- R163: an incoming lease gives its capacity once it has been accepted, until it closes. -/
def State.leaseHeld (s : State) (i : Nat) : Bool :=
  let st := s.fld (R.PLT_LIN_CTL i) F.PLT_LIN_CTL_STATE
  let was := match mapFind s.plt.leases i with
    | some l => l.was
    | none => 0
  decide (2 ≤ st) && !(st == 5 && was == 1)

/-- R163: the usable units of a tier now in service. -/
def State.usableUnits (s : State) (tier : Nat) : Nat :=
  match tier with
  | 0 => ((List.range 64).filter s.crewUp).length * 4096
  | 1 => ((List.range 16).filter fun c => s.memState c == 4).length * (stackBytes / 4096)
  | 2 => ((List.range 12).filter fun c => s.memState (16 + c) == 4).length * s.chanGiB * 2 ^ 18
  | 3 =>
    let sizes := ((List.range 4).filter s.ssdUp).map fun p =>
      match mapFind s.t3.ssds p with | some d => d.units | none => 0
    sizes.length * (sizes.min?.getD 0)
  | _ => ((List.range 64).map fun i =>
      if s.leaseHeld i then 16 * s.fld (R.PLT_LIN_SIZE i) F.PLT_LIN_SIZE_UNITS else 0).sum

/-- R165: chargeable capacity of a tier, in 4 KiB units. -/
def State.capacity (s : State) (tier : Nat) : Nat := 255 * (s.usableUnits tier - s.reservedUnits tier) / 256

/-- R177: a charge is admitted within the tenant's quota and the tier's capacity. -/
def State.chargeFits (s : State) (t tier n : Nat) : Bool :=
  decide (s.reg (R.QOS_CHARGE t tier) + n ≤ s.fld (R.QOS_QUOTA t tier) F.QOS_QUOTA_LIMIT) &&
    decide (s.reg (R.T1C_CHARGED tier) + n ≤ s.capacity tier)

/-- Take a charge of `n` units and `p` physical units. -/
def takeCharge (t tier n p : Nat) (s : State) : State :=
  let s := setReg (R.QOS_CHARGE t tier) (s.reg (R.QOS_CHARGE t tier) + n) s
  let s := setReg (R.T1C_CHARGED tier) (s.reg (R.T1C_CHARGED tier) + n) s
  setReg (R.QOS_PHYS t tier) (s.reg (R.QOS_PHYS t tier) + p * 4096) s

/-- R178: release a charge. -/
def dropCharge (t tier n p : Nat) (s : State) : State :=
  let s := setReg (R.QOS_CHARGE t tier) (s.reg (R.QOS_CHARGE t tier) - n) s
  let s := setReg (R.T1C_CHARGED tier) (s.reg (R.T1C_CHARGED tier) - n) s
  setReg (R.QOS_PHYS t tier) (s.reg (R.QOS_PHYS t tier) - p * 4096) s

/-! ### The pool's reservations (R292): only the pool unit reaches them. -/

/-- R292: whether bytes of the deep-lode group lie on the pool's extents. -/
def State.poolDeep (s : State) (off n : Nat) : Bool :=
  let b := s.fld R.HP1_POOL_T3 F.HP1_POOL_T3_BASE * 2 ^ 17
  let l := s.fld R.HP1_POOL_T3 F.HP1_POOL_T3_EXTENTS * 2 ^ 28
  decide (0 < l) && decide (off < b + l) && decide (b < off + n)

/-- Whether a range of T1 or T2 touches a pool reservation. -/
def State.poolTouched (s : State) (a n : Nat) : Bool :=
  let o := spaceOff a
  let hits (b l : Nat) : Bool := decide (0 < l) && decide (o < b + l) && decide (b < o + n)
  match spaceOf a with
  | .t1 => hits (s.fld R.HP1_POOL_T1 F.HP1_POOL_T1_BASE_GIB * 2 ^ 30)
      (s.fld R.HP1_POOL_T1 F.HP1_POOL_T1_SIZE_GIB * 2 ^ 30)
  | .t2 => hits (s.fld R.HP1_POOL_T2 F.HP1_POOL_T2_BASE) (s.fld R.HP1_POOL_T2 F.HP1_POOL_T2_EXTENTS * 0x10400000) ||
      hits (s.fld R.HP1_POOL_SIDE F.HP1_POOL_SIDE_BASE_PAGE * 4096) (s.fld R.HP1_POOL_SIDE F.HP1_POOL_SIDE_SLOTS * 4160) ||
      s.poolTables.any fun x => (List.range ((o + n - 1) / 4096 - o / 4096 + 1)).any fun j => s.inPriv x.1 x.2 (a + 4096 * j)
  | _ => false

/-- R13, R245, R292: an access to T0, T1 or T2 that a requester performs; only the pool unit reaches the pool's ranges. -/
def State.reachableBy (s : State) (pool : Bool) (a n : Nat) : Bool := s.mapped a n && (pool || !s.poolTouched a n)

/-- R13, R292: an access to T0, T1 or T2 that an engine other than the pool unit performs. -/
def State.reachable (s : State) (a n : Nat) : Bool := s.reachableBy false a n

end Sys2Proof.Machine
end

