-- ==== Sys2Proof/Machine/Routes.lean ====
section
/-! DEFINITION. The seam links as a network (R16, R18, R19, R23, R25): the die that holds an address, the route between two
dies, and the halves. -/

namespace Sys2Proof.Machine

/-- R28: the two state bits of a seam link: 0 down, 1 half width, 2 full width, 3 retraining. -/
def State.seamLink (s : State) (i : Nat) : Nat := bitsOf (s.reg R.FMN_SEAM_STATE) (2 * i + 1) (2 * i)

/-- R18: the dies that a link joins. C0 to C3 are 0 to 3, H0 is 4, H1 is 5. -/
def seamEnds (l : Nat) : Nat × Nat :=
  [(0, 4), (1, 4), (2, 5), (3, 5), (0, 1), (2, 3), (0, 2), (1, 3)].getD l (0, 0)

/-- A link still carries traffic, or will after its retrain. -/
def State.seamUp (s : State) (l : Nat) : Bool := s.seamLink l != 0

/-- R22, R23: traffic on the link stands still: it retrains, or its failover is not complete. -/
def State.seamStalled (s : State) (l : Nat) : Bool := s.seamLink l == 3 || s.seams.failing.contains l

/-- R15: half B holds C2, C3 and H1. -/
def inHalfB (d : Nat) : Bool := d == 2 || d == 3 || d == 5

/-- R18: the link that joins two dies. -/
def linkOf (a b : Nat) : Option Nat := (List.range 8).find? fun l => seamEnds l == (a, b) || seamEnds l == (b, a)

/-- R19: the two minimal routes of two dies that no link joins, for bit 12 = 0 and bit 12 = 1, from the first to the
second. -/
def routeTable : List ((Nat × Nat) × List Nat × List Nat) :=
  [((0, 3), [6, 5], [4, 7]), ((1, 2), [7, 5], [4, 6]), ((4, 2), [0, 6], [1, 7, 5]), ((4, 3), [1, 7], [0, 6, 5]),
   ((5, 0), [2, 6], [3, 7, 4]), ((5, 1), [3, 7], [2, 6, 4]), ((4, 5), [0, 6, 2], [1, 7, 3])]

/-- R19: the table's route between two dies; a route is the same links either way. -/
def tableRoute (a b : Nat) (bit12 : Bool) : Option (List Nat) :=
  match routeTable.find? fun r => r.1 == (a, b) with
  | some r => some (if bit12 then r.2.2 else r.2.1)
  | none => (routeTable.find? fun r => r.1 == (b, a)).map fun r => (if bit12 then r.2.2 else r.2.1).reverse

/-- The dies at the end of a link from a die. -/
def across (l d : Nat) : Option Nat :=
  if (seamEnds l).1 = d then some (seamEnds l).2 else if (seamEnds l).2 = d then some (seamEnds l).1 else none

/-- The ways of `n` links from die `a` to die `b` over links that are up, that do not return to a die. -/
def State.ways (s : State) : Nat → List Nat → Nat → Nat → List (List Nat)
  | 0, _, a, b => if a = b then [[]] else []
  | n + 1, seen, a, b => (List.range 8).flatMap fun l =>
    match across l a with
    | some d => if s.seamUp l && !seen.contains d then (s.ways n (d :: seen) d b).map (l :: ·) else []
    | none => []

/-- R23: a way between the ends of a link survives without it. -/
def State.hasDetour (s : State) (l : Nat) : Bool :=
  let (a, b) := seamEnds l
  (List.range 6).any fun n => (s.ways n [a] a b).any fun w => !w.contains l && !w.any s.seams.failing.contains

/-- R23, R25: the shortest way that survives; of several the one that takes the lowest links first (log 80). -/
def State.detour (s : State) (a b : Nat) : Option (List Nat) :=
  (List.range 6).findSome? fun n => (s.ways n [a] a b).head?

/-- R19, R23: the links that traffic between two dies takes: the link that joins them, or the route that bit 12 of the
target's address chooses; where a link of it is down, the shortest way that survives. -/
def State.seamRoute (s : State) (a b : Nat) (bit12 : Bool) : Option (List Nat) :=
  let fixed := match linkOf a b with
    | some l => some [l]
    | none => tableRoute a b bit12
  if a = b then some []
  else match fixed with
    | some r => if r.all s.seamUp then some r else s.detour a b
    | none => s.detour a b

/-- R16: the die that holds a control register's instance; the registers of no instance are on H0 (log 80). -/
def ctlDie (off : Nat) : Nat :=
  let (k, i) := ctlSource off
  match k with
  | 1 | 3 => i / 48
  | 2 => i / 256
  | 4 => if i < 256 then i / 64 else if i < 288 then 4 else 5
  | 5 | 16 => i / 16
  | 6 => i / 4
  | 7 => if i < 6 then 4 else 5
  | 8 => 4 + i / 2
  | 11 => 5
  | 12 => 4 + i / 8
  | 13 | 15 => 4 + i
  | _ => 4

/-- R16, R219, R164, R333: the die on which the location of a part address lies: for drift, the H-die of the plane that
bit 12 of the offset chooses. -/
def State.dieAt (s : State) (a : Nat) : Nat :=
  let o := spaceOff a
  match spaceOf a with
  | .t0 => o / 2 ^ 28 % 4
  | .t1 => stackOf o / 4
  | .t2 => if s.chanOf o < 6 then 4 else 5
  | .drift => if bitAt a 12 then 5 else 4
  | _ => ctlDie o

/-- R19: bit 12 of an address as the choice of a route: control-space traffic takes the route for 0. -/
def routeBit (a : Nat) : Bool := spaceOf a != .control && bitAt a 12

/-- R19: the links between a die and the location of a part address. -/
def State.routeTo (s : State) (die a : Nat) : Option (List Nat) := s.seamRoute die (s.dieAt a) (routeBit a)

/-- R353: the resources of S6 and S7 that data crosses on a way from die `a`: A to B, or B to A. -/
def crossings : Nat → List Nat → List Nat
  | _, [] => []
  | a, l :: ls =>
    let here := if l = 6 ∨ l = 7 then [13 + 2 * (l - 6) + if inHalfB a then 1 else 0] else []
    here ++ crossings ((across l a).getD a) ls

/-- R16: the die of a requester's own part of the package; HP0 stands on H0, and a foreman on its H-die. -/
def whoDie : Who → Nat
  | .pf0 | .vf _ => 4
  | .foreman f => 4 + f.val
  | .ctx c => c.val / 256
  | .tram t => if t.val < 256 then t.val / 64 else if t.val < 288 then 4 else 5
  | .hoist h => h.val / 16

/-- R16: the die of engine `e` (trams 0 to 319, hoists 320 to 383). -/
def engDie (e : Nat) : Nat := if e < 256 then e / 64 else if e < 288 then 4 else if e < 320 then 5 else (e - 320) / 16

end Sys2Proof.Machine
end

