-- ==== Sys2Proof/Machine/Qos.lean ====
section
/-! DEFINITION. Bandwidth regulation (R352 to R361): PEAK of each resource and its recomputation, admission of
guarantees, the rate feedback, and the buckets. -/

namespace Sys2Proof.Machine

/-- R353: GT/s of an encoded link speed. -/
def speedGT (v : Nat) : Nat := [0, 2, 5, 8, 16, 32, 64].getD v 0

/-- R353: PEAK of a resource, in 100 MB/s; `old` is the contribution a retraining link keeps. -/
def State.qosPeak (s : State) (r : Nat) : Nat :=
  let old := s.fld (R.QOS_RES_STAT r) F.QOS_RES_STAT_PEAK
  let seam (l : Nat) : Nat :=
    match s.seamLink l with | 0 => 0 | 1 => 10000 | 2 => 20000 | _ => old
  let ssd (p : Nat) : Nat :=
    match mapFind s.t3.ssds p with
    | some d => if s.ssdUp p then d.speed * d.width * 5 / 4 else 0
    | none => 0
  let hp0 := speedGT (s.fld R.HP0_LINK_STAT F.HP0_LINK_STAT_SPEED) * s.fld R.HP0_LINK_STAT F.HP0_LINK_STAT_WIDTH * 5 / 4
  let plane (h : Nat) : Nat := ((List.range 8).map fun i =>
    let p := 8 * h + i
    let st := s.fld (R.PLT_PORT_STAT p) F.PLT_PORT_STAT_STATE
    if st == 4 || st == 5 then 250 * s.fld (R.PLT_PORT_STAT p) F.PLT_PORT_STAT_TX_WIDTH else 0).sum
  if r < 4 then ((List.range 4).map fun i =>
      let st := 4 * r + i
      if s.memState st == 4 then s.fld (R.T1C_STAT st) F.T1C_STAT_RATE * 128 / 100 else 0).sum
  else if r = 4 then ((List.range 12).map fun c =>
      if s.memState (16 + c) == 4 then s.fld (R.T2C_STAT c) F.T2C_STAT_RATE * 8 / 100 else 0).sum
  else if r < 9 then ssd (r - 5)
  else if r < 13 then ssd (r - 9)
  else if r < 15 then seam 6
  else if r < 17 then seam 7
  else if r < 19 then
    (match s.fld R.HP0_LINK_STAT F.HP0_LINK_STAT_STATE with
     | 2 => hp0 | 3 => old | _ => 0)
  else if r < 21 then plane (r - 19)
  else 0

/-- R352: the regulation sources. -/
def qosSources : Nat := 259

/-- R356: the sum of the guarantees admitted on a resource. -/
def State.qosAdmitted (s : State) (r : Nat) : Nat :=
  ((List.range qosSources).map fun k => s.fld (R.QOS_BW k r) F.QOS_BW_GUAR).sum

/-- R356: the most that can be admitted. -/
def admitMax (peak : Nat) : Nat := 4 * peak / 5

/-- R358: scale every guarantee on a resource from one PEAK to a lower one. -/
def qosScale (r pOld pNew : Nat) (s : State) : State :=
  (List.range qosSources).foldl (fun s k =>
    let g := s.fld (R.QOS_BW k r) F.QOS_BW_GUAR
    if g = 0 then s else setFld (R.QOS_BW k r) F.QOS_BW_GUAR (g * pNew / pOld) s) s

/-- R353, R358: recompute PEAK of one resource: a fall scales the guarantees, and either change records an event. -/
def qosRefreshOne (s : State) (r : Nat) : State :=
  let pOld := s.fld (R.QOS_RES_STAT r) F.QOS_RES_STAT_PEAK
  let pNew := s.qosPeak r
  if pNew = pOld then s
  else
    let s := if pNew < pOld then bump R.QOS_CNT_SCALED 1 (qosScale r pOld pNew s) else s
    let s := setFld (R.QOS_RES_STAT r) F.QOS_RES_STAT_PEAK pNew s
    let s := setFld (R.QOS_RES_STAT r) F.QOS_RES_STAT_ADMIT_MAX (admitMax pNew) s
    let s := setFld (R.QOS_RES_STAT r) F.QOS_RES_STAT_ADMITTED (s.qosAdmitted r) s
    event 0x0B02 0x0E 0 r pOld pNew 0 s

/-- R353: recompute PEAK of every resource. -/
def qosRefresh (s : State) : State := (List.range 21).foldl qosRefreshOne s

/-- R352: the regulation source of a kneader context's or engine's tenant, or of the part's own traffic. -/
def qosPool : Nat := 256
/-- R352: SYSTEM. -/
def qosSystem : Nat := 257
/-- R352: REMOTE. -/
def qosRemote : Nat := 258

/-- R360: one adjustment of a rate; levels are 0 LOW, 1 MEDIUM, 2 HIGH, 3 CRITICAL. -/
def qosAdjust (e guar limit level peak : Nat) : Nat :=
  let cap := if limit = 0 ∨ limit > peak then peak else limit
  let floor := if guar > 0 then guar else peak / 2048
  match level with
  | 0 => min cap (e + peak / 64)
  | 2 => max floor (e - (e - floor) / 2)
  | 3 => floor
  | _ => e

/-- R359: the level of an occupancy in eighths. -/
def State.qosLevel (s : State) (r occ : Nat) : Nat :=
  let cfg := R.QOS_RES_CFG r
  if occ ≥ s.fld cfg F.QOS_RES_CFG_CRIT_TH then 3
  else if occ ≥ s.fld cfg F.QOS_RES_CFG_HIGH_TH then 2
  else if occ ≥ s.fld cfg F.QOS_RES_CFG_MED_TH then 1
  else 0

/-- R355: a bucket's key. -/
def qosKey (die src r : Nat) : Nat := (die * 512 + src) * 32 + r

/-- R360: a pair carries traffic once a die has issued for it. -/
def State.qosCarries (s : State) (src r : Nat) : Bool :=
  (List.range 6).any fun die => (mapFind s.qos.issued (qosKey die src r)).isSome

/-- R359, R360: one resource's report: its level, its counters and the rates of the pairs that carry traffic. -/
def qosReport (s : State) (p : Nat × Nat) : State :=
  let (r, occ) := p
  let lv := s.qosLevel r occ
  let s := setFld (R.QOS_RES_STAT r) F.QOS_RES_STAT_LEVEL lv s
  let s := if lv = 2 then bump (R.QOS_RES_CNT_HIGH r) 1 s else if lv = 3 then bump (R.QOS_RES_CNT_CRIT r) 1 s else s
  (List.range qosSources).foldl (fun s k =>
    let b := R.QOS_BW k r
    let e := s.fld b F.QOS_BW_RATE
    if !s.qosCarries k r then s
    else setFld b F.QOS_BW_RATE (qosAdjust e (s.fld b F.QOS_BW_GUAR) (s.fld b F.QOS_BW_LIMIT) lv
      (s.fld (R.QOS_RES_STAT r) F.QOS_RES_STAT_PEAK)) s) s

/-- R361: a die's bucket holds at most 8 KiB. -/
def qosBucketMax : Nat := 8192

/-- R361: bytes a die issued for a pair in the last 1 024 NCLK cycles. -/
def State.qosRecent (s : State) (die src r : Nat) : Nat :=
  (((mapGet s.qos.issued (qosKey die src r) []).filter fun p => s.nclk - p.1 < 1024).map (·.2)).sum

/-- R361: a die's share of the pair's rate: in proportion to its bytes in the window, at least E / 64. -/
def State.qosShare (s : State) (die src r : Nat) : Nat :=
  let e := s.fld (R.QOS_BW src r) F.QOS_BW_RATE
  let total := ((List.range 6).map fun d => s.qosRecent d src r).sum
  if total = 0 then e else max (e / 64) (e * s.qosRecent die src r / total)

/-- The bytes a bucket holds now: what it held, and what its share added since; 100 MB/s is 1/18 byte per cycle. -/
def State.qosHeld (s : State) (die src r : Nat) : Nat :=
  match mapFind s.qos.buckets (qosKey die src r) with
  | none => qosBucketMax
  | some b => min qosBucketMax (b.bytes + (s.nclk - b.time) * s.qosShare die src r / 18)

/-- R304, R362: the POOL source uses a resource in this interval. -/
def poolUses (s : State) (r : Nat) : State := { s with qos := { s.qos with used := setInsert s.qos.used r } }

/-- Take bytes from one bucket, and note that the pair carries traffic (R360: E starts at the cap). -/
def qosTake (die src n : Nat) (s : State) (r : Nat) : State :=
  let held := s.qosHeld die src r
  let peak := s.fld (R.QOS_RES_STAT r) F.QOS_RES_STAT_PEAK
  let limit := s.fld (R.QOS_BW src r) F.QOS_BW_LIMIT
  let k := qosKey die src r
  let s := if !s.qosCarries src r then
      setFld (R.QOS_BW src r) F.QOS_BW_RATE (if limit = 0 ∨ limit > peak then peak else limit) s else s
  let bs := mapPut s.qos.buckets k { bytes := held - n, time := s.nclk }
  let recent := (mapGet s.qos.issued k []).filter fun p => s.nclk - p.1 < 1024
  let is := mapPut s.qos.issued k (recent ++ [(s.nclk, n)])
  let s := { s with qos := { s.qos with buckets := bs, issued := is } }
  if src = qosPool then poolUses s r else s

/-- R353, R355: the seam links of a request and the resources it crosses: the one that serves its target, and S6 and S7 in
the direction of its data. A request of an SSD or of the host has no part address and takes the route for bit 12 = 0
(log 80). None: no way survives. -/
def State.qosPath (s : State) (die : Nat) (t : RegTarget) : Option (List Nat × List Nat) :=
  let via (dst : Nat) (bit12 outward : Bool) (r : List Nat) : Option (List Nat × List Nat) :=
    match s.seamRoute die dst bit12 with
    | none => none
    | some ls => some (ls, r ++ (if outward then crossings die ls else crossings dst ls.reverse))
  match t with
  | .part a write =>
    let x := a.toNat
    let r := match spaceOf x with
      | .t1 => [stackOf (spaceOff x) / 4]
      | .t2 => [4]
      | .drift => [if bitAt x 12 then 20 else 19]
      | _ => []
    via (s.dieAt x) (routeBit x) write r
  | .ssd p write => via (4 + p / 2) false write [if write then 9 + p else 5 + p]
  | .host send => via 4 false send [if send then 17 else 18]

/-- R23, R355: a request issues when no link of its way stands still and every bucket on its path holds its bytes, rounded
up to 64. -/
def qosIssue (die src : Nat) (t : RegTarget) (bytes : Nat) (s : State) : Option State :=
  let n := (bytes + 63) / 64 * 64
  match s.qosPath die t with
  | none => none
  | some (links, path) =>
    if !links.any s.seamStalled && path.all fun r => decide (n ≤ s.qosHeld die src r)
    then some (path.foldl (qosTake die src n) s) else none

/-- R356: a write of GUAR and LIMIT, admitted or refused. -/
def qosGuarWrite (src r val : Nat) (s : State) : State :=
  let b := R.QOS_BW src r
  let g := val % 65536
  let old := s.fld b F.QOS_BW_GUAR
  let peak := s.fld (R.QOS_RES_STAT r) F.QOS_RES_STAT_PEAK
  let ok := decide (g ≤ old) || decide (s.qosAdmitted r - old + g ≤ admitMax peak)
  let st := R.QOS_ADMIT_STAT
  let s := setReg st (g * 2 ^ 24 + src * 2 ^ 15 + r * 2 ^ 10 + (!ok).toNat * 2 + 1) s
  let s := setFld b F.QOS_BW_LIMIT (val / 65536) s
  if g = old then s
  else if ok then
    let s := setFld b F.QOS_BW_GUAR g s
    setFld (R.QOS_RES_STAT r) F.QOS_RES_STAT_ADMITTED (s.qosAdmitted r) s
  else event 0x0B01 0x0E 0 r src g (s.qosAdmitted r) (bump R.QOS_CNT_REFUSED 1 s)

/-- R367: a latency monitor records one command. -/
def qosLatency (t cls l : Nat) (s : State) : State :=
  let s := bump (R.QOS_LAT_CNT t cls) 1 s
  let s := if l > s.fld (R.QOS_LAT_MAX t cls) F.QOS_LAT_MAX_MAX_US then setFld (R.QOS_LAT_MAX t cls) F.QOS_LAT_MAX_MAX_US l s else s
  let cfg := R.QOS_LAT_CFG t cls
  let alarm := s.fld cfg F.QOS_LAT_CFG_ALARM_US
  if alarm != 0 && decide (l > alarm) && !s.flag cfg F.QOS_LAT_CFG_ALARMED then
    tenantEvent 0x0B04 0x0E 0 t cls l alarm 0 (setFld cfg F.QOS_LAT_CFG_ALARMED 1 s)
  else s

/-- R365, R366: whether a completion at T_US `c` misses the deadline `d`. -/
def deadlineMissed (c d : Nat) : Bool :=
  let x := (c + 2 ^ 32 - d % 2 ^ 32) % 2 ^ 32
  decide (1 ≤ x) && decide (x ≤ 2 ^ 31 - 1)

end Sys2Proof.Machine
end

