-- ==== Sys2Proof/Machine/Access.lean ====
section
/-! DEFINITION. Reads and writes of T0, T1, T2 and borrowed drift memory as the part performs them: the word code and
its corrections (R217, R220, R228 to R230), remapping (R229), recovery entries (R195, R196), dirty bits (R180), the
parity of protected homes (R185), injection (R238), and lost instances (R232). -/

namespace Sys2Proof.Machine

/-! ### Controllers -/

/-- The register of a controller: stacks are 0 to 15, channels 16 to 27. -/
def ctrlReg (f1 f2 : Nat → Reg) (c : Nat) : Reg := if c < 16 then f1 c else f2 (c - 16)

/-- The controller number of a controller. -/
def ctrlNum : Ctrl → Nat
  | .stack k => k.val
  | .chan k => 16 + k.val

/-- R373: KIND of a controller. -/
def ctrlKind (c : Nat) : Nat := if c < 16 then 6 else 7

/-- R373: INSTANCE of a controller. -/
def ctrlInst (c : Nat) : Nat := if c < 16 then c else c - 16

/-- R238: the controller and controller address of a T1 or T2 part address. -/
def State.ctrlAddrOf (s : State) (a : Nat) : Option (Nat × Nat) :=
  let o := spaceOff a
  match spaceOf a with
  | .t1 => let r := o % stackBytes
           some (stackOf o, r / 256 % 32 * 2 ^ 31 + r / 8192 * 256 + r % 256)
  | .t2 => some (16 + s.chanOf o, o / 4096 / max 1 s.chans.length * 4096 + o % 4096)
  | _ => none

/-- R238, R219, R164: the part address of a controller address, if it is data. -/
def State.partAddrOf (s : State) (c x : Nat) : Option Nat :=
  if c < 16 then
    let b := x % 2 ^ 31
    if b < 44739240 * 32 ∧ x / 2 ^ 31 < 32 then
      some (t1Addr (c * stackBytes + b / 256 * 8192 + x / 2 ^ 31 * 256 + b % 256))
    else none
  else match s.chans.idxOf? (c - 16) with
    | some i => some (t2Addr ((x / 4096 * s.chans.length + i) * 4096 + x % 4096))
    | none => none

/-- R229: the remap entry that holds a line. -/
def State.remapEntry (s : State) (c line : Nat) : Option Nat :=
  (List.range 16).find? fun n =>
    let r := ctrlReg (R.T1C_REMAP · n) (R.T2C_REMAP · n) c
    bitAt (s.reg r) 63 && bitsOf (s.reg r) 47 6 == line / 64

/-- R229: the line of a part address is served from a remap entry. -/
def State.remapped (s : State) (a : Nat) : Bool :=
  match s.ctrlAddrOf a with
  | some (c, x) => (s.remapEntry c x).isSome
  | none => false

/-- R28, R29: clear the present bit of a stack. -/
def clearStackPresent (st : Nat) (s : State) : State :=
  let f := if st < 8 then F.FMN_TOPO_CAP_STACK_PRESENT_LO else F.FMN_TOPO_CAP_STACK_PRESENT_HI
  setFld R.FMN_TOPO_CAP f (setBits (s.fld R.FMN_TOPO_CAP f) (st % 8) (st % 8) 0) s

/-- R221: a stack controller that leaves service writes its cached bursts to the stack. -/
def ckFlush (c : Nat) (s : State) : State := { s with ms := { s.ms with ckCache := mapErase s.ms.ckCache c } }

/-- R232: take a stack or channel out of service; guarantees on it are scaled (R358). -/
def memTakeOut (c cause : Nat) (s : State) : State :=
  if s.memState c = 6 then s
  else
    let s := ckFlush c (setFld (ctrlReg R.T1C_STAT R.T2C_STAT c) F.T1C_STAT_STATE 6 s)
    let s := if c < 16 then clearStackPresent c s else s
    qosRefresh (event 0x0603 (ctrlKind c) (ctrlInst c) (ctrlKind c) (ctrlInst c) cause 0 s)

/-! ### Codeword faults -/

/-- The mask of the wrong bits of the word at word address `w`. -/
def State.flipMask (s : State) (w : Nat) : Nat := mapGet s.ms.flips w 0

/-- Set the mask of a word; only non-zero masks are listed. -/
def setFlips (w m : Nat) (s : State) : State :=
  let fl := if m = 0 then mapErase s.ms.flips w else mapPut s.ms.flips w m
  { s with ms := { s.ms with flips := fl } }

/-- R232: note a line found uncorrectable; more than 256 distinct lines within one second end service. -/
def noteUncorr (c line : Nat) (s : State) : State :=
  let old := (mapGet s.ms.ucLines c []).filter fun p => p.1 != line && s.nclk - p.2 < 1800000000
  let l := (line, s.nclk) :: old
  let tab := mapPut s.ms.ucLines c l
  let s := { s with ms := { s.ms with ucLines := tab } }
  if l.length > 256 then memTakeOut c 1 s else s

/-- Whether the line of a part address holds an uncorrectable word. -/
def State.lineBad (s : State) (a : Nat) : Bool :=
  (List.range 8).any fun i => (readMask false (s.flipMask (a / 64 * 8 + i))).1.isNone

/-- R229: remap a line: a free entry takes it and its memory copy is no longer used. A full table is counted, and
recorded once. -/
def remapLine (a : Nat) (s : State) : State :=
  match s.ctrlAddrOf a with
  | none => s
  | some (c, x) =>
    let line := x / 64 * 64
    match (List.range 16).find? fun n => !bitAt (s.reg (ctrlReg (R.T1C_REMAP · n) (R.T2C_REMAP · n) c)) 63 with
    | some n =>
      let s := setReg (ctrlReg (R.T1C_REMAP · n) (R.T2C_REMAP · n) c) (2 ^ 63 + line) s
      let s := bump (ctrlReg R.T1C_CNT_REMAP R.T2C_CNT_REMAP c) 1 s
      let fl := s.ms.flips.filter fun p => p.1 / 8 != a / 64
      let st := s.ms.stuck.filter fun p => p.1 / 8 != a / 64
      let kept := mapUpd s.persist c [] fun l => if l.length < 16 ∧ !l.contains line then l ++ [line] else l
      let s := { s with ms := { s.ms with flips := fl, stuck := st }, persist := kept }
      event 0x0601 (ctrlKind c) (ctrlInst c) (ctrlKind c) (ctrlInst c) line (line / 2 ^ 32) s
    | none =>
      let s := bump (ctrlReg R.T1C_CNT_REMAP_FULL R.T2C_CNT_REMAP_FULL c) 1 s
      if s.ms.fullTold.contains c then s
      else
        let told := c :: s.ms.fullTold
        let s := { s with ms := { s.ms with fullTold := told } }
        event 0x0602 (ctrlKind c) (ctrlInst c) (ctrlKind c) (ctrlInst c) 0 0 s

/-! ### Recovery units and their keys -/

/-- R195: the unit that a damaged word or unavailable page belongs to. -/
def State.unitOf (s : State) (a : Nat) : UnitKey :=
  match spaceOf a with
  | .t0 => .t0Page (a / 4096)
  | .t1 => .t1Page (a / 4096)
  | .drift => .tdExtent (a / 65536)
  | _ =>
    match s.ownerOf a with
    | some o => match o.row with
      | some r => .t2Stripe (r.1 / 4096)
      | none => .t2Page (a / 4096)
    | none => .t2Page (a / 4096)

/-- R195: the H-die that serves a T0, T1, T2 or drift address; a drift request leaves by the H-die of its plane (R333). -/
def State.hdieOf (s : State) (a : Nat) : Nat :=
  match spaceOf a with
  | .t0 => if spaceOff a / 2 ^ 24 < 32 then 0 else 1
  | .t1 => if stackOf (spaceOff a) < 8 then 0 else 1
  | .t2 => if s.chanOf (spaceOff a) < 6 then 0 else 1
  | _ => bitsOf a 12 12

/-- R196: the open or waiting entry of a unit. -/
def State.rcvOf (s : State) (k : UnitKey) : Option RcvEntry := (s.ms.rcv ++ s.ms.rcvWait).find? fun e => e.key == k

/-- R196: a controller holds up to 1 024 attached reads. -/
def rcvMaxReads : Nat := 1024

/-- R196: the controller that holds the reads of a unit: a slice (64 and up), a stack, a channel, or a recovery unit (28,
29) for the deep lode and drift memory. -/
def State.unitCtrl (s : State) (hd : Nat) : UnitKey → Nat
  | .t0Page p => 64 + p * 4096 / 2 ^ 24
  | .t1Page p => stackOf (spaceOff (p * 4096))
  | .t2Stripe r => 16 + s.chanOf (spaceOff (r * 4096))
  | .t2Page p => 16 + s.chanOf (spaceOff (p * 4096))
  | _ => 28 + hd

/-- R196: the reads that the controller of a unit holds. -/
def State.readsHeld (s : State) (hd : Nat) (k : UnitKey) : Nat :=
  (((s.ms.rcv ++ s.ms.rcvWait).filter fun e => s.unitCtrl e.hdie e.key == s.unitCtrl hd k).map fun e => e.waiters.length).sum

/-- R196: a requester stalls by credit: it is served when an entry completes. -/
def stallRead (w : Waiter) (s : State) : State :=
  if s.ms.credit.contains w then s else { s with ms := { s.ms with credit := s.ms.credit ++ [w] } }

/-- R196: attach a read to its unit's entry, or queue the unit for one. A requester already attached waits once; one past
the controller's limit stalls. -/
def rcvAttach (hd : Nat) (k : UnitKey) (w : Waiter) (s : State) : State :=
  match s.rcvOf k with
  | some e =>
    if w != .outside && e.waiters.contains w then s
    else if s.readsHeld e.hdie k ≥ rcvMaxReads then stallRead w s
    else
      let add := fun (e : RcvEntry) => if e.key == k then { e with waiters := e.waiters ++ [w] } else e
      { s with ms := { s.ms with rcv := s.ms.rcv.map add, rcvWait := s.ms.rcvWait.map add } }
  | none =>
    if s.readsHeld hd k ≥ rcvMaxReads then stallRead w s
    else
      let e : RcvEntry := { hdie := hd, key := k, waiters := [w], writes := [] }
      { s with ms := { s.ms with rcvWait := s.ms.rcvWait ++ [e] } }

/-- R196: hold a write to a unit whose entry is open. -/
def rcvHoldWrite (k : UnitKey) (x : Held) (s : State) : State :=
  let add := fun (e : RcvEntry) => if e.key == k then { e with writes := e.writes ++ [x] } else e
  { s with ms := { s.ms with rcv := s.ms.rcv.map add, rcvWait := s.ms.rcvWait.map add } }

/-- R196, R237: a write of this requester is held and has no response yet. -/
def State.writeHeldBy (s : State) (w : Waiter) : Bool :=
  (s.ms.rcv ++ s.ms.rcvWait).any (fun e => e.writes.any fun x => x.who == w) || s.ms.srHeld.any fun x => x.who == w

/-- R196, R237: a write of this requester to a range of bytes is held and has no response yet. -/
def State.heldByOn (s : State) (w : Waiter) (a n : Nat) : Bool :=
  let hit := fun (x : Held) => x.who == w && decide (x.addr < a + n) && decide (a < x.addr + x.data.length)
  (s.ms.rcv ++ s.ms.rcvWait).any (fun e => e.writes.any hit) || s.ms.srHeld.any hit

/-- R196: a held write touches a range of bytes. -/
def State.writeHeldOn (s : State) (a n : Nat) : Bool :=
  let hit := fun (x : Held) => decide (x.addr < a + n) && decide (a < x.addr + x.data.length)
  (s.ms.rcv ++ s.ms.rcvWait).any (fun e => e.writes.any hit) || s.ms.srHeld.any hit

/-- Whether an address lies in the object table's T1 copy. -/
def State.inObjTable (s : State) (a : Nat) : Bool :=
  s.objTable && decide (s.objAddr 0 ≤ a) && decide (a < s.objAddr s.objCount)

/-- R171: whether an address lies in the object table's mirror. -/
def State.inObjMirror (s : State) (a : Nat) : Bool :=
  s.objTable && s.inPriv (s.reg R.T1C_OBJ_MIRROR) (64 * s.objCount) a

/-- R171: the bytes of the object table from byte offset `o` up, as the mirror has them. -/
def State.mirrorBytes (s : State) (o n : Nat) : List Byte :=
  (List.range n).map fun i => memByte s.mem (s.privAddr (s.reg R.T1C_OBJ_MIRROR) (o + i))

/-- R197, last row: bytes that belong to no object, to no pool extent and to no table kept with a mirror. -/
def State.unowned (s : State) (a : Nat) : Bool :=
  (s.ownerOf a).isNone && !s.poolTouched a 1 && !s.inObjTable a && !s.inObjMirror a

/-- R238: a write of the armed line, wherever it is kept, flips the named codeword bits of word WORD and clears ARM. -/
def injectOn (a n : Nat) (s : State) (c : Nat) : State :=
  let r := ctrlReg R.T1C_INJ_CTL R.T2C_INJ_CTL c
  if !s.flag r F.T1C_INJ_CTL_ARM then s
  else
    let line := bitsOf (s.reg (ctrlReg R.T1C_INJ_ADDR R.T2C_INJ_ADDR c)) 47 6 * 64
    match s.partAddrOf c line with
    | none => s
    | some p =>
      if p < a + n ∧ a < p + 64 then
        let v := s.reg r
        let cnt := bitsOf v 23 22
        let ps := ([bitsOf v 6 0, bitsOf v 13 7, bitsOf v 20 14]).take cnt
        let w := p / 8 + bitsOf v 26 24
        let s := setFld r F.T1C_INJ_CTL_ARM 0 s
        let s := setFlips w (s.flipMask w ^^^ maskOf ps) s
        event 0x0606 (ctrlKind c) (ctrlInst c) (ctrlKind c) (ctrlInst c) line cnt s
      else s

/-- R238: injection on a write of T1 or T2. -/
def inject (a n : Nat) (s : State) : State :=
  if spaceOf a == .t0 then s else (List.range 28).foldl (injectOn a n) s

/-! ### Corrections and remapping (R228 to R230) -/

/-- R228, R229: the word addresses of a line. -/
def lineWords (w : Nat) : List Nat := (List.range 8).map (w / 8 * 8 + ·)

/-- R228: a word read through its full code decodes as CORRECTED. -/
def State.wordFixable (s : State) (w : Nat) : Bool := (readMask false (s.flipMask w)).2.2

/-- R228, R230: words that are written whole again; a hard fault shows at once. -/
def rewriteWords (ws : List Nat) (s : State) : State := ws.foldl (fun s w => setFlips w (mapGet s.ms.stuck w 0) s) s

/-- R230, R198: words rebuilt from their source are written back and read again; a line that still fails is remapped with
the rebuilt data. -/
def restoreWords (ws : List Nat) (s : State) : State :=
  let s := rewriteWords ws s
  let lines := (ws.map (· / 8)).eraseDups
  let s := lines.foldl (fun s l => inject (64 * l) 64 s) s
  (lines.filter fun l => (lineWords (8 * l)).any fun w => s.flipMask w != 0).foldl (fun s l => remapLine (64 * l) s) s

/-- R228: what a corrected word is delivered as is what its line holds from then on. -/
def keepCorrected (s : State) (w : Nat) : State :=
  match (readMask false (s.flipMask w)).1 with
  | some 0 => s
  | some e =>
    let old := leNat (memGets s.mem (8 * w) 8)
    { s with mem := memPuts s.mem (8 * w) (leBytes 8 (old ^^^ e)) }
  | none => s

/-- The counter of corrected words of the memory that an address lies in. -/
def State.corrCounter (s : State) (a : Nat) : Reg :=
  match s.ctrlAddrOf a with
  | some (c, _) => ctrlReg R.T1C_CNT_CORR R.T2C_CNT_CORR c
  | none => R.EVR_T0_CNT_CORR (spaceOff a / 2 ^ 24)

/-- R228: the line of a corrected word is written back and read again. A line that fails again is remapped; while another of
its words is uncorrectable, that word goes to recovery, and the line is remapped from its repair (R230). -/
def correctWord (w : Nat) (s : State) : State :=
  let a := 8 * w
  let fix := (lineWords w).filter s.wordFixable
  let s := rewriteWords fix (fix.foldl keepCorrected (bump (s.corrCounter a) fix.length s))
  match s.ctrlAddrOf a with
  | none => s
  | some (c, _) =>
    let s := inject (w / 8 * 64) 64 s
    if !fix.any (fun x => s.flipMask x != 0) then s
    else if !s.lineBad a then remapLine a s
    else if s.unowned a then s
    else rcvAttach (s.hdieOf a) (s.unitOf a) (.scrub c) s

/-- R217, R220, R223, R228, R230: read one word through its code. The answer is the wrong data bits it is delivered
with (zero when it is right), or none when it is uncorrectable. -/
def readWord (w : Nat) (s : State) : Option Nat × State :=
  let m := s.flipMask w
  if m = 0 then (some 0, s)
  else
    let a := 8 * w
    let (res, fetched, corrected) := readMask (spaceOf a == .t1) m
    match s.ctrlAddrOf a with
    | none =>
      let crew := spaceOff a / 2 ^ 24
      if res.isNone then
        (none, event 0x0305 0x10 crew crew (spaceOff a % 2 ^ 24) 0 0 (bump (R.EVR_T0_CNT_UNCORR crew) 1 s))
      else if corrected then (some 0, correctWord w s)
      else (res, s)
    | some (c, x) =>
      let s := if c < 16 && fetched then bump (R.T1C_CNT_INLINE c) 1 s else s
      if res.isNone then
        (none, noteUncorr c (x / 64) (bump (ctrlReg R.T1C_CNT_UNCORR R.T2C_CNT_UNCORR c) 1 s))
      else if corrected then (some 0, correctWord w s)
      else (res, s)

/-- Read the words of a range: the wrong bits of each word that has any, and whether one is uncorrectable. -/
def readWords (ws : List Nat) (s : State) : List (Nat × Nat) × Bool × State :=
  ws.foldl (fun (p : List (Nat × Nat) × Bool × State) w =>
    match readWord w p.2.2 with
    | (some 0, s) => (p.1, p.2.1, s)
    | (some e, s) => (p.1 ++ [(w, e)], p.2.1, s)
    | (none, s) => (p.1, true, s)) ([], false, s)

/-- The word addresses in a byte range that have wrong bits. -/
def State.flippedIn (s : State) (a n : Nat) : List Nat :=
  (s.ms.flips.filter fun p => a / 8 ≤ p.1 && p.1 ≤ (a + n - 1) / 8).map (·.1)

/-- The bytes of a range with the wrong bits of some words applied. -/
def State.deliver (s : State) (a n : Nat) (errs : List (Nat × Nat)) : List Byte :=
  if errs.isEmpty then memGets s.mem a n
  else (List.range n).map fun i =>
    let x := a + i
    memByte s.mem x ^^^ BitVec.ofNat 8 (mapGet errs (x / 8) 0 >>> (8 * (x % 8)))

/-! ### Reads -/

/-- Why an access is not served. -/
inductive AccErr where
  | address | data | revoked | unreachable
deriving DecidableEq, Repr

/-- The answer to a read: its bytes, held in a recovery entry, or an error. -/
inductive Rd where
  | ok (bs : List Byte)
  | held
  | err (e : AccErr)
deriving DecidableEq, Repr

/-- The 4 KiB pages that a range touches. -/
def pagesOf (a n : Nat) : List Nat :=
  if n = 0 then [] else (List.range ((a + n - 1) / 4096 - a / 4096 + 1)).map fun i => a / 4096 + i

/-- R232: the page lies on a stack or channel that is out of service. -/
def State.pageOut (s : State) (p : Nat) : Bool :=
  let a := p * 4096
  match spaceOf a with
  | .t1 => s.memState (stackOf (spaceOff a)) == 6
  | .t2 => s.memState (16 + s.chanOf (spaceOff a)) == 6
  | _ => false

/-- R237: a channel in self-refresh, or refilling what self-refresh did not keep, holds accesses. -/
def State.sleeping (s : State) (c : Nat) : Bool := s.memState c == 5 || (mapFind s.ms.srMask c).isSome

/-- R237: an access that reaches a channel in self-refresh is held. -/
def State.asleep (s : State) (a n : Nat) : Bool :=
  !s.ms.srMask.isEmpty && (pagesOf a n).any fun p => match s.ctrlAddrOf (p * 4096) with
    | some (c, _) => s.sleeping c
    | none => false

/-- R187: the pages of the stripe of `a` that lie on channels out of service. -/
def State.rowOutCount (s : State) (row : Nat) : Nat :=
  ((List.range 12).filter fun i => s.pageOut (row / 4096 + i)).length

/-- R187: a page whose stripe has no more members out of service than it can be rebuilt without. -/
def State.degraded (s : State) (p : Nat) : Bool :=
  match s.ownerOf (p * 4096) with
  | some o => match o.row with
    | some r => decide (s.rowOutCount r.1 ≤ 2)
    | none => false
  | none => false

/-- R201, R206: the incoming lease of a drift address: its number. -/
def State.leaseOf (s : State) (a : Nat) : Option Nat :=
  let peer := bitsOf a 59 45
  (List.range 64).find? fun i =>
    s.fld (R.PLT_LIN_CTL i) F.PLT_LIN_CTL_PEER == peer && s.flag (R.PLT_LIN_CTL i) F.PLT_LIN_CTL_STATE

/-- R206: whether a drift access is served. -/
def State.driftCheck (s : State) (write : Bool) (a n : Nat) : Option AccErr :=
  match s.leaseOf a with
  | none => some .revoked
  | some i =>
    let st := s.fld (R.PLT_LIN_CTL i) F.PLT_LIN_CTL_STATE
    if st = 5 then some .unreachable
    else if bitsOf a 44 0 + n > 65536 * s.fld (R.PLT_LIN_SIZE i) F.PLT_LIN_SIZE_UNITS then some .revoked
    else if st = 2 then none
    else if (st = 3 ∨ st = 4) ∧ !write then none
    else some .revoked

/-! ### Ranks and the check cache (R235, R221) -/

/-- R235: the rank of a channel-local address of a privileged channel: its highest bits. -/
def State.rankOf (s : State) (c x : Nat) : Nat :=
  x * 2 ^ (Config.rankBits c % 5) / max 1 (mapGet s.ms.modGib c s.chanGiB * 2 ^ 30)

/-- R235: an access wakes its rank; the rank's idle time begins anew. -/
def touchRank (s : State) (p : Nat) : State :=
  match s.ctrlAddrOf (p * 4096) with
  | some (c, x) =>
    if c < 16 || !privChannel (c - 16) then s
    else
      let k := c * 16 + s.rankOf c x
      let used := mapPut s.ms.rankUsed k s.nclk
      { s with ms := { s.ms with pdRanks := s.ms.pdRanks.filter (· != k), rankUsed := used } }
  | none => s

/-- R235: the ranks that an access to a range uses. -/
def touchRanks (a n : Nat) (s : State) : State := if spaceOf a == .t2 then (pagesOf a n).foldl touchRank s else s

/-- R221: bursts of a stack's check cache. -/
def ckBursts : Nat := 1024

/-- The group of a T1 controller address (R218). -/
def ckGroup (x : Nat) : Nat := x / 256

/-- R221: a group leaves a stack's check cache, written to the stack where it is dirty. -/
def ckDrop (c g : Nat) (s : State) : State :=
  let ck := mapPut s.ms.ckCache c ((mapGet s.ms.ckCache c []).filter fun p => p.1 != g)
  { s with ms := { s.ms with ckCache := ck } }

/-- R221: a write brings the inline burst of a group in, dirty; the oldest is written to the stack to make room. -/
def ckTouch (c g : Nat) (s : State) : State :=
  let l := ((mapGet s.ms.ckCache c []).filter fun p => p.1 != g) ++ [(g, true)]
  let ck := mapPut s.ms.ckCache c (l.drop (l.length - ckBursts))
  { s with ms := { s.ms with ckCache := ck } }

/-- R220, R221: a read fetches an inline byte from the cache that holds it: the burst is used anew. -/
def ckFetch (c g : Nat) (s : State) : State :=
  let l := mapGet s.ms.ckCache c []
  match l.find? fun p => p.1 == g with
  | some p =>
    let ck := mapPut s.ms.ckCache c ((l.filter fun p => p.1 != g) ++ [p])
    { s with ms := { s.ms with ckCache := ck } }
  | none => s

/-- R221: a write's groups: one written whole writes its inline burst without the cache, any other brings it in. -/
def ckWrite (a n : Nat) (s : State) : State :=
  if spaceOf a != .t1 then s
  else (List.range ((a + n - 1) / 256 - a / 256 + 1)).foldl (fun s j =>
    let g := (a / 256 + j) * 256
    match s.ctrlAddrOf g with
    | some (c, x) => if a ≤ g ∧ g + 256 ≤ a + n then ckDrop c (ckGroup x) s else ckTouch c (ckGroup x) s
    | none => s) s

/-! ### Reads of ranges -/

/-- R198: what a requester was given of a range by a repair, in place of what the range holds now. -/
def State.overlay (s : State) (w : Waiter) (a : Nat) (bs : List Byte) : List Byte :=
  (s.ms.given.filter fun g => g.who == w).foldl (fun bs g =>
    bs.zipIdx.map fun x =>
      if g.addr ≤ a + x.2 && a + x.2 < g.addr + g.data.length then g.data.getD (a + x.2 - g.addr) 0 else x.1) bs

/-- R198: a requester has taken what a repair gave it of a range. -/
def takeGiven (w : Waiter) (a n : Nat) (s : State) : State :=
  if s.ms.given.isEmpty then s
  else
    let left := s.ms.given.filter fun g => !(g.who == w && decide (g.addr < a + n) && decide (a < g.addr + g.data.length))
    { s with ms := { s.ms with given := left } }

/-- A requester has given up its reads: they stay attached, and their answers go nowhere. -/
def disownReads (w : Waiter) (s : State) : State :=
  let out := fun (e : RcvEntry) => { e with waiters := e.waiters.map fun x => if x = w then .outside else x }
  { s with ms := { s.ms with rcv := s.ms.rcv.map out, rcvWait := s.ms.rcvWait.map out, credit := s.ms.credit.filter (· != w),
                             failed := s.ms.failed.filter (· != w), given := s.ms.given.filter fun g => g.who != w } }

/-- The bytes of a range go to the requester. -/
def giveBytes (w : Waiter) (a : Nat) (bs : List Byte) (s : State) : Rd × State :=
  if s.ms.given.isEmpty then (.ok bs, s) else (.ok (s.overlay w a bs), takeGiven w a bs.length s)

/-- R196: a read waits for its unit's repair. -/
def holdRead (w : Waiter) (a : Nat) (s : State) : Rd × State := (.held, rcvAttach (s.hdieOf a) (s.unitOf a) w s)

/-- R196: the first page of a range whose unit has an entry, open or waiting. -/
def State.busyPage (s : State) (a n : Nat) : Option Nat :=
  if (s.ms.rcv ++ s.ms.rcvWait).isEmpty then none
  else (pagesOf a n).find? fun p => (s.rcvOf (s.unitOf (p * 4096))).isSome

/-- A page in service holds an uncorrectable word. -/
def State.pageWrong (s : State) (p : Nat) : Bool :=
  !s.pageOut p && (s.flippedIn (p * 4096) 4096).any fun w => (readMask false (s.flipMask w)).1.isNone

/-- R187: the row of a stripe that a page belongs to. -/
def State.rowAt (s : State) (p : Nat) : Option (Nat × Nat) := (s.ownerOf (p * 4096)).bind (·.row)

/-- R187, R196: a missing page cannot be rebuilt before its stripe is repaired: another member holds a bad word. -/
def State.rowWrong (s : State) (p : Nat) : Bool :=
  match s.rowAt p with
  | some r => (List.range 12).any fun i => s.pageWrong (r.1 / 4096 + i)
  | none => false

/-- R171: uncorrectable words of the object table or its mirror are written anew from the other. -/
def restoreTable (ws : List Nat) (s : State) : State :=
  restoreWords (ws.filter fun w => (readMask false (s.flipMask w)).1.isNone && (s.inObjTable (8 * w) || s.inObjMirror (8 * w))) s

/-- A read of `n` bytes of T0, T1, T2 or drift memory by a requester; `pool` where it is the pool unit's. -/
def readRangeBy (pool : Bool) (w : Waiter) (a n : Nat) (s : State) : Rd × State :=
  if n = 0 then (.ok [], s)
  else if spaceOf a == .drift then
    match s.driftCheck false a n with
    | some e => (.err e, s)
    | none =>
      match s.busyPage a n with
      | some p => holdRead w (p * 4096) s
      | none => giveBytes w a (memGets s.mem a n) s
  else if !s.reachableBy pool a n then (.err .address, s)
  else if s.asleep a n then (.held, s)
  else
    let ps := pagesOf a n
    match s.busyPage a n with
    | some p => holdRead w (p * 4096) s
    | none =>
      match ps.find? fun p => s.pageOut p && !s.degraded p with
      | some p =>
        if s.inObjTable a && s.inObjTable (a + n - 1) then
          -- R171: the table's stack is out of service: its mirror answers
          giveBytes w a (s.mirrorBytes (a - s.objAddr 0) n) s
        else if s.unowned (p * 4096) then (.err .data, s)
        else holdRead w (p * 4096) s
      | none =>
        match ps.find? fun p => s.pageOut p && s.rowWrong p with
        | some p => holdRead w (p * 4096) s
        | none =>
          let s := (ps.filter s.pageOut).foldl
            (fun s p => bump (R.T2C_RCV_CNT_DEGRADED_READ (s.hdieOf (p * 4096))) 1 s) (touchRanks a n s)
          let ws := (s.flippedIn a n).filter fun x => !s.pageOut (x / 512)
          let (errs, bad, s1) := readWords ws s
          if !bad then giveBytes w a (s1.deliver a n errs) s1
          else match ws.find? fun x => (readMask (spaceOf a == .t1) (s.flipMask x)).1.isNone with
            | some x =>
              if s.inObjTable (8 * x) || s.inObjMirror (8 * x) then
                -- R171: served from the other copy, and the word is rewritten
                giveBytes w a (s1.deliver a n errs) (restoreTable ws s1)
              else if s.unowned (8 * x) then (.err .data, s1)
              else holdRead w (8 * x) s1
            | none => (.err .data, s1)

/-- A read by a requester other than the pool unit. -/
def readRange (w : Waiter) (a n : Nat) (s : State) : Rd × State := readRangeBy false w a n s

/-! ### Writes -/

/-- R180: mark the pages or extents of a write dirty. -/
def markDirty (a n : Nat) (s : State) : State :=
  match spaceOf a with
  | .t1 =>
    let d := (pagesOf a n).foldl setInsert s.ms.dirtyT1
    { s with ms := { s.ms with dirtyT1 := d } }
  | .t2 =>
    let d := ((pagesOf a n).map (· / 16)).foldl setInsert s.ms.dirtyT2
    { s with ms := { s.ms with dirtyT2 := d } }
  | .drift =>
    let d := ((pagesOf a n).map (· / 16)).foldl setInsert s.ms.dirtyTD
    let s := { s with ms := { s.ms with dirtyTD := d } }
    match s.leaseOf a with
    | some i => setFld (R.PLT_LIN_DIRTY i) F.PLT_LIN_DIRTY_NOW
        (d.filter fun x => x / 2 ^ 29 == a / 2 ^ 45).length s
    | none => s
  | _ => s

/-- The masks after a write: a word of which any byte is written is encoded anew through its
code, but an uncorrectable one only where the write covers its line (R231); a hard fault shows again. -/
def rewriteFlips (a n : Nat) (s : State) : State :=
  if s.ms.flips.isEmpty && s.ms.stuck.isEmpty then s
  else
    let part (w : Nat) : Bool := decide (a < 8 * w + 8) && decide (8 * w < a + n)
    let line (w : Nat) : Bool := decide (a ≤ w / 8 * 64) && decide (w / 8 * 64 + 64 ≤ a + n)
    let anew (w m : Nat) : Bool := part w && ((readMask false m).1.isSome || line w)
    let kept := s.ms.flips.filter fun p => !anew p.1 p.2
    let hard := s.ms.stuck.filter fun p => anew p.1 (s.flipMask p.1)
    let fl := hard.foldl (fun m p => mapPut m p.1 p.2) kept
    { s with ms := { s.ms with flips := fl } }

/-- R57: a write that lands on the words of a held COLUMN table discards it. -/
def dropTables (a n : Nat) (s : State) : State :=
  if spaceOf a != .t0 then s
  else
    let hit (p : Nat × Mxe) : Bool :=
      match p.2.table with
      | some (t, _) => let b := sliceBase (p.1 / 3) + t
                       decide (a < b + 512) && decide (b < a + n)
      | none => false
    if s.mxes.any hit then
      let ms := s.mxes.map fun p => if hit p then (p.1, { p.2 with table := none }) else p
      { s with mxes := ms }
    else s

/-- R216: the words that a write covers in part are read first, through their code. -/
def readEdges (a n : Nat) (s : State) : State :=
  if s.ms.flips.isEmpty then s
  else (readWords (((s.flippedIn a n).filter fun w => decide (8 * w < a) || decide (a + n < 8 * w + 8)).filter s.wordFixable) s).2.2

/-- Land bytes within one page: memory, masks, dirty bits, injection, ranks and the check cache. -/
def landPlain (mark : Bool) (a : Nat) (bs : List Byte) (s : State) : State :=
  let n := bs.length
  let s := readEdges a n s
  let m := memPuts s.mem a bs
  let s := rewriteFlips a n { s with mem := m }
  ckWrite a n (touchRanks a n (dropTables a n (inject a n (if mark then markDirty a n s else s))))

/-- R184: the bytes of the ten data units of a stripe at one place of their pages. -/
def State.stripeBytes (s : State) (row st off n : Nat) : List (List Byte) :=
  (List.range 10).map fun d => memGets s.mem (row + dataUnitOff 2 st d + off) n

/-- R184, R185: write the bytes of P and Q of a stripe at one place of their pages, from the data units. -/
def writeParity (mark : Bool) (row st off n : Nat) (s : State) : State :=
  let units := s.stripeBytes row st off n
  let s := landPlain mark (row + st % 12 * 4096 + off) (parityP n units) s
  landPlain mark (row + (st + 1) % 12 * 4096 + off) (parityQ n units) s

/-- Land bytes within one page, with the parity of a protected stripe (R185). -/
def landBytes (mark : Bool) (a : Nat) (bs : List Byte) (s : State) : State :=
  let s := landPlain mark a bs s
  if spaceOf a == .t2 then
    match s.ownerOf a with
    | some o => match o.unit, o.row with
      | some _, some r => writeParity mark r.1 r.2 (a % 4096) bs.length s
      | _, _ => s
    | none => s
  else s

/-- The pieces of a write, page by page. -/
def pieces (a : Nat) (bs : List Byte) : List (Nat × List Byte) :=
  (pagesOf a bs.length).map fun p =>
    let lo := max a (p * 4096)
    let hi := min (a + bs.length) ((p + 1) * 4096)
    (lo, (bs.drop (lo - a)).take (hi - lo))

/-- R185, R187: the pages that a write of a data unit, smaller than its stripe, reads first: the old data, P and Q; or the
other data units where the page is out of service. -/
def State.parityReads (s : State) (r : Nat × Nat) (p : Nat) : List Nat :=
  let base := r.1 / 4096
  (if s.pageOut p then ((List.range 10).map fun d => base + dataUnitOff 2 r.2 d / 4096).filter (· != p)
   else [p, base + r.2 % 12, base + (r.2 + 1) % 12]).filter fun q => !s.pageOut q

/-- R185: the pages that a write of part of a protected stripe reads first. -/
def State.readsFirst (s : State) (a : Nat) : List Nat :=
  if spaceOf a != .t2 || s.ms.flips.isEmpty then []
  else match s.ownerOf a with
    | some o => match o.unit, o.row with
      | some _, some r => s.parityReads r (a / 4096)
      | _, _ => []
    | none => []

/-- R185: read those pages at the place of the write. -/
def readFirst (ps : List Nat) (off n : Nat) (s : State) : State :=
  ps.foldl (fun s p => (readWords (s.flippedIn (p * 4096 + off) n) s).2.2) s

/-- R196, R232: a page's share of a write: held while its unit is in recovery, or where what it must read first is damaged;
dropped and counted where the page is lost and nothing keeps it; else landed. -/
def writePiece (w : Waiter) (mark : Bool) (s : State) (p : Nat × List Byte) : State :=
  let k := s.unitOf p.1
  let x : Held := { addr := p.1, data := p.2, mark, who := w }
  if (s.rcvOf k).isSome then rcvHoldWrite k x s
  else if s.pageOut (p.1 / 4096) && !s.degraded (p.1 / 4096) then
    match s.ctrlAddrOf p.1 with
    | some (c, _) => bump (ctrlReg R.T1C_CNT_UNCORR R.T2C_CNT_UNCORR c) 1 s
    | none => s
  else
    let first := s.readsFirst p.1
    if first.any s.pageWrong then
      let c := match s.ctrlAddrOf p.1 with
        | some (c, _) => c
        | none => 0
      rcvHoldWrite k x (rcvAttach (s.hdieOf p.1) k (.scrub c) s)
    else landBytes mark p.1 p.2 (readFirst first (p.1 % 4096) p.2.length s)

/-- The share of each page. -/
def writePieces (w : Waiter) (mark : Bool) (a : Nat) (bs : List Byte) (s : State) : State :=
  (pieces a bs).foldl (writePiece w mark) s

/-- R203: a drift write that would make one extent too many dirty stalls. -/
def State.driftStalls (s : State) (a n : Nat) : Bool :=
  match s.leaseOf a with
  | none => false
  | some i =>
    let r := R.PLT_LIN_DIRTY i
    let fresh := (((pagesOf a n).map (· / 16)).eraseDups.filter fun x => !s.ms.dirtyTD.contains x).length
    decide (0 < fresh) && decide (s.fld r F.PLT_LIN_DIRTY_NOW + fresh > s.fld r F.PLT_LIN_DIRTY_LIMIT)

/-- The answer to a write. -/
inductive Wr where
  | ok
  | stall
  | err (e : AccErr)
deriving DecidableEq, Repr

/-- A write of bytes to T0, T1, T2 or drift memory; `pool` where it is the pool unit's. `mark` says whether it sets dirty
bits (R180); one that sets none never stalls at DIRTY.LIMIT (R203). -/
def writeRangeBy (pool : Bool) (w : Waiter) (mark : Bool) (a : Nat) (bs : List Byte) (s : State) : Wr × State :=
  if bs.isEmpty then (.ok, s)
  else if spaceOf a == .drift then
    match s.driftCheck true a bs.length with
    | some e => (.err e, s)
    | none => if mark && s.driftStalls a bs.length then (.stall, s)
              else (.ok, writePieces w mark a bs s)
  else if !s.reachableBy pool a bs.length then (.err .address, s)
  else if s.asleep a bs.length then (.stall, s)
  else (.ok, writePieces w mark a bs s)

/-- A write by a requester other than the pool unit. -/
def writeRange (w : Waiter) (mark : Bool) (a : Nat) (bs : List Byte) (s : State) : Wr × State :=
  writeRangeBy false w mark a bs s

/-- A write whose answer nothing waits for. A channel in self-refresh holds it (R237). -/
def poke (a : Nat) (bs : List Byte) (s : State) : State :=
  match writeRange .outside true a bs s with
  | (.stall, t) =>
    if spaceOf a == .drift then t
    else { t with ms := { t.ms with srHeld := t.ms.srHeld ++ [{ addr := a, data := bs, mark := true, who := .outside }] } }
  | (_, t) => t

/-- R171: write an entry to the table and then to the mirror. -/
def putObj (i : Nat) (e : ObjEntry) (s : State) : State :=
  let b := objEntryBytes e
  poke (s.objMirror i) b (poke (s.objAddr i) b s)

/-- R170, R171: an operation reads the entry that its handle names: corrections are counted, and a word that is
uncorrectable is rewritten from the mirror. -/
def touchObj (h : Nat) (s : State) : State :=
  if s.handleShape h then (readRange .outside (s.objAddr (handleIndex h)) 64 s).2 else s

/-- R170: an operation that names a stale or malformed handle is dropped and counted. -/
def countStale (s : State) : State := bump R.T1C_OBJ_CNT_STALE 1 s

/-- R199: mark an object LOST and record it. -/
def markLost (hd i tier : Nat) (s : State) : State :=
  let e := s.obj i
  let h := objHandle e i
  let s := putObj i { e with state := objLost } s
  let s := bump R.T1C_OBJ_CNT_LOST 1 s
  tenantEvent 0x0501 0x0D hd e.tenant h (h / 2 ^ 32) tier 0 s

end Sys2Proof.Machine
end

