-- ==== Sys2Proof/Machine/Codec.lean ====
section
/-! DEFINITION. Compression (spec/06_compression.md): frames and their checks, index entries, the VQ, LR and BDZ
codecs, the proof pass and the encode pass. Everything here is a function of byte strings. -/

namespace Sys2Proof.Machine

/-- R139: one byte into a reflected CRC-32C register. -/
def crcByte (c : Nat) (b : Byte) : Nat :=
  (List.range 8).foldl
    (fun r _ => if r % 2 = 1 then (r / 2) ^^^ 0x82F63B78 else r / 2) (c ^^^ b.toNat)

/-- R139: CRC-32C (polynomial 0x1EDC_6F41, reflected, initial and final inversion). -/
def crc32c (bs : List Byte) : Nat := (bs.foldl crcByte 0xFFFFFFFF) ^^^ 0xFFFFFFFF

/-- R137: the fields of a frame header. -/
structure FrameHdr where
  magic     : Nat
  codec     : Nat
  version   : Nat
  format    : Nat
  rank      : Nat
  starterId : Nat
  length    : Nat
  escapes   : Nat
  reserved1 : Nat
  crc       : Nat
  lrScale   : Nat
  reserved2 : Nat
  area      : List Byte
deriving DecidableEq, Repr

/-- R137: read a header from the first 64 bytes of a frame. -/
def frameHdr (bs : List Byte) : FrameHdr :=
  { magic := leAt bs 0 2, codec := leAt bs 2 1, version := leAt bs 3 1, format := leAt bs 4 1,
    rank := leAt bs 5 1, starterId := leAt bs 6 2, length := leAt bs 8 4, escapes := leAt bs 12 2,
    reserved1 := leAt bs 14 2, crc := leAt bs 16 4, lrScale := leAt bs 20 4, reserved2 := leAt bs 24 8,
    area := sliceBytes bs 32 32 }

/-- R137: the element format named by the header's ELEM bit. -/
def FrameHdr.elem (h : FrameHdr) : Fmt := if bitAt h.format 0 then .int4 else .int8

/-- R137: CW, true for 12-bit codes. -/
def FrameHdr.wide (h : FrameHdr) : Bool := bitAt h.format 1

/-- R137: LANE_LEN of lane `l`. -/
def FrameHdr.laneLen (h : FrameHdr) (l : Nat) : Nat := leAt h.area (2 * l) 2

/-- R146: the form selector of line `l` of a BDZ page. -/
def FrameHdr.selector (h : FrameHdr) (l : Nat) : Nat :=
  bitsOf ((h.area.getD (l / 2) 0).toNat) (4 * (l % 2) + 3) (4 * (l % 2))

/-- R146: bytes of a coded line by selector; reserved selectors take none. -/
def bdzSize (sel : Nat) : Nat := [0, 8, 16, 24, 40, 20, 36, 34, 64].getD sel 0

/-- R142: bytes of one vector of 8 elements. -/
def vecBytes (e : Fmt) : Nat := if e = .int4 then 4 else 8

/-- R142, R161: bytes of a raw 128 × 128 tile. -/
def rawTileBytes (e : Fmt) : Nat := if e = .int4 then 8192 else 16384

/-- R143: bytes of a lane's code array. -/
def codeBytes (wide : Bool) : Nat := if wide then 192 else 128

/-- R142: the escape code. -/
def escapeCode (wide : Bool) : Nat := if wide then 0xFFF else 0xFF

/-- R142: entries of the starter a code width needs. -/
def starterEntries (wide : Bool) : Nat := if wide then 4096 else 256

/-- R143: code `i` of a code array, an 8-bit byte or 12 bits of a little-endian bit string. -/
def codeAt (wide : Bool) (bs : List Byte) (i : Nat) : Nat :=
  if wide then (leAt bs (12 * i / 8) 2 >>> (12 * i % 8)) % 4096 else ((bs.getD i 0).toNat)

/-- R136, R151: who decodes or checks a frame; a codec it does not decode is unsupported. -/
inductive Checker where
  | expander | landing | bdz
deriving DecidableEq, Repr

/-- R136: the codecs an engine accepts. -/
def Checker.accepts : Checker → Nat → Bool
  | .expander, c => c == 1 || c == 2 || c == 3
  | .landing, c => c == 1 || c == 2 || c == 3
  | .bdz, c => c == 4 || c == 5

/-- R140: an index entry. -/
structure IndexEntry where
  codec  : Nat
  zero   : Bool
  valid  : Bool
  length : Nat
  offset : Nat
deriving DecidableEq, Repr

/-- R140: read an index entry from its 64-bit word. -/
def indexEntry (w : Nat) : IndexEntry :=
  { codec := bitsOf w 55 52, zero := bitAt w 49, valid := bitAt w 48, length := bitsOf w 47 32,
    offset := bitsOf w 31 0 }

/-- R140: the word of an index entry. -/
def indexWord (e : IndexEntry) : Nat :=
  e.offset % 2 ^ 32 + (e.length % 2 ^ 16) * 2 ^ 32 + e.valid.toNat * 2 ^ 48 + e.zero.toNat * 2 ^ 49 +
    (e.codec % 16) * 2 ^ 52

/-- R151 check 0x02: a reserved or unsupported value, or a reserved byte or bit that is not zero (R138). -/
def hdrReserved (k : Checker) (h : FrameHdr) : Bool :=
  let vq := h.codec == 2
  let lr := h.codec == 3
  let page := h.codec == 4 || h.codec == 5
  let areaZero := h.area.all (· == 0)
  !(k.accepts h.codec) || h.version != 0x10 || h.format / 4 != 0 || (page && h.format != 0) ||
  (!vq && h.wide) ||
  (if lr then h.rank % 8 != 0 || h.rank == 0 || h.rank > 64 else h.rank != 0) ||
  (!vq && h.starterId != 0) || (!vq && h.escapes != 0) ||
  h.reserved1 != 0 || h.reserved2 != 0 ||
  (if lr then h.lrScale / 2 ^ 24 != 0 else h.lrScale != 0) ||
  (h.codec == 1 && !areaZero) || (lr && !areaZero) ||
  (h.codec == 5 && (h.area.drop 8).any (· != 0)) ||
  (h.codec == 4 && (List.range 64).any fun l => h.selector l > 8)

/-- R151 check 0x04: LENGTH wrong for the codec. -/
def lengthWrong (h : FrameHdr) : Bool :=
  match h.codec with
  | 1 => h.length != rawTileBytes h.elem
  | 2 => h.length > 19456
  | 3 => h.length != 256 * h.rank
  | 4 => h.length > 4096
  | 5 => h.length != 4096
  | _ => true

/-- R151 check 0x05: lane or form sizes inconsistent. -/
def sizesWrong (h : FrameHdr) : Bool :=
  match h.codec with
  | 2 =>
    let lens := (List.range 16).map h.laneLen
    lens.any (fun n => n % 8 != 0 || n < codeBytes h.wide || n > codeBytes h.wide + 1024) ||
      lens.sum != h.length
  | 4 => ((List.range 64).map fun l => bdzSize (h.selector l)).sum != h.length
  | _ => false

/-- R143: byte offset of lane `l`'s sub-stream from the start of the payload. -/
def FrameHdr.laneBase (h : FrameHdr) (l : Nat) : Nat := ((List.range l).map h.laneLen).sum

/-- R143: the sub-stream of lane `l`. -/
def FrameHdr.laneStream (h : FrameHdr) (payload : List Byte) (l : Nat) : List Byte :=
  (payload.drop (h.laneBase l)).take (h.laneLen l)

/-- R143: escapes among the codes of a lane. -/
def laneEscapes (wide : Bool) (lane : List Byte) : Nat :=
  ((List.range 128).filter fun i => codeAt wide lane i == escapeCode wide).length

/-- R151 check 0x06: the literals of a lane must fill it to within its padding, and padding is zero. -/
def escapesWrong (h : FrameHdr) (payload : List Byte) : Bool :=
  if h.codec != 2 then false
  else
    let lanes := (List.range 16).map (h.laneStream payload)
    let used (lane : List Byte) : Nat := codeBytes h.wide + laneEscapes h.wide lane * vecBytes h.elem
    lanes.any (fun lane => let u := used lane
      u > lane.length || lane.length - u ≥ 8 || (lane.drop u).any (· != 0)) ||
    (lanes.map (laneEscapes h.wide)).sum != h.escapes

/-- R139: CRC of a frame whose CRC field is taken as zero. -/
def frameCrc (bs : List Byte) (len : Nat) : Nat :=
  crc32c (sliceBytes bs 0 16 ++ List.replicate 4 0 ++ sliceBytes bs 20 (44 + len))

/-- R151: the reason a frame is damaged, or none. `room` is the bytes from the frame's start to the end of its
slice or area, `idx` the index entry the read follows, `bad` whether a word of it is uncorrectable. -/
def frameDamage (k : Checker) (bs : List Byte) (room : Nat) (idx : Option IndexEntry) (bad : Bool) : Option Nat :=
  let h := frameHdr bs
  let payload := sliceBytes bs 64 h.length
  let idxWrong : Bool := match idx with
    | none => false
    | some e => !e.valid || e.codec != h.codec % 16 || e.length != 64 + h.length
  if bad then some 8
  else if h.magic != 0x6B17 then some 1
  else if hdrReserved k h then some 2
  else if idxWrong then some 3
  else if lengthWrong h || 64 + h.length > room then some 4
  else if sizesWrong h then some 5
  else if escapesWrong h payload then some 6
  else if frameCrc bs h.length != h.crc then some 7
  else none

/-- R144: decode one lane: codes in row order, literals in order. -/
def expandLane (wide : Bool) (e : Fmt) (starter : List (List Int)) (lane : List Byte) : List (List Int) :=
  let codes := (List.range 128).map (codeAt wide lane)
  let step := fun (p : List (List Int) × Nat) (c : Nat) =>
    if c == escapeCode wide then
      (p.1 ++ [unpackElems e (sliceBytes lane p.2 (vecBytes e)) 8], p.2 + vecBytes e)
    else (p.1 ++ [starter.getD c (List.replicate 8 0)], p.2)
  (codes.foldl step ([], codeBytes wide)).1

/-- R143, R144: the 128 rows of a VQ tile. Lane (c − i) mod 16 carries vector (i, c). -/
def expandVq (h : FrameHdr) (payload : List Byte) (starter : List (List Int)) : List (List Int) :=
  let lanes := (List.range 16).map fun l => expandLane h.wide h.elem starter (h.laneStream payload l)
  (List.range 128).map fun i =>
    (List.range 16).flatMap fun c => ((lanes.getD ((c + 128 - i) % 16) []).getD i [])

/-- R145: the rows of an LR tile, and the elements clamped. -/
def expandLr (h : FrameHdr) (payload : List Byte) : List (List Int) × Nat :=
  let r := h.rank
  let u := fun i k => elemAt .int8 payload (r * i + k)
  let v := fun k n => elemAt .int8 payload (128 * r + 128 * k + n)
  let sc := scaleOf h.lrScale
  let rows := (List.range 128).map fun i => (List.range 128).map fun n =>
    requantise (((List.range r).map fun k => u i k * v k n).sum) sc h.elem
  (rows.map fun row => row.map (·.1), (rows.map fun row => (row.filter (·.2)).length).sum)

/-- R81, R148: the rows of a raw tile payload. -/
def expandRaw (e : Fmt) (payload : List Byte) : List (List Int) :=
  chunksOf 128 (unpackElems e payload (128 * 128))

/-- A tile of zeros. -/
def zeroTile : List (List Int) := List.replicate 128 (List.replicate 128 0)

/-- The stored form of a tile: elements row by row (R81). -/
def tileBytes (e : Fmt) (rows : List (List Int)) : List Byte := rows.flatMap (packElems e)

/-- R142: a starter's entries from its stored bytes. -/
def starterOf (e : Fmt) (bs : List Byte) : List (List Int) :=
  (chunksOf (vecBytes e) bs).map fun c => unpackElems e c 8

/-! BDZ pages (R146, R147). -/

/-- R146: base width and delta width of a base-and-delta form. -/
def bdzForm : Nat → Option (Nat × Nat)
  | 2 => some (8, 1) | 3 => some (8, 2) | 4 => some (8, 4) | 5 => some (4, 1) | 6 => some (4, 2)
  | 7 => some (2, 1) | _ => none

/-- R146: decode one line. -/
def bdzDecodeLine (sel : Nat) (bs : List Byte) : List Byte :=
  match sel, bdzForm sel with
  | 0, _ => List.replicate 64 0
  | 1, _ => (List.range 8).flatMap fun _ => sliceBytes bs 0 8
  | _, some (w, d) =>
    let base := leAt bs 0 w
    (List.range (64 / w)).flatMap fun k =>
      leBytes w (wrapNat (8 * w) ((base : Int) + sextNat (8 * d) (leAt bs (w + d * k) d)))
  | _, none => sliceBytes bs 0 64

/-- R146: decode the 64 lines of a page frame; RAW page payloads are the page itself. -/
def bdzDecode (h : FrameHdr) (payload : List Byte) : List Byte :=
  if h.codec == 5 then sliceBytes payload 0 4096
  else
    ((List.range 64).foldl (fun (p : List Byte × Nat) l =>
      let sel := h.selector l
      (p.1 ++ bdzDecodeLine sel (sliceBytes payload p.2 (bdzSize sel)), p.2 + bdzSize sel)) ([], 0)).1

/-- R137: POISON of a RAW page. -/
def FrameHdr.poison (h : FrameHdr) : Nat := if h.codec == 5 then leAt h.area 0 8 else 0

/-- R146: the coded form of a line under a selector. -/
def bdzEncodeLine (sel : Nat) (line : List Byte) : List Byte :=
  match sel, bdzForm sel with
  | 0, _ => []
  | 1, _ => sliceBytes line 0 8
  | _, some (w, d) =>
    let base := leAt line 0 w
    leBytes w base ++ (List.range (64 / w)).flatMap fun k =>
      leBytes d (wrapNat (8 * d) ((leAt line (w * k) w : Int) - (base : Int)))
  | _, none => sliceBytes line 0 64

/-- R147: selectors in order of size, the lower first among equals. -/
def bdzOrder : List Nat := [0, 1, 2, 5, 3, 7, 6, 4, 8]

/-- R147: the form with the fewest bytes that represents the line exactly. -/
def bdzChoose (line : List Byte) : Nat :=
  (bdzOrder.find? fun s => bdzDecodeLine s (bdzEncodeLine s line) == sliceBytes line 0 64).getD 8

/-- A frame: header fields laid out under R137 with the CRC of R139, then the payload. -/
def mkFrame (codec format rank starterId escapes lrScale : Nat) (area payload : List Byte) : List Byte :=
  let pre := leBytes 2 0x6B17 ++ leBytes 1 codec ++ leBytes 1 0x10 ++ leBytes 1 format ++ leBytes 1 rank ++
    leBytes 2 starterId ++ leBytes 4 payload.length ++ leBytes 2 escapes ++ leBytes 2 0
  let post := leBytes 4 lrScale ++ leBytes 8 0 ++ sliceBytes area 0 32 ++ payload
  pre ++ leBytes 4 (crc32c (pre ++ leBytes 4 0 ++ post)) ++ post

/-- A RAW page frame with its POISON bits. -/
def rawPageFrame (page : List Byte) (poison : Nat) : List Byte :=
  mkFrame 5 0 0 0 0 0 (leBytes 8 poison) (sliceBytes page 0 4096)

/-- R147, R148: encode a page: BDZ, or RAW when 5 × framed length exceeds 4 × 4096 or a line is poisoned. -/
def encodePage (page : List Byte) (poison : Nat) : List Byte :=
  let lines := chunksOf 64 (sliceBytes page 0 4096)
  let sels := lines.map bdzChoose
  let payload := (lines.zip sels).flatMap fun p => bdzEncodeLine p.2 p.1
  let area := (chunksOf 2 sels).map fun c => BitVec.ofNat 8 (c.getD 0 0 + 16 * c.getD 1 0)
  if poison != 0 || 5 * (64 + payload.length) > 4 * 4096 then rawPageFrame page poison
  else mkFrame 4 0 0 0 0 0 area payload

/-! Proof pass and encode pass. -/

/-- Squared distance of two vectors. -/
def dist2 (a b : List Int) : Nat := ((a.zip b).map fun p => ((p.1 - p.2) * (p.1 - p.2)).toNat).sum

/-- R157: the nearest entry and its squared distance; ties to the lower number. -/
def nearest (v : List Int) (c : List (List Int)) : Nat × Nat :=
  let ds := c.map (dist2 v)
  let best := ds.foldl (fun (p : Nat × Nat × Nat) d => if d < p.2.1 then (p.2.2, d, p.2.2 + 1) else (p.1, p.2.1, p.2.2 + 1))
    (0, ds.headD 0 + 1, 0)
  (best.1, best.2.1)

/-- The vectors of a tensor in one engine's visit order (R157): tile, row, vector column. -/
def tensorVectors (tiles : List (List (List Int))) : List (List Int) :=
  tiles.flatMap fun t => t.flatMap (chunksOf 8)

/-- Every 2^k-th element of a list. -/
def everyNth {α : Type} (n : Nat) (l : List α) : List α :=
  (l.zipIdx.filter fun p => p.2 % n == 0).map (·.1)

/-- R157: seeding: the first K − 1 distinct sampled vectors, then zero vectors. -/
def proofSeeds (sample : List (List Int)) (k : Nat) : List (List Int) :=
  let c := sample.foldl (fun c v => if c.length < k - 1 && !c.contains v then c ++ [v] else c) []
  c ++ List.replicate (k - 1 - c.length) (List.replicate 8 0)

/-- R157: one iteration: each entry with samples moves to their rounded mean. -/
def proofIter (e : Fmt) (sample c : List (List Int)) : List (List Int) :=
  let near := sample.map fun v => ((nearest v c).1, v)
  c.zipIdx.map fun p =>
    let mine := (near.filter fun q => q.1 == p.2).map (·.2)
    if mine.isEmpty then p.1
    else (List.range 8).map fun j =>
      (clampFmt e (divNearestEven ((mine.map fun v => v.getD j 0).sum) mine.length)).1

/-- R157: the starter a proof pass builds, with the zero escape entry last. -/
def proofPass (e : Fmt) (vectors : List (List Int)) (k iters shift : Nat) : List (List Int) :=
  let sample := everyNth (2 ^ shift) vectors
  let c := (List.range iters).foldl (fun c _ => proofIter e sample c) (proofSeeds sample k)
  c ++ [List.replicate 8 0]

/-- R143: the code array of a lane. -/
def packCodes (wide : Bool) (codes : List Nat) : List Byte :=
  if wide then leBytes 192 ((codes.zipIdx.map fun p => p.1 * 2 ^ (12 * p.2)).sum)
  else codes.map (BitVec.ofNat 8)

/-- R158: the code of one vector: its nearest entry below K − 1, or an escape beyond ESC_DIST. -/
def vqCode (wide : Bool) (starter : List (List Int)) (escDist : Nat) (v : List Int) : Nat :=
  let (j, d) := nearest v (starter.take (starterEntries wide - 1))
  if d > escDist && escDist != 0xFFFFFFFF then escapeCode wide else j

/-- R143, R158: one lane's sub-stream and its escapes. -/
def encodeLane (wide : Bool) (e : Fmt) (starter : List (List Int)) (escDist : Nat) (vs : List (List Int)) :
    List Byte × Nat :=
  let codes := vs.map (vqCode wide starter escDist)
  let lits := ((vs.zip codes).filter fun p => p.2 == escapeCode wide).flatMap fun p => packElems e p.1
  let body := packCodes wide codes ++ lits
  (body ++ List.replicate ((8 - body.length % 8) % 8) 0, (codes.filter (· == escapeCode wide)).length)

/-- What the encode pass wrote a tile as (R148). -/
inductive TileForm where
  | zero | raw | vq
deriving DecidableEq, Repr

/-- R148, R158: encode one tile: its form, its frame (none for a ZERO tile) and its escapes. -/
def encodeTile (wide : Bool) (e : Fmt) (starter : List (List Int)) (starterId escDist : Nat)
    (rows : List (List Int)) : TileForm × List Byte × Nat :=
  if rows.all fun r => r.all (· == 0) then (.zero, [], 0)
  else
    let vec := fun i c => (((rows.getD i []).drop (8 * c)).take 8)
    let lanes := (List.range 16).map fun l =>
      encodeLane wide e starter escDist ((List.range 128).map fun i => vec i ((l + i) % 16))
    let esc := (lanes.map (·.2)).sum
    let payload := lanes.flatMap (·.1)
    let elemBit := if e = .int4 then 1 else 0
    if 4 * esc > 2048 || 5 * (64 + payload.length) > 4 * rawTileBytes e then
      (.raw, mkFrame 1 elemBit 0 0 0 0 [] (tileBytes e rows), 0)
    else (.vq, mkFrame 2 (elemBit + 2 * wide.toNat) 0 starterId esc 0
      (lanes.flatMap fun p => leBytes 2 p.1.length) payload, esc)

/-- R158: what an encode pass reports. -/
structure EncodeReport where
  zero    : Nat
  raw     : Nat
  vq      : Nat
  escapes : Nat
  framed  : Nat
deriving DecidableEq, Repr

/-- R141, R158: encode a tensor: the frame area, the index words and the report. -/
def encodeTensor (wide : Bool) (e : Fmt) (starter : List (List Int)) (starterId escDist : Nat)
    (tiles : List (List (List Int))) : List Byte × List Nat × EncodeReport :=
  tiles.foldl (fun (p : List Byte × List Nat × EncodeReport) t =>
    let (area, idx, rep) := p
    let (form, fr, esc) := encodeTile wide e starter starterId escDist t
    if form = .zero then
      (area, idx ++ [indexWord { codec := 0, zero := true, valid := true, length := 0, offset := 0 }],
        { rep with zero := rep.zero + 1 })
    else
      let pad := List.replicate ((32 - area.length % 32) % 32) (0 : Byte)
      let off := (area.length + pad.length) / 32
      (area ++ pad ++ fr,
        idx ++ [indexWord { codec := if form = .raw then 1 else 2, zero := false, valid := true,
                            length := fr.length, offset := off }],
        { rep with raw := rep.raw + (if form = .raw then 1 else 0), vq := rep.vq + (if form = .vq then 1 else 0),
                   escapes := rep.escapes + esc, framed := rep.framed + fr.length }))
    ([], [], { zero := 0, raw := 0, vq := 0, escapes := 0, framed := 0 })

end Sys2Proof.Machine
end

