-- ==== Sys2Proof/Machine/Remote.lean ====
section
/-! DEFINITION. The request units of the Plotre planes (R331, R333, R338, R340): how a drift access becomes a packet
with a tag slot. -/

namespace Sys2Proof.Machine

/-- R320: the part's own coordinates. -/
def State.ownCoords (s : State) : Nat := bitsOf (s.reg R.PLT_SYS) 14 0

/-- R333: the plane of a drift request. -/
def driftPlane (a : Nat) : Nat := bitsOf a 12 12

/-- R340: a tag slot. -/
def State.tagSlot (s : State) (i : Nat) : FabSlot := mapGet s.tags i { epoch := 0, req := none }

/-- R340: the lowest free slot of a plane. -/
def State.freeTag (s : State) (plane : Nat) : Option Nat :=
  (List.range 4096).find? fun i => (s.tagSlot (plane * 4096 + i)).req.isNone

/-- R331: the TAG field of a slot number. -/
def tagField (i : Nat) : Nat := i / 4096 * 2 ^ 15 + i % 4096

/-- The slot number of a TAG field. -/
def tagIndex (t : Nat) : Nat := bitsOf t 15 15 * 4096 + bitsOf t 11 0

/-- R338, R340: send a request for a drift address: TYPE, FN_STATUS, the bytes asked for and the payload. None where no
tag slot is free. -/
def fabSend (who : Waiter) (type fn a len : Nat) (payload : List Byte) (s : State) : Option (Nat × State) :=
  let plane := driftPlane a
  match s.freeTag plane with
  | none => none
  | some k =>
    let i := plane * 4096 + k
    let ep := (s.tagSlot i).epoch
    let lease := match s.leaseOf a with
      | some l => s.fld (R.PLT_LIN_CTL l) F.PLT_LIN_CTL_EPOCH
      | none => 0
    let p : Packet :=
      { type, version := 1, dl := 0, rev := 0, dst := bitsOf a 59 45, src := s.ownCoords, tag := tagField i,
        tagEpoch := ep, epoch2 := lease, lenM8 := len / 8 - 1, fnStatus := fn, addr := bitsOf a 44 3, payload }
    let req : FabReq := { pkt := p, who, time := s.nclk }
    some (i, { s with tags := mapPut s.tags i { epoch := ep, req := some req }, fabQ := s.fabQ ++ [(plane, p)] })

/-- R340: a tag slot is free again, once its request has had its reply. -/
def freeSlot (i : Nat) (s : State) : State :=
  { s with tags := mapPut s.tags i { s.tagSlot i with req := none } }

/-- R340: a tag slot whose request has failed is freed, and its epoch steps. -/
def stepSlot (i : Nat) (s : State) : State :=
  { s with tags := mapPut s.tags i { epoch := ((s.tagSlot i).epoch + 1) % 256, req := none } }

/-- R340: the request units hold a request of this requester. -/
def State.fabBusy (s : State) (who : Waiter) (p : Nat → Bool) : Bool :=
  s.tags.any fun x => match x.2.req with
    | some r => r.who == who && p r.pkt.type
    | none => false

/-- A requester has given up its drift reads: their replies go nowhere. -/
def disownFab (who : Waiter) (s : State) : State :=
  let out (x : FabSlot) : FabSlot := { x with req := x.req.map fun r =>
    if r.who = who ∧ r.pkt.type = 1 then { r with who := .outside } else r }
  { s with tags := s.tags.map fun x => (x.1, out x.2) }

/-- R332: the byte mask and line of a masked write of bytes within one 64-byte line. -/
def maskedLine (a : Nat) (bs : List Byte) : List Byte :=
  let k := a % 64
  leBytes 8 ((2 ^ bs.length - 1) * 2 ^ k) ++ List.replicate k 0 ++ bs ++ List.replicate (64 - k - bs.length) 0

/-- R338, R203: send a store to a drift address, as WR or WRMASK; it marks the borrower's dirty bit as it is sent,
except for a fill (R180). The
bytes lie within one page, and within one line where they are not whole aligned 8-byte units. -/
def driftPut (who : Waiter) (mark : Bool) (a : Nat) (bs : List Byte) (s : State) : Wr × Nat × State :=
  match s.driftCheck true a bs.length with
  | some e => (.err e, 0, s)
  | none =>
    if mark && s.driftStalls a bs.length then (.stall, 0, s)
    else
      let whole := a % 8 == 0 && bs.length % 8 == 0
      let sent := if whole then fabSend who 2 0 a bs.length bs s
        else fabSend who 3 0 (a / 64 * 64) 72 (maskedLine a bs) s
      match sent with
      | none => (.stall, 0, s)
      | some (i, s) => (.ok, i, (writeRange who mark a bs s).2)

end Sys2Proof.Machine
end

