-- ==== Sys2Proof/Machine/Flags.lean ====
section
/-! DEFINITION. Status codes and the writer's rights: the shared status codes (R280), the tile-command codes (R80), and
which writers a register block accepts (R64, R89, R207, R238, R259, R369, R387). -/

namespace Sys2Proof.Machine

/-- R280: OK. -/
abbrev St.ok : Nat := 0x00
/-- R280: DEGRADED. -/
abbrev St.degraded : Nat := 0x01
/-- R280: ABORTED. -/
abbrev St.aborted : Nat := 0x02
/-- R280: TOO_LATE. -/
abbrev St.tooLate : Nat := 0x03
/-- R280: QUOTA. -/
abbrev St.quota : Nat := 0x04
/-- R280: OBJECT_LOST. -/
abbrev St.objectLost : Nat := 0x05
/-- R280: PUBLISH_CONFLICT. -/
abbrev St.publishConflict : Nat := 0x06
/-- R280: REVOKED. -/
abbrev St.revoked : Nat := 0x07
/-- R280: BAD_COMMAND. -/
abbrev St.badCommand : Nat := 0x08
/-- R280: FUNCTION_RESET. -/
abbrev St.functionReset : Nat := 0x09
/-- R280: DAMAGED_BLOCK. -/
abbrev St.damagedBlock : Nat := 0x0A
/-- R280: FABRIC_UNREACHABLE. -/
abbrev St.unreachable : Nat := 0x0B
/-- R80: WAIT_TIMEOUT. -/
abbrev St.waitTimeout : Nat := 0x80
/-- R80: STARTER_MISMATCH. -/
abbrev St.starterMismatch : Nat := 0x81
/-- R80: LAYER_PASSED. -/
abbrev St.layerPassed : Nat := 0x82
/-- R80: SEM_OVERFLOW. -/
abbrev St.semOverflow : Nat := 0x83

/-- R104: the control register of a context. -/
abbrev ctxCtl (c : Nat) : Reg := R.KNC_CTX_CTL (c / 4) (c % 4)

/-- R104: PRIV of a context. -/
def State.ctxPriv (s : State) (c : Nat) : Bool := s.flag (ctxCtl c) F.KNC_CTX_CTL_PRIV

/-- R104: TENANT of a context. -/
def State.ctxTenant (s : State) (c : Nat) : Nat := s.fld (ctxCtl c) F.KNC_CTX_CTL_TENANT

/-- R259: the control register of an engine: trams are 0 to 319, hoists 320 to 383. -/
def engCtl (e : Nat) : Reg := if e < 320 then R.TRM_CTL e else R.HST_CTL (e - 320)

/-- R240: OWNER_KIND of an engine. -/
def State.engOwnerKind (s : State) (e : Nat) : Nat := s.fld (engCtl e) F.TRM_CTL_OWNER_KIND

/-- R240: the context that owns an engine, where its OWNER_KIND is 0. -/
def State.engOwner (s : State) (e : Nat) : Nat := s.fld (engCtl e) F.TRM_CTL_OWNER_CTX

/-- R240: TENANT of an engine. -/
def State.engTenant (s : State) (e : Nat) : Nat := s.fld (engCtl e) F.TRM_CTL_TENANT

/-- R89: an engine whose owner is a PRIV = 0 context. -/
def State.engUser (s : State) (e : Nat) : Bool := s.engOwnerKind e == 0 && !s.ctxPriv (s.engOwner e)

/-- The engine number of a writer that is an engine. -/
def whoEngine : Who → Option Nat
  | .tram t => some t.val
  | .hoist h => some (320 + h.val)
  | _ => none

/-- R207, R238, R369, R387: PF0 through its BAR0 mirror, the foreman and PRIV = 1 contexts. -/
def State.privWriter (s : State) (who : Who) : Bool :=
  s.whoOpen who && match who with
  | .pf0 => true
  | .foreman _ => true
  | .ctx c => s.ctxPriv c
  | _ => false

/-- R64: the foreman and PRIV = 1 contexts only. -/
def State.bindWriter (s : State) (who : Who) : Bool :=
  s.whoOpen who && match who with
  | .foreman _ => true
  | .ctx c => s.ctxPriv c
  | _ => false

/-- R263: a register that the spec restricts to no writer: whoever reaches its block; a VF's BAR0 maps only its function
page. -/
def State.blockWriter (s : State) (who : Who) : Bool :=
  s.whoOpen who && match who with
  | .vf _ => false
  | _ => true

/-- R238: PF0 and the foreman only. -/
def State.rootWriter (s : State) (who : Who) : Bool :=
  s.whoOpen who && match who with
  | .pf0 => true
  | .foreman _ => true
  | _ => false

end Sys2Proof.Machine
end

