-- ==== Sys2Proof/Machine/TileOps.lean ====
section
/-! DEFINITION. What the tile commands act on (spec/03, spec/04): an MXE's buffers, banks and granules, its queues with
their status entries, the issue checks of R75, and the carried failures of R76. -/

namespace Sys2Proof.Machine

/-! ### Reset values -/

/-- A weight buffer that holds nothing. -/
def wbuf0 : WBuf := { valid := false, rows := [], int4 := false, scales := none, standby := false, slot := none,
                      single := 0, double := false }
/-- A stream buffer that holds nothing. -/
def sbuf0 : StreamBuf := { valid := false, words := [], single := [], double := [] }
/-- R65: a zeroed starter granule; no CBLOAD has tagged it. -/
def gran0 : Granule := { held := false, usable := true, bytes := [], starterId := 0, int4 := false, wide := false,
                         single := 0, double := false }
/-- R55: a cleared bank. -/
def bank0 : Bank := { rows := [], flags := [], sat := false, degraded := false, poisoned := false, single := 0,
                      double := false }
/-- An empty queue. -/
def queue0 : MQueue := { waiting := [], issued := [], running := [], entries := [], nextWb := 0, curWb := none,
                         curFmt := none, curSlot := none, views := [], hist := [], sigs := [], hold := .none,
                         closing := .none, loads := [], tile := none }
/-- An MXE after reset. -/
def mxe0 : Mxe := { wb0 := wbuf0, wb1 := wbuf0, sb := sbuf0, grans := [], banks := [], table := none, cur := none,
                    loaded := [], queues := [], seq := 0, credit := [], since := 0, replays := [], restore := [],
                    denied := [] }

/-! ### Access to an MXE's parts -/

/-- An MXE. -/
def State.mx (s : State) (m : Nat) : Mxe := mapGet s.mxes m mxe0
/-- Replace an MXE. -/
def setMx (m : Nat) (x : Mxe) (s : State) : State := { s with mxes := mapPut s.mxes m x }
/-- A queue of an MXE. -/
def Mxe.q (x : Mxe) (i : Nat) : MQueue := mapGet x.queues i queue0
/-- Replace a queue. -/
def Mxe.setQ (x : Mxe) (i : Nat) (y : MQueue) : Mxe := { x with queues := mapPut x.queues i y }
/-- A bank of an MXE. -/
def Mxe.bank (x : Mxe) (b : Nat) : Bank := mapGet x.banks b bank0
/-- Replace a bank. -/
def Mxe.setBank (x : Mxe) (b : Nat) (k : Bank) : Mxe := { x with banks := mapPut x.banks b k }
/-- A weight buffer. -/
def Mxe.wb (x : Mxe) (i : Nat) : WBuf := if i = 0 then x.wb0 else x.wb1
/-- Replace a weight buffer. -/
def Mxe.setWb (x : Mxe) (i : Nat) (w : WBuf) : Mxe := if i = 0 then { x with wb0 := w } else { x with wb1 := w }
/-- A starter granule. -/
def Mxe.gran (x : Mxe) (g : Nat) : Granule := mapGet x.grans g gran0
/-- Replace a granule. -/
def Mxe.setGran (x : Mxe) (g : Nat) (v : Granule) : Mxe := { x with grans := mapPut x.grans g v }
/-- A queue of an MXE of the state. -/
def State.mq (s : State) (m q : Nat) : MQueue := (s.mx m).q q
/-- Change a queue. -/
def updQ (m q : Nat) (f : MQueue → MQueue) (s : State) : State := setMx m ((s.mx m).setQ q (f (s.mq m q))) s

/-- R16: the crew of an MXE. -/
def crewOf (m : Nat) : Nat := m / 3

/-- R102: the semaphore register of a crew. -/
abbrev semReg (n i : Nat) : Reg := R.MXE_SEM n i

/-- R64: TENANT of a queue. -/
def State.qTenant (s : State) (m q : Nat) : Nat := s.fld (R.MXE_QCTL m q) F.MXE_QCTL_TENANT

/-- R64: the queue is bound. -/
def State.qBound (s : State) (m q : Nat) : Bool := s.flag (R.MXE_QCTL m q) F.MXE_QCTL_VALID

/-! ### Command fields (R72) -/

/-- Bits of a command. -/
def tf (c : BitVec 128) (hi lo : Nat) : Nat := bitsOf c.toNat hi lo
/-- One bit of a command. -/
def tb (c : BitVec 128) (i : Nat) : Bool := bitAt c.toNat i
/-- R72: OPCODE. -/
def tOpcode (c : BitVec 128) : Nat := tf c 7 0
/-- R72: NOTIFY. -/
def tNotify (c : BitVec 128) : Bool := tb c 12

/-- R73: the unit of an opcode: 0 load, 1 array, 2 output, none at issue; the reserved opcodes have none. -/
def tUnit (op : Nat) : Option Nat :=
  match op with
  | 0x01 | 0x02 | 0x03 => some 0
  | 0x10 => some 1
  | 0x20 | 0x21 | 0x22 | 0x23 => some 2
  | _ => none

/-- R73: the opcodes. -/
def tOpcodes : List Nat := [0x00, 0x01, 0x02, 0x03, 0x10, 0x20, 0x21, 0x22, 0x23, 0x30, 0x31, 0x32, 0x33]

/-! ### Status entries (R78, R79) and places -/

/-- R79: a status entry. -/
def statusEntry (c : BitVec 128) (status detail : Nat) : BitVec 64 :=
  BitVec.ofNat 64 (tf c 31 16 * 2 ^ 48 + status * 2 ^ 40 + tOpcode c * 2 ^ 32 + detail)

/-- R79: DETAIL of a command that has not failed a check: the tile index of a slot-mode stationary load. -/
def tileDetail (c : BitVec 128) : Nat := if tOpcode c = 0x01 ∧ tb c 32 then tf c 119 104 else 0

/-- R58: the commands in the buffers of a queue's units, without those that have completed already. -/
def MQueue.buffered (q : MQueue) : List TIss := q.issued.filter fun t => !t.failed

/-- R78: places of a queue that are held. -/
def MQueue.depth (q : MQueue) : Nat :=
  q.waiting.length + q.buffered.length + q.running.length + q.sigs.length + q.entries.length

/-- R78: a command completes: it writes an entry when NOTIFY is set or its status is not OK, else its place is freed. -/
def finishCmd (m q : Nat) (c : BitVec 128) (status detail : Nat) (s : State) : State :=
  if tNotify c || status != St.ok then
    updQ m q (fun y => { y with entries := y.entries ++ [statusEntry c status detail] }) s
  else s

/-- R90: note the final status of a command in what a SEMSIG covers. -/
def coverStatus (seq status : Nat) (l : List Covered) : List Covered :=
  l.map fun c => if c.seq = seq then { c with status := some status } else c

/-- R90: a command of a unit enters the list of what later SEMSIGs cover. -/
def addHist (m q unit : Nat) (status : Option Nat) (s : State) : State :=
  let x := s.mx m
  let y := x.q q
  let y := { y with hist := y.hist ++ [{ seq := x.seq, unit := unit, status := status }] }
  setMx m { x.setQ q y with seq := x.seq + 1 } s

/-- Take the command at the head of the queue's waiting list. -/
def popHead (m q : Nat) (s : State) : State := updQ m q (fun y => { y with waiting := y.waiting.drop 1 }) s

/-- R58, R52: a command as it stands in the buffer in front of its unit: a stationary load with the buffer that R52 gives
it, a later multiply-accumulate with that one. -/
def MQueue.entry (y : MQueue) (seq unit : Nat) (c : BitVec 128) (failed : Bool) : TIss :=
  let load : Bool := tOpcode c == 0x01
  let mode : Bool := tb c 32
  { seq, unit, cmd := c, wb := if load then y.nextWb else y.curWb.getD 0,
    view := if load && mode then mapFind y.views (tf c 99 96) else none,
    slot := if load then (if mode then some (tf c 99 96) else none) else if unit = 1 then y.curSlot else none, failed }

/-- R58, R52: a command enters the buffer in front of its unit; a stationary load moves its queue on to the other weight
buffer. -/
def MQueue.enter (y : MQueue) (t : TIss) : MQueue :=
  let y := { y with issued := y.issued ++ [t] }
  if tOpcode t.cmd = 0x01 then
    { y with curWb := some y.nextWb, nextWb := 1 - y.nextWb, curFmt := if t.failed then none else some (tb t.cmd 34),
             curSlot := t.slot }
  else y

/-- R58: a command enters the buffer in front of its unit. `failed`: only its effect on its destination waits (R76). -/
def enqueue (m q unit : Nat) (c : BitVec 128) (failed : Option Nat) (s : State) : State :=
  updQ m q (fun y => y.enter (y.entry (s.mx m).seq unit c failed.isSome)) (addHist m q unit failed s)

/-- R58: the head command issues. -/
def issueUnit (m q unit : Nat) (c : BitVec 128) (s : State) : State := enqueue m q unit c none (popHead m q s)

/-- The head command completes at issue. -/
def doneAtIssue (m q : Nat) (c : BitVec 128) (status detail : Nat) (s : State) : State :=
  finishCmd m q c status detail (popHead m q s)

/-- R76: the command has a destination inside the engine, which its failure reaches. -/
def hasDest (c : BitVec 128) : Bool :=
  match tOpcode c with
  | 0x01 | 0x02 | 0x03 | 0x10 | 0x20 => true
  | 0x21 => tf c 33 32 != 1
  | _ => false

/-- R76, R90: a command that failed before it issued: later semaphore signals cover it, and its effect on its destination
waits its turn. -/
def failedCmd (m q : Nat) (c : BitVec 128) (status : Nat) (s : State) : State :=
  match tUnit (tOpcode c) with
  | none => s
  | some u => if hasDest c then enqueue m q u c (some status) s else addHist m q u (some status) s

/-! ### Failures that cancel (R70, R77) -/

/-- R70, R77, R76: discard what has not been issued, what waits in a unit buffer and every pending SEMSIG, each with an
entry of the status. A discarded command is a failed command: its destination meets the failure in its turn. -/
def discardQueue (m q status : Nat) (s : State) : State :=
  let y := s.mq m q
  let gone := y.sigs.map (·.cmd) ++ y.buffered.map (·.cmd) ++ y.waiting
  let s := updQ m q (fun y =>
    { y with waiting := [], sigs := [], hold := .none,
             issued := (y.issued.filter fun t => hasDest t.cmd).map fun t => { t with failed := true },
             hist := y.buffered.foldl (fun h t => coverStatus t.seq status h) y.hist,
             entries := y.entries ++ gone.map fun c => statusEntry c status (tileDetail c) }) s
  y.waiting.foldl (fun s c => failedCmd m q c status s) s

/-- R77: a wait that completes with a status other than OK or DEGRADED cancels its queue. -/
def failWait (m q : Nat) (c : BitVec 128) (status detail : Nat) (s : State) : State :=
  updQ m q (fun y => { y with closing := .failedWait, hold := .none })
    (discardQueue m q St.aborted (doneAtIssue m q c status detail s))

/-- R65, R70: prepare a queue's resources: banks, granules, and the buffers it was the last to load. The last to load
either weight buffer invalidates both (DESIGN CHOICE, log 81); a replay finds what was invalidated invalid. -/
def prepareQueue (m q : Nat) (s : State) : State :=
  let ctl := R.MXE_QCTL m q
  let x := s.mx m
  let banks := x.banks.filter fun p => !bitAt (s.fld ctl F.MXE_QCTL_BANK_MASK) p.1
  let grans := x.grans.filter fun p => !bitAt (s.fld ctl F.MXE_QCTL_SLOT_MASK) p.1
  let mine (i : Nat) : Bool := mapFind x.loaded i == some q
  let keep := x.loaded.filter fun p => !((p.1 < 2 && mine 4) || (p.1 ≥ 2 && mine p.1))
  let x := { x with banks := banks, grans := grans, table := if mine 3 then none else x.table, loaded := keep }
  let x := if mine 4 then { x with wb0 := wbuf0, wb1 := wbuf0 } else x
  let spoil (b : Bool) (r : Replay) : Replay := { r with bad := r.bad || b }
  updQ m q (fun y => { y with loads := y.loads.map (spoil (mine 4)), tile := y.tile.map (spoil (mine 2)) })
    (setMx m (if mine 2 then { x with sb := sbuf0 } else x) s)

/-! ### Reads and writes of the crew's slice (R27, R69) -/

/-- The answer to a read of T0 by an MXE: bytes, to wait for a repair, or an uncorrectable word. -/
inductive T0Rd where
  | ok (bs : List Byte)
  | wait
  | bad
deriving DecidableEq, Repr

/-- R196: open recovery for a damaged unit with no read attached (an MXE gets its error at once: R69, log 12). -/
def rcvOpen (hd : Nat) (k : UnitKey) (s : State) : State :=
  if (s.rcvOf k).isSome then s
  else
    let e : RcvEntry := { hdie := hd, key := k, waiters := [], writes := [] }
    { s with ms := { s.ms with rcvWait := s.ms.rcvWait ++ [e] } }

/-- R69: a read of T0 by an MXE. -/
def t0Read (crew off n : Nat) (s : State) : T0Rd × State :=
  let a := sliceBase crew + off
  match (pagesOf a n).find? fun p => (s.rcvOf (.t0Page p)).isSome with
  | some _ => (.wait, s)
  | none =>
    let (errs, bad, s1) := readWords (s.flippedIn a n) s
    if bad then
      match (pagesOf a n).find? fun p => !s.unowned (p * 4096) with
      | some p => (.bad, rcvOpen (s.hdieOf a) (.t0Page p) s1)
      | none => (.bad, s1)
    else (.ok (s1.deliver a n errs), s1)

/-- R69: a read of several runs of T0 by an MXE; every run is read. -/
def t0ReadRuns (crew : Nat) (runs : List (Nat × Nat)) (s : State) : T0Rd × State :=
  runs.foldl (fun (p : T0Rd × State) r =>
    match p.1, t0Read crew r.1 r.2 p.2 with
    | .wait, _ => p
    | _, (.wait, s) => (.wait, s)
    | .ok bs, (.ok more, s) => (.ok (bs ++ more), s)
    | _, (_, s) => (.bad, s)) (.ok [], s)

/-- A range of T0 as one run. -/
def oneRun (off n : Nat) : List (Nat × Nat) := [(off, n)]

/-- R189: the runs of T0 that hold a range of a view. -/
def SlotView.runs (v : SlotView) (off n : Nat) : List (Nat × Nat) :=
  if v.units.isEmpty then oneRun off n
  else (pagesOf off n).map fun p =>
    let lo := max off (p * 4096)
    (v.units.getD p 0 + lo % 4096, min (off + n) ((p + 1) * 4096) - lo)

/-- A write of T0 by an MXE. -/
def t0Write (crew off : Nat) (bs : List Byte) (s : State) : State :=
  writePieces (.tile (3 * crew) 0) true (sliceBase crew + off) bs s

/-- R63: the size of a slice. -/
def sliceSize : Nat := 0x1000000

/-! ### R68: flips inside the engine -/

/-- Count corrected and uncorrected words of an engine memory. -/
def engineEcc (m : Nat) (single : Nat) (double : Bool) (place index : Nat) (s : State) : State :=
  let s := if single = 0 then s else bump (R.MXE_CNT_ECC_CORR m) single s
  if double then event 0x0302 1 m m place index 0 (bump (R.MXE_CNT_ECC_UNCORR m) 1 s) else s

/-! ### Banks -/

/-- R54: the 128 elements of a row of a bank; what nothing has written is zero. -/
def Bank.row (b : Bank) (j : Nat) : List Int :=
  let r := mapGet b.rows j []
  (List.range 128).map fun i => r.getD i 0
/-- The flags of a row, one bit an element. -/
def Bank.rowFlags (b : Bank) (j : Nat) : Nat := mapGet b.flags j 0

/-- R76, R68: poison a bank. -/
def poison (m b : Nat) (s : State) : State :=
  let x := s.mx m
  setMx m (x.setBank b { x.bank b with poisoned := true }) s

/-- R68: a bank read by a command: single flips are corrected, a double flip poisons it. -/
def touchBank (m b : Nat) (s : State) : State :=
  let k := (s.mx m).bank b
  if k.single = 0 ∧ !k.double then s
  else
    let s := engineEcc m k.single k.double 2 b s
    let x := s.mx m
    setMx m (x.setBank b { k with single := 0, double := false, poisoned := k.poisoned || k.double }) s

/-- R36, R37, R40, R50: add one activation row into one accumulator element. `w` is the column of the weight tile. R37
adds each product, R50 each pass of INT8 × INT16 as a whole (DESIGN CHOICE, log 5). -/
def addElem (combo : Nat) (scales : Option (List Nat)) (n : Nat) (acc : Int) (xs w : List Int) : Int × Nat :=
  match scales with
  | some recs =>
    let qs := (List.range 4).map fun b =>
      let p := (((xs.drop (32 * b)).take 32).zip ((w.drop (32 * b)).take 32)).map fun t => t.1 * t.2
      let r := scaleOf (recs.getD (128 * b + n) 0)
      requantCore p.sum r.mult r.shift r.rnd
    accumulate acc qs
  | none =>
    if combo = 2 then
      -- R50: each pass is one addition
      let low := ((xs.zip w).map fun t => t.2 * splitLow t.1).sum
      let high := ((xs.zip w).map fun t => t.2 * splitHigh t.1).sum
      let (a1, c1) := satAdd32 acc low
      let (a2, c2) := satAdd32 a1 (256 * high)
      (a2, c1.toNat + c2.toNat)
    else accumulate acc ((xs.zip w).map fun t => t.1 * t.2)

/-- R49, R37: add one activation row into row `j` of a bank; the second part counts saturating additions. -/
def addRow (combo : Nat) (scales : Option (List Nat)) (cols : List (List Int)) (b : Bank) (j : Nat) (xs : List Int) :
    Bank × Nat :=
  let old := b.row j
  let res := (cols.zipIdx).map fun c => addElem combo scales c.2 (old.getD c.2 0) xs c.1
  let fl := (res.zipIdx.filter fun r => r.1.2 != 0).foldl (fun f r => f ||| 2 ^ r.2) (b.rowFlags j)
  let cnt := (res.map (·.2)).sum
  ({ b with rows := mapPut b.rows j (res.map (·.1)), flags := if fl = 0 then b.flags else mapPut b.flags j fl,
            sat := b.sat || cnt != 0 }, cnt)

/-- The columns of a tile given by rows. -/
def columnsOf (rows : List (List Int)) : List (List Int) := (List.range 128).map fun n => rows.map fun r => r.getD n 0

/-! ### Issue checks (R75) -/

/-- R83: bytes and granules of a starter. -/
def starterShape (wide int4 : Bool) : Nat × Nat :=
  match wide, int4 with
  | false, true => (1024, 1) | false, false => (2048, 1) | true, true => (16384, 8) | true, false => (32768, 16)

/-- R84: element format, unit words and rows per unit of a combination. -/
def comboFmt (c : Nat) : Fmt := if c = 1 then .int4 else if c = 2 then .int16 else .int8
/-- R84: unit size in 128-byte words. -/
def comboWords (c : Nat) : Nat := if c = 2 then 2 else 1
/-- R84: units of a command of `r` rows. -/
def comboUnits (c r : Nat) : Nat := if c = 1 then (r + 1) / 2 else r

/-- R84: the stride in words. -/
def mmaStride (c : BitVec 128) : Nat := if tf c 95 80 = 0 then comboWords (tf c 33 32) else tf c 95 80
/-- R84: rows of an MMA. -/
def mmaRows (c : BitVec 128) : Nat := tf c 44 38 + 1

/-- R87: the target format of a REQUANT. -/
def requantFmt (c : BitVec 128) : Fmt :=
  match tf c 33 32 with | 0 => .int8 | 1 => .int4 | 2 => .int16 | _ => .int32
/-- R57: bytes of an output row. -/
def requantRow (c : BitVec 128) : Nat := packedLen (requantFmt c) 128
/-- R87: the pitch in bytes. -/
def requantPitch (c : BitVec 128) : Nat := if tf c 111 96 = 0 then requantRow c else 64 * tf c 111 96

/-- R75 check 3: a defined field with a reserved value. -/
def check3 (c : BitVec 128) : Bool :=
  match tOpcode c with
  | 0x01 => tb c 32 && !tb c 33
  | 0x02 => !tb c 33 && (tf c 88 80 == 0 || tf c 88 80 > 256)
  | 0x10 => tf c 33 32 == 3
  | 0x22 => decide (requantPitch c < requantRow c)
  | 0x23 => tf c 88 80 == 0 || tf c 88 80 > 256
  | _ => false

/-- The granules that a command names. -/
def namedGranules (c : BitVec 128) : List Nat :=
  match tOpcode c with
  | 0x01 | 0x02 => if tb c 33 then [tf c 40 36] else []
  | 0x03 => (List.range (starterShape (tb c 32) (tb c 33)).2).map (tf c 40 36 + ·)
  | _ => []

/-- The banks that a command names. -/
def namedBanks (c : BitVec 128) : List Nat :=
  match tOpcode c with
  | 0x10 | 0x20 | 0x22 => [tf c 35 34]
  | 0x21 => (match tf c 33 32 with
      | 0 => [tf c 35 34, tf c 37 36] | 1 => [tf c 35 34] | _ => [tf c 37 36])
  | _ => []

/-- R75 check 4: a bank or granule outside the queue's masks. -/
def check4 (s : State) (m q : Nat) (c : BitVec 128) : Bool :=
  let ctl := R.MXE_QCTL m q
  (namedBanks c).any (fun b => !bitAt (s.fld ctl F.MXE_QCTL_BANK_MASK) b) ||
    ((namedGranules c).filter (· < 32)).any fun g => !bitAt (s.fld ctl F.MXE_QCTL_SLOT_MASK) g

/-- R75 check 5: an offset breaks its alignment. -/
def check5 (c : BitVec 128) : Bool :=
  match tOpcode c with
  | 0x01 => (!tb c 32 && tf c 71 48 % 32 != 0) || (tb c 35 && tf c 95 72 % 128 != 0)
  | 0x02 => tf c 71 48 % (if tb c 33 then 32 else 128) != 0
  | 0x03 => tf c 71 48 % 128 != 0
  | 0x10 => !tb c 37 && tf c 71 48 % 128 != 0
  | 0x21 => tf c 33 32 != 0 && tf c 71 48 % 128 != 0
  | 0x22 => tf c 95 72 % 128 != 0 || tf c 71 48 % 64 != 0
  | 0x23 => tf c 71 48 % 128 != 0
  | _ => false

/-- Bytes that an AMOVE form takes in T0. -/
def amoveBytes (c : BitVec 128) : Nat :=
  match tf c 33 32 with
  | 1 => if tb c 38 then 65536 + 2048 else 65536
  | 2 => 65536 | 3 => 512 | _ => 0

/-- R75 check 6: a range runs past its end. -/
def check6 (s : State) (m q : Nat) (c : BitVec 128) : Bool :=
  let past (off n : Nat) : Bool := decide (off + n > sliceSize)
  match tOpcode c with
  | 0x01 =>
    (!tb c 32 && past (tf c 71 48) (if tb c 33 then 64 else if tb c 34 then 8192 else 16384)) ||
    (tb c 35 && past (tf c 95 72) 2048) ||
    (tb c 32 && (match mapFind (s.mq m q).views (tf c 99 96) with
      | some v => decide (tf c 119 104 ≥ v.tiles)
      | none => false))
  | 0x02 =>
    if tb c 33 then past (tf c 71 48) 64 || decide (tf c 79 72 + (if tb c 34 then 64 else 128) > 256)
    else past (tf c 71 48) (128 * tf c 88 80) || decide (tf c 79 72 + tf c 88 80 > 256)
  | 0x03 =>
    let sh := starterShape (tb c 32) (tb c 33)
    past (tf c 71 48) sh.1 || decide (tf c 40 36 + sh.2 > 32)
  | 0x10 =>
    let last := (comboUnits (tf c 33 32) (mmaRows c) - 1) * mmaStride c + comboWords (tf c 33 32)
    if tb c 37 then decide (tf c 79 72 + last > 256) else past (tf c 71 48) (128 * last)
  | 0x21 => past (tf c 71 48) (amoveBytes c) && tf c 33 32 != 0
  | 0x22 => past (tf c 95 72) 512 || past (tf c 71 48) (tf c 42 36 * requantPitch c + requantRow c)
  | 0x23 => past (tf c 71 48) (128 * tf c 88 80) || decide (tf c 79 72 + tf c 88 80 > 256)
  | _ => false

/-- R75 check 7: operands disagree. -/
def check7 (s : State) (m q : Nat) (c : BitVec 128) : Bool :=
  let y := s.mq m q
  match tOpcode c with
  | 0x01 => tb c 32 && mapFind y.views (tf c 99 96) == none
  | 0x10 =>
    y.curWb == none || y.curFmt == some (tf c 33 32 != 1)
  | 0x21 => tf c 33 32 == 0 && tf c 35 34 == tf c 37 36
  | 0x32 => mapFind y.views (tf c 35 32) != none
  | 0x33 => (match mapFind y.views (tf c 35 32) with
     | some v => v.layer != tf c 63 48
     | none => true)
  | _ => false

/-- The semaphore a SEMSIG or SEMWAIT names. -/
def semNamed (m : Nat) (c : BitVec 128) : Option (Nat × Nat) :=
  match tOpcode c with
  | 0x30 => some (tf c 60 55, tf c 54 48)
  | 0x31 => some (crewOf m, tf c 54 48)
  | _ => none

/-- R75 check 8: a semaphore absent or of another tenant. -/
def check8 (s : State) (m q : Nat) (c : BitVec 128) : Bool :=
  match semNamed m c with
  | some (n, i) => !s.crewUp n || s.fld (semReg n i) F.MXE_SEM_TENANT != s.qTenant m q
  | none => false

/-- R75: the first check that fails. -/
def issueCheck (s : State) (m q : Nat) (c : BitVec 128) : Option Nat :=
  if tf c 11 8 ≠ 1 then some 1
  else if !tOpcodes.contains (tOpcode c) then some 2
  else if check3 c then some 3
  else if check4 s m q c then some 4
  else if check5 c then some 5
  else if check6 s m q c then some 6
  else if check7 s m q c then some 7
  else if check8 s m q c then some 8
  else none

/-! ### What a failed command leaves (R76) -/

/-- Note which queue last loaded a buffer (0 and 1 weight, 4 either weight buffer, 2 stream, 3 the COLUMN table). -/
def noteLoad (m q i : Nat) (s : State) : State :=
  let x := s.mx m
  setMx m { x with loaded := mapPut x.loaded i q } s

/-- R52, R67: fill a weight buffer for a queue. -/
def fillWb (m q i : Nat) (w : WBuf) (s : State) : State :=
  noteLoad m q i (noteLoad m q 4 (setMx m ((s.mx m).setWb i w) s))

/-- R67: remember the last two stationary loads of a queue, newest first. -/
def rememberLoad (m q : Nat) (r : Replay) (s : State) : State :=
  updQ m q (fun y => { y with loads := (r :: y.loads.filter fun l => l.wb != r.wb).take 2 }) s

/-- R67: remember the last tile load of a queue. -/
def rememberTile (m q : Nat) (c : BitVec 128) (bad : Bool) (s : State) : State :=
  updQ m q (fun y => { y with tile := some { cmd := c, wb := none, view := none, bad } }) s

/-- R76: a stationary load that fails leaves its buffer invalid, and a replay of it does too. -/
def failWload (m q : Nat) (t : TIss) (s : State) : State :=
  rememberLoad m q { cmd := t.cmd, wb := some t.wb, view := t.view, bad := true } (fillWb m q t.wb wbuf0 s)

/-- R76: invalidate the stream buffer; its words stay as they are. -/
def emptyStream (m q : Nat) (s : State) : State :=
  let x := s.mx m
  noteLoad m q 2 (setMx m { x with sb := { x.sb with valid := false } } s)

/-- R76: a tile load that fails invalidates the stream buffer. -/
def failTload (m q : Nat) (t : TIss) (s : State) : State := rememberTile m q t.cmd true (emptyStream m q s)

/-- R76: the named granules within the queue's mask become unusable. -/
def failCbload (m q : Nat) (c : BitVec 128) (s : State) : State :=
  let mask := s.fld (R.MXE_QCTL m q) F.MXE_QCTL_SLOT_MASK
  ((namedGranules c).filter fun g => decide (g < 32) && bitAt mask g).foldl
    (fun s g => let x := s.mx m
                setMx m (x.setGran g { x.gran g with usable := false }) s) s

/-- R76: poison a bank, where it lies within the queue's mask. -/
def poisonOwn (m q b : Nat) (s : State) : State :=
  if bitAt (s.fld (R.MXE_QCTL m q) F.MXE_QCTL_BANK_MASK) b then poison m b s else s

/-- R76: the effect of a failed command on its destination, within the queue's masks. R76 wins over R48 for an MMA of a
reserved combination (DESIGN CHOICE, log 82). -/
def failDest (m q : Nat) (t : TIss) (s : State) : State :=
  match tOpcode t.cmd with
  | 0x01 => failWload m q t s
  | 0x02 => failTload m q t s
  | 0x03 => failCbload m q t.cmd s
  | 0x10 | 0x20 => poisonOwn m q (tf t.cmd 35 34) s
  | 0x21 => if tf t.cmd 33 32 = 1 then s else poisonOwn m q (tf t.cmd 37 36) s
  | _ => s

/-- R75, R76: reject the head command: BAD_COMMAND with the check's number; a wait then cancels its queue. -/
def rejectHead (m q : Nat) (c : BitVec 128) (k : Nat) (s : State) : State :=
  let s := if k = 8 then
      match semNamed m c with
      | some (n, i) => if s.crewUp n then tenantEvent 0x0304 0x10 n (s.qTenant m q) n i (packSource 1 m) 0 s else s
      | none => s
    else s
  if tOpcode c = 0x31 ∨ tOpcode c = 0x32 then failWait m q c St.badCommand k s
  else failedCmd m q c St.badCommand (doneAtIssue m q c St.badCommand k s)

/-! ### Semaphores -/

/-- R91: add to a semaphore, saturating; the answer says whether it saturated. The add is noted until the NCLK cycle
ends (R93). -/
def semAdd (n i v : Nat) (sig : Option (Nat × Nat × BitVec 128)) (s : State) : Bool × State :=
  let r := semReg n i
  let c := s.fld r F.MXE_SEM_COUNT + v
  let a : SemAdd := { crew := n, index := i, before := BitVec.ofNat 64 (s.reg r), val := v, sig, sat := decide (c > 0xFFFFFFFF) }
  let s := { s with semNow := s.semNow ++ [a] }
  if a.sat then
    let s := setFld r F.MXE_SEM_OVF 1 (setFld r F.MXE_SEM_COUNT 0xFFFFFFFF s)
    (true, tenantEvent 0x0303 0x10 n (s.fld r F.MXE_SEM_TENANT) n i 0 0 s)
  else (false, setFld r F.MXE_SEM_COUNT c s)

/-- R93: a SEMSIG whose add is judged again, after a write of its cycle, completes as that judgement says: its entry
changes, where the owner has not taken it. -/
def amendSig (sig : Option (Nat × Nat × BitVec 128)) (sat : Bool) (s : State) : State :=
  match sig with
  | none => s
  | some (m, q, c) =>
    let e (b : Bool) := statusEntry c (if b then St.semOverflow else St.ok) 0
    updQ m q (fun y =>
      if tNotify c then { y with entries := y.entries.replace (e !sat) (e sat) }
      else if sat then { y with entries := y.entries ++ [e true] }
      else { y with entries := y.entries.erase (e true) }) s

/-- R93: an add of this cycle acts on the COUNT that a write left. -/
def semRedo (s : State) (a : SemAdd) : State :=
  let (sat, s) := semAdd a.crew a.index a.val a.sig s
  if sat = a.sat then s else amendSig a.sig sat s

/-- R93: forget the adds of this cycle to a semaphore. -/
def semClose (n i : Nat) (s : State) : State :=
  { s with semNow := s.semNow.filter fun a => a.crew != n || a.index != i }

/-- R89: a register access to a semaphore that is refused to a writer. -/
def State.semRefused (s : State) (who : Who) (n i : Nat) : Bool :=
  let t := s.fld (semReg n i) F.MXE_SEM_TENANT
  !s.whoOpen who || match who with
  | .ctx c => !s.ctxPriv c && s.ctxTenant c != t
  | .vf _ => true
  | .tram k => s.engUser k && s.engTenant k != t
  | .hoist h => s.engUser (320 + h) && s.engTenant (320 + h) != t
  | _ => false

/-- R89: writers that can write TENANT. -/
def State.semOwnerWriter (s : State) : Who → Bool
  | .pf0 => true
  | .foreman _ => true
  | .ctx c => s.ctxPriv c
  | _ => false

/-- The tenant that a semaphore access concerns: its requester's, where it has one (log 14). -/
def State.semTenant (s : State) (who : Who) (n i : Nat) : Nat :=
  match who with
  | .ctx c => s.ctxTenant c
  | .tram k => s.engTenant k
  | .hoist h => s.engTenant (320 + h)
  | _ => s.fld (semReg n i) F.MXE_SEM_TENANT

/-- R89, R386: record a refused semaphore access. -/
def semRefuse (who : Who) (n i : Nat) (s : State) : State :=
  let (k, j) := whoSource who
  if !s.whoOpen who then stopWrite who s
  else tenantEvent 0x0304 0x10 n (s.semTenant who n i) n i (packSource k j) 0 s

/-- R89, R93: a write to MXE_SEMn comes before the adds of its NCLK cycle. -/
def semWrite (who : Who) (n i val : Nat) (s : State) : State :=
  let r := semReg n i
  if s.semRefused who n i then semRefuse who n i s
  else if bitsOf val 63 56 ≠ s.fld r F.MXE_SEM_TENANT ∧ !s.semOwnerWriter who then semRefuse who n i s
  else
    let adds := s.semNow.filter fun a => a.crew == n && a.index == i
    let before := (adds.head?.map (·.before.toNat)).getD (s.reg r)
    let ovf := bitAt before 32 && !bitAt val 32
    adds.foldl semRedo
      (setReg r (bitsOf val 63 56 * 2 ^ 56 + ovf.toNat * 2 ^ 32 + bitsOf val 31 0) (semClose n i s))

/-- R89, R102: a write to MXE_SEM_ADDn. -/
def semAddWrite (who : Who) (n i val : Nat) (s : State) : State :=
  if s.semRefused who n i then semRefuse who n i s else (semAdd n i (bitsOf val 15 0) none s).2

end Sys2Proof.Machine
end

