-- ==== Sys2Proof/Machine/TileOrder.lean ====
section
/-! DEFINITION. What a tile command waits for (R58, R59, R97, R100): the T0 ranges it reads and writes, the earlier
commands it depends on, and when it may start on its unit. -/

namespace Sys2Proof.Machine

/-! ### T0 ranges: offset in the crew's slice and bytes -/

/-- Two lists of ranges share a byte. -/
def meet (a b : List (Nat × Nat)) : Bool :=
  a.any fun x => b.any fun y => decide (x.1 < y.1 + y.2) && decide (y.1 < x.1 + x.2)

/-- The bytes of some runs as T0 holds them now. -/
def State.peekRuns (s : State) (crew : Nat) (runs : List (Nat × Nat)) : List Byte :=
  runs.flatMap fun r => memGets s.mem (sliceBase crew + r.1) r.2

/-- R137: the bytes of the frame that stands at an offset, at most `room`. -/
def State.frameBytes (s : State) (crew : Nat) (runs : Nat → Nat → List (Nat × Nat)) (off room : Nat) : Nat :=
  min room (64 + (frameHdr (s.peekRuns crew (runs off 64))).length)

/-- R57, R87: the rows a REQUANT writes. -/
def requantRows (c : BitVec 128) : List (Nat × Nat) :=
  (List.range (tf c 42 36 + 1)).map fun j => (tf c 71 48 + j * requantPitch c, requantRow c)

/-- R84: the stream units an MMA reads from T0. -/
def mmaUnits (c : BitVec 128) : List (Nat × Nat) :=
  (List.range (comboUnits (tf c 33 32) (mmaRows c))).map fun u =>
    (tf c 71 48 + 128 * u * mmaStride c, 128 * comboWords (tf c 33 32))

/-- R81, R96, R140: where a stationary load finds its tile. -/
def State.tileReads (s : State) (m : Nat) (t : TIss) : List (Nat × Nat) :=
  let c := t.cmd
  match tb c 32, t.view with
  | true, some v =>
    let at_ := v.idxOff + 8 * tf c 119 104
    let e := indexEntry (leNat (s.peekRuns (crewOf m) (v.runs at_ 8)))
    let off := v.areaOff + 32 * e.offset
    v.runs at_ 8 ++
      (if e.zero then [] else v.runs off (s.frameBytes (crewOf m) v.runs off (v.areaOff + v.areaLen - off)))
  | true, none => []
  | false, _ =>
    let off := tf c 71 48
    [(off, if tb c 33 then s.frameBytes (crewOf m) oneRun off (sliceSize - off) else if tb c 34 then 8192 else 16384)]

/-- R59: the T0 ranges a command reads. -/
def State.t0Reads (s : State) (m : Nat) (t : TIss) : List (Nat × Nat) :=
  let c := t.cmd
  let off := tf c 71 48
  match tOpcode c with
  | 0x01 => s.tileReads m t ++ (if tb c 35 then [(tf c 95 72, 2048)] else [])
  | 0x02 => [(off, if tb c 33 then s.frameBytes (crewOf m) oneRun off (sliceSize - off) else 128 * tf c 88 80)]
  | 0x03 => [(off, (starterShape (tb c 32) (tb c 33)).1)]
  | 0x10 => if tb c 37 then [] else mmaUnits c
  | 0x21 => if tf c 33 32 < 2 then [] else [(off, amoveBytes c)]
  | 0x22 => [(tf c 95 72, 512)]
  | _ => []

/-- R59: the T0 ranges a command writes. -/
def t0Writes (c : BitVec 128) : List (Nat × Nat) :=
  match tOpcode c with
  | 0x21 => if tf c 33 32 = 1 then [(tf c 71 48, amoveBytes c)] else []
  | 0x22 => requantRows c
  | 0x23 => [(tf c 71 48, 128 * tf c 88 80)]
  | _ => []

/-! ### Dependencies -/

/-- R59: a later load that would overwrite what a multiply-accumulate or a store still reads. -/
def overwrites (t e : TIss) (reads : Bool) : Bool :=
  let mma := tOpcode e.cmd == 0x10
  match tOpcode t.cmd with
  | 0x01 => mma && e.wb == t.wb && reads
  | 0x02 => (mma && tb e.cmd 37 && reads) || tOpcode e.cmd == 0x23
  | _ => false

/-- R59: a command waits for an earlier one of its queue, which has not ended. `reads`: the earlier one has not taken all
that it reads. A tile store waits for the tile load that fills what it copies (DEDUCED, log 83). -/
def State.dependsOn (s : State) (m : Nat) (t e : TIss) (reads : Bool) : Bool :=
  let c := t.cmd
  let d := e.cmd
  overwrites t e reads ||
  (match t.unit with
   | 0 => false
   | 1 => (tOpcode d == 0x01 && e.wb == t.wb) || (e.unit == 2 && (namedBanks d).contains (tf c 35 34)) ||
       (tOpcode d == 0x02 && tb c 37)
   | _ => (e.unit == 1 && (namedBanks c).contains (tf d 35 34)) || (tOpcode c == 0x23 && tOpcode d == 0x02)) ||
  meet (s.t0Reads m t) (t0Writes d) || (reads && meet (t0Writes c) (s.t0Reads m e))

/-- A running command has not taken all that it reads. -/
def TRun.reads (r : TRun) : Bool := !r.cycles.isEmpty

/-- R59: a command of a queue waits for an earlier one. -/
def State.waitsIn (s : State) (m q : Nat) (t : TIss) : Bool :=
  ((s.mq m q).issued.any fun e => decide (e.seq < t.seq) && s.dependsOn m t e true) ||
    (s.mq m q).running.any fun r => decide (r.seq < t.seq) && s.dependsOn m t r.toTIss r.reads

/-- R67: a load waits for the multiply-accumulates of the other queues that use what it overwrites (DEDUCED, log 83). -/
def State.waitsOut (s : State) (m q : Nat) (t : TIss) : Bool :=
  (List.range 4).any fun j => j != q &&
    (((s.mq m j).issued.any fun e => e.unit == 1 && overwrites t e true) ||
      (s.mq m j).running.any fun r => r.unit == 1 && overwrites t r.toTIss r.reads)

/-- R58, R61: a unit can take its next command: nothing runs on it, or, on the array, every last row has entered. -/
def State.unitFree (s : State) (m u : Nat) : Bool :=
  (List.range 4).all fun q => (s.mq m q).running.all fun r => r.unit != u || (u == 1 && r.cycles.isEmpty)

/-- R154: a slot-mode load is held while the refetch of its tile is asked for. -/
def State.refetchHeld (s : State) (m : Nat) (t : TIss) : Bool :=
  tOpcode t.cmd == 0x01 && (match t.slot with
    | some slot => (mapGet s.refetch (crewOf m * 16 + slot) []).any fun r =>
        r.tile == tf t.cmd 119 104 && r.asked && !r.done
    | none => false)

/-- R58, R59: a command at the front of its unit's buffer may start. -/
def State.mayStart (s : State) (m q : Nat) (t : TIss) : Bool :=
  s.unitFree m t.unit && !s.waitsIn m q t && !s.waitsOut m q t && !s.refetchHeld m t

/-- R58: the command at the front of a unit's buffer, with its queue. -/
def State.unitHead (s : State) (m u : Nat) : Option (Nat × TIss) :=
  ((List.range 4).filterMap fun q => ((s.mq m q).issued.find? fun t => t.unit == u).map fun t => (q, t)).foldl
    (fun best x => match best with
      | none => some x
      | some b => if x.2.seq < b.2.seq then some x else some b) none

/-- R58: commands in the buffer of a unit. -/
def State.unitDepth (s : State) (m u : Nat) : Nat :=
  ((List.range 4).map fun q => ((s.mq m q).buffered.filter fun t => t.unit == u).length).sum

/-- R97: an earlier command of the queue still needs the slot. -/
def MQueue.usesSlot (y : MQueue) (slot : Nat) : Bool :=
  (y.buffered.any fun t => t.unit < 2 && t.slot == some slot) ||
    y.running.any fun r => r.unit < 2 && r.slot == some slot && r.reads

/-- R70, R100: a T0 write of a command is still held for a repair. -/
def State.writeHeld (s : State) (m : Nat) (c : BitVec 128) : Bool :=
  let mine := (t0Writes c).map fun x => (sliceBase (crewOf m) + x.1, x.2)
  (s.ms.rcv ++ s.ms.rcvWait).any fun e => e.writes.any fun w => meet [(w.addr, w.data.length)] mine

end Sys2Proof.Machine
end

