-- ==== Sys2Proof/Machine/Tile.lean ====
section
/-! DEFINITION. The meanings of the tile commands and of the MXE's own events (R58 to R70, R81 to R98). A row of a tile
command is that command at the head of its queue issuing; it starts on its unit as soon as R58 and R59 let it, and acts
whole when it starts (log 6). Where a row cannot happen now, it has no occasion and nothing changes (log 2). -/

namespace Sys2Proof.Machine

/-! ### Loads (R81 to R83, R152, R454) -/

/-- What starting a command comes to: it must wait, or it acts whole, with the status and DETAIL it will complete with
and the cycles its unit needs. -/
inductive Begin where
  | wait (s : State)
  | go (status detail : Nat) (cycles : List UCyc) (s : State)

/-- R149, R61: cycles that take the words of `n` bytes at an offset, each at the full rate. -/
def wordCycles (off n : Nat) : List UCyc :=
  (List.range ((n + 127) / 128)).map fun i => { word := some (off / 128 + i), full := true }

/-- Cycles that need no word of T0. -/
def plainCycles (n : Nat) : List UCyc := List.replicate n { word := none, full := true }

/-- R149: the cycles of a lane, true where it writes: it spends one without writing on each escape. -/
def laneWrites (wide int4 : Bool) (lane : List Byte) : List Bool :=
  let wait (i : Nat) : List Bool := if codeAt wide lane i == escapeCode wide then [false] else []
  if int4 then (List.range 64).flatMap fun j => wait (2 * j) ++ wait (2 * j + 1) ++ [true]
  else (List.range 128).flatMap fun i => wait i ++ [true]

/-- R149, R150: for each cycle of a framed load, whether the expander delivers 128 bytes. -/
def frameRates (h : FrameHdr) (payload : List Byte) : List Bool :=
  let int4 := h.elem == .int4
  let base := if int4 then 64 else 128
  match h.codec with
  | 2 =>
    let lanes := (List.range 16).map fun l => laneWrites h.wide int4 (h.laneStream payload l)
    let n := lanes.foldl (fun n l => max n l.length) 0
    (List.range n).map fun i => lanes.all fun l => l.getD i false
  | 3 => List.replicate h.rank false ++ List.replicate (max base (8 * h.rank)) (decide (8 * h.rank ≤ base))
  | _ => List.replicate base true

/-- R149: the cycles of a framed load; the words of its payload are fetched one a cycle. -/
def frameCycles (h : FrameHdr) (payload : List Byte) (runs : List (Nat × Nat)) : List UCyc :=
  let words := runs.flatMap fun r => (List.range ((r.2 + 127) / 128)).map (r.1 / 128 + ·)
  (frameRates h payload).zipIdx.map fun p => { word := words[p.2]?, full := p.1 }

/-- R152: what a load through the expander ends as. -/
inductive LoadRes where
  | rows (rows : List (List Int)) (cycles : List UCyc)
  | fail (status detail : Nat)
  | damaged (reason : Nat)
  | wait
deriving DecidableEq, Repr

/-- R162: note a damaged frame. -/
def noteDamage (m q op reason tile off : Nat) (s : State) : State :=
  let at_ := off % 2 ^ 24
  let s := bump (R.MXE_XP_CNT_DAMAGED m) 1 s
  let s := setReg (R.MXE_XP_LAST_DAMAGE m) (reason * 2 ^ 56 + op * 2 ^ 48 + tile % 65536 * 2 ^ 32 + 2 ^ 31 + at_) s
  tenantEvent 0x0401 3 m (s.qTenant m q) m reason at_ tile s

/-- R142: the bytes of the starter that begins at a granule. -/
def starterBytes (x : Mxe) (g : Nat) (wide int4 : Bool) : List Byte :=
  let sh := starterShape wide int4
  sliceBytes ((List.range sh.2).flatMap fun i => sliceBytes (x.gran (g + i)).bytes 0 2048) 0 sh.1

/-- R68: granules that a load decodes through: single flips are corrected, a double flip makes the granule unusable. -/
def touchGran (m g : Nat) (s : State) : State :=
  let k := (s.mx m).gran g
  if k.single = 0 ∧ !k.double then s
  else
    let s := engineEcc m k.single k.double 1 g s
    let x := s.mx m
    setMx m (x.setGran g { k with single := 0, double := false, usable := k.usable && !k.double }) s

/-- R144, R145, R148, R162: decode an undamaged tile frame. -/
def decodeFrame (m : Nat) (bs : List Byte) (starter : List (List Int)) (s : State) : List (List Int) × State :=
  let h := frameHdr bs
  let payload := sliceBytes bs 64 h.length
  match h.codec with
  | 2 => (expandVq h payload starter, bump (R.MXE_XP_CNT_ESCAPES m) h.escapes (bump (R.MXE_XP_CNT_VQ m) 1 s))
  | 3 => let (rows, sat) := expandLr h payload
         (rows, bump (R.MXE_XP_CNT_LR_SAT m) sat (bump (R.MXE_XP_CNT_LR m) 1 s))
  | _ => (expandRaw h.elem payload, bump (R.MXE_XP_CNT_RAW m) 1 s)

/-- R152, R83, R145: what an undamaged frame loads as. An unusable granule is found before a mismatch (DESIGN CHOICE,
log 84). -/
def loadGood (m g : Nat) (runs : List (Nat × Nat)) (int4 : Bool) (frame : List Byte) (s : State) : LoadRes × State :=
  let h := frameHdr frame
  let isVq := h.codec == 2
  let sh := starterShape h.wide (h.elem == .int4)
  let s := if isVq then (List.range sh.2).foldl (fun s i => touchGran m (g + i) s) s else s
  let x := s.mx m
  let k := x.gran g
  if isVq && (List.range sh.2).any fun i => !(x.gran (g + i)).usable then (.fail St.aborted 0, s)
  else if isVq && (!k.held || k.starterId != h.starterId || k.wide != h.wide || k.int4 != (h.elem == .int4)) then
    (.fail St.starterMismatch 0, bump (R.MXE_XP_CNT_STARTER_MISMATCH m) 1 s)
  else if (h.elem == .int4) != int4 then (.fail St.badCommand 7, s)
  else if h.codec == 3 && (scaleOf h.lrScale).reserved then (.fail St.badCommand 3, s)
  else
    let (rows, s) := decodeFrame m frame (starterOf h.elem (starterBytes x g h.wide (h.elem == .int4))) s
    (.rows rows (frameCycles h (sliceBytes frame 64 h.length) runs), s)

/-- R151, R152: load a frame at a T0 offset. `room` is the bytes to the end of its slice or area; of a frame that an index
entry describes, no byte past the entry's LENGTH is read. -/
def loadFrame (m q op : Nat) (runs : Nat → Nat → List (Nat × Nat)) (off room : Nat) (idx : Option IndexEntry)
    (int4 : Bool) (g tile : Nat) (s : State) : LoadRes × State :=
  let crew := crewOf m
  let at_ := ((runs off 64).headD (off, 0)).1
  if room < 64 then (.damaged 4, noteDamage m q op 4 tile at_ s)
  else match t0ReadRuns crew (runs off 64) s with
  | (.wait, s) => (.wait, s)
  | (hd, s) =>
    let hbytes := match hd with | .ok b => b | _ => []
    let limit := match idx with
      | some e => min room e.length
      | none => room
    let len := if hd = .bad then 0 else min (frameHdr (sliceBytes hbytes 0 64)).length (limit - 64)
    match t0ReadRuns crew (runs (off + 64) len) s with
    | (.wait, s) => (.wait, s)
    | (pl, s) =>
      let pbytes := match pl with | .ok b => b | _ => []
      let bad := hd == .bad || pl == .bad
      let frame := sliceBytes hbytes 0 64 ++ pbytes
      match frameDamage .expander frame room idx bad with
      | some r => (.damaged r, noteDamage m q op r tile at_ s)
      | none => loadGood m g (runs (off + 64) len) int4 frame s

/-- R81: a raw tile. -/
def loadRaw (m off : Nat) (int4 : Bool) (s : State) : LoadRes × State :=
  let f := if int4 then Fmt.int4 else Fmt.int8
  match t0Read (crewOf m) off (rawTileBytes f) s with
  | (.ok bs, s) => (.rows (expandRaw f bs) (wordCycles off (rawTileBytes f)), bump (R.MXE_XP_CNT_RAW m) 1 s)
  | (.wait, s) => (.wait, s)
  | (.bad, s) => (.fail St.aborted 0, s)

/-- R96, R140, R141: load a tile through an index table, once the read `r` of its entry has ended. -/
def loadSlotFrom (m q : Nat) (v : SlotView) (tile : Nat) (int4 : Bool) (g : Nat) (r : T0Rd × State) :
    LoadRes × State :=
  match r with
  | (.wait, s) => (.wait, s)
  | (.bad, s) => (.damaged 8, noteDamage m q 1 8 tile ((v.runs v.areaOff 1).headD (v.areaOff, 0)).1 s)
  | (.ok bs, s) =>
    let e := indexEntry (leNat bs)
    let off := v.areaOff + 32 * e.offset
    if !e.valid then (.damaged 3, noteDamage m q 1 3 tile ((v.runs off 1).headD (off, 0)).1 s)
    else if e.zero then
      (.rows zeroTile (plainCycles (if int4 then 64 else 128)), bump (R.MXE_XP_CNT_ZERO m) 1 s)
    else loadFrame m q 1 v.runs off (v.areaOff + v.areaLen - off) (some e) int4 g tile s

/-- R96, R140, R141: load a tile through the index table of a view. -/
def loadSlot (m q : Nat) (v : SlotView) (tile : Nat) (int4 : Bool) (g : Nat) (s : State) : LoadRes × State :=
  loadSlotFrom m q v tile int4 g (t0ReadRuns (crewOf m) (v.runs (v.idxOff + 8 * tile) 8) s)

/-- The bytes a WLOAD reads of its tile: raw, framed or through a slot. -/
def loadTile (m q : Nat) (view : Option SlotView) (c : BitVec 128) (s : State) : LoadRes × State :=
  let int4 := tb c 34
  match tb c 32, view with
  | true, some v => loadSlot m q v (tf c 119 104) int4 (tf c 40 36) s
  | true, none => (.fail St.badCommand 7, s)
  | false, _ =>
    if tb c 33 then loadFrame m q 1 oneRun (tf c 71 48) (sliceSize - tf c 71 48) none int4 (tf c 40 36) 0 s
    else loadRaw m (tf c 71 48) int4 s

/-- R33, R454: the BLOCK32 table of a stationary load: its 512 records, or how it fails the load. -/
def loadScales (m : Nat) (c : BitVec 128) (s : State) : Sum (Option (List Nat)) (Nat × Nat) × Bool × State :=
  if !tb c 35 then (.inl none, false, s)
  else match t0Read (crewOf m) (tf c 95 72) 2048 s with
    | (.wait, s) => (.inl none, true, s)
    | (.bad, s) => (.inr (St.aborted, 0), false, s)
    | (.ok bs, s) =>
      let recs := (chunksOf 4 bs).map leNat
      if recs.any fun r => (scaleOf r).reserved then (.inr (St.badCommand, 3), false, s) else (.inl (some recs), false, s)

/-- R154: whether a tile of a slot has been refetched, or its refetch has been asked for. -/
def State.refetchOf (s : State) (h slot tile : Nat) : Option Refetch :=
  (mapGet s.refetch (h * 16 + slot) []).find? fun r => r.tile == tile

/-- R154: hold a slot-mode load of a damaged tile and ask the crew's hoist for it. -/
def askRefetch (m slot tile : Nat) (s : State) : State :=
  let h := crewOf m
  let k := h * 16 + slot
  if (s.refetchOf h slot tile).isSome then s
  else
    let l := mapGet s.refetch k [] ++ [{ slot, tile, asked := true, mxe := m, done := false }]
    bump (R.MXE_XP_CNT_REFETCH m) 1 { s with refetch := mapPut s.refetch k l }

/-- R154: the hoist can refetch a tile of a view: the slot still holds the view's layer. -/
def State.viewHeld (s : State) (m slot : Nat) (v : SlotView) : Bool :=
  let r := R.HST_SLOT_STAT (crewOf m) slot
  let st := s.fld r F.HST_SLOT_STAT_STATE
  (st == 2 || st == 3) && s.fld r F.HST_SLOT_STAT_LAYER == v.layer

/-- R79: DETAIL of a load: the tile index in slot mode, unless a check number. -/
def loadDetail (c : BitVec 128) (status detail : Nat) : Nat :=
  if status = St.badCommand then detail else tileDetail c

/-- R81: a stationary load that fails. -/
def wloadFail (m q : Nat) (t : TIss) (st d : Nat) (s : State) : Begin :=
  .go st (loadDetail t.cmd st d) [] (failWload m q t s)

/-- R81, R194: what a stationary load leaves in its buffer. -/
def wloadBuf (t : TIss) (rows : List (List Int)) (scales : Option (List Nat)) : WBuf :=
  let standby : Bool := match t.view with
    | some v => v.standby
    | none => false
  { valid := true, rows, int4 := tb t.cmd 34, scales, standby, slot := t.slot, single := 0, double := false }

/-- R81, R194: a stationary load that fills its buffer; one of a standby copy completes DEGRADED. -/
def wloadFill (m q : Nat) (t : TIss) (rows : List (List Int)) (scales : Option (List Nat)) (cycles : List UCyc)
    (s : State) : Begin :=
  let w := wloadBuf t rows scales
  let st := if w.standby then St.degraded else St.ok
  .go st (loadDetail t.cmd st 0) cycles
    (rememberLoad m q { cmd := t.cmd, wb := some t.wb, view := t.view, bad := false } (fillWb m q t.wb w s))

/-- R154: a damaged frame of a slot-mode load is asked for again, once. -/
def wloadDamaged (m q : Nat) (t : TIss) (s : State) : Begin :=
  let slot := tf t.cmd 99 96
  let tile := tf t.cmd 119 104
  let held : Bool := match t.view with
    | some v => s.viewHeld m slot v
    | none => false
  let refetched : Bool := match s.refetchOf (crewOf m) slot tile with
    | some r => r.done
    | none => false
  if tb t.cmd 32 && held && !refetched then .wait (askRefetch m slot tile s)
  else wloadFail m q t St.damagedBlock 0 s

/-- R81, R96, R454: WLOAD. -/
def beginWload (m q : Nat) (t : TIss) (s : State) : Begin :=
  match loadTile m q t.view t.cmd s with
  | (.wait, _) => .wait s
  | (.fail st d, s) => wloadFail m q t st d s
  | (.damaged _, s) => wloadDamaged m q t s
  | (.rows rows cycles, s1) =>
    match loadScales m t.cmd s1 with
    | (_, true, _) => .wait s
    | (.inr e, _, s) => wloadFail m q t e.1 e.2 s
    | (.inl scales, _, s) => wloadFill m q t rows scales cycles s

/-- The words of a stream buffer that a list of bytes fills from a word up. -/
def putWords (ws : SMap (List Byte)) (from_ : Nat) (bs : List Byte) : SMap (List Byte) :=
  ((chunksOf 128 bs).zipIdx).foldl (fun m p => mapPut m (from_ + p.2) p.1) ws

/-- R82: TLOAD: what it copies into the stream buffer. -/
def loadStream (m q : Nat) (c : BitVec 128) (s : State) : LoadRes × State :=
  if tb c 33 then loadFrame m q 2 oneRun (tf c 71 48) (sliceSize - tf c 71 48) none (tb c 34) (tf c 40 36) 0 s
  else match t0Read (crewOf m) (tf c 71 48) (128 * tf c 88 80) s with
    | (.ok bs, s) => (.rows (chunksOf 128 (unpackElems .int8 bs bs.length)) (wordCycles (tf c 71 48) bs.length), s)
    | (.wait, s) => (.wait, s)
    | (.bad, s) => (.fail St.aborted 0, s)

/-- R82, R31: the bytes that a tile load puts into the stream buffer. -/
def streamBytes (c : BitVec 128) (rows : List (List Int)) : List Byte :=
  tileBytes (if tb c 33 && tb c 34 then .int4 else .int8) rows

/-- R82: a successful tile load makes the whole stream buffer valid. -/
def fillStream (m q : Nat) (c : BitVec 128) (bs : List Byte) (s : State) : State :=
  let x := s.mx m
  let ws := putWords x.sb.words (tf c 79 72) bs
  let n := (bs.length + 127) / 128
  let keep (w : Nat) : Bool := decide (w < tf c 79 72) || decide (tf c 79 72 + n ≤ w)
  let sb : StreamBuf := { valid := true, words := ws, single := x.sb.single.filter keep, double := x.sb.double.filter keep }
  noteLoad m q 2 (setMx m { x with sb := sb } s)

/-- R82: TLOAD. -/
def beginTload (m q : Nat) (t : TIss) (s : State) : Begin :=
  match loadStream m q t.cmd s with
  | (.wait, _) => .wait s
  | (.fail st d, s) => .go st (if st = St.badCommand then d else 0) [] (failTload m q t s)
  | (.damaged _, s) => .go St.damagedBlock 0 [] (failTload m q t s)
  | (.rows rows cycles, s) =>
    .go St.ok 0 cycles (rememberTile m q t.cmd false (fillStream m q t.cmd (streamBytes t.cmd rows) s))

/-- R83: CBLOAD. -/
def beginCbload (m q : Nat) (c : BitVec 128) (s : State) : Begin :=
  let sh := starterShape (tb c 32) (tb c 33)
  match t0Read (crewOf m) (tf c 71 48) sh.1 s with
  | (.wait, _) => .wait s
  | (.bad, s) => .go St.aborted 0 [] (failCbload m q c s)
  | (.ok bs, s) =>
    let fill (s : State) (i : Nat) : State :=
      let x := s.mx m
      let g : Granule := { held := true, usable := true, bytes := (bs.drop (2048 * i)).take 2048,
                           starterId := tf c 87 72, int4 := tb c 33, wide := tb c 32, single := 0, double := false }
      setMx m (x.setGran (tf c 40 36 + i) g) s
    .go St.ok 0 (wordCycles (tf c 71 48) sh.1) ((List.range sh.2).foldl fill s)

/-! ### Multiply-accumulate (R84, R85) -/

/-- R68: the words of the stream buffer that a command reads: single flips are corrected and counted; each word with two
is counted and recorded, and makes the buffer invalid. The answer says whether every word is good. -/
def touchStream (m : Nat) (ws : List Nat) (s : State) : Bool × State :=
  let x := s.mx m
  let ones := x.sb.single.filter ws.contains
  let twos := x.sb.double.filter ws.contains
  if ones.isEmpty && twos.isEmpty then (true, s)
  else
    let s := engineEcc m ones.length false 0 2 s
    let s := twos.foldl (fun s _ => engineEcc m 0 true 0 2 s) s
    let sb := { x.sb with valid := x.sb.valid && twos.isEmpty, single := x.sb.single.filter fun w => !ws.contains w }
    (twos.isEmpty, setMx m { s.mx m with sb := sb } s)

/-- Words of the stream buffer. -/
def StreamBuf.bytes (b : StreamBuf) (ws : List Nat) : List Byte :=
  ws.flatMap fun w => sliceBytes (mapGet b.words w []) 0 128

/-- R84: the bytes of stream unit `u`, or that a word of it is uncorrectable. -/
def readUnit (m : Nat) (c : BitVec 128) (u : Nat) (s : State) : T0Rd × State :=
  let words := comboWords (tf c 33 32)
  if tb c 37 then
    let ws := (List.range words).map (tf c 79 72 + u * mmaStride c + ·)
    match touchStream m ws s with
    | (true, s) => (.ok ((s.mx m).sb.bytes ws), s)
    | (false, s) => (.bad, s)
  else t0Read (crewOf m) (tf c 71 48 + 128 * u * mmaStride c) (128 * words) s

/-- R84: the rows a unit carries, by combination; the last INT4 unit of an odd count carries one. -/
def unitRows (c : BitVec 128) (u : Nat) (bs : List Byte) : List (Nat × List Int) :=
  let f := comboFmt (tf c 33 32)
  if tf c 33 32 = 1 then
    ([0, 1].map fun k => (2 * u + k, unpackElems f (sliceBytes bs (64 * k) 64) 128)).filter fun p => p.1 < mmaRows c
  else [(u, unpackElems f bs 128)]

/-- R85: stream the units one by one; stop at the first that cannot be read. The answer is the rows added, whether it
stopped, and whether it must wait. -/
def streamUnits (m : Nat) (c : BitVec 128) (w : WBuf) (cols : List (List Int)) :
    List Nat → Nat → State → Nat × Bool × State
  | [], added, s => (added, false, s)
  | u :: us, added, s =>
    match readUnit m c u s with
    | (.ok bs, s) =>
      let b := tf c 35 34
      let step := fun (p : Nat × State) (r : Nat × List Int) =>
        let x := p.2.mx m
        let (k, sat) := addRow (tf c 33 32) w.scales cols (x.bank b) r.1 r.2
        (p.1 + 1, bump (R.MXE_CNT_ACC_SAT m) sat (setMx m (x.setBank b k) p.2))
      let (added, s) := (unitRows c u bs).foldl step (added, s)
      streamUnits m c w cols us added s
    | (_, s) => (added, true, s)

/-- R61, R62: the array cycles of the first `n` stream units of an MMA, with the word of T0 that each takes. -/
def mmaCycles (c : BitVec 128) (n : Nat) : List UCyc :=
  if tb c 37 then plainCycles (n * comboWords (tf c 33 32))
  else ((mmaUnits c).take n).flatMap fun u => wordCycles u.1 u.2

/-- R84: the stream units that hold the first `rows` rows. -/
def unitsOf (c : BitVec 128) (rows : Nat) : Nat := if tf c 33 32 = 1 then (rows + 1) / 2 else rows

/-- R79: the rows whose words have entered the array, when `left` of its cycles are still to come. -/
def rowsEntered (c : BitVec 128) (left : Nat) : Nat :=
  let words := comboUnits (tf c 33 32) (mmaRows c) * comboWords (tf c 33 32) - left
  match tf c 33 32 with
  | 1 => min (mmaRows c) (2 * words)
  | 2 => words / 2
  | _ => words

/-- R68: a weight buffer that a command reads. -/
def touchWb (m i : Nat) (s : State) : State :=
  let w := (s.mx m).wb i
  if w.single = 0 ∧ !w.double then s
  else
    let s := engineEcc m w.single w.double 0 i s
    setMx m ((s.mx m).setWb i { w with single := 0, double := false, valid := w.valid && !w.double }) s

/-- Whether a T0 source of an MMA lies in a page under repair. -/
def State.mmaWaits (s : State) (m : Nat) (c : BitVec 128) : Bool :=
  !tb c 37 && (List.range (comboUnits (tf c 33 32) (mmaRows c))).any fun u =>
    (pagesOf (sliceBase (crewOf m) + tf c 71 48 + 128 * u * mmaStride c) (128 * comboWords (tf c 33 32))).any fun p =>
      (s.rcvOf (.t0Page p)).isSome

/-- R85: MMA. -/
def beginMma (m : Nat) (t : TIss) (s : State) : Begin :=
  let c := t.cmd
  if s.mmaWaits m c then .wait s
  else
    let b := tf c 35 34
    let s := touchBank m b (touchWb m t.wb s)
    let w := (s.mx m).wb t.wb
    if !w.valid || (tb c 37 && !(s.mx m).sb.valid) then .go St.aborted 0 [] (poison m b s)
    else
      let s := if tb c 36 then setMx m ((s.mx m).setBank b bank0) s else s
      let units := List.range (comboUnits (tf c 33 32) (mmaRows c))
      let (added, stopped, s) := streamUnits m c w (columnsOf w.rows) units 0 s
      if stopped then .go St.aborted added (mmaCycles c (unitsOf c added)) (poison m b s)
      else
        let x := s.mx m
        let k := x.bank b
        let deg := k.degraded || w.standby
        .go (if deg then St.degraded else St.ok) 0 (mmaCycles c units.length)
          (setMx m (x.setBank b { k with degraded := deg }) s)

/-! ### Output commands (R86 to R88) -/

/-- R55, R86: ACLR. -/
def beginAclr (m : Nat) (c : BitVec 128) (s : State) : Begin :=
  .go St.ok 0 (plainCycles 1) (setMx m ((s.mx m).setBank (tf c 35 34) bank0) s)

/-- R55: the flag plane of a bank: one bit an element, row-major. -/
def flagPlane (b : Bank) : List Byte := (List.range 128).flatMap fun j => leBytes 16 (b.rowFlags j)

/-- R56: the INT32 data of a bank. -/
def bankBytes (b : Bank) : List Byte := (List.range 128).flatMap fun j => packElems .int32 (b.row j)

/-- R54, R86: AMOVE from a bank: to a bank with its tags, or to T0. A poisoned source moves its tags and no data. -/
def moveBank (m : Nat) (c : BitVec 128) (s : State) : Begin :=
  let src := tf c 35 34
  let dst := tf c 37 36
  let off := tf c 71 48
  let s := touchBank m src s
  let x := s.mx m
  let k := x.bank src
  let st := if k.degraded then St.degraded else St.ok
  match tf c 33 32, k.poisoned with
  | 0, true =>
    let d := { x.bank dst with sat := k.sat, degraded := k.degraded, poisoned := true }
    .go St.aborted 0 [] (setMx m (x.setBank dst d) s)
  | 0, false => .go st 0 (plainCycles 128) (setMx m (x.setBank dst k) s)
  | _, true => .go St.aborted 0 [] s
  | _, false =>
    let s := t0Write (crewOf m) off (bankBytes k) s
    let s := if tb c 38 then t0Write (crewOf m) (off + 65536) (flagPlane k) s else s
    .go st 0 (wordCycles off (amoveBytes c)) s

/-- R86: AMOVE. -/
def beginAmove (m : Nat) (c : BitVec 128) (s : State) : Begin :=
  let form := tf c 33 32
  let dst := tf c 37 36
  let off := tf c 71 48
  if form < 2 then moveBank m c s
  else
    match t0Read (crewOf m) off (amoveBytes c) s with
    | (.wait, _) => .wait s
    | (.bad, s) => .go St.aborted 0 [] (poison m dst s)
    | (.ok bs, s) =>
      let rows := (List.range 128).map fun j =>
        (j, unpackElems .int32 (sliceBytes bs (if form = 2 then 512 * j else 0) 512) 128)
      .go St.ok 0 (wordCycles off (amoveBytes c))
        (setMx m ((s.mx m).setBank dst { bank0 with rows := rows }) s)

/-- The COLUMN table a REQUANT uses: held or read just now, to wait for, or uncorrectable. -/
inductive Column where
  | table (fresh : Bool) (t : List Nat)
  | wait
  | bad
deriving DecidableEq, Repr

/-- R69, R65: a COLUMN table just read is held, or none is. -/
def holdTable (m q : Nat) (c : BitVec 128) (r : T0Rd × State) : Column × State :=
  match r with
  | (.ok bs, s) =>
    let t := (chunksOf 4 bs).map leNat
    (Column.table true t, noteLoad m q 3 (setMx m { s.mx m with table := some (tf c 95 72, t) } s))
  | (.wait, s) => (.wait, s)
  | (.bad, s) => (.bad, setMx m { s.mx m with table := none } s)

/-- R69: read a COLUMN table whole. -/
def readTableOf (m q : Nat) (c : BitVec 128) (s : State) : Column × State :=
  holdTable m q c (t0Read (crewOf m) (tf c 95 72) 512 s)

/-- R57, R69: the COLUMN table of a REQUANT: the held one where it names its address, else one read now. -/
def columnTable (m q : Nat) (c : BitVec 128) (s : State) : Column × State :=
  match (s.mx m).table with
  | some (a, t) => if a = tf c 95 72 then (.table false t, s) else readTableOf m q c s
  | none => readTableOf m q c s

/-- R41, R42, R87: requantise one row: its bytes, and the elements clamped or flagged. -/
def requantOut (f : Fmt) (t : List Nat) (row : List Int) (flags : Nat) : List Byte × Nat :=
  let res := row.zipIdx.map fun p =>
    let (v, sat) := requantise p.1 (scaleOf (t.getD p.2 0)) f
    (v, sat || bitAt flags p.2)
  (packElems f (res.map (·.1)), (res.filter (·.2)).length)

/-- R87: the rows of a REQUANT leave for T0. -/
def requantOutRows (m : Nat) (c : BitVec 128) (t : List Nat) (k : Bank) (s : State) : State :=
  (List.range (tf c 42 36 + 1)).foldl (fun s j =>
    let (bs, sat) := requantOut (requantFmt c) t (k.row j) (k.rowFlags j)
    t0Write (crewOf m) (tf c 71 48 + j * requantPitch c) bs (bump (R.MXE_CNT_RQ_SAT m) sat s)) s

/-- R57, R87: the cycles of a REQUANT. -/
def requantCycles (c : BitVec 128) (fresh : Bool) : List UCyc :=
  (if fresh then wordCycles (tf c 95 72) 512 else []) ++ (requantRows c).flatMap fun r => wordCycles r.1 r.2

/-- R87: REQUANT. -/
def beginRequant (m q : Nat) (c : BitVec 128) (s0 : State) : Begin :=
  let s := touchBank m (tf c 35 34) s0
  let k := (s.mx m).bank (tf c 35 34)
  if k.poisoned then .go St.aborted 0 [] s
  else match columnTable m q c s with
    | (.wait, _) => .wait s0
    | (.bad, s) => .go St.aborted 0 [] s
    | (.table fresh t, s) =>
      if t.any fun r => (scaleOf r).reserved then .go St.badCommand 3 [] s
      else .go (if k.degraded then St.degraded else St.ok) 0 (requantCycles c fresh) (requantOutRows m c t k s)

/-- R88: TSTORE: every word is checked before any is written. -/
def beginTstore (m : Nat) (c : BitVec 128) (s : State) : Begin :=
  let ws := (List.range (tf c 88 80)).map (tf c 79 72 + ·)
  if !(s.mx m).sb.valid then .go St.aborted 0 [] s
  else match touchStream m ws s with
    | (false, s) => .go St.aborted 0 [] s
    | (true, s) =>
      .go St.ok 0 (wordCycles (tf c 71 48) (128 * ws.length))
        (t0Write (crewOf m) (tf c 71 48) ((s.mx m).sb.bytes ws) s)

/-! ### Semaphore and slot commands (R90 to R97) -/

/-- R90: SEMSIG becomes pending with the commands it covers; a fifth holds issue. -/
def effSemsig (m q : Nat) (c : BitVec 128) (s : State) : State :=
  let y := s.mq m q
  if y.sigs.length ≥ 4 then s
  else
    let mine := y.hist.filter fun h => tb c (32 + h.unit)
    let rest := y.hist.filter fun h => !tb c (32 + h.unit)
    let s := popHead m q s
    updQ m q (fun y => { y with hist := rest, sigs := y.sigs ++ [{ cmd := c, cov := mine }] }) s

/-- R92: the MCLK time a TIMEOUT in units of 4 096 cycles ends; none for no limit. -/
def State.waitLimit (s : State) (t : Nat) : Option Nat := if t = 0 then none else some (s.mclk + 4096 * t)

/-- R92: SEMWAIT holds its queue. -/
def effSemwait (m q : Nat) (c : BitVec 128) (s : State) : State :=
  updQ m q (fun y => { y with hold := .sem (s.waitLimit (tf c 79 64)) }) s

/-- R94: HSWAIT holds its queue. -/
def effHswait (m q : Nat) (c : BitVec 128) (s : State) : State :=
  updQ m q (fun y => { y with hold := .slot (s.waitLimit (tf c 79 64)) }) s

/-- R209: STATE of a hoist slot. -/
def State.slotState (s : State) (h slot : Nat) : Nat := s.fld (R.HST_SLOT_STAT h slot) F.HST_SLOT_STAT_STATE
/-- R209: LAYER of a hoist slot. -/
def State.slotLayer (s : State) (h slot : Nat) : Nat := s.fld (R.HST_SLOT_STAT h slot) F.HST_SLOT_STAT_LAYER

/-- R191: the slot-state numbers of R209. -/
abbrev slotEmpty : Nat := 0
/-- R209: FILLING. -/
abbrev slotFilling : Nat := 1
/-- R209: PRIMARY. -/
abbrev slotPrimary : Nat := 2
/-- R209: STANDBY. -/
abbrev slotStandby : Nat := 3
/-- R209: LOST. -/
abbrev slotLost : Nat := 4

/-- R191: empty a slot: its views are lost (R98) and its refetches forgotten. -/
def emptySlot (h slot : Nat) (s : State) : State :=
  let s := setFld (R.HST_SLOT_STAT h slot) F.HST_SLOT_STAT_STATE slotEmpty s
  let k := h * 16 + slot
  let sl := mapErase s.slots k
  let rf := mapErase s.refetch k
  { s with slots := sl, refetch := rf }

/-- R98, R191: the queues of a crew lose their view of a slot. -/
def dropViews (h slot : Nat) (s : State) : State :=
  (List.range 12).foldl (fun s i =>
    updQ (3 * h + i / 4) (i % 4) (fun y => { y with views := mapErase y.views slot }) s) s

/-- R97: HSREL has passed its checks, and holds issue until the queue is done with the slot. -/
def effHsrel (m q : Nat) (_c : BitVec 128) (s : State) : State := updQ m q (fun y => { y with hold := .rel }) s

/-- R97: a release counts, while the slot holds its layer resolved; the last one empties it. -/
def countRelease (h slot layer : Nat) (s : State) : State :=
  let st := s.slotState h slot
  if (st = slotPrimary ∨ st = slotStandby) ∧ s.slotLayer h slot = layer then
    let r := R.HST_SLOT_STAT h slot
    let n := s.fld r F.HST_SLOT_STAT_RELEASED + 1
    let s := setFld r F.HST_SLOT_STAT_RELEASED n s
    let full : Bool := match mapFind s.slots (h * 16 + slot) with | some d => decide (d.releases ≤ n) | none => true
    if full && (st == slotPrimary || s.flag r F.HST_SLOT_STAT_FILL_DONE) then emptySlot h slot s else s
  else s

/-- R97: HSREL completes: it counts one release and unbinds the view. -/
def resolveRel (m : Nat) (s : State) (q : Nat) : State :=
  let y := s.mq m q
  match y.hold, y.waiting with
  | .rel, c :: _ =>
    let slot := tf c 35 32
    if y.usesSlot slot then s
    else countRelease (crewOf m) slot (tf c 63 48)
      (updQ m q (fun y => { y with hold := .none, views := mapErase y.views slot }) (doneAtIssue m q c St.ok 0 s))
  | _, _ => s

/-- R189, R96: the view of a resolved slot. A standby's frame area ends with its T0 copy (DEDUCED, log 89). -/
def State.slotView (s : State) (h slot bind : Nat) (standby : Bool) : SlotView :=
  let base := s.fld (R.HST_SLOT_CFG h slot) F.HST_SLOT_CFG_BASE
  let layer := s.slotLayer h slot
  match mapFind s.slots (h * 16 + slot) with
  | none => { bind, standby, layer, units := [], idxOff := base, areaOff := base, tiles := 0, areaLen := 0 }
  | some d =>
    if standby then
      let us := (s.objIn (s.obj (handleIndex d.standby)) 0).units.map (· % sliceSize)
      { bind, standby, layer, units := us, idxOff := d.sbyIdx, areaOff := d.sbyArea, tiles := d.tiles,
        areaLen := 4096 * us.length - d.sbyArea }
    else { bind, standby, layer, units := [], idxOff := base, areaOff := base + (8 * d.tiles + 31) / 32 * 32,
           tiles := d.tiles, areaLen := min d.areaLen (sliceSize - (base + (8 * d.tiles + 31) / 32 * 32)) }

/-- R94: resolve the head HSWAIT against its slot. -/
def resolveHswait (m q : Nat) (c : BitVec 128) (s : State) : State :=
  let h := crewOf m
  let slot := tf c 35 32
  let st := s.slotState h slot
  let layer := tf c 63 48
  let held := s.slotLayer h slot
  let ahead := (held + 65536 - layer) % 65536
  let release := updQ m q (fun y => { y with hold := .none })
  -- each binding has a number of its own (R98)
  let bind (standby : Bool) (s : State) : State :=
    let x := s.mx m
    let v := s.slotView h slot x.seq standby
    updQ m q (fun y => { y with views := mapPut y.views slot v }) (setMx m { x with seq := x.seq + 1 } s)
  if st = slotEmpty then s
  else if held = layer then
    if st = slotPrimary then doneAtIssue m q c St.ok 0 (bind false (release s))
    else if st = slotStandby then doneAtIssue m q c St.degraded 0 (bind true (release s))
    else if st = slotLost then failWait m q c St.objectLost 0 (release s)
    else s
  else if 1 ≤ ahead ∧ ahead ≤ 32767 then failWait m q c St.layerPassed 0 (release s)
  else s

/-! ### Starting commands (R58, R59) -/

/-- R429: the compute gate has opened. -/
def State.computeGate (s : State) : Bool :=
  let p := s.fld R.CLK_START_STAT F.CLK_START_STAT_PHASE
  p == 3 || p == 4

/-- R28, R429, R415: the engines run once the compute gate has opened, and until a thermal trip. -/
def State.computeOpen (s : State) : Bool := s.computeGate && !s.mgmt.tripped

/-- R81 to R88: what a command does when it starts. -/
def beginCmd (m q : Nat) (t : TIss) (s : State) : Begin :=
  match tOpcode t.cmd with
  | 0x01 => beginWload m q t s
  | 0x02 => beginTload m q t s
  | 0x03 => beginCbload m q t.cmd s
  | 0x10 => beginMma m t s
  | 0x20 => beginAclr m t.cmd s
  | 0x21 => beginAmove m t.cmd s
  | 0x22 => beginRequant m q t.cmd s
  | _ => beginTstore m t.cmd s

/-- A command leaves the buffer in front of its unit. -/
def dropIssued (m q seq : Nat) (s : State) : State :=
  updQ m q (fun y => { y with issued := y.issued.filter fun e => e.seq != seq }) s

/-- R58, R76: the command at the front of a unit's buffer starts; of one that has failed, its destination meets the
failure. -/
def startUnit (m q : Nat) (t : TIss) (s : State) : State :=
  if t.failed then dropIssued m q t.seq (failDest m q t s)
  else match beginCmd m q t s with
    | .wait s => s
    | .go status detail cycles s =>
      updQ m q (fun y => { y with running := y.running ++ [{ t with status, detail, cycles }] }) (dropIssued m q t.seq s)

/-- R58: start the command at the front of a unit's buffer, where it may start. -/
def pumpUnit (m : Nat) (s : State) (u : Nat) : State :=
  match s.unitHead m u with
  | some (q, t) => if s.mayStart m q t then startUnit m q t s else s
  | none => s

/-- R67, R98: what a replay of a remembered load does, as T0 now stands: it waits, or its buffer is as it left it. -/
def replayLoad (m q : Nat) (r : Replay) (s : State) : Begin :=
  let t : TIss := { seq := 0, unit := 0, cmd := r.cmd, wb := r.wb.getD 0, view := r.view,
                    slot := if r.wb.isSome && tb r.cmd 32 then some (tf r.cmd 99 96) else none, failed := r.bad }
  let lost : Bool := match t.slot, r.view with
    | some slot, some v => mapFind (s.mq m q).views slot != some v
    | some _, none => true
    | none, _ => false
  if r.bad || lost then .go 0 0 [] (failDest m q t s)
  else if r.wb.isSome then beginWload m q t s else beginTload m q t s

/-- R67: the first remembered load that is still to be replayed, once the load unit is free. -/
def replayOne (m : Nat) (s : State) : State :=
  let x := s.mx m
  match x.cur, x.replays with
  | some q, r :: rest =>
    let t : TIss := { seq := 0, unit := 0, cmd := r.cmd, wb := r.wb.getD 0, view := r.view,
                      slot := if tb r.cmd 32 then some (tf r.cmd 99 96) else none, failed := false }
    if s.unitDepth m 0 != 0 || !s.unitFree m 0 || s.waitsOut m q t || (r.wb.isSome && s.refetchHeld m t) then s
    else match replayLoad m q r s with
      | .wait s => s
      | .go _ _ cycles s =>
        let x := s.mx m
        setMx m { x with replays := rest, restore := x.restore ++ cycles } s
  | _, _ => s

/-- R77: a queue that a failed wait cancelled accepts commands again once nothing of it is left. -/
def settleWait (m : Nat) (s : State) (q : Nat) : State :=
  let y := s.mq m q
  if y.closing = .failedWait ∧ y.running.isEmpty ∧ y.issued.isEmpty then
    updQ m q (fun y => { y with closing := .none }) s
  else s

/-- Commands in the buffers of an MXE's units, and loads still to be replayed. -/
def Mxe.todo (x : Mxe) : Nat := ((List.range 4).map fun q => (x.q q).issued.length).sum + x.replays.length

/-- R58, R59: whatever may start on an MXE now starts. -/
def pump (m : Nat) (s : State) : State :=
  if !s.computeOpen || !s.crewUp (crewOf m) then s
  else
    let once (s : State) (_ : Nat) : State := (List.range 3).foldl (pumpUnit m) (replayOne m s)
    let s := (List.range (s.mx m).todo).foldl once s
    (List.range 4).foldl (settleWait m) ((List.range 4).foldl (resolveRel m) s)

/-- Whatever may start on the MXEs of a crew now starts. -/
def pumpCrew (h : Nat) (s : State) : State := (List.range 3).foldl (fun s i => pump (3 * h + i) s) s

/-! ### Issue (R58, R66) -/

/-- R66: a queue that could issue: bound, with a command to issue, and nothing holding it (R90: a fifth pending semaphore
signal holds it). -/
def State.qReady (s : State) (m q : Nat) : Bool :=
  let y := s.mq m q
  s.qBound m q && y.hold == .none && y.closing == .none &&
    (match y.waiting with
     | c :: _ => tOpcode c != 0x30 || decide (y.sigs.length < 4)
     | [] => false)

/-- R66: the queue that weighted round robin allows next. One grant spends one unit of ARB_WEIGHT (DESIGN CHOICE,
log 85). -/
def State.rrAllows (s : State) (m q : Nat) : Bool :=
  let w (j : Nat) := s.fld (R.MXE_QCTL m j) F.MXE_QCTL_ARB_WEIGHT
  let others := (List.range 4).filter fun j => j != q && s.qReady m j
  let spent (j : Nat) := mapGet (s.mx m).credit j 0
  if w q = 0 then others.isEmpty
  else decide (spent q < w q) || others.all fun j => w j == 0 || decide (w j ≤ spent j)

/-- R66: the current queue has run for its quantum and its next command is a multiply-accumulate or a stationary load. -/
def State.quantumOver (s : State) (m q : Nat) : Bool :=
  let quantum := s.fld (R.MXE_CTL m) F.MXE_CTL_QUANTUM * 256
  quantum != 0 && decide ((s.mx m).since + quantum ≤ s.mclk) &&
    (match (s.mq m q).waiting with
     | c :: _ => tOpcode c == 0x10 || tOpcode c == 0x01
     | [] => false)

/-- R66: another queue gains the engine at this command boundary. -/
def State.mustLeave (s : State) (m q : Nat) : Bool :=
  s.quantumOver m q && (List.range 4).any fun j => j != q && s.qReady m j && s.rrAllows m j

/-- R66: the load-unit and output-unit commands of the other queues have finished, and nothing is left to replay. -/
def State.othersDone (s : State) (m q : Nat) : Bool :=
  (s.mx m).replays.isEmpty && (List.range 4).all fun j => j == q ||
    ((s.mq m j).running.all fun r => r.unit == 1) && (s.mq m j).issued.all fun t => t.unit == 1

/-- R58, R66: a queue may issue: it is bound and has the engine, nothing holds it, and what it waits for is done. -/
def State.canIssue (s : State) (m q : Nat) : Bool :=
  s.computeOpen && s.crewUp (crewOf m) && s.qBound m q && (s.mx m).cur == some q && (s.mq m q).closing == .none &&
    (s.mq m q).hold == .none && s.othersDone m q && !s.mustLeave m q

/-- R58: the command at the head of a queue that may issue, when its opcode is the row's and its unit's buffer has room. -/
def State.headFor (s : State) (m q op : Nat) : Option (BitVec 128) :=
  match (s.mq m q).waiting with
  | c :: _ =>
    if s.canIssue m q && tOpcode c == op &&
        (match tUnit op with | some u => decide (s.unitDepth m u < 4) | none => true) then some c else none
  | [] => none

/-- R62: cycles of a restore that a later command has overtaken have passed (log 16). -/
def endRestore (m : Nat) (s : State) : State :=
  let x := s.mx m
  if x.restore.isEmpty then s
  else bump (R.MXE_CNT_RESTORE m) x.restore.length
    (bump (R.MXE_CNT_CYCLES m) x.restore.length (setMx m { x with restore := [] } s))

/-- The row of a tile command: its checks, then it issues; what may start then starts. -/
def runTile (m q op : Nat) (eff : BitVec 128 → State → State) (s : State) : State :=
  match s.headFor m q op with
  | none => s
  | some c =>
    let s := endRestore m s
    pump m (match issueCheck s m q c with
      | some k => rejectHead m q c k s
      | none => eff c s)

/-! ### The rows -/

/-- R73: NOP. -/
def execTNop (m : Fin 192) (q : Fin 4) (s : State) : Host.Outcome State Fault Refusal :=
  .next (runTile m q 0x00 (fun c => doneAtIssue m q c St.ok 0) s)
/-- R81: WLOAD. -/
def execWload (m : Fin 192) (q : Fin 4) (s : State) : Host.Outcome State Fault Refusal :=
  .next (runTile m q 0x01 (issueUnit m q 0) s)
/-- R82: TLOAD. -/
def execTload (m : Fin 192) (q : Fin 4) (s : State) : Host.Outcome State Fault Refusal :=
  .next (runTile m q 0x02 (issueUnit m q 0) s)
/-- R83: CBLOAD. -/
def execCbload (m : Fin 192) (q : Fin 4) (s : State) : Host.Outcome State Fault Refusal :=
  .next (runTile m q 0x03 (issueUnit m q 0) s)
/-- R85: MMA. -/
def execMma (m : Fin 192) (q : Fin 4) (s : State) : Host.Outcome State Fault Refusal :=
  .next (runTile m q 0x10 (issueUnit m q 1) s)
/-- R86: ACLR. -/
def execAclr (m : Fin 192) (q : Fin 4) (s : State) : Host.Outcome State Fault Refusal :=
  .next (runTile m q 0x20 (issueUnit m q 2) s)
/-- R86: AMOVE. -/
def execAmove (m : Fin 192) (q : Fin 4) (s : State) : Host.Outcome State Fault Refusal :=
  .next (runTile m q 0x21 (issueUnit m q 2) s)
/-- R87: REQUANT. -/
def execRequant (m : Fin 192) (q : Fin 4) (s : State) : Host.Outcome State Fault Refusal :=
  .next (runTile m q 0x22 (issueUnit m q 2) s)
/-- R88: TSTORE. -/
def execTstore (m : Fin 192) (q : Fin 4) (s : State) : Host.Outcome State Fault Refusal :=
  .next (runTile m q 0x23 (issueUnit m q 2) s)
/-- R90: SEMSIG. -/
def execSemsig (m : Fin 192) (q : Fin 4) (s : State) : Host.Outcome State Fault Refusal :=
  .next (runTile m q 0x30 (effSemsig m q) s)
/-- R92: SEMWAIT. -/
def execSemwait (m : Fin 192) (q : Fin 4) (s : State) : Host.Outcome State Fault Refusal :=
  .next (runTile m q 0x31 (effSemwait m q) s)
/-- R94: HSWAIT. -/
def execHswait (m : Fin 192) (q : Fin 4) (s : State) : Host.Outcome State Fault Refusal :=
  .next (runTile m q 0x32 (effHswait m q) s)
/-- R97: HSREL. -/
def execHsrel (m : Fin 192) (q : Fin 4) (s : State) : Host.Outcome State Fault Refusal :=
  .next (runTile m q 0x33 (effHsrel m q) s)

/-- R75: the head command's OPCODE is reserved: BAD_COMMAND with DETAIL 2. -/
def execReservedTileOpcode (m : Fin 192) (q : Fin 4) (s : State) : Host.Outcome State Fault Refusal :=
  .next (match (s.mq m q).waiting with
    | c :: _ =>
      if s.canIssue m q && !tOpcodes.contains (tOpcode c) then
        pump m (rejectHead m q c ((issueCheck s m q c).getD 2) (endRestore m s))
      else s
    | [] => s)

/-- R91: the oldest pending SEMSIG fires, or fails, once its covered work is done. -/
def execSemsigFire (m : Fin 192) (q : Fin 4) (s : State) : Host.Outcome State Fault Refusal :=
  .next (match (s.mq m q).sigs with
    | [] => s
    | g :: rest =>
      if s.mgmt.tripped || g.cov.any fun h => h.status.isNone then s
      else
        let s := updQ m q (fun y => { y with sigs := rest }) s
        let c := g.cmd
        let n := tf c 60 55
        let i := tf c 54 48
        if g.cov.any fun h => h.status != some St.ok && h.status != some St.degraded then
          finishCmd m q c St.aborted 0 s
        -- R25: no path leads to the crew
        else if (s.seamRoute (m.val / 48) (n / 16) false).isNone then finishCmd m q c St.aborted 0 s
        else if s.fld (semReg n i) F.MXE_SEM_TENANT ≠ s.qTenant m q then
          finishCmd m q c St.aborted 0 (tenantEvent 0x0304 0x10 n (s.qTenant m q) n i (packSource 1 m) 0 s)
        else if tf c 79 64 = 0 then finishCmd m q c St.ok 0 s
        else
          let (sat, s) := semAdd n i (tf c 79 64) (some (m, q, c)) s
          finishCmd m q c (if sat then St.semOverflow else St.ok) 0 s)

/-- The head command of a queue held at a semaphore wait, with its deadline (R415: the clocks stop at a thermal trip). -/
def State.heldSem (s : State) (m q : Nat) : Option (BitVec 128 × Option Nat) :=
  match (s.mq m q).hold, (s.mq m q).waiting with
  | .sem d, c :: _ => if s.mgmt.tripped then none else some (c, d)
  | _, _ => none

/-- The head command of a queue held at a slot wait, with its deadline. -/
def State.heldSlot (s : State) (m q : Nat) : Option (BitVec 128 × Option Nat) :=
  match (s.mq m q).hold, (s.mq m q).waiting with
  | .slot d, c :: _ => if s.mgmt.tripped then none else some (c, d)
  | _, _ => none

/-- R92, R93: a wait of the crew on semaphore `i`, at place `p` (MXE × 4 + queue), is served where its threshold is
reached; a consuming one subtracts before the next is tested. -/
def serveWait (n i : Nat) (s : State) (p : Nat) : State :=
  let m := 3 * n + p / 4
  let q := p % 4
  let r := semReg n i
  match s.heldSem m q with
  | none => s
  | some (c, _) =>
    let count := s.fld r F.MXE_SEM_COUNT
    if tf c 54 48 ≠ i ∨ count < tf c 127 96 then s
    else
      let s := if tb c 32 then setFld r F.MXE_SEM_COUNT (count - tf c 127 96) s else s
      doneAtIssue m q c St.ok 0 (updQ m q (fun y => { y with hold := .none }) s)

/-- R93: the places of a crew's queues in the order of this NCLK cycle. Place 0 comes first in cycle 0 (DESIGN CHOICE,
log 17). -/
def State.waitOrder (s : State) : List Nat := (List.range 12).map fun k => (s.nclk + k) % 12

/-- R92, R93: the semaphore has reached the threshold: the waits that come before this one in the cycle's order are
tested first, and the adds of the cycle have been taken. -/
def execSemwaitSatisfied (m : Fin 192) (q : Fin 4) (s : State) : Host.Outcome State Fault Refusal :=
  .next (match s.heldSem m q with
    | none => s
    | some (c, _) =>
      let n := crewOf m
      let i := tf c 54 48
      let me := m.val % 3 * 4 + q.val
      (s.waitOrder.takeWhile (· != me) ++ [me]).foldl (serveWait n i) (semClose n i s))

/-- R92, R94, R77: a held wait whose TIMEOUT has expired. -/
def waitExpired (m q : Nat) (h : Option (BitVec 128 × Option Nat)) (s : State) : State :=
  match h with
  | some (c, some d) => if d ≤ s.mclk then pump m (failWait m q c St.waitTimeout 0 s) else s
  | _ => s

/-- R92: the TIMEOUT of a SEMWAIT expires. -/
def execSemwaitTimeout (m : Fin 192) (q : Fin 4) (s : State) : Host.Outcome State Fault Refusal :=
  .next (waitExpired m q (s.heldSem m q) s)

/-- R94: the slot resolves a held HSWAIT. -/
def execHswaitResolve (m : Fin 192) (q : Fin 4) (s : State) : Host.Outcome State Fault Refusal :=
  .next (match s.heldSlot m q with
    | none => s
    | some (c, _) => pump m (resolveHswait m q c s))

/-- R94: the TIMEOUT of an HSWAIT expires. -/
def execHswaitTimeout (m : Fin 192) (q : Fin 4) (s : State) : Host.Outcome State Fault Refusal :=
  .next (waitExpired m q (s.heldSlot m q) s)

/-- R78, R90: an executing command completes with its status. -/
def completeRun (m q : Nat) (r : TRun) (s : State) : State :=
  let s := updQ m q (fun y =>
    { y with running := y.running.filter (fun t => t.seq != r.seq), hist := coverStatus r.seq r.status y.hist,
             sigs := y.sigs.map fun g => { g with cov := coverStatus r.seq r.status g.cov } }) s
  finishCmd m q r.cmd r.status r.detail s

/-- R62: the stream words that an MMA's end says have entered the array are BUSY cycles (log 16). -/
def countStream (m : Nat) (r : TRun) (s : State) : State :=
  if r.unit = 1 ∧ !r.cycles.isEmpty then
    bump (R.MXE_CNT_BUSY m) r.cycles.length (bump (R.MXE_CNT_CYCLES m) r.cycles.length s)
  else s

/-- R58: an earlier command of the unit, in another queue, still runs. -/
def State.runsBefore (s : State) (m : Nat) (r : TRun) : Bool :=
  (List.range 4).any fun j => (s.mq m j).running.any fun e => e.unit == r.unit && decide (e.seq < r.seq)

/-- R78, R100: the oldest command executing on a unit finishes, once its T0 writes have landed. -/
def execMxeCommandComplete (m : Fin 192) (q : Fin 4) (unit : Fin 3) (s : State) : Host.Outcome State Fault Refusal :=
  .next (match (s.mq m q).running.find? fun r => r.unit == unit.val with
    | none => s
    | some r =>
      if s.mgmt.tripped || s.runsBefore m r || s.writeHeld m r.cmd then s
      else pump m (completeRun m q r (countStream m r s)))

/-- R25, R79: how a command that its engine's loss ends completes: an MMA with the rows that have entered the array. -/
def abortedRun (r : TRun) : TRun :=
  { r with status := St.aborted,
           detail := if tOpcode r.cmd = 0x10 then rowsEntered r.cmd r.cycles.length else tileDetail r.cmd }

/-- R25: the commands executing on an MXE whose crew is lost complete with ABORTED. -/
def abortRuns (m : Nat) (s : State) : State :=
  (List.range 4).foldl (fun s q => (s.mq m q).running.foldl (fun s r =>
    completeRun m q (abortedRun r) s) s) s

/-- R70: a cancel of a queue, for a reset or by its owner, with the status of what it discards. -/
def startCancel (m q status : Nat) (s : State) : State :=
  if s.qBound m q ∧ ((s.mq m q).closing = .none ∨ (s.mq m q).closing = .failedWait) then
    pump m (updQ m q (fun y => { y with closing := .cancel status }) (discardQueue m q status s))
  else s

/-- R70: a cancel completes once executing commands have finished, so that every T0 write has landed; the binding and the
slot views (R95) are kept. -/
def execMxeCancelDone (m : Fin 192) (q : Fin 4) (s : State) : Host.Outcome State Fault Refusal :=
  .next (match (s.mq m q).closing with
    | .cancel _ =>
      if (s.mq m q).running.isEmpty ∧ (s.mq m q).issued.isEmpty then
        updQ m q (fun y => { y with closing := .none }) (prepareQueue m q s)
      else s
    | _ => s)

/-- R71: STATE of a queue: 0 idle, 1 running, 2 ready, 3 semaphore wait, 4 slot wait, 5 cancelling. -/
def State.qState (s : State) (m q : Nat) : Nat :=
  let y := s.mq m q
  if y.closing ≠ .none then 5
  else match y.hold with
    | .sem _ => 3
    | .slot _ => 4
    | _ =>
      if y.waiting.isEmpty && y.running.isEmpty && y.issued.isEmpty && y.sigs.isEmpty then 0
      else if (s.mx m).cur == some q || y.waiting.isEmpty then 1 else 2

/-- R65: bind a queue: the alternation of R52 starts at WB0 and no load precedes. -/
def bindQueue (m q val : Nat) (s : State) : State :=
  let s := setReg (R.MXE_QCTL m q) (val - bitsOf val 5 1 * 2) s
  updQ m q (fun y => { y with nextWb := 0, curWb := none, curFmt := none, curSlot := none, loads := [], tile := none,
                              hist := [], views := [], closing := .none }) s

/-- R65: whether a value with VALID = 1 overlaps another valid queue or names an owner outside the crew. -/
def State.qctlBad (s : State) (m q val : Nat) : Bool :=
  bitAt val 0 &&
    (bitsOf val 15 6 / 16 != crewOf m ||
      (List.range 4).any fun j => j != q && s.qBound m j &&
        (s.fld (R.MXE_QCTL m j) F.MXE_QCTL_SLOT_MASK &&& bitsOf val 63 32 != 0 ||
          s.fld (R.MXE_QCTL m j) F.MXE_QCTL_BANK_MASK &&& bitsOf val 31 28 != 0))

/-- R64, R65: a write to MXE_QCTLi; no queue is bound before the compute gate opens (R429). -/
def qctlWrite (who : Who) (m q val : Nat) (s : State) : State :=
  let r := R.MXE_QCTL m q
  if !s.bindWriter who || s.qState m q != 0 || s.qctlBad m q val || (bitAt val 0 && !s.computeGate) then ignoredWrite who r.off s
  else
    let bound := s.qBound m q
    let changed := !bitAt val 0 || bitsOf val 15 6 != s.fld r F.MXE_QCTL_OWNER_CTX ||
      bitsOf val 23 16 != s.fld r F.MXE_QCTL_TENANT
    if bound && changed then updQ m q (fun y => { y with closing := .release (BitVec.ofNat 64 val) }) s
    else if !bound && bitAt val 0 then bindQueue m q val s
    else setReg r (val - bitsOf val 5 1 * 2) s

/-- R65: MXE_QCTL_WRITE. -/
def execMxeQctlWrite (who : Who) (m : Fin 192) (q : Fin 4) (val : BitVec 64) (s : State) :
    Host.Outcome State Fault Refusal := .next (qctlWrite who m q val.toNat s)

/-- R65: the release is done: resources are prepared and the new value is accepted. -/
def execMxeReleaseDone (m : Fin 192) (q : Fin 4) (s : State) : Host.Outcome State Fault Refusal :=
  .next (match (s.mq m q).closing with
    | .release v =>
      bindQueue m q v.toNat (prepareQueue m q s)
    | _ => s)

/-- R66: the engine may leave its current queue at this command boundary. -/
def State.mayLeave (s : State) (m : Nat) : Bool :=
  match (s.mx m).cur with
  | none => true
  | some j => !s.qReady m j || s.quantumOver m j

/-- R67: what a queue that gains the engine must have replayed: the buffers that another queue has loaded since, or that
were invalidated. -/
def State.toReplay (s : State) (m q : Nat) : List Replay :=
  let x := s.mx m
  let y := x.q q
  (y.loads.reverse.filter fun r => mapFind x.loaded (r.wb.getD 0) != some q) ++
    y.tile.toList.filter fun _ => mapFind x.loaded 2 != some q

/-- R66, R67: the engine switches to a ready queue and replays what it remembers for it. The first gain of an engine that
had no queue is no switch (DESIGN CHOICE, log 85). -/
def execMxeQueueSwitch (m : Fin 192) (q : Fin 4) (s : State) : Host.Outcome State Fault Refusal :=
  .next (
    let x := s.mx m
    if x.cur = some q.val ∨ !s.computeOpen ∨ !s.crewUp (crewOf m) ∨ !s.qReady m q ∨ !s.mayLeave m ∨ !s.rrAllows m q ∨
        !x.replays.isEmpty then s
    else
      let w := s.fld (R.MXE_QCTL m q) F.MXE_QCTL_ARB_WEIGHT
      let spent := mapGet x.credit q 0
      let credit := if w ≤ spent then [(q.val, 1)] else mapPut x.credit q (spent + 1)
      let s := setMx m { x with cur := some q.val, credit := credit, since := s.mclk, replays := s.toReplay m q }
        (endRestore m s)
      pump m (if x.cur.isSome then bump (R.MXE_CNT_SWITCH m) 1 s else s))

/-- R71: zero the event counters. -/
def mxeClearEvents (m : Nat) (s : State) : State :=
  zeroRegs [R.MXE_CNT_ACC_SAT m, R.MXE_CNT_RQ_SAT m, R.MXE_CNT_ECC_CORR m, R.MXE_CNT_ECC_UNCORR m, R.MXE_CNT_SWITCH m] s
/-- R71: zero the cycle counters. -/
def mxeClearCycles (m : Nat) (s : State) : State :=
  zeroRegs [R.MXE_CNT_CYCLES m, R.MXE_CNT_BUSY m, R.MXE_CNT_IDLE m, R.MXE_CNT_WAIT m, R.MXE_CNT_THROTTLE m,
            R.MXE_CNT_RESTORE m, R.MXE_CNT_BANK m, R.MXE_CNT_OUTPUT m, R.MXE_CNT_STARTER m, R.MXE_CNT_T0 m,
            R.MXE_CNT_CREDIT m, R.MXE_CNT_WEIGHT m, R.MXE_CNT_ORDER m] s

/-- A write to a register that the spec restricts to no writer. -/
def blockDo (who : Who) (off : Nat) (f : State → State) (s : State) : State :=
  if s.blockWriter who then f s else ignoredWrite who off s

/-- R71: EVENT_CNTS. -/
def execMxeCntClearEvent (who : Who) (m : Fin 192) (s : State) : Host.Outcome State Fault Refusal :=
  .next (blockDo who (R.MXE_CNT_CLEAR m).off (mxeClearEvents m) s)
/-- R71: CYCLE_CNTS. -/
def execMxeCntClearCycle (who : Who) (m : Fin 192) (s : State) : Host.Outcome State Fault Refusal :=
  .next (blockDo who (R.MXE_CNT_CLEAR m).off (mxeClearCycles m) s)
/-- R89, R93: MXE_SEM_WRITE. -/
def execMxeSemWrite (who : Who) (n : Fin 64) (i : Fin 128) (val : BitVec 64) (s : State) :
    Host.Outcome State Fault Refusal := .next (semWrite who n i val.toNat s)
/-- R89, R93: MXE_SEM_ADD. -/
def execMxeSemAdd (who : Who) (n : Fin 64) (i : Fin 128) (val : BitVec 32) (s : State) :
    Host.Outcome State Fault Refusal := .next (semAddWrite who n i val.toNat s)
/-- R162: zero the counters of an expander. -/
def xpClear (m : Nat) (s : State) : State :=
  zeroRegs [R.MXE_XP_CNT_RAW m, R.MXE_XP_CNT_VQ m, R.MXE_XP_CNT_LR m, R.MXE_XP_CNT_ZERO m, R.MXE_XP_CNT_ESCAPES m,
            R.MXE_XP_CNT_LR_SAT m, R.MXE_XP_CNT_DAMAGED m, R.MXE_XP_CNT_REFETCH m, R.MXE_XP_CNT_STARTER_MISMATCH m] s
/-- R162: MXE_XP_CNT_CLEAR. -/
def execMxeXpCntClear (who : Who) (m : Fin 192) (s : State) : Host.Outcome State Fault Refusal :=
  .next (blockDo who (R.MXE_XP_CNT_CLEAR m).off (xpClear m) s)

end Sys2Proof.Machine
end

