-- ==== Sys2Proof/Machine/KncOps.lean ====
section
/-! DEFINITION. The kneader contexts' registers, stopping (R132, R133), binding and commands (R104, R135), and the
shared frame of an instruction: what must hold before it issues and what its completion does (R103, R129, R131). -/

namespace Sys2Proof.Machine

/-! ### Names -/

/-- R15: the core of a context. -/
def coreOf (c : Nat) : Nat := c / 4
/-- R16: the crew of a context. -/
def ctxCrew (c : Nat) : Nat := c / 16

/-- A context's status register. -/
abbrev ctxStat (c : Nat) : Reg := R.KNC_CTX_STAT (c / 4) (c % 4)
/-- A context's PC register. -/
abbrev ctxPc (c : Nat) : Reg := R.KNC_CTX_PC (c / 4) (c % 4)
/-- A context's EPC register. -/
abbrev ctxEpc (c : Nat) : Reg := R.KNC_CTX_EPC (c / 4) (c % 4)
/-- A context's EXCADDR register. -/
abbrev ctxExcaddr (c : Nat) : Reg := R.KNC_CTX_EXCADDR (c / 4) (c % 4)
/-- A general register's home. -/
abbrev ctxG (c i : Nat) : Reg := R.KNC_CTX_GREG (c / 4) (c % 4) i
/-- A predicate register's home. -/
abbrev ctxP (c i : Nat) : Reg := R.KNC_CTX_PREG (c / 4) (c % 4) i
/-- The home of 64-bit word `w` of a vector register. -/
abbrev ctxV (c i w : Nat) : Reg := R.KNC_CTX_VREG (c / 4) (c % 4) (8 * i + w)

/-- A context after reset. -/
def ctx0 : Ctx := { instret := 0, timer := 0, rng := 1, out := [], errs := [], intake := [], unsent := [],
                    wait := .none, supEvt := false, parity := [] }
/-- A context. -/
def State.kc (s : State) (c : Nat) : Ctx := mapGet s.knc c ctx0
/-- Change a context. -/
def updCtx (c : Nat) (f : Ctx → Ctx) (s : State) : State := { s with knc := mapPut s.knc c (f (s.kc c)) }

/-- R135: STATE: 0 unbound, 1 stopped, 2 running, 3 waiting, 4 faulted. -/
def State.ctxState (s : State) (c : Nat) : Nat := s.fld (ctxStat c) F.KNC_CTX_STAT_STATE
/-- Set STATE. -/
def setCtxState (c v : Nat) (s : State) : State := setFld (ctxStat c) F.KNC_CTX_STAT_STATE v s
/-- R108: the context's registers can be reached: it is stopped or faulted. -/
def State.ctxHalted (s : State) (c : Nat) : Bool := s.ctxState c == 1 || s.ctxState c == 4
/-- The context runs or waits. -/
def State.ctxLive (s : State) (c : Nat) : Bool := s.ctxState c == 2 || s.ctxState c == 3

/-! ### Causes (R132) -/

/-- R132: ILLEGAL. -/
abbrev Cause.illegal : Nat := 1
/-- R132: PRIV. -/
abbrev Cause.priv : Nat := 2
/-- R132: ADDRESS. -/
abbrev Cause.address : Nat := 3
/-- R132: MISALIGN. -/
abbrev Cause.misalign : Nat := 4
/-- R132: DATA. -/
abbrev Cause.data : Nat := 5
/-- R132: TIMEOUT. -/
abbrev Cause.timeout : Nat := 6
/-- R132: QUEUE. -/
abbrev Cause.queue : Nat := 7
/-- R132: OPERAND. -/
abbrev Cause.operand : Nat := 8
/-- R132: BREAK. -/
abbrev Cause.brk : Nat := 9
/-- R132: STOPPED. -/
abbrev Cause.stopped : Nat := 10
/-- R132: HALTED. -/
abbrev Cause.halted : Nat := 11
/-- R132: FUNCTION_RESET. -/
abbrev Cause.functionReset : Nat := 12

/-! ### Stopping -/

/-- R132: what is kept of an outstanding access when its context stops: stores complete, loads are discarded. -/
def stopAcc (a : CtxAcc) : Option CtxAcc :=
  match a.kind with
  | .load _ => none
  | .vload _ _ => none
  | _ => some a

/-- R127, R132: raise WAITEV bit 3 in the supervisor of a PRIV = 0 context; the foreman supervises the others. -/
def tellSupervisor (c : Nat) (s : State) : State :=
  if s.ctxPriv c then s
  else updCtx (s.fld (ctxCtl c) F.KNC_CTX_CTL_SUPV) (fun x => { x with supEvt := true }) s

/-- R133: stop a running or waiting context. `st` is the STATE it takes. -/
def stopCtx (c st cause epc addr : Nat) (s : State) : State :=
  let s := updCtx c (fun x => { x with out := x.out.filterMap stopAcc, wait := .none,
                                       errs := x.errs.filter fun e => e.dest.isNone }) s
  let s := setFld (ctxStat c) F.KNC_CTX_STAT_CAUSE cause (setCtxState c st s)
  tellSupervisor c (setReg (ctxExcaddr c) addr (setReg (ctxEpc c) epc s))

/-- R132: an exception stops the context and is recorded. -/
def excCtx (c cause epc addr : Nat) (s : State) : State :=
  let s := stopCtx c 4 cause epc addr s
  tenantEvent 0x0301 2 c (s.ctxTenant c) c cause epc (epc / 2 ^ 32 % 2 ^ 24) s

/-- R132: an exception whose EXCADDR the spec does not give (log 4). -/
def excFree (c cause : Nat) (s : State) : State :=
  let (x, s) := freshWord s
  excCtx c cause (s.reg (ctxPc c)) x.toNat s

/-! ### Registers of a context (R108) -/

/-- R108: g0 reads zero. -/
def State.g (s : State) (c i : Nat) : Nat := if i = 0 then 0 else s.reg (ctxG c i)
/-- The value of a general register, signed. -/
def State.gi (s : State) (c i : Nat) : Int := sextNat 64 (s.g c i)
/-- R108: all ones. -/
def ones64 : Nat := 2 ^ 64 - 1
/-- R108: p0 reads all ones. -/
def State.p (s : State) (c i : Nat) : Nat := if i = 0 then ones64 else s.reg (ctxP c i)
/-- The 64 bytes of a vector register. -/
def State.v (s : State) (c i : Nat) : List Byte := (List.range 8).flatMap fun w => leBytes 8 (s.reg (ctxV c i w))

/-- A written register has good parity, and a held load error has lost its destination. -/
def wroteReg (c d : Nat) (s : State) : State :=
  let x := s.kc c
  if x.parity.contains d || x.errs.any fun e => e.dest == some d then
    updCtx c (fun x => { x with parity := x.parity.filter (· != d),
                                errs := x.errs.map fun e => if e.dest = some d then { e with dest := none } else e }) s
  else s

/-- R108: writes to g0 are discarded. -/
def setG (c i v : Nat) (s : State) : State := if i = 0 then s else wroteReg c i (setReg (ctxG c i) v s)
/-- R108: writes to p0 are discarded. -/
def setP (c i v : Nat) (s : State) : State := if i = 0 then s else setReg (ctxP c i) v s
/-- Write the 64 bytes of a vector register. -/
def setV (c i : Nat) (bs : List Byte) (s : State) : State :=
  wroteReg c (32 + i) ((List.range 8).foldl (fun s w => setReg (ctxV c i w) (leAt bs (8 * w) 8) s) s)

/-! ### Binding and commands -/

/-- R104: the register block of a context: a write from anyone but the foreman and PRIV = 1 contexts is ignored. -/
def kncCtlWrite (who : Who) (c val : Nat) (s : State) : State :=
  let r := ctxCtl c
  if !s.bindWriter who || s.ctxLive c ||
      decide (bitsOf val 31 24 + bitsOf val 23 15 > 256) then ignoredWrite who r.off s
  else
    let keep := bitsOf val 63 46 * 2 ^ 46 + bitsOf val 43 40 * 2 ^ 40 + bitsOf val 32 32 * 2 ^ 32 +
      bitsOf val 31 15 * 2 ^ 15 + bitsOf val 0 0
    let s := setReg r keep s
    if bitsOf val 0 0 = 0 then setCtxState c 0 s
    else if s.ctxState c = 0 then setCtxState c 1 s
    else s

/-- R106: an access of a PRIV = 0 context lies wholly inside a valid entry that permits it. `need` holds the bits of
[3:1] required. -/
def State.rgnOk (s : State) (c a n need : Nat) : Bool :=
  (List.range 8).any fun i =>
    let r := s.reg (R.KNC_CTX_RGN (c / 4) (c % 4) i)
    let k := bitsOf r 15 10
    bitAt r 0 && (bitsOf r 3 1 * 2) &&& need == need &&
      (a / 2 ^ k == r / 2 ^ 16 * 2 ^ 16 / 2 ^ k && (a + n - 1) / 2 ^ k == a / 2 ^ k)

/-- R107, R106, R13: the fetch of the instruction at PC: none where it succeeds, else the cause. -/
def State.fetchFault (s : State) (c : Nat) : Option Nat :=
  let pc := s.reg (ctxPc c)
  if pc % 4 ≠ 0 then some Cause.misalign
  else if !s.ctxPriv c && !s.rgnOk c pc 4 8 then some Cause.address
  else match spaceOf pc with
    | .t0 => if s.reachable pc 4 then none else some Cause.address
    | .t1 => if s.reachable pc 4 then none else some Cause.address
    | _ => some Cause.address

/-- R132: START runs a stopped or faulted context with VALID set from PC. -/
def ctxStart (who : Who) (c : Nat) (s : State) : State :=
  if !s.bindWriter who || !s.ctxHalted c || !s.flag (ctxCtl c) F.KNC_CTX_CTL_VALID || !s.computeOpen then
    ignoredWrite who (R.KNC_CTX_CMD (c / 4) (c % 4)).off s
  else
    let s := setCtxState c 2 s
    match s.fetchFault c with
    | some e => excCtx c e (s.reg (ctxPc c)) (s.reg (ctxPc c)) s
    | none => s

/-- R133: STOP. A context stops exactly once. -/
def ctxStop (who : Who) (c : Nat) (s : State) : State :=
  if !s.bindWriter who then ignoredWrite who (R.KNC_CTX_CMD (c / 4) (c % 4)).off s
  else if s.ctxLive c then
    let (x, s) := freshWord s
    stopCtx c 1 Cause.halted (s.reg (ctxPc c)) x.toNat s
  else s

/-- R135: CLEAR zeroes g, v and p, sets RNG_STATE to 1 and TIMER to 0. -/
def ctxClear (who : Who) (c : Nat) (s : State) : State :=
  if !s.bindWriter who || !s.ctxHalted c then ignoredWrite who (R.KNC_CTX_CMD (c / 4) (c % 4)).off s
  else
    let s := zeroRegs ((List.range 32).map (ctxG c) ++ (List.range 8).map (ctxP c) ++
      (List.range 16).flatMap fun i => (List.range 8).map (ctxV c i)) s
    updCtx c (fun x => { x with rng := 1, timer := 0, parity := [] }) s

/-- R135: a write to KNC_CTX_CMD. STOP prevails over START. -/
def ctxCmdWrite (who : Who) (c val : Nat) (s : State) : State :=
  let s := if bitAt val 2 then ctxClear who c s else s
  if bitAt val 1 then ctxStop who c s
  else if bitAt val 0 then ctxStart who c s
  else s

/-- R135: zero every counter of a core. -/
def kncCntClear (k : Nat) (s : State) : State :=
  zeroRegs [R.KNC_CNT_ISSUE k, R.KNC_CNT_RQ_SAT k, R.KNC_CNT_ACC_SAT k, R.KNC_CNT_LUT_CLAMP k, R.KNC_CNT_ECC_CORR k,
    R.KNC_CNT_ECC_UNCORR k] s

/-- Set INTK_DEPTH from the intake FIFO. -/
def syncIntake (c : Nat) (s : State) : State :=
  setFld (ctxStat c) F.KNC_CTX_STAT_INTK_DEPTH (s.kc c).intake.length s

/-- R64: the queues a context owns, as MXE × 4 + queue. -/
def State.ownedQueues (s : State) (c : Nat) : List Nat :=
  ((List.range 12).map fun i => 12 * ctxCrew c + i).filter fun x =>
    s.qBound (x / 4) (x % 4) && s.fld (R.MXE_QCTL (x / 4) (x % 4)) F.MXE_QCTL_OWNER_CTX == c

/-- R133: what a function-level reset of its tenant does to a PRIV = 0 context. -/
def ctxFlr (c : Nat) (s : State) : State :=
  let s := if s.ctxLive c then
      let (x, s) := freshWord s
      stopCtx c 1 Cause.functionReset (s.reg (ctxPc c)) x.toNat s
    else s
  let s := updCtx c (fun x => { x with out := x.out.filterMap stopAcc, intake := [], unsent := [],
                                       errs := x.errs.filter fun e => e.dest.isNone }) s
  (s.ownedQueues c).foldl (fun s q => startCancel (q / 4) (q % 4) St.functionReset s) (syncIntake c s)

/-- R133: the PRIV = 0 contexts whose TENANT is `t`, bound or not, but for those that hold nothing and own no queue. -/
def State.tenantCtxs (s : State) (t : Nat) : List Nat :=
  (List.range 1024).filter fun c => !s.ctxPriv c && s.ctxTenant c == t &&
    (s.flag (ctxCtl c) F.KNC_CTX_CTL_VALID || (mapFind s.knc c).isSome || !(s.ownedQueues c).isEmpty)

/-! ### The frame of an instruction -/

/-- What an instruction does where it issues: it completes, it completes with a jump, it raises an exception with the
given EXCADDR (or one the spec does not give), it leaves the context waiting or stopped, or it cannot issue yet. -/
inductive Eff where
  | done (s : State)
  | jump (pc : Nat) (s : State)
  | exc (cause addr : Nat) (s : State)
  | excFree (cause : Nat) (s : State)
  | away (s : State)
  | hold

/-- The registers an instruction reads and writes; vector registers are numbered from 32. -/
structure Use where
  reads  : List Nat
  writes : List Nat

/-- The register an outstanding access will write. -/
def CtxAcc.dest (a : CtxAcc) : Option Nat :=
  match a.kind with
  | .load rd => if rd = 0 then none else some rd
  | .vload v _ => some (32 + v)
  | .amo _ rd _ _ => if rd = 0 then none else some rd
  | .store => none

/-- R103: the context runs, and no operand or destination is owed by an outstanding access. -/
def State.ctxReady (s : State) (c : Nat) (u : Use) : Bool :=
  s.computeOpen && s.crewUp (ctxCrew c) && s.ctxState c == 2 &&
    !(s.kc c).out.any fun a => match a.dest with
      | some d => u.reads.contains d || u.writes.contains d
      | none => false

/-- R131: the first held error whose destination the instruction reads. -/
def State.ctxErr (s : State) (c : Nat) (u : Use) : Option HeldErr :=
  (s.kc c).errs.find? fun e => match e.dest with
    | some d => u.reads.contains d
    | none => false

/-- R131: take a held error: the exception of the failing access. -/
def takeErr (c : Nat) (e : HeldErr) (s : State) : State :=
  let s := updCtx c (fun x => { x with errs := x.errs.filter (· != e) }) s
  excCtx c (if e.timeout then Cause.timeout else Cause.data) e.pc e.addr s

/-- R127: an instruction of the context has completed. -/
def retire (c pc : Nat) (s : State) : State :=
  setReg (ctxPc c) (pc % 2 ^ 64) (updCtx c (fun x => { x with instret := min counterMax (x.instret + 1) }) s)

/-- R103: the instruction at the context's PC issues. -/
def issue (c : Nat) (u : Use) (eff : State → Eff) (s : State) : State :=
  if !s.ctxReady c u then s
  else match s.fetchFault c with
  | some e => excCtx c e (s.reg (ctxPc c)) (s.reg (ctxPc c)) s
  | none =>
    match s.ctxErr c u with
    | some e => takeErr c e s
    | none =>
      if u.reads.any (s.kc c).parity.contains then excFree c Cause.data s
      else match eff (bump (R.KNC_CNT_ISSUE (coreOf c)) 1 s) with
        | .done t => retire c (s.reg (ctxPc c) + 4) t
        | .jump pc t => retire c pc t
        | .exc e a t => excCtx c e (s.reg (ctxPc c)) a t
        | .excFree e t => excFree c e t
        | .away t => t
        | .hold => s

end Sys2Proof.Machine
end

