-- ==== Sys2Proof/Machine/Hp0Ops.lean ====
section
/-! DEFINITION. HP0's shared operations: what a function may send (R279, R284), MSI-X (R274, R364), queue pairs and
their registers (R265 to R270, R275), tokens and completions (R271 to R276, R363 to R367). -/

namespace Sys2Proof.Machine

/-! ### Functions -/

/-- R415, R25: whether the part fetches from queues. -/
def State.fetches (s : State) : Bool := s.hostOpen && !s.mgmt.tripped && !s.mgmt.halved

/-- Change HP0's state. -/
def updHp0 (g : Hp0 → Hp0) (s : State) : State := { s with hp0 := g s.hp0 }
/-- Change the configuration of a function. -/
def updCfg (f : Nat) (g : FnCfg → FnCfg) (s : State) : State :=
  updHp0 (fun h => { h with cfg := mapPut h.cfg f (g (mapGet h.cfg f fnCfg0)) }) s

/-- Append to what has left the part. -/
def send (o : Out) (s : State) : State := { s with out := s.out ++ [o] }

/-- R279, R284: the part can send a host-space access that names the function. -/
def State.hostOk (s : State) (f : Nat) : Bool :=
  s.hp0Up && (s.fnCfg f).bme && s.fnExists f && !s.hp0.refused.contains f

/-- R278: neither attribute. -/
def OrderAttr.none : OrderAttr := ⟨false, false⟩

/-- R278: a memory write of a function that carries neither attribute. -/
def hostWrite (f a : Nat) (bs : List Byte) (s : State) : State := send (.hostWrite f a bs .none) s

/-- R260: a size field of Device Control, as bytes: 128 times two to its power, up to the largest the part takes. The VFs
follow PF0's (log 106). -/
def State.ctlSize (s : State) (hi lo most : Nat) : Nat := min most (128 * 2 ^ bitsOf (s.fnCfg 0).devCtl hi lo)
/-- R260: the largest payload of a request. -/
def State.maxPayload (s : State) : Nat := s.ctlSize 7 5 512
/-- R260: the largest read request. -/
def State.maxRead (s : State) : Nat := s.ctlSize 14 12 4096

/-- R260: the requests that a transfer of `n` bytes at host address `a` is cut into: at most `m` bytes each, none across
4 KiB; `fuel` bounds their number. -/
def hostPieces (m : Nat) : Nat → Nat → Nat → List (Nat × Nat)
  | 0, _, _ => []
  | k + 1, a, n =>
    if n = 0 then []
    else
      let j := min n (min m (4096 - a % 4096))
      (a, j) :: hostPieces m k (a + j) (n - j)

/-- R278: a tram's data writes carry Relaxed Ordering, where Device Control enables it. -/
def hostStream (f a : Nat) (bs : List Byte) (s : State) : State :=
  (hostPieces s.maxPayload bs.length a bs.length).foldl (fun s p =>
    send (.hostWrite f p.1 (sliceBytes bs (p.1 - a) p.2) ⟨bitAt (s.fnCfg f).devCtl 4, false⟩) s) s

/-- R260: the read requests of a transfer. -/
def hostReads (f a n : Nat) (s : State) : State :=
  (hostPieces s.maxRead n a n).foldl (fun s p => send (.hostRead f p.1 p.2) s) s

/-- R372, R386: an event of HP0 that concerns a function: a VF's tenant is its own. -/
def fnEvent (code f p0 p1 p2 : Nat) (s : State) : State :=
  if f = 0 then event code 0x0A 0 p0 p1 p2 0 s else tenantEvent code 0x0A f (f - 1) p0 p1 p2 0 s

/-! ### MSI-X -/

/-- A word of the MSI-X table: the address of a vector. -/
abbrev msixAddr (f v : Nat) : Reg := ⟨0x10008000 + f * 0x40000 + v * 16, 0⟩
/-- A word of the MSI-X table: data, and the vector control with its mask bit, which is set at reset (PRESUMED). -/
abbrev msixData (f v : Nat) : Reg := ⟨0x10008008 + f * 0x40000 + v * 16, 0x100000000⟩
/-- A word of the pending-bit array. -/
abbrev msixPba (f w : Nat) : Reg := ⟨0x10010000 + f * 0x40000 + w * 8, 0⟩

/-- Whether a vector is masked, alone or with its function. -/
def State.msixMasked (s : State) (f v : Nat) : Bool := (s.fnCfg f).fmask || bitAt (s.reg (msixData f v)) 32

/-- Set or clear the pending bit of a vector. -/
def setPending (f v b : Nat) (s : State) : State :=
  let r := msixPba f (v / 64)
  setReg r (setBits (s.reg r) (v % 64) (v % 64) b) s

/-- Emit the message of a vector, or set its pending bit while it is masked. -/
def emitMsix (f v : Nat) (s : State) : State :=
  if s.msixMasked f v then setPending f v 1 s
  else send (.msix f v (s.reg (msixAddr f v)) (s.reg (msixData f v) % 2 ^ 32) .none) s

/-- R364: the messages a VF may send in 100 µs; none: no limit. -/
def State.irqRate (s : State) (f : Nat) : Nat :=
  if f = 0 then 0 else s.fld (R.QOS_TEN_CTL (f - 1)) F.QOS_TEN_CTL_IRQ_RATE

/-- R364: the NCLK times of the messages a VF sent in the last 100 µs: each one's token returns after that time. -/
def State.irqSpent (s : State) (v : Nat) : List Nat :=
  (mapGet s.hp0.irqSpent v []).filter fun t => decide (s.nclk - t < usCycles 100)

/-- R364: the VF's bucket holds a token. -/
def State.irqToken (s : State) (f : Nat) : Bool :=
  s.irqRate f == 0 || decide ((s.irqSpent (f - 1)).length < s.irqRate f)

/-- R274, R364: send the MSI-X message of a vector, within the VF's bucket; one that cannot leave stays pending. Messages
of one vector that wait merge into one. -/
def sendMsix (f v : Nat) (s : State) : State :=
  if !(s.fnCfg f).msixEn then s
  else if !s.hostOk f then setPending f v 1 s
  else
    let wait := mapGet s.hp0.irqWait (f - 1) []
    if s.irqRate f = 0 ∨ s.msixMasked f v then emitMsix f v s
    else if s.irqToken f then
      emitMsix f v (updHp0 (fun h => { h with irqSpent := mapPut h.irqSpent (f - 1) (s.irqSpent (f - 1) ++ [s.nclk])
                                              irqWait := mapPut h.irqWait (f - 1) (wait.filter (· != v)) }) s)
    else
      let wait' := if wait.contains v then wait else wait ++ [v]
      bump (R.QOS_CNT_IRQ_DELAY (f - 1)) 1 (updHp0 (fun h => { h with irqWait := mapPut h.irqWait (f - 1) wait' }) s)

/-- The vectors of a function whose pending bit is set. -/
def State.pendingVectors (s : State) (f : Nat) : List Nat :=
  (List.range 32).flatMap fun w =>
    let v := s.reg (msixPba f w)
    if v = 0 then [] else ((List.range 64).filter (bitAt v)).map (64 * w + ·)

/-- Messages that were pending leave once nothing masks them. -/
def flushMsix (f : Nat) (s : State) : State :=
  if !(s.fnCfg f).msixEn then s
  else (s.pendingVectors f).foldl (fun s v =>
    if s.msixMasked f v || !s.hostOk f then s else sendMsix f v (setPending f v 0 s)) s

/-! ### Queue pairs -/

/-- The number of a queue pair in HP0's tables. -/
def qpKey (f q : Nat) : Nat := f * 1024 + q
/-- R265: queue pairs of a function. -/
def qpCount (f : Nat) : Nat := if f = 0 then 64 else 1024
/-- R265: the queue index of a pair. -/
def queueIndex (f q : Nat) : Nat := if f = 0 then q else 1024 * (f - 1) + q

/-- ENABLE of a pair. -/
def State.qpOn (s : State) (f q : Nat) : Bool := s.flag (R.HP0_QP_CFG f q) F.HP0_QP_CFG_ENABLE
/-- The field of a pair's STAT. -/
def State.qpStat (s : State) (f q : Nat) (x : Fld) : Nat := s.fld (R.HP0_QP_STAT f q) x
/-- Entries of the submission queue. -/
def State.sqSize (s : State) (f q : Nat) : Nat := s.fld (R.HP0_QP_CFG f q) F.HP0_QP_CFG_SQ_SIZE_M1 + 1
/-- Entries of the completion queue. -/
def State.cqSize (s : State) (f q : Nat) : Nat := s.fld (R.HP0_QP_CFG f q) F.HP0_QP_CFG_CQ_SIZE_M1 + 1
/-- CQ_HEAD of a pair. -/
def State.cqHead (s : State) (f q : Nat) : Nat := mapGet s.hp0.cqHead (qpKey f q) 0

/-- R266: who may write a queue-pair entry: the function that owns the page, PF0 and the foreman. -/
def State.fnWriter (s : State) (f : Nat) (who : Who) : Bool :=
  s.whoOpen who && match who with
  | .pf0 => true
  | .foreman _ => true
  | .vf v => f == 1 + v.val
  | _ => false

/-- R268, R271: the 42-bit command token. -/
def Token.value (t : Token) : Nat := queueIndex t.fn t.q * 2 ^ 24 + t.epoch * 2 ^ 16 + t.slot

/-- The TOKEN field of an entry or a notice. -/
def entryToken (bs : List Byte) : Nat := leAt bs 8 6 % 2 ^ 42

/-- R275, R276: an abort notice: the entry's first 16 bytes with NOTICE set, and zeros. -/
def noticeOf (t : Token) : List Byte :=
  let h := sliceBytes t.head 0 16
  h.set 1 ((h.getD 1 0) ||| 0x80) ++ List.replicate 48 0

/-- Whether an intake entry is an abort notice for a VF queue. -/
def isNotice (idx : Nat) (bs : List Byte) : Bool := bitAt (leAt bs 1 1) 7 && entryToken bs / 2 ^ 24 == idx

/-- R126: places of an intake FIFO. -/
def intakeDepth : Nat := 32

/-- Put an entry into a context's intake FIFO. -/
def pushIntake (c : Nat) (bs : List Byte) (s : State) : State :=
  syncIntake c (updCtx c (fun x => { x with intake := x.intake ++ [bs] }) s)

/-- R276: a notice waits for intake space and never displaces an entry. -/
def giveNotice (s : State) (t : Token) : State :=
  match t.ctx with
  | none => updHp0 (fun h => { h with admin := h.admin ++ [noticeOf t] }) s
  | some c =>
    if (s.kc c).intake.length < intakeDepth then pushIntake c (noticeOf t) s
    else updHp0 (fun h => { h with notices := h.notices ++ [t] }) s

/-- Give waiting notices the room that an intake now has. -/
def pushNotices (s : State) : State :=
  let ws := s.hp0.notices
  if ws.isEmpty then s else ws.foldl giveNotice (updHp0 (fun h => { h with notices := [] }) s)

/-- R363: a tenant's charge for commands in flight; it stops changing during a function-level reset. -/
def chargeInflight (f : Nat) (up : Bool) (s : State) : State :=
  if f = 0 ∨ s.hp0.resetting.contains f then s
  else
    let r := R.QOS_TEN_STAT (f - 1)
    setFld r F.QOS_TEN_STAT_CHARGE (if up then s.fld r F.QOS_TEN_STAT_CHARGE + 1 else s.fld r F.QOS_TEN_STAT_CHARGE - 1) s

/-- R272: a token leaves the in-flight set. -/
def dropToken (t : Token) (s : State) : State :=
  chargeInflight t.fn false (updHp0 (fun h => { h with tokens := h.tokens.filter (· != t) }) s)

/-- R273: the entry of a completion that the part makes itself. The spec states no RESULT for it (log 4). -/
def ownCompletion (t : Token) (status : Nat) (s : State) : State :=
  let (res, s) := freshBytes 8 s
  let e := res ++ sliceBytes t.head 14 2 ++ leBytes 2 0 ++ leBytes 1 status ++ leBytes 3 0
  updHp0 (fun h => { h with own := h.own ++ [{ tok := t, entry := e }] }) s

/-- R270: the route of a VF queue is valid. -/
def State.routeOk (s : State) (f q : Nat) : Bool :=
  let r := R.HP0_QROUTE (queueIndex f q)
  let c := s.fld r F.HP0_QROUTE_CTX
  s.flag r F.HP0_QROUTE_VALID && s.flag (ctxCtl c) F.KNC_CTX_CTL_VALID &&
    (s.ctxPriv c || s.ctxTenant c == f - 1)

/-- R270: a write to HP0_QROUTE. HELD clears when the route becomes valid, unless a read error holds the queue (R269). -/
def qrouteWrite (who : Who) (i val : Nat) (s : State) : State :=
  let r := R.HP0_QROUTE i
  if !s.privWriter who then ignoredWrite who r.off s
  else
    let s := setReg r (bitsOf val 10 0) s
    let f := 1 + i / 1024
    let q := i % 1024
    if s.routeOk f q && !s.hp0.heldErr.contains (qpKey f q) then setFld (R.HP0_QP_STAT f q) F.HP0_QP_STAT_HELD 0 s else s

/-- R266: a queue pair is initialised; its EPOCH steps. -/
def qpInit (f q : Nat) (s : State) : State :=
  let ep := (s.qpStat f q F.HP0_QP_STAT_EPOCH + 1) % 256
  let s := setReg (R.HP0_QP_STAT f q) (ep * 256 + 128) s
  let k := qpKey f q
  let s := updHp0 (fun h => { h with cqHead := mapErase h.cqHead k, coal := mapErase h.coal k,
                                     heldErr := h.heldErr.filter (· != k) }) s
  setFld (R.HP0_QP_CFG f q) F.HP0_QP_CFG_ENABLE 1 s

/-- R275: what a held enable waits for: notices not yet taken, and completions accepted and not yet written. -/
def State.qpBusy (s : State) (f q : Nat) : Bool :=
  let idx := queueIndex f q
  let mine (t : Token) : Bool := t.fn == f && t.q == q
  s.hp0.notices.any mine || (s.hp0.own.any fun c => mine c.tok) ||
    (f == 0 && s.hp0.admin.any (isNotice idx)) ||
    s.knc.any fun p => (p.2.unsent.any fun c => mine c.tok) || (f != 0 && p.2.intake.any (isNotice idx))

/-- R275: ENABLE goes from 1 to 0. -/
def qpDisable (f q : Nat) (s : State) : State :=
  let ts := s.hp0.tokens.filter fun t => t.fn == f && t.q == q
  let s := ts.foldl (fun s t => giveNotice (dropToken t s) t) s
  setFld (R.HP0_QP_CFG f q) F.HP0_QP_CFG_ENABLE 0 s

/-- R266, R275: a write to HP0_QP_CFG. -/
def qpCfgWrite (who : Who) (f q val : Nat) (s : State) : State :=
  let r := R.HP0_QP_CFG f q
  let on := s.qpOn f q
  let en := bitAt val 0
  if !s.fnWriter f who || q ≥ qpCount f then ignoredWrite who r.off s
  else if en && !on && (bitsOf val 63 48 == 0 || bitsOf val 47 32 == 0) then ignoredWrite who r.off s
  else if on then
    let s := if bitsOf val 63 5 != bitsOf (s.reg r) 63 5 then ignoredWrite who r.off s else s
    let s := setFld r F.HP0_QP_CFG_IEN (bitsOf val 4 4) s
    if en then s else qpDisable f q s
  else
    let s := setReg r (bitsOf val 63 4 * 16) s
    if !en then setFld (R.HP0_QP_STAT f q) F.HP0_QP_STAT_PENDING 0 s
    else if s.qpBusy f q then setFld (R.HP0_QP_STAT f q) F.HP0_QP_STAT_PENDING 1 s
    else qpInit f q s

/-- R266: a write to HP0_QP_SQ_BASE or HP0_QP_CQ_BASE. -/
def qpBaseWrite (who : Who) (f q : Nat) (r : Reg) (val : Nat) (s : State) : State :=
  if !s.fnWriter f who || q ≥ qpCount f || s.qpOn f q then ignoredWrite who r.off s else setReg r (val / 4096 * 4096) s

/-- R267: a write to BAR2. -/
def doorbell (f off width val : Nat) (s : State) : State :=
  let q := off / 16
  let drop := bump R.HP0_CNT_DB_DROP 1
  let idx := bitsOf val 15 0
  if !s.barOpen f then s
  else if width ≠ 8 ∨ off % 8 ≠ 0 ∨ q ≥ qpCount f then drop s
  else if !s.qpOn f q then drop s
  else if off % 16 = 0 then
    if idx ≥ s.sqSize f q then drop s
    else if bitsOf val 23 16 ≠ s.qpStat f q F.HP0_QP_STAT_EPOCH then bump R.HP0_CNT_STALE 1 s
    else
      let k := qpKey f q
      setFld (R.HP0_QP_STAT f q) F.HP0_QP_STAT_SQ_TAIL idx (updHp0 (fun h => { h with doorAt := mapPut h.doorAt k h.nextWin }) s)
  else
    let n := s.cqSize f q
    let h := s.cqHead f q
    if idx ≥ n ∨ (idx + n - h) % n > (s.qpStat f q F.HP0_QP_STAT_CQ_TAIL + n - h) % n then drop s
    else if bitsOf val 23 16 ≠ s.qpStat f q F.HP0_QP_STAT_EPOCH then bump R.HP0_CNT_STALE 1 s
    else updHp0 (fun x => { x with cqHead := mapPut x.cqHead (qpKey f q) idx }) s

/-! ### Completions -/

/-- R271, R272: the part takes a completion for a token: stale and duplicate ones are dropped and counted. -/
def acceptCompletion (c tokv : Nat) (entry : List Byte) (s : State) : State :=
  let idx := bitsOf tokv 41 24
  let f := 1 + idx / 1024
  let q := idx % 1024
  if bitsOf tokv 23 16 ≠ s.qpStat f q F.HP0_QP_STAT_EPOCH then bump R.HP0_CNT_STALE 1 s
  else match s.hp0.tokens.find? fun t => t.fn == f && t.value == tokv with
  | none => bump R.HP0_CNT_CMPL_DUP 1 s
  | some t => updCtx c (fun x => { x with unsent := x.unsent ++ [{ tok := t, entry := entry }] }) (dropToken t s)

/-- R366, R367: the monitors and the deadline test of a completion that is written. Admin queues have neither. -/
def noteWritten (t : Token) (s : State) : State :=
  if t.fn = 0 then s
  else
    let now := s.usec % 2 ^ 32
    let s := qosLatency (t.fn - 1) t.cls ((now + 2 ^ 32 - t.fetchUs) % 2 ^ 32) s
    match t.due with
    | some d =>
      if deadlineMissed now d then
        tenantEvent 0x0B03 0x0E 0 (t.fn - 1) (queueIndex t.fn t.q) t.cls d 0
          (bump (R.QOS_LAT_MISS (t.fn - 1) t.cls) 1 s)
      else s
    | none => s

/-- R274: the interrupt of a queue, once COAL_N completions are unsignalled; with neither limit, after every one. -/
def coalesce (f q : Nat) (s : State) : State :=
  let cfg := R.HP0_QP_CFG f q
  if !s.flag cfg F.HP0_QP_CFG_IEN then s
  else
    let n := s.fld cfg F.HP0_QP_CFG_COAL_N
    let t := s.fld cfg F.HP0_QP_CFG_COAL_T
    let k := qpKey f q
    let now := s.nclk
    let (cnt, first) := mapGet s.hp0.coal k (0, now)
    if (n = 0 ∧ t = 0) ∨ (n ≠ 0 ∧ cnt + 1 ≥ n) then
      sendMsix f (s.fld cfg F.HP0_QP_CFG_VECTOR) (updHp0 (fun h => { h with coal := mapErase h.coal k }) s)
    else updHp0 (fun h => { h with coal := mapPut h.coal k (cnt + 1, first) }) s

/-- R274: the completion queue has a free entry. -/
def State.cqRoom (s : State) (f q : Nat) : Bool :=
  (s.qpStat f q F.HP0_QP_STAT_CQ_TAIL + 1) % s.cqSize f q != s.cqHead f q

/-- R273, R274: write a completion at CQ_TAIL. -/
def writeCompletion (c : Cpl) (s : State) : State :=
  let f := c.tok.fn
  let q := c.tok.q
  let st := R.HP0_QP_STAT f q
  let tail := s.fld st F.HP0_QP_STAT_CQ_TAIL
  let ph := s.fld st F.HP0_QP_STAT_PHASE
  let e := sliceBytes c.entry 0 10 ++ leBytes 2 (s.fld st F.HP0_QP_STAT_SQ_HEAD) ++ sliceBytes c.entry 12 1 ++
    leBytes 1 ph ++ sliceBytes c.entry 14 2
  let s := hostWrite f (s.reg (R.HP0_QP_CQ_BASE f q) + 16 * tail) e s
  let last := decide (tail + 1 = s.cqSize f q)
  let s := setFld st F.HP0_QP_STAT_CQ_TAIL (if last then 0 else tail + 1) s
  let s := if last then setFld st F.HP0_QP_STAT_PHASE (1 - ph) s else s
  coalesce f q (noteWritten c.tok s)

/-- R276: a write to HP0_FN_ABORT. -/
def fnAbort (who : Who) (f tok : Nat) (s : State) : State :=
  if !s.fnWriter f who then ignoredWrite who (R.HP0_FN_ABORT f).off s
  else
    let tok := tok % 2 ^ 42
    let idx := bitsOf tok 41 24
    let st := R.HP0_FN_ABORT_STAT f
    let inFn := if f = 0 then decide (idx < 64) else idx / 1024 == f - 1
    let q := if f = 0 then idx else idx % 1024
    let done (res : Nat) (s : State) : State := setReg st (res * 2 ^ 56 + 2 ^ 55 + tok) s
    if !inFn || bitsOf tok 23 16 != s.qpStat f q F.HP0_QP_STAT_EPOCH then done St.badCommand s
    else match s.hp0.tokens.find? fun t => t.fn == f && t.value == tok with
    | none => done St.tooLate s
    | some t => done St.aborted (giveNotice (ownCompletion t St.aborted (dropToken t s)) t)

/-- R289: zero every counter of the block. -/
def hp0CntClear (who : Who) (s : State) : State :=
  if s.rootWriter who then
    zeroRegs [R.HP0_CNT_STALE, R.HP0_CNT_DB_DROP, R.HP0_CNT_CMPL_DUP, R.HP0_CNT_INTAKE_BAD, R.HP0_CNT_UR,
      R.HP0_CNT_CPL_ERR, R.HP0_CNT_POISON_TX, R.HP0_CNT_FLR] s
  else ignoredWrite who R.HP0_CNT_CLEAR.off s

/-! ### Peer windows (R286 to R288) -/

/-- R262: the size of a window. -/
def winSize (f : Nat) : Nat := if f = 0 then 2 ^ 30 else 2 ^ 26

/-- R287: a write to the shadow BASE. -/
def winBaseWrite (who : Who) (f w val : Nat) (s : State) : State :=
  let r := R.HP0_WIN_SHD_BASE f w
  if !s.privWriter who || s.flag (R.HP0_WIN_ACT_CTL f w) F.HP0_WIN_ACT_CTL_PENDING then ignoredWrite who r.off s
  else setReg r (val / 65536 * 65536) s

/-- R287: step 2: a shadow that can be committed. -/
def State.shadowOk (s : State) (f w : Nat) : Bool :=
  let c := R.HP0_WIN_SHD_CTL f w
  let b := s.reg (R.HP0_WIN_SHD_BASE f w)
  let n := s.fld c F.HP0_WIN_SHD_CTL_LIMIT * 65536
  !s.flag c F.HP0_WIN_SHD_CTL_VALID ||
    (n != 0 &&
      (match spaceOf b with
       | .t0 => decide (spaceOff b + n ≤ 2 ^ 30)
       | .t1 => decide (spaceOff b + n ≤ 2 ^ 40)
       | .t2 => decide (spaceOff b + n ≤ 2 ^ 43)
       | _ => false))

/-- R287: a write to the shadow CTL, with COMMIT in bit 3. -/
def winCtlWrite (who : Who) (f w val : Nat) (s : State) : State :=
  let r := R.HP0_WIN_SHD_CTL f w
  let act := R.HP0_WIN_ACT_CTL f w
  if !s.privWriter who || s.flag act F.HP0_WIN_ACT_CTL_PENDING || bitsOf val 31 17 * 65536 > winSize f then
    ignoredWrite who r.off s
  else
    let ep := s.fld r F.HP0_WIN_SHD_CTL_EPOCH
    let s := setReg r (ep * 2 ^ 40 + bitsOf val 31 17 * 2 ^ 17 + bitsOf val 2 0) s
    if !bitAt val 3 then s
    else if s.shadowOk f w then setFld act F.HP0_WIN_ACT_CTL_PENDING 1 s
    else ignoredWrite who r.off s

/-- R286: Advanced Error Reporting logs an Unsupported Request: its status bit, and the first request's header. -/
def logUnsupported (r : WinReq) (s : State) : State :=
  updCfg r.fn (fun c => { c with aer := { c.aer with
    status := setBits c.aer.status 20 20 1,
    header := if bitAt c.aer.status 20 || bitAt c.aer.mask 20 then c.aer.header else some (r.off, r.rid, r.tag) } }) s

/-- R286: a request that matches no window is dropped, logged, counted and recorded. -/
def unmatched (r : WinReq) (s : State) : State :=
  let s := logUnsupported r (if r.data.isNone then send (.hostReply r.rid r.tag none false) s else s)
  event 0x0802 0x0A r.fn r.fn r.off (r.off / 2 ^ 32) r.rid (bump R.HP0_CNT_UR 1 s)

/-- R286: a request decoded under the active window: the part address it reaches. -/
def State.winTarget (s : State) (r : WinReq) : Option Nat :=
  let w := r.off / winSize r.fn
  let o := r.off % winSize r.fn
  let c := R.HP0_WIN_ACT_CTL r.fn w
  let perm := if r.data.isNone then s.flag c F.HP0_WIN_ACT_CTL_RD else s.flag c F.HP0_WIN_ACT_CTL_WR
  let a := s.reg (R.HP0_WIN_ACT_BASE r.fn w) + o
  if s.flag c F.HP0_WIN_ACT_CTL_VALID && decide (o < s.fld c F.HP0_WIN_ACT_CTL_LIMIT * 65536) && perm &&
      s.barOpen r.fn && s.hostOpen && !s.mgmt.tripped && !s.poolTouched a r.len then some a
  else none

/-- R288: a poisoned completion. -/
def poisonReply (r : WinReq) (s : State) : State :=
  let s := send (.hostReply r.rid r.tag (some []) true) s
  event 0x0803 0x0A r.fn r.fn (r.off / winSize r.fn) r.off 0 (bump R.HP0_CNT_POISON_TX 1 s)

/-- R277: the posted writes that have no response: not yet performed, or held where they landed. -/
def State.hostPosted (s : State) : List WinReq :=
  (s.hp0.winWait.filter fun r => r.data.isSome) ++ s.hp0.winPosted.filter fun r => s.writeHeldBy (.host r.id)

/-- R277: a request may be performed now: a read after every earlier posted write; a write after each of them too, but for
the attributes it carries. -/
def State.winMayGo (s : State) (r : WinReq) : Bool :=
  let before := s.hostPosted.filter fun x => decide (x.id < r.id)
  if r.data.isNone then before.isEmpty
  else r.ro || before.all fun x => r.ido && x.rid != r.rid

/-- A request leaves the queue. -/
def winOut (r : WinReq) (s : State) : State := updHp0 (fun h => { h with winWait := h.winWait.filter fun x => x.id != r.id }) s

/-- R288: a request stays in the queue until its unit or channel answers. -/
def winPark (r : WinReq) (s : State) : State :=
  updHp0 (fun h => { h with winWait := h.winWait.map fun x => if x.id = r.id then { x with parked := true } else x }) s

/-- R277, R286, R288: perform a BAR4 request of the queue. A write whose response is held is remembered until it has it. -/
def winPerform (r : WinReq) (s : State) : State :=
  match s.winTarget r with
  | none => unmatched r (winOut r s)
  | some a =>
    match r.data with
    | none =>
      (match readRange (.host r.id) a r.len s with
       | (.ok bs, s) => send (.hostReply r.rid r.tag (some bs) false) (winOut r s)
       | (.held, s) => winPark r s
       | (.err _, s) => poisonReply r (winOut r s))
    | some bs =>
      (match writeRange (.host r.id) true a bs s with
       | (.stall, s) => winPark r s
       | (_, s) =>
         let s := winOut r s
         let open_ := s.hp0.winPosted.filter fun x => s.writeHeldBy (.host x.id)
         updHp0 (fun h => { h with winPosted := if s.writeHeldBy (.host r.id) then open_ ++ [r] else open_ }) s)

/-- R277: perform what the queue holds and may be performed, in order of arrival. -/
def winRun (s : State) : State :=
  s.hp0.winWait.foldl (fun s r =>
    match s.hp0.winWait.find? fun x => x.id == r.id with
    | some r => if r.held || r.parked || !s.winMayGo r then s else winPerform r s
    | none => s) s

/-- R286, R287: a BAR4 request arrives; one that follows a COMMIT is held. -/
def winArrive (r : WinReq) (s : State) : State :=
  let w := r.off / winSize r.fn
  let r := { r with id := s.hp0.nextWin, held := s.flag (R.HP0_WIN_ACT_CTL r.fn w) F.HP0_WIN_ACT_CTL_PENDING }
  winRun (updHp0 (fun h => { h with nextWin := h.nextWin + 1, winWait := h.winWait ++ [r] }) s)

/-- R288: parked requests are tried again. -/
def winServe (p : WinReq → Bool) (s : State) : State :=
  winRun (updHp0 (fun h => { h with winWait := h.winWait.map fun r => if p r then { r with parked := false } else r }) s)

/-- R277: every posted write that reached HP0 before the queue's doorbell has its response. -/
def State.doorClear (s : State) (f q : Nat) : Bool :=
  s.hostPosted.all fun x => decide (mapGet s.hp0.doorAt (qpKey f q) 0 ≤ x.id)

end Sys2Proof.Machine
end

