-- ==== Sys2Proof/Machine/Operands.lean ====
section
/-! DEFINITION. The operand forms of Idvoan-K: immediates and addresses (R113, R114, R116, R117), lanes and predicates
(R108, R117), scratch windows (R107), and the scalar and vector operations on them (R111, R118 to R122). -/

namespace Sys2Proof.Machine

/-! ### Immediates -/

/-- R113: sext(imm16). -/
def immS (i : BitVec 16) : Int := i.toInt
/-- R113: zext(imm16). -/
def immZ (i : BitVec 16) : Nat := i.toNat
/-- R116: 4 × sext(off21) from the PC. -/
def branchTo (pc : Nat) (off : BitVec 21) : Nat := wrapNat 64 ((pc : Int) + 4 * off.toInt)
/-- R114: ra + sext(imm16). -/
def addrI (base : Nat) (i : BitVec 16) : Nat := wrapNat 64 ((base : Int) + i.toInt)
/-- R117: ga + 64 × sext(disp14). -/
def addrV (base : Nat) (d : BitVec 14) : Nat := wrapNat 64 ((base : Int) + 64 * d.toInt)

/-! ### 64-bit arithmetic (R111, R112) -/

/-- The value of a 64-bit number, signed. -/
def s64 (x : Nat) : Int := sextNat 64 x
/-- An exact integer modulo 2^64. -/
def w64 (x : Int) : Nat := wrapNat 64 x
/-- Clamp to the signed range of `w` bits. -/
def clampBits (w : Nat) (x : Int) : Int :=
  let m : Int := ((2 ^ (w - 1) : Nat) : Int)
  if x > m - 1 then m - 1 else if x < -m then -m else x
/-- Leading zeros of a `w`-bit number. -/
def clzBits (w x : Nat) : Nat := if x % 2 ^ w = 0 then w else w - 1 - Nat.log2 (x % 2 ^ w)
/-- Trailing zeros of a `w`-bit number. -/
def ctzBits (w x : Nat) : Nat := ((List.range w).find? fun i => bitAt x i).getD w
/-- Set bits of a `w`-bit number. -/
def popBits (w x : Nat) : Nat := ((List.range w).filter fun i => bitAt x i).length
/-- R112: DIV truncates toward zero; by zero it gives all ones. -/
def divK (a b : Nat) : Nat := if b = 0 then ones64 else w64 (Int.tdiv (s64 a) (s64 b))
/-- R112: REM by zero gives ra. -/
def remK (a b : Nat) : Nat := if b = 0 then a else w64 (s64 a - s64 b * s64 (divK a b))
/-- R113: SHI: the shift of a kind by an amount. -/
def shiftK (kind amt a : Nat) : Nat :=
  match kind with
  | 0 => a * 2 ^ amt % 2 ^ 64
  | 1 => a / 2 ^ amt
  | _ => w64 (s64 a / ((2 ^ amt : Nat) : Int))
/-- R127: one step of the generator. -/
def rngStep (x : BitVec 64) : BitVec 64 :=
  let x := x ^^^ (x <<< 13)
  let x := x ^^^ (x >>> 7)
  x ^^^ (x <<< 17)

/-! ### Lanes and predicates (R108, R117) -/

/-- R108: bytes of a lane: 1, 2, 4 or 8 for ES 0 to 3. -/
def laneBytes (es : Nat) : Nat := 2 ^ es
/-- Lanes of a vector. -/
def laneCount (es : Nat) : Nat := 64 / laneBytes es
/-- The lanes of a vector, as unsigned numbers. -/
def lanesOf (es : Nat) (v : List Byte) : List Nat := (chunksOf (laneBytes es) v).map leNat
/-- A lane's signed value. -/
def laneS (es x : Nat) : Int := sextNat (8 * laneBytes es) x
/-- An exact integer narrowed to a lane. -/
def laneW (es : Nat) (x : Int) : Nat := wrapNat (8 * laneBytes es) x
/-- R108: a lane of size s bytes is active when bit s × lane of p is set. -/
def laneOn (es p i : Nat) : Bool := bitAt p (laneBytes es * i)
/-- The bytes of lanes. -/
def packLanes (es : Nat) (xs : List Nat) : List Byte := xs.flatMap (leBytes (laneBytes es))

/-- R117: results in the active lanes; the others keep their value or are zeroed. -/
def mergeLanes (es p : Nat) (zm : Bool) (old new : List Nat) : List Nat :=
  (List.range (laneCount es)).map fun i =>
    if laneOn es p i then new.getD i 0 else if zm then 0 else old.getD i 0

/-- The active lanes with their numbers, signed. -/
def activeLanes (es p : Nat) (v : List Byte) : List (Nat × Int) :=
  (((lanesOf es v).zipIdx.filter fun x => laneOn es p x.2)).map fun x => (x.2, laneS es x.1)

/-- R119: the bits of a predicate for lanes that satisfy a test. -/
def lanePred (es : Nat) (ls : List Bool) : Nat :=
  (ls.zipIdx.map fun x => if x.1 then (2 ^ laneBytes es - 1) * 2 ^ (laneBytes es * x.2) else 0).sum

/-- R119: the comparison CC of two signed lanes. -/
def compareCC (cc : Nat) (a b : Int) : Bool :=
  match cc with
  | 0 => a == b | 1 => a != b | 2 => decide (a < b) | 3 => decide (a ≤ b) | 4 => decide (a > b) | _ => decide (a ≥ b)

/-- R117: the bytes of a vector that a byte mask selects. -/
def maskBytes (mask : Nat) (old new : List Byte) : List Byte :=
  (List.range 64).map fun i => if bitAt mask i then new.getD i 0 else old.getD i 0

/-- R117: runs of active bytes: the first byte's number and the bytes. -/
def activeRuns (mask : Nat) (bs : List Byte) : List (Nat × List Byte) :=
  (bs.zipIdx.filter fun x => bitAt mask x.2).foldr (fun x acc =>
    match acc with
    | (k, r) :: t => if x.2 + 1 = k then (x.2, x.1 :: r) :: t else (x.2, [x.1]) :: acc
    | [] => [(x.2, [x.1])]) []

/-- R118: the inclusive prefix sum of the active lanes. -/
def prefixSums (es p : Nat) (xs : List Nat) : List Nat :=
  ((xs.zipIdx.foldl (fun (acc : List Nat × Nat) x =>
    let t := if laneOn es p x.2 then (acc.2 + x.1) % 2 ^ (8 * laneBytes es) else acc.2
    (t :: acc.1, t)) ([], 0)).1).reverse

/-- R118: lanes of half the width, from the lower or upper half of a vector, sign-extended. -/
def widen (es : Nat) (upper : Bool) (v : List Byte) : List Nat :=
  ((lanesOf (es - 1) v).drop (if upper then laneCount es else 0)).take (laneCount es) |>.map fun x =>
    laneW es (laneS (es - 1) x)

/-- R118: the four products of the signed bytes of two 32-bit lanes, summed. -/
def dot4 (a b : Nat) : Int :=
  ((List.range 4).map fun i => sextNat 8 (a / 256 ^ i) * sextNat 8 (b / 256 ^ i)).sum

/-- R120: the lowest lane number whose value no other lane betters. -/
def argBest (better : Int → Int → Bool) (ls : List (Nat × Int)) : Option (Nat × Int) :=
  ls.foldl (fun (b : Option (Nat × Int)) x =>
    match b with
    | none => some x
    | some y => if better x.2 y.2 then some x else b) none

/-! ### Scratch (R107) -/

/-- R107: the window of a context, in bytes. -/
def State.scrSize (s : State) (c : Nat) : Nat := s.fld (ctxCtl c) F.KNC_CTX_CTL_SCR_SIZE * 1024
/-- R107: the physical scratch byte of an offset, numbered over all cores. -/
def State.scrAddr (s : State) (c off : Nat) : Nat :=
  coreOf c * 2 ^ 18 + s.fld (ctxCtl c) F.KNC_CTX_CTL_SCR_BASE * 1024 + off
/-- R107: `n` bytes at an offset lie within the window. -/
def State.scrIn (s : State) (c off n : Nat) : Bool := decide (off + n ≤ s.scrSize c)

/-- The words of a scratch range that have flipped bits. -/
def State.scrBad (s : State) (a n : Nat) : List (Nat × Nat) :=
  s.cores.scrFlips.filter fun p => a / 8 ≤ p.1 && p.1 ≤ (a + n - 1) / 8

/-- R107: read scratch: single flips are corrected and counted; none where a word is uncorrectable. -/
def scrRead (c a n : Nat) (s : State) : Option (List Byte) × State :=
  let bad := s.scrBad a n
  let k := coreOf c
  let one := bad.filter fun p => p.2 == 1
  let two := bad.filter fun p => p.2 != 1
  let fl := s.cores.scrFlips.filter fun p => !one.contains p
  let s := if one.isEmpty then s
    else bump (R.KNC_CNT_ECC_CORR k) one.length { s with cores := { s.cores with scrFlips := fl } }
  if two.isEmpty then (some (memGets s.cores.scratch a n), s)
  else (none, bump (R.KNC_CNT_ECC_UNCORR k) two.length s)

/-- R107: write scratch: a word written whole is encoded anew. -/
def scrWrite (a : Nat) (bs : List Byte) (s : State) : State :=
  let fl := s.cores.scrFlips.filter fun p => !(decide (a ≤ 8 * p.1) && decide (8 * p.1 + 8 ≤ a + bs.length))
  let m := memPuts s.cores.scratch a bs
  { s with cores := { s.cores with scratch := m, scrFlips := fl } }

/-! ### The lookup unit (R122) -/

/-- LUTCFGt. -/
structure LutCfg where
  base  : Int
  frac  : Nat
  rnd   : Nat
  outsh : Nat
deriving DecidableEq, Repr

/-- R122: the configuration of a table. -/
def State.lutCfg (s : State) (k t : Nat) : LutCfg :=
  let r := R.KNC_LUTCFG k t
  { base := sextNat 32 (s.fld r F.KNC_LUTCFG_BASE), frac := s.fld r F.KNC_LUTCFG_FRAC,
    rnd := s.fld r F.KNC_LUTCFG_RND, outsh := s.fld r F.KNC_LUTCFG_OUTSH }

/-- R122: a table's entries; a table that was never loaded holds zeros (log 3). -/
def State.lutTab (s : State) (k t : Nat) : List Int := mapGet s.cores.luts (4 * k + t) (List.replicate 1024 0)

/-- R122: LUT on one lane, and whether it counts a clamp. -/
def lutLane (g : LutCfg) (e : List Int) (x : Int) : Int × Bool :=
  let out (y : Int) : Int := y * ((2 ^ g.outsh : Nat) : Int)
  let d := x - g.base
  if d < 0 then (out (e.getD 0 0), true)
  else
    let i := d.toNat / 2 ^ g.frac
    let f := d.toNat % 2 ^ g.frac
    if i ≥ 1023 then (out (e.getD 1023 0), decide (i > 1023) || decide (f > 0))
    else
      let delta := e.getD (i + 1) 0 - e.getD i 0
      (out (e.getD i 0 + requantCore (delta * (f : Int)) 1 g.frac g.rnd), false)

/-- R122: LUTN on one lane, and whether it counts a clamp. -/
def lutnLane (g : LutCfg) (e : List Int) (x : Int) : Int × Bool :=
  let j := requantCore (x - g.base) 1 g.frac g.rnd
  let k := if j < 0 then 0 else if j > 1023 then 1023 else j.toNat
  (e.getD k 0 * ((2 ^ g.outsh : Nat) : Int), decide (j < 0) || decide (j > 1023))

end Sys2Proof.Machine
end

