-- ==== Sys2Proof/Machine/CtxMem.lean ====
section
/-! DEFINITION. The part-address accesses of kneader contexts (R114, R115, R117, R129, R131): how an access is performed,
parked, answered and failed. -/

namespace Sys2Proof.Machine

/-- R115: the value an AMO stores, from the value read, rb, and rd on entry. -/
def amoNew (fn old rb cmp : Nat) : Nat :=
  match fn with
  | 0 => (old + rb) % 2 ^ 64
  | 1 => rb
  | 2 => if old = cmp then rb else old
  | 3 => if s64 old < s64 rb then rb else old
  | 4 => if s64 rb < s64 old then rb else old
  | 5 => old &&& rb
  | _ => old ||| rb

/-- R115: an AMO on 8 bytes of T0, T1, T2 or drift memory: the old bytes, held, or an error. -/
def memAmo (w : Waiter) (fn a rb cmp : Nat) (s : State) : Rd × State :=
  match readRange w a 8 s with
  | (.ok bs, s1) =>
    match writeRange w true a (leBytes 8 (amoNew fn (leNat bs) rb cmp)) s1 with
    | (.ok, s2) => (.ok bs, s2)
    | (.stall, _) => (.held, s)
    | (.err e, _) => (.err e, s)
  | r => r

/-- R131: an access has ended in an error, held for deferred reporting. A store or an AMO owes no register. -/
def accError (c : Nat) (a : CtxAcc) (timeout : Bool) (s : State) : State :=
  let dest := match a.kind with
    | .amo _ _ _ _ => none
    | _ => a.dest
  let e : HeldErr := { timeout, pc := a.pc, addr := a.addr, dest }
  updCtx c (fun x => { x with errs := x.errs ++ [e] }) s

/-- Replace the state of outstanding accesses. -/
def mapAcc (c : Nat) (f : CtxAcc → CtxAcc) (s : State) : State := updCtx c (fun x => { x with out := x.out.map f }) s

/-- What a retried access is now: performed, in error, or still held. -/
def retryAcc (c : Nat) (a : CtxAcc) (s : State) : CtxAcc × State :=
  if a.state ≠ .parked then (a, s)
  else
    let r := match a.kind with
      | .amo fn _ rb cmp => memAmo (.ctx c) fn a.addr rb cmp s
      | _ => readRange (.ctx c) a.addr a.size s
    match r with
    | (.ok bs, s) => ({ a with state := .ready bs }, s)
    | (.held, s) => (a, s)
    | (.err _, s) => ({ a with state := .failed }, s)

/-- R198: the held accesses of a context are performed once what held them has ended. -/
def ctxServe (c : Nat) (s : State) : State :=
  let (as, s) := (s.kc c).out.foldl (fun (p : List CtxAcc × State) a =>
    let (b, s) := retryAcc c a p.2
    (p.1 ++ [b], s)) ([], s)
  updCtx c (fun x => { x with out := as }) s

/-- R199: the held accesses of a context to a unit end in an error. -/
def ctxFailUnit (c : Nat) (k : UnitKey) (s : State) : State :=
  mapAcc c (fun a => if a.state = .parked ∧ (pagesOf a.addr a.size).any fun p => s.unitOf (p * 4096) == k
    then { a with state := .failed } else a) s

/-- R341: the reply to a context's drift request has come: with its payload, or in error. A load takes the bytes it asked
for out of the whole units that were read. -/
def ctxReply (c i : Nat) (r : Option (List Byte)) (s : State) : State :=
  let now (a : CtxAcc) : AccState :=
    match r, a.kind with
    | none, _ => .failed
    | some _, .store => .ready []
    | some bs, .amo _ _ _ _ => .ready bs
    | some bs, _ => .ready (sliceBytes bs (a.addr % 8) a.size)
  mapAcc c (fun a => if a.state = .remote i then { a with state := now a } else a) s

/-- R341: a context's drift request waits for the repair of the unit it names. -/
def ctxPark (c i : Nat) (s : State) : State :=
  mapAcc c (fun a => if a.state = .remote i then { a with state := .parked } else a) s

/-- R340: a context's drift request has had no reply. -/
def ctxNoReply (c i : Nat) (s : State) : State :=
  let late := (s.kc c).out.filter fun a => a.state == .remote i
  let s := updCtx c (fun x => { x with out := x.out.filter fun a => a.state != .remote i }) s
  late.foldl (fun s a => accError c a true s) s

/-- R20: an earlier access of the context to the same 4 KiB page of this part has had no response. -/
def respondsLater (as : List CtxAcc) (n : Nat) (a : CtxAcc) : Bool :=
  spaceOf a.addr != .drift && (as.take n).any fun b => b.addr / 4096 == a.addr / 4096

/-- R20, R131: the response to an outstanding access reaches its context. A store whose write is held has none yet (R196). -/
def ctxRespond (c n : Nat) (s : State) : State :=
  match (s.kc c).out[n]? with
  | none => s
  | some a =>
    if respondsLater (s.kc c).out n a then s
    else
    let drop (s : State) : State := updCtx c (fun x => { x with out := x.out.eraseIdx n }) s
    match a.state with
    | .failed => accError c a false (drop s)
    | .ready bs =>
      match a.kind with
      | .load rd => setG c rd (leNat bs) (drop s)
      | .vload v mask => setV c v (maskBytes mask (s.v c v) bs) (drop s)
      | .amo _ rd _ _ => setG c rd (leNat bs) (drop s)
      | .store =>
        if s.heldByOn (.ctx c) a.addr a.size then s else drop s
    | _ => s

/-- R131: NCLK cycles within which an access has a response. -/
def accLimit : Nat := 1800000

/-- R131: an outstanding access has had no response within 1 ms. -/
def ctxTimeout (c n : Nat) (s : State) : State :=
  match (s.kc c).out[n]? with
  | none => s
  | some a => if s.nclk < a.time + accLimit then s else accError c a true (updCtx c (fun x => { x with out := x.out.eraseIdx n }) s)

/-- R131: KNC_ACCESS_RESPONSE. -/
def execKncAccessResponse (c : Fin 1024) (n : Nat) (s : State) : Host.Outcome State Fault Refusal := .next (ctxRespond c n s)

/-- R131: KNC_ACCESS_TIMEOUT. -/
def execKncAccessTimeout (c : Fin 1024) (n : Nat) (s : State) : Host.Outcome State Fault Refusal := .next (ctxTimeout c n s)

end Sys2Proof.Machine
end

