-- ==== Sys2Proof/Machine/EngOps.lean ====
section
/-! DEFINITION. The engines' shared operations (R240 to R246, R257 to R259): registers, checked reads and writes, halts,
commands and aborts; and the hoist slots' resolutions (R190 to R193, R451). -/

namespace Sys2Proof.Machine

/-! ### Registers -/

/-- An engine before its first descriptor. -/
def eng0 : Eng := { desc := none, checked := false, block := none, halting := none, told := 0, acted := false, status := 0, detail := 0, next := 0, half := false, pos := 0, loops := [],
                    waitAt := none, abort := none, bufs := [], reply := none, failed := none, stage := 0 }
/-- An engine. -/
def State.eng (s : State) (e : Nat) : Eng := mapGet s.engs e eng0
/-- Change an engine. -/
def updEng (e : Nat) (f : Eng → Eng) (s : State) : State := { s with engs := mapPut s.engs e (f (s.eng e)) }

/-- A register of an engine's block (R259): the tram's, or the hoist's of the same name. -/
def engR (t h : Nat → Reg) (e : Nat) : Reg := if e < 320 then t e else h (e - 320)
/-- STAT of an engine. -/
abbrev engStat (e : Nat) : Reg := engR R.TRM_STAT R.HST_STAT e
/-- CUR of an engine. -/
abbrev engCur (e : Nat) : Reg := engR R.TRM_CUR R.HST_CUR e
/-- STATE: 0 idle, 1 running, 2 waiting, 3 halted, 4 aborting. -/
def State.engState (s : State) (e : Nat) : Nat := s.fld (engStat e) F.TRM_STAT_STATE
/-- Set STATE. -/
def setEngState (e v : Nat) (s : State) : State := setFld (engStat e) F.TRM_STAT_STATE v s
/-- The engine is bound. -/
def State.engValid (s : State) (e : Nat) : Bool := s.flag (engCtl e) F.TRM_CTL_VALID
/-- R373: KIND of an engine. -/
def engKind (e : Nat) : Nat := if e < 320 then 4 else 5
/-- R373: INSTANCE of an engine. -/
def engInst (e : Nat) : Nat := if e < 320 then e else e - 320
/-- R15: an H-die tram. -/
def hdieTram (e : Nat) : Bool := decide (256 ≤ e) && decide (e < 320)
/-- R15: the crew of a crew tram or hoist. -/
def engCrew (e : Nat) : Nat := if e < 256 then e / 4 else e - 320
/-- R28: the die is in service: 0 to 3 C0 to C3, 4 H0, 5 H1. -/
def State.dieUp (s : State) (d : Nat) : Bool := bitAt (s.fld R.FMN_TOPO_CAP F.FMN_TOPO_CAP_DIE_PRESENT) d

/-- R28, R429: the engine runs: the compute gate is open, and its crew or H-die is in service. -/
def State.engRuns (s : State) (e : Nat) : Bool :=
  s.computeOpen && !s.mgmt.tripped && (if hdieTram e then s.dieUp (if e < 288 then 4 else 5) else s.crewUp (engCrew e))

/-- R243, R246: the engine is at work: it runs, in a STATE, and no halt waits. -/
def State.engActive (s : State) (e st : Nat) : Bool := s.engRuns e && s.engState e == st && (s.eng e).halting.isNone

/-! ### The descriptor (R241) -/

/-- The fetched descriptor. -/
def State.engDesc (s : State) (e : Nat) : List Byte := ((s.eng e).desc).getD []
/-- A field of a descriptor. -/
def dsc (d : List Byte) (off n : Nat) : Nat := leAt d off n
/-- OP. -/
def dOp (d : List Byte) : Nat := dsc d 0 1
/-- LEN. -/
def dLen (d : List Byte) : Nat := dsc d 4 4
/-- INT_HALF, INT_FULL and USE_OFF. -/
def dFlag (d : List Byte) (i : Nat) : Bool := bitAt (dsc d 2 1) i
/-- SRC_SPACE. -/
def dSrcSpace (d : List Byte) : Nat := bitsOf (dsc d 3 1) 5 4
/-- DST_SPACE. -/
def dDstSpace (d : List Byte) : Nat := bitsOf (dsc d 3 1) 7 6
/-- SWAP. -/
def dSwap (d : List Byte) : Nat := bitsOf (dsc d 3 1) 3 0
/-- FUNCTION; the spec names none for a pass with a host side (log 102). -/
def dFunction (d : List Byte) : Nat :=
  if dOp d ≤ 3 then dsc d 44 2 % 512 else Config.passFunction (dOp d) % 257

/-- R247: SRC, with SOFF when USE_OFF is 1. -/
def State.dSrc (s : State) (e : Nat) (d : List Byte) : Nat :=
  (dsc d 8 8 + if dFlag d 2 then s.reg (engR R.TRM_SOFF R.HST_SOFF e) else 0) % 2 ^ 64
/-- R247: DST, with DOFF when USE_OFF is 1. -/
def State.dDst (s : State) (e : Nat) (d : List Byte) : Nat :=
  (dsc d 16 8 + if dFlag d 2 then s.reg (engR R.TRM_DOFF R.HST_DOFF e) else 0) % 2 ^ 64

/-! ### Status codes of R242 -/

/-- R242: BUS_ERROR. -/
abbrev St.busError : Nat := 0x80
/-- R242: WAIT_TIMEOUT. -/
abbrev St.engWaitTimeout : Nat := 0x81
/-- R242: COMPARE_MISMATCH. -/
abbrev St.compareMismatch : Nat := 0x82

/-! ### Checked accesses -/

/-- How far an engine's access may reach (R245): a data read or write, or another access. -/
inductive Reach where
  | dataRead | dataWrite | other
deriving DecidableEq, Repr

/-- R240, R245, R27: the access is refused. `need` holds the region bits required. H-die trams and hoists do not reach
drift. -/
def State.engRefused (s : State) (e a n need : Nat) (k : Reach) : Bool :=
  let hoist := decide (320 ≤ e)
  let sp := spaceOf a
  let inSlice := sp == .t0 && (spaceOff a / 2 ^ 24 == engCrew e) && ((spaceOff a + n - 1) / 2 ^ 24 == engCrew e)
  (s.engUser e && !s.rgnOk (s.engOwner e) a n need) ||
    sp == .control || sp == .reserved || (sp == .drift && decide (256 ≤ e)) ||
    (hoist && k == .dataRead && !(sp == .t1 || sp == .t2)) ||
    (hoist && k == .dataWrite && !inSlice)

/-- The pieces of a range within 4 KiB pages. -/
def pageSpans (a n : Nat) : List (Nat × Nat) :=
  (pagesOf a n).map fun p => let lo := max a (p * 4096); (lo, min (a + n) ((p + 1) * 4096) - lo)

/-- The first page of a range at which an engine's access is refused. -/
def State.engRefusedAt (s : State) (e a n need : Nat) (k : Reach) : Option Nat :=
  ((pageSpans a n).find? fun p => s.engRefused e p.1 p.2 need k).map (·.1)

/-- The answer to an engine's access: done, not yet, or failed with a status at an address. -/
inductive EAns (α : Type) where
  | ok (x : α)
  | wait
  | fail (status addr : Nat)
deriving DecidableEq, Repr

/-- R199, R206, R245: the status that a failed access gives. -/
def errStatus : AccErr → Nat
  | .address => St.busError
  | .data => St.objectLost
  | .revoked => St.revoked
  | .unreachable => St.unreachable

/-- Forget that a held read failed, and what repairs have given of reads that are no more. -/
def clearFailed (w : Waiter) (s : State) : State :=
  { s with ms := { s.ms with failed := s.ms.failed.filter (· != w), given := s.ms.given.filter fun g => g.who != w } }

/-- The pieces of `n` bytes of 64 bytes each, by offset. -/
def piecesOf (n : Nat) : List (Nat × Nat) := (List.range ((n + 63) / 64)).map fun i => (64 * i, min 64 (n - 64 * i))

/-- Whether a read is answered with an error. -/
def Rd.failed : Rd → Bool
  | .err _ => true
  | _ => false

/-- Whether a write is answered with an error. -/
def Wr.failed : Wr → Bool
  | .err _ => true
  | _ => false

/-- R245: the engine is the pool unit's, and may touch what the pool reserves; no codec pass may (R136). -/
def State.engPool (s : State) (e : Nat) : Bool := s.engOwnerKind e == 2 && dOp (s.engDesc e) != 0x10

/-- Where a read of a range first fails, by pieces of 64 bytes. -/
def State.readFailsAt (s : State) (pool : Bool) (w : Waiter) (a n : Nat) : Nat :=
  (((piecesOf n).find? fun p => (readRangeBy pool w (a + p.1) p.2 s).1.failed).map fun p => a + p.1).getD a

/-- Where a write of a range first fails, by pieces of 64 bytes. -/
def State.writeFailsAt (s : State) (pool : Bool) (a : Nat) (bs : List Byte) : Nat :=
  (((piecesOf bs.length).find? fun p => (writeRangeBy pool .outside true (a + p.1) ((bs.drop p.1).take p.2) s).1.failed).map
    fun p => a + p.1).getD a

/-- R338: one drift read, of at most 512 bytes within a page. -/
def engDriftRead (e a n : Nat) (s : State) : EAns (List Byte) × State :=
  match s.driftCheck false a n with
  | some err => (.fail (errStatus err) a, s)
  | none =>
    let x := s.eng e
    match x.failed, x.reply with
    | some st, _ => (.fail st.1 st.2, updEng e (fun x => { x with failed := none }) s)
    | none, some bs => (.ok (sliceBytes bs (a % 8) n), updEng e (fun x => { x with reply := none }) s)
    | none, none =>
      if (s.rcvOf (s.unitOf a)).isSome then (.wait, s)
      else if s.fabBusy (.engine e) (· == 1) then (.wait, s)
      else match fabSend (.engine e) 1 0 (a / 8 * 8) ((a % 8 + n + 7) / 8 * 8) [] s with
      | some (_, s) => (.wait, s)
      | none => (.wait, s)

/-- A checked read of part memory by an engine. A held read is issued again until its repair ends. -/
def engRead (e a n : Nat) (k : Reach) (s : State) : EAns (List Byte) × State :=
  if n = 0 then (.ok [], s)
  else match s.engRefusedAt e a n 2 k with
  | some x => (.fail St.busError x, s)
  | none =>
    if s.ms.failed.contains (.engine e) then (.fail St.objectLost a, clearFailed (.engine e) s)
    else if spaceOf a == .drift then engDriftRead e a n s
    else match readRangeBy (s.engPool e) (.engine e) a n s with
    | (.ok bs, s) => (.ok bs, s)
    | (.held, s) => (.wait, s)
    | (.err x, t) => (.fail (errStatus x) (s.readFailsAt (s.engPool e) (.engine e) a n), t)

/-- Gather a whole range, piece by piece where it is drift memory. -/
def engGather (e side a n : Nat) (k : Reach) (s : State) : EAns (List Byte) × State :=
  if spaceOf a != .drift then engRead e a n k s
  else
    let have_ := mapGet (s.eng e).bufs side []
    if have_.length ≥ n then (.ok (have_.take n), s)
    else
      let x := a + have_.length
      let m := min (n - have_.length) (512 - x % 512)
      match engRead e x m k s with
      | (.ok bs, s) =>
        let all := have_ ++ bs
        let s := updEng e (fun y => { y with bufs := mapPut y.bufs side all }) s
        (if all.length ≥ n then .ok (all.take n) else .wait, s)
      | (.wait, s) => (.wait, s)
      | (.fail st x, s) => (.fail st x, s)

/-- A checked write of part memory by an engine. R395: a foreman's engine writes only while the gate is open. -/
def engWrite (e a : Nat) (bs : List Byte) (k : Reach) (s : State) : EAns Unit × State :=
  let n := bs.length
  if n = 0 then (.ok (), s)
  else match s.engRefusedAt e a n 4 k with
  | some x => (.fail St.busError x, s)
  | none =>
    if s.engOwnerKind e == 3 && !s.leads then (.ok (), bump R.FMN_CNT_GATED 1 s)
    else if spaceOf a == .drift then
      match driftPut (.engine e) true a bs s with
      | (.ok, _, s) => (.ok (), s)
      | (.stall, _, s) => (.wait, s)
      | (.err x, _, s) => (.fail (errStatus x) a, s)
    else match writeRangeBy (s.engPool e) (.engine e) true a bs s with
    | (.ok, s) => (.ok (), s)
    | (.stall, s) => (.wait, s)
    | (.err x, t) => (.fail (errStatus x) (s.writeFailsAt (s.engPool e) a bs), t)

/-- Bytes of the next drift piece: whole aligned units within 512 bytes, or the part of one unit. -/
def driftPiece (a n : Nat) : Nat :=
  if a % 8 = 0 ∧ 8 ≤ n then min (n / 8 * 8) (512 - a % 512) else min n (8 - a % 8)

/-- Scatter bytes to a range, piece by piece where it is drift memory; `pos` counts what has been written. -/
def engScatter (e a : Nat) (bs : List Byte) (k : Reach) (s : State) : EAns Unit × State :=
  if spaceOf a != .drift then engWrite e a bs k s
  else
    let p := (s.eng e).pos
    match (s.eng e).failed with
    | some st => (.fail st.1 st.2, updEng e (fun x => { x with failed := none }) s)
    | none =>
      if p ≥ bs.length then (.ok (), s)
      else
        let m := driftPiece (a + p) (bs.length - p)
        match engWrite e (a + p) ((bs.drop p).take m) k s with
        | (.ok _, s) =>
          (if p + m ≥ bs.length then .ok () else .wait, updEng e (fun x => { x with pos := p + m }) s)
        | (.wait, s) => (.wait, s)
        | (.fail st x, s) => (.fail st x, s)

/-- R279: the engine's host-space accesses that name a function can be sent. -/
def State.engHostOk (s : State) (d : List Byte) : Bool := s.hostOk (dFunction d) && decide (dFunction d ≤ 256)

/-! ### Ends of a descriptor -/

/-- Forget the working state of the descriptor that has ended. -/
def engIdleWork (e : Nat) (s : State) : State :=
  updEng e (fun x => { x with desc := none, checked := false, block := none, halting := none, told := 0, acted := false, status := 0, detail := 0, half := false, pos := 0,
                              waitAt := none, abort := none, bufs := [], reply := none, failed := none, stage := 0 }) s

/-- R242: the eight bytes of a STATUS word. -/
def statusWord (status detail : Nat) : List Byte := leBytes 1 status ++ leBytes 1 0x80 ++ leBytes 2 0 ++ leBytes 4 detail

/-- R243: write the STATUS word of the current descriptor. -/
def putStatus (e status detail : Nat) (s : State) : EAns Unit × State :=
  engWrite e (s.reg (engCur e) + 56) (statusWord status detail) .other s

/-- R190: the halt of an LFILL whose fill has started, so that its next run is a resume. -/
def noteFillHalt (e : Nat) (s : State) : State :=
  let d := s.engDesc e
  if e < 320 ∨ dOp d ≠ 0x40 ∨ (s.eng e).stage = 0 then s
  else
    let k := (e - 320) * 16 + dsc d 44 1 % 16
    match mapFind s.slots k with
    | some x =>
      let sl := mapPut s.slots k { x with halted := true }
      { s with slots := sl }
    | none => s

/-- R246, R250: writes of the engine have no response yet: in flight over the fabric, or held. -/
def State.engWritesOut (s : State) (e : Nat) : Bool :=
  s.fabBusy (.engine e) (fun t => t == 2 || t == 3 || t == 4) || s.writeHeldBy (.engine e) ||
    (decide (320 ≤ e) && (List.range 16).any fun k => s.writeHeldBy (.fill (e - 320) k))

/-- R246, steps 3 and 5: the STATUS word is written. -/
def engHalted (e status dir addr : Nat) (s : State) : State :=
  let s := noteFillHalt e s
  let st := engStat e
  let s := setReg (engR R.TRM_ERR_ADDR R.HST_ERR_ADDR e) addr s
  let s := setFld st F.TRM_STAT_ERR_DIR dir (setFld st F.TRM_STAT_HALT_STATUS status (setEngState e 3 s))
  let s := bump (engR R.TRM_CNT_DESC R.HST_CNT_DESC e) 1 (bump (engR R.TRM_CNT_HALT R.HST_CNT_HALT e) 1 s)
  let s := updEng e (fun x => { x with waitAt := none, bufs := [], reply := none, failed := none, pos := 0, halting := none, told := 0 }) s
  tenantEvent 0x0701 (engKind e) (engInst e) (s.engTenant e) (packSource (engKind e) (engInst e)) status addr
    (addr / 2 ^ 32) s

/-- R246: the engine halts: `dir` 0 none, 1 read, 2 write, 3 descriptor fetch. Reads in flight are given up; the halt waits
for the responses to the writes already issued, and until its STATUS write can be made. -/
def engHaltAt (e status detail dir addr : Nat) (s : State) : State :=
  let s := disownFab (.engine e) (disownReads (.engine e) s)
  let wait (s : State) : State := updEng e (fun x => { x with halting := some ⟨status, detail, dir, addr⟩, reply := none }) s
  if s.engWritesOut e then wait s
  else match putStatus e status detail s with
  | (.wait, _) => wait s
  | (_, s) => engHalted e status dir addr s

/-- A halt that no access caused: the spec states no ERR_ADDR for it (log 4). -/
def engHalt (e status detail : Nat) (s : State) : State :=
  let (x, s) := freshWord s
  engHaltAt e status detail 0 x.toNat s

/-- The descriptor's effect is done: it will complete with a status once its writes have their responses. -/
def engActed (e status detail next : Nat) (s : State) : State :=
  updEng e (fun x => { x with acted := true, status, detail, next }) s

/-! ### Hoist slots (R190 to R193, R451) -/

/-- R451, R190: a T0 copy, with the standby's index table and frame area, lies within the crew's own slice. -/
def State.standbyInSlice (s : State) (h : Nat) (o : ObjEntry) (sbyIdx sbyArea tiles : Nat) : Bool :=
  let us := (s.objIn o 0).units
  us.all (fun a => spaceOf a == .t0 && a / sliceSize == h) && decide (sbyIdx + 8 * tiles ≤ 4096 * us.length) &&
    decide (sbyArea ≤ 4096 * us.length)

/-- R451: the standby copy of a slot is resident. -/
def State.standbyResident (s : State) (h : Nat) (d : HSlot) : Bool :=
  let o := s.obj (handleIndex d.standby)
  s.handleOk d.standby && o.state == objLive && o.holds 0 && s.standbyInSlice h o d.sbyIdx d.sbyArea d.tiles

/-- R256: the LFILL of a slot whose fill has ended will complete with the slot's outcome. -/
def lfillOutcome (h slot : Nat) (s : State) : State :=
  let e := 320 + h
  let d := s.engDesc e
  let st := s.slotState h slot
  let status := if st = slotStandby then St.degraded else if st = slotLost then St.objectLost else St.ok
  if dOp d = 0x40 ∧ dsc d 44 1 % 16 = slot then engActed e status (s.slotLayer h slot) (dsc d 24 8) s else s

/-- The fill of a slot has ended; a STANDBY slot whose releases are complete is then empty. -/
def fillEnded (h slot : Nat) (s : State) : State :=
  let r := R.HST_SLOT_STAT h slot
  let s := lfillOutcome h slot (setFld r F.HST_SLOT_STAT_FILL_DONE 1 (clearFailed (.fill h slot) s))
  match mapFind s.slots (h * 16 + slot) with
  | some d =>
    if s.slotState h slot = slotStandby ∧ d.releases ≤ s.fld r F.HST_SLOT_STAT_RELEASED then emptySlot h slot s else s
  | none => s

/-- R193: the slot resolves STANDBY; a fill that has read nothing fetches nothing. -/
def resolveStandby (h slot : Nat) (d : HSlot) (s : State) : State :=
  let s := setFld (R.HST_SLOT_STAT h slot) F.HST_SLOT_STAT_STATE slotStandby s
  let s := bump (R.HST_CNT_STANDBY h) 1 s
  let s := tenantEvent 0x0503 5 h (s.engTenant (320 + h)) h slot (s.slotLayer h slot) 0 s
  if d.reading then s else fillEnded h slot s

/-- R193: PRIMARY is lost or stale while the slot fills. -/
def slotLoss (h slot : Nat) (s : State) : State :=
  match mapFind s.slots (h * 16 + slot) with
  | none => s
  | some d =>
    if s.slotState h slot ≠ slotFilling then s
    else if d.policy = 1 ∧ s.standbyResident h d then resolveStandby h slot d s
    else
      let s := setFld (R.HST_SLOT_STAT h slot) F.HST_SLOT_STAT_STATE slotLost s
      fillEnded h slot (bump (R.HST_CNT_LOST h) 1 s)

/-- R192: the deadline of a slot has passed. -/
def State.deadlinePassed (s : State) (d : HSlot) : Bool :=
  d.deadline != 0 && decide (d.mark + d.deadline ≤ s.nclk)

/-- R192, R193: the layer misses its deadline, once. -/
def missDeadline (h slot : Nat) (s : State) : State :=
  match mapFind s.slots (h * 16 + slot) with
  | none => s
  | some d =>
    if s.slotState h slot ≠ slotFilling ∨ d.missed ∨ !s.deadlinePassed d then s
    else
      let put (s : State) : State :=
        let sl := mapPut s.slots (h * 16 + slot) { d with missed := true }
        { s with slots := sl }
      let s := put (bump (R.HST_CNT_MISS h) 1 s)
      if d.policy ≠ 1 then s
      else if s.standbyResident h d then resolveStandby h slot d s
      else
        tenantEvent 0x0504 5 h (s.engTenant (320 + h)) h slot (s.slotLayer h slot) 0 (bump (R.HST_CNT_ABSENT h) 1 s)

/-- R190, R257: a fill is cut short: an unresolved slot becomes EMPTY and keeps its layer number. -/
def cutFill (e : Nat) (d : List Byte) (s : State) : State :=
  if e < 320 ∨ dOp d ≠ 0x40 then s
  else
    let h := e - 320
    let slot := dsc d 44 1 % 16
    match mapFind s.slots (h * 16 + slot) with
    | none => s
    | some x =>
      if s.slotState h slot = slotFilling then emptySlot h slot s
      else
        let sl := mapPut s.slots (h * 16 + slot) { x with halted := false }
        fillEnded h slot { s with slots := sl }

/-- R191: DISCARD of a slot: ignored while it fills. -/
def slotDiscard (who : Who) (h slot : Nat) (s : State) : State :=
  if !s.privWriter who || s.slotState h slot == slotFilling then ignoredWrite who (R.HST_SLOT_STAT h slot).off s
  else
    -- R193: a fill that still runs for a slot resolved STANDBY serves nothing; it ends with the slot's outcome
    let runs : Bool := s.slotState h slot == slotStandby && !s.flag (R.HST_SLOT_STAT h slot) F.HST_SLOT_STAT_FILL_DONE &&
      s.engState (320 + h) != 3
    pumpCrew h (dropViews h slot (emptySlot h slot (if runs then fillEnded h slot s else s)))

/-- R209: a write to HST_SLOT_CFG. -/
def slotCfgWrite (who : Who) (h slot val : Nat) (s : State) : State :=
  let r := R.HST_SLOT_CFG h slot
  let base := bitsOf val 23 0
  let size := bitsOf val 47 24
  if !s.privWriter who || s.slotState h slot != slotEmpty || base % 4096 != 0 || size % 4096 != 0 ||
      decide (base + size > sliceSize) then ignoredWrite who r.off s
  else setReg r (bitsOf val 47 0) s

/-! ### Commands (R246, R257 to R259) -/

/-- R257: loop state and offsets are cleared, and the engine is idle. -/
def engToIdle (e : Nat) (s : State) : State :=
  let s := setReg (engR R.TRM_SOFF R.HST_SOFF e) 0 (setReg (engR R.TRM_DOFF R.HST_DOFF e) 0 s)
  let s := setFld (engStat e) F.TRM_STAT_LOOPS 0 (setEngState e 0 s)
  engIdleWork e (disownFab (.engine e) (disownReads (.engine e) (updEng e (fun x => { x with loops := [] }) s)))

/-- R257, R258: an abort is taken; `status` is ABORTED or FUNCTION_RESET. -/
def engAbort (e status : Nat) (s : State) : State :=
  let res (v : Nat) := setFld (engStat e) F.TRM_STAT_ABORT_RESULT v
  match s.engState e with
  | 0 =>
    if status = St.functionReset then s
    else bump (engR R.TRM_CNT_TOO_LATE R.HST_CNT_TOO_LATE e) 1 (res St.tooLate s)
  | 3 => bump (engR R.TRM_CNT_ABORT R.HST_CNT_ABORT e) 1 (engToIdle e (cutFill e (s.engDesc e) (res status s)))
  | 4 => s
  | _ =>
    let s := disownFab (.engine e) (disownReads (.engine e) s)
    setEngState e 4 (res status (updEng e (fun x => { x with abort := some status, reply := none, halting := none }) s))

/-- R240: who may write HEAD and CMD: the owner, the foreman and PRIV = 1 contexts. -/
def State.engMayCmd (s : State) (who : Who) (e : Nat) : Bool :=
  s.whoOpen who && match who with
  | .foreman _ => true
  | .ctx c => s.ctxPriv c || (s.engValid e && s.engOwnerKind e == 0 && s.engOwner e == c.val)
  | _ => false

/-- The address of CMD, for events. -/
def engCmdOff (e : Nat) : Nat := (engR R.TRM_CMD R.HST_CMD e).off

/-- R259: GO runs an idle bound engine's chain from HEAD. -/
def engGo (who : Who) (e : Nat) (s : State) : State :=
  if s.engState e ≠ 0 ∨ !s.engValid e ∨ !s.engRuns e then ignoredWrite who (engCmdOff e) s
  else setEngState e 1 (engIdleWork e (setReg (engCur e) (s.reg (engR R.TRM_HEAD R.HST_HEAD e)) s))

/-- R246: RESUME runs the halted descriptor again from its first byte. -/
def engResume (who : Who) (e : Nat) (s : State) : State :=
  if s.engState e ≠ 3 then ignoredWrite who (engCmdOff e) s else setEngState e 1 (engIdleWork e s)

/-- R246: SKIP leaves the halt status and continues at NEXT; a halted fill ends (R190). -/
def engSkip (who : Who) (e : Nat) (s : State) : State :=
  if s.engState e ≠ 3 then ignoredWrite who (engCmdOff e) s
  else
    let d := s.engDesc e
    let next := dsc d 24 8
    let s := engIdleWork e (cutFill e d s)
    if next = 0 then setEngState e 0 s else setEngState e 1 (setReg (engCur e) next s)

/-- R246, R259: a write to CMD. ABORT prevails over every other bit; each other bit is taken, or ignored with its event,
by the state that the write finds. Of RESUME and SKIP in one write, RESUME is taken (log 101). -/
def engCmdWrite (who : Who) (e val : Nat) (s : State) : State :=
  let st := s.engState e
  let bit (k : Nat) (ok : Bool) (f : State → State) (s : State) : State :=
    if !bitAt val k then s else if ok then f s else ignoredWrite who (engCmdOff e) s
  if !s.engMayCmd who e then ignoredWrite who (engCmdOff e) s
  else if bitAt val 1 then (if st = 4 then ignoredWrite who (engCmdOff e) s else engAbort e St.aborted s)
  else bit 0 (st == 0) (engGo who e) (bit 3 (st == 3 && !bitAt val 2) (engSkip who e) (bit 2 (st == 3) (engResume who e) s))

/-- R259: a write to CTL, only while the engine is idle. -/
def engCtlWrite (who : Who) (e val : Nat) (s : State) : State :=
  let r := engCtl e
  let kind := bitsOf val 41 40
  let canTake := if e < 256 then kind == 0 || kind == 3
    else if e < 288 then kind != 2
    else if e < 320 then true
    else kind == 0 || kind == 3
  if !s.bindWriter who || s.engState e != 0 || !canTake then ignoredWrite who r.off s
  else setReg r (bitsOf val 63 46 * 2 ^ 46 + kind * 2 ^ 40 + bitsOf val 0 0) s

/-- R259: a write to HEAD, only while the engine is idle. -/
def engHeadWrite (who : Who) (e val : Nat) (s : State) : State :=
  let r := engR R.TRM_HEAD R.HST_HEAD e
  if !s.engMayCmd who e || s.engState e != 0 then ignoredWrite who r.off s else setReg r (val / 64 * 64) s

/-- R259: a write to HST_LAYER_NEXT, only while the hoist is idle. -/
def layerNextWrite (who : Who) (h val : Nat) (s : State) : State :=
  let r := R.HST_LAYER_NEXT h
  if !(s.privWriter who || s.engMayCmd who (320 + h)) || s.engState (320 + h) != 0 then ignoredWrite who r.off s
  else setReg r (val % 65536) s

/-- R258: the engines of a tenant that a context owns. -/
def State.tenantEngines (s : State) (t : Nat) : List Nat :=
  (List.range 384).filter fun e => s.engValid e && s.engTenant e == t && s.engOwnerKind e == 0

end Sys2Proof.Machine
end

