-- ==== Sys2Proof/Machine/MemCtl.lean ====
section
/-! DEFINITION. The memory controllers' own events (spec/08) and the deep lode's SSDs (R167, R168). -/

namespace Sys2Proof.Machine

/-! ### Registers -/

/-- R238: CTL of a controller: SCRUB_HOURS of 0 stores 1, and RD_THRESH below RD_MIN stores RD_MIN. -/
def memCtlWrite (who : Who) (c val : Nat) (s : State) : State :=
  let r := ctrlReg R.T1C_CTL R.T2C_CTL c
  if !s.privWriter who then ignoredWrite who r.off s
  else
    let h := bitsOf val 31 24
    let th := bitsOf val 15 0
    let rdMin := s.fld (ctrlReg R.T1C_CAP R.T2C_CAP c) F.T1C_CAP_RD_MIN
    setReg r ((if h = 0 then 1 else h) * 2 ^ 24 + max rdMin th) s

/-- R238: INJ_ADDR. -/
def injAddrWrite (who : Who) (c val : Nat) (s : State) : State :=
  let r := ctrlReg R.T1C_INJ_ADDR R.T2C_INJ_ADDR c
  if s.rootWriter who then setReg r (bitsOf val 47 6 * 64) s else ignoredWrite who r.off s

/-- R238: INJ_CTL; a used position above 79 is refused. -/
def injCtlWrite (who : Who) (c val : Nat) (s : State) : State :=
  let r := ctrlReg R.T1C_INJ_CTL R.T2C_INJ_CTL c
  let ps := ([bitsOf val 6 0, bitsOf val 13 7, bitsOf val 20 14]).take (bitsOf val 23 22)
  if !s.rootWriter who || ps.any fun p => decide (p > 79) then ignoredWrite who r.off s
  else setReg r ((bitAt val 31 || s.flag r F.T1C_INJ_CTL_ARM).toNat * 2 ^ 31 + bitsOf val 26 22 * 2 ^ 22 +
    bitsOf val 20 0) s

/-- R238: zero every counter of a controller. -/
def memCntClear (who : Who) (c : Nat) (s : State) : State :=
  if !s.privWriter who then ignoredWrite who (ctrlReg R.T1C_CNT_CLEAR R.T2C_CNT_CLEAR c).off s
  else
    let z (a b : Nat → Reg) : Reg := ctrlReg a b c
    let s := zeroRegs [z R.T1C_CNT_CORR R.T2C_CNT_CORR, z R.T1C_CNT_UNCORR R.T2C_CNT_UNCORR,
      z R.T1C_CNT_REMAP R.T2C_CNT_REMAP, z R.T1C_CNT_REMAP_FULL R.T2C_CNT_REMAP_FULL,
      z R.T1C_CNT_RD_REFRESH R.T2C_CNT_RD_REFRESH, z R.T1C_CNT_SCRUB_PASS R.T2C_CNT_SCRUB_PASS,
      z R.T1C_CNT_TRACK R.T2C_CNT_TRACK] s
    if c < 16 then zeroRegs [R.T1C_CNT_INLINE c, R.T1C_CNT_SEV c] s
    else setReg (R.T2C_CNT_PD_ENTRY (c - 16)) 0 s

/-! ### Service -/

/-- Set STATE of a controller; PEAK follows (R353), and the waits of start-up (R432). -/
def setMemState (c v : Nat) (s : State) : State :=
  let s := setFld (ctrlReg R.T1C_STAT R.T2C_STAT c) F.T1C_STAT_STATE v (if v = 4 then s else ckFlush c s)
  let st := R.CLK_START_STAT
  let done := v == 4 || v == 7 || v == 6
  let s := if !done then s
    else if c < 16 then setReg st (setBits (s.reg st) (16 + c) (16 + c) 0) s
    else setReg st (setBits (s.reg st) (4 + (c - 16)) (4 + (c - 16)) 0) s
  if v = 4 ∨ v = 5 ∨ v = 6 then qosRefresh s else s

/-- The bytes that a controller serves, zeroed where a test of the controller-local address holds. -/
def zeroLocal (c : Nat) (p : Nat → Bool) (s : State) : State :=
  let keep (x : Nat) : Bool := match s.ctrlAddrOf x with
    | some (d, l) => !(d == c && p l)
    | none => true
  let m := s.mem.filter fun y => keep y.1
  let fl := s.ms.flips.filter fun y => keep (8 * y.1)
  { s with mem := m, ms := { s.ms with flips := fl } }

/-- R214: the capacity used by every channel is the smallest module's; a larger module is recorded. -/
def sizeChannels (s : State) : State :=
  match (s.ms.modGib.map (·.2)).min? with
  | none => s
  | some g => s.ms.modGib.foldl (fun s p =>
      let r := R.T2C_STAT (p.1 - 16)
      if s.fld r F.T2C_STAT_SIZE_GIB = g then s
      else
        let s := setFld r F.T2C_STAT_SIZE_GIB g s
        if p.2 > g then event 0x0605 7 (p.1 - 16) (p.1 - 16) p.2 g 0 s else s) s

/-- R224, R214: a controller is not installed. `phase` is 0 for training; an absent stack or module is no failure. -/
def notInstalled (c phase : Nat) (failure : Bool) (s : State) : State :=
  let s := setMemState c 7 s
  let s := if c < 16 then clearStackPresent c s else s
  let gib := mapErase s.ms.modGib c
  let s := sizeChannels { s with ms := { s.ms with modGib := gib } }
  if failure then event 0x0604 (ctrlKind c) (ctrlInst c) (ctrlKind c) (ctrlInst c) phase 0 s else s

/-- R224, R212, R213: the rates at which a controller trains, highest first. -/
def trainRates (c : Nat) : List Nat := if c < 16 then [9600, 8000, 6400] else [8800, 8000, 6400]

/-- R224: the narrowest passing run of a lane that does not fail, in 1/64 UI. -/
def minEye : Nat := 19

/-- R224: the rates that a controller in training may still train at: below those that have failed. -/
def State.ratesLeft (s : State) (c : Nat) : List Nat :=
  let r := s.fld (ctrlReg R.T1C_STAT R.T2C_STAT c) F.T1C_STAT_RATE
  if r = 0 then trainRates c else (trainRates c).filter (· ≤ r)

/-- R224: the rate below the one that a controller in training tries now. -/
def State.rateBelow (s : State) (c : Nat) : Option Nat := ((s.ratesLeft c).drop 1).head?

/-- R224: a lane has failed: a channel trains again at the next lower rate; one at the lowest, or a stack whose redundant
lanes are used up, is not installed. -/
def trainLower (c : Nat) (s : State) : State :=
  match s.rateBelow c with
  | some r => if c < 16 then notInstalled c 0 true s else setFld (R.T2C_STAT (c - 16)) F.T2C_STAT_RATE r s
  | none => notInstalled c 0 true s

/-- R224, R213: a result that training can give: a rate still open, that the module runs at, and no lane's run too short. -/
def State.trainFits (s : State) (c rate eye : Nat) (mr : Bool) : Bool :=
  (s.ratesLeft c).contains rate && decide (minEye ≤ eye) && (decide (c < 16) || mr || decide (rate ≤ 6400))

/-- R224: training ends. -/
def trainDone (c : Nat) (res : TrainResult) (s : State) : State :=
  if s.memState c ≠ 1 ∨ (mapFind s.ms.bring c).isSome then s
  else match res with
  | .absent => notInstalled c 0 false s
  | .failed => notInstalled c 0 true s
  | .lower rate => if 16 ≤ c ∧ s.rateBelow c = some rate then trainLower c s else s
  | .trained rate eye lane repaired gib mr =>
    let st := ctrlReg R.T1C_STAT R.T2C_STAT c
    if !s.trainFits c rate eye mr then (if (s.ratesLeft c).contains rate then trainLower c s else s)
    else
      let s := setFld st F.T1C_STAT_RATE rate s
      let s := setReg (ctrlReg R.T1C_TRAIN R.T2C_TRAIN c)
        (eye % 256 * 2 ^ 56 + lane % 65536 * 2 ^ 40 + repaired % 256 * 2 ^ 32) s
      let tr := mapPut s.ms.bring c 0
      let s := { s with ms := { s.ms with bring := tr } }
      if c < 16 then setFld st F.T1C_STAT_SIZE_GIB 0x30 s
      else
        let s := setFld st F.T2C_STAT_MRDIMM mr.toNat s
        let gibs := mapPut s.ms.modGib c gib
        sizeChannels { s with ms := { s.ms with modGib := gibs } }

/-- R224: MEM_TRAIN_DONE. -/
def execMemTrainDone (c : Ctrl) (res : TrainResult) (s : State) : Host.Outcome State Fault Refusal :=
  .next (trainDone (ctrlNum c) res s)

/-- R428: the leading foreman lets a trained controller continue; the repaired rows fail no more. -/
def execPprDone (c : Ctrl) (failed : List Nat) (s : State) : Host.Outcome State Fault Refusal :=
  let n := ctrlNum c
  .next (if s.memState n = 1 ∧ (mapFind s.ms.bring n).isSome ∧ !s.flag R.FMN_LEAD_STAT F.FMN_LEAD_STAT_NONE then
      let listed := ((mapGet s.persist n []).take 16).filter fun l => !failed.contains l
      let bad (p : Nat × Nat) : Bool := match s.ctrlAddrOf (8 * p.1) with
        | some (d, x) => d == n && listed.contains (x / 64 * 64)
        | none => false
      let st := s.ms.stuck.filter fun p => !bad p
      setMemState n 2 { s with ms := { s.ms with stuck := st } }
    else s)

/-- R234: MEM_SELFTEST_DONE. -/
def execMemSelftestDone (c : Ctrl) (phase : Fin 6) (pass : Bool) (s : State) : Host.Outcome State Fault Refusal :=
  let n := ctrlNum c
  .next (match mapFind s.ms.bring n with
    | none => s
    | some k =>
      if s.memState n ≠ 2 ∨ phase.val ≠ k + 1 ∧ ¬ (k = 5 ∧ phase.val = 5) then s
      else
        let brg := mapErase s.ms.bring n
        if !pass then notInstalled n phase true { s with ms := { s.ms with bring := brg } }
        else if phase.val = 5 then setMemState n 4 { s with ms := { s.ms with bring := brg } }
        else
          let up := mapPut s.ms.bring n phase
          let s := { s with ms := { s.ms with bring := up } }
          if phase.val = 4 then setMemState n 3 s else s)

/-- R233: MEM_FILL_DONE: every byte reads zero, and phase 5 of the self-test runs. -/
def execMemFillDone (c : Ctrl) (s : State) : Host.Outcome State Fault Refusal :=
  let n := ctrlNum c
  .next (if s.memState n = 3 ∧ mapFind s.ms.bring n = some 4 then
      let brg := mapPut s.ms.bring n 5
      let s := zeroLocal n (fun _ => true) s
      setMemState n 2 { s with ms := { s.ms with bring := brg } }
    else s)

/-! ### Refresh, row disturbance and tracking -/

/-- R227: a directed refresh. -/
def directedRefresh (c : Nat) (s : State) : State := bump (ctrlReg R.T1C_CNT_RD_REFRESH R.T2C_CNT_RD_REFRESH c) 1 s

/-- R227: entries of an activate table. -/
def actEntries : Nat := 256

/-- R227: count an activate of a row: the table after it, and the counts before and after, where the row is tracked. -/
def actCount (t : ActTable) (row : Nat) : ActTable × Option (Nat × Nat) :=
  match t.rows.find? fun p => p.1 == row with
  | some (_, old) => ({ t with rows := t.rows.map fun p => if p.1 = row then (row, old + 1) else p }, some (old, old + 1))
  | none =>
    if t.rows.length < actEntries then ({ t with rows := t.rows ++ [(row, t.spill + 1)] }, some (t.spill, t.spill + 1))
    else match t.rows.findIdx? fun p => p.2 == t.spill with
    | some i => ({ t with rows := t.rows.set i (row, t.spill + 1) }, some (t.spill, t.spill + 1))
    | none => ({ t with spill := t.spill + 1 }, none)

/-- R227: an activate of a row of a bank. Row counting pauses during self-refresh (R237). -/
def onActivate (c : Nat) (act : Option (Nat × Nat)) (s : State) : State :=
  match act with
  | none => s
  | some (bank, row) =>
    let k := c * 65536 + bank % 65536
    let (t, cnt) := actCount (mapGet s.ms.acts k { rows := [], spill := 0 }) row
    let acts := mapPut s.ms.acts k t
    let s := { s with ms := { s.ms with acts := acts } }
    let th := s.fld (ctrlReg R.T1C_CTL R.T2C_CTL c) F.T1C_CTL_RD_THRESH
    match cnt with
    | some (old, new) => if new / th > old / th then directedRefresh c s else s
    | none => s

/-- R227: every 32 ms the tables and spill counts are cleared. -/
def execRdTableClear (c : Ctrl) (s : State) : Host.Outcome State Fault Refusal :=
  .next (if s.memState (ctrlNum c) = 5 then s
    else
      let acts := s.ms.acts.filter fun p => p.1 / 65536 != ctrlNum c
      { s with ms := { s.ms with acts := acts } })

/-- R226: a refresh falls due, at the rate of the reported temperature. -/
def execRefresh (c : Ctrl) (hot : Bool) (s : State) : Host.Outcome State Fault Refusal :=
  let n := ctrlNum c
  .next (if s.memState n = 4 ∨ s.memState n = 3 ∨ s.memState n = 2 then
      let rf := mapPut s.ms.refreshed n (s.nclk, hot)
      let pd := s.ms.pdRanks.filter fun x => x / 16 != n
      { s with ms := { s.ms with refreshed := rf, pdRanks := pd } }
    else s)

/-- R235: an idle rank of a privileged channel enters power-down; a rank that the module does not have is none. -/
def execRankPowerDown (c : Fin 12) (rank : Fin 16) (s : State) : Host.Outcome State Fault Refusal :=
  let n := 16 + c.val
  let t := s.fld (R.T2C_LP c) F.T2C_LP_PD_TIMER
  .next (if privChannel c && s.memState n == 4 && t != 0 && decide (rank.val < 2 ^ (Config.rankBits n % 5)) &&
      !s.ms.pdRanks.contains (n * 16 + rank) && decide (s.nclk - mapGet s.ms.rankUsed (n * 16 + rank) 0 ≥ 16 * t) then
      let pd := (n * 16 + rank.val) :: s.ms.pdRanks
      bump (R.T2C_CNT_PD_ENTRY c) 1 { s with ms := { s.ms with pdRanks := pd } }
    else s)

/-- R225: a re-centring: the narrowest run and its lane, and the lanes below 19 steps. -/
def execLaneRecentre (c : Ctrl) (eye : BitVec 8) (lane : BitVec 16) (failed : Nat) (s : State) :
    Host.Outcome State Fault Refusal :=
  let n := ctrlNum c
  .next (if s.memState n ≠ 4 then s
    else
      let tr := ctrlReg R.T1C_TRAIN R.T2C_TRAIN n
      let s := setFld tr F.T1C_TRAIN_MIN_EYE eye.toNat (setFld tr F.T1C_TRAIN_WORST_LANE lane.toNat s)
      if failed = 0 then s
      else memTakeOut n 0 (bump (ctrlReg R.T1C_CNT_TRACK R.T2C_CNT_TRACK n) failed s))

/-! ### Low power (R237) -/

/-- R237: SR_REQ = 1: the channel enters self-refresh. -/
def srEnter (c : Nat) (s : State) : State :=
  if s.memState (16 + c) = 4 then
    let m := mapPut s.ms.srMask (16 + c) (s.fld (R.T2C_LP c) F.T2C_LP_PASR_MASK)
    setMemState (16 + c) 5 { s with ms := { s.ms with srMask := m } }
  else s

/-- R237: SR_REQ = 0: the channel leaves self-refresh and refills the masked segments. -/
def srExit (c : Nat) (s : State) : State :=
  if s.memState (16 + c) = 5 then setMemState (16 + c) 3 s else s

/-- R237, R238: a write to T2C_LP. -/
def lpWrite (who : Who) (c val : Nat) (s : State) : State :=
  let r := R.T2C_LP c
  let pd := bitsOf val 15 0
  if !s.privWriter who || (pd != 0 && !privChannel c) then ignoredWrite who r.off s
  else
    let was := s.flag r F.T2C_LP_SR_REQ
    let mask := if was then s.fld r F.T2C_LP_PASR_MASK else bitsOf val 31 24
    let s := setReg r (mask * 2 ^ 24 + bitsOf val 23 23 * 2 ^ 23 + pd) s
    if bitAt val 23 && !was then srEnter c s else if !bitAt val 23 && was then srExit c s else s

/-- R237: SELF_REFRESH_ENTER. -/
def execSelfRefreshEnter (who : Who) (c : Fin 12) (s : State) : Host.Outcome State Fault Refusal :=
  .next (lpWrite who c (setBits (s.reg (R.T2C_LP c)) 23 23 1) s)

/-- R237: SELF_REFRESH_EXIT. -/
def execSelfRefreshExit (who : Who) (c : Fin 12) (s : State) : Host.Outcome State Fault Refusal :=
  .next (lpWrite who c (setBits (s.reg (R.T2C_LP c)) 23 23 0) s)

/-- R237: the masked segments read zero, and the channel is in service again. -/
def srRefilled (c : Nat) (s : State) : State :=
  match mapFind s.ms.srMask (16 + c) with
  | some m =>
    if s.memState (16 + c) ≠ 3 then s
    else
      let seg := s.chanGiB * 2 ^ 30 / 8
      let s := zeroLocal (16 + c) (fun x => bitAt m (x / max 1 seg)) s
      let masks := mapErase s.ms.srMask (16 + c)
      setMemState (16 + c) 4 { s with ms := { s.ms with srMask := masks } }
  | none => s

/-- R238: INJECT_ARM. -/
def execInjectArm (who : Who) (c : Ctrl) (val : BitVec 32) (s : State) : Host.Outcome State Fault Refusal :=
  .next (injCtlWrite who (ctrlNum c) (setBits val.toNat 31 31 1) s)

/-- R238: MEM_CNT_CLEAR. -/
def execMemCntClear (who : Who) (c : Ctrl) (s : State) : Host.Outcome State Fault Refusal :=
  .next (memCntClear who (ctrlNum c) s)

/-! ### Reads, writes and scrubbing -/

/-- The accesses that a controller sees beside the data: the activate, and the inline byte that a read fetches. -/
def touchCtrl (a : Nat) (act : Option (Nat × Nat)) (inline : Bool) (s : State) : State :=
  match s.ctrlAddrOf a with
  | none => s
  | some (c, x) =>
    let s := onActivate c act s
    if inline && decide (c < 16) then ckFetch c (ckGroup x) s else s

/-- R220: codeword bits of a word that have flipped since it was last written. -/
def flipWord (w m : Nat) (hard : Bool) (s : State) : State :=
  if m = 0 then s
  else
    let s := setFlips w (s.flipMask w ^^^ m) s
    if hard then
      let st := mapPut s.ms.stuck w (mapGet s.ms.stuck w 0 ^^^ m)
      { s with ms := { s.ms with stuck := st } }
    else s

/-- R212: a stack returns a severity with a read: one that is not zero is counted. -/
def countSev (a sev : Nat) (s : State) : State :=
  match s.ctrlAddrOf a with
  | some (c, _) => if c < 16 ∧ sev ≠ 0 then bump (R.T1C_CNT_SEV c) 1 s else s
  | none => s

/-- R220, R217: a controller reads a word; `sev` is the severity of the stack's own ECC (R212). -/
def execMemRead (a : BitVec 64) (errs : BitVec 80) (hard : Bool) (sev : BitVec 2) (act : Option (Nat × Nat)) (s : State) :
    Host.Outcome State Fault Refusal :=
  let w := a.toNat / 8
  let served := match s.ctrlAddrOf a.toNat with
    | some (c, _) => s.memState c == 4
    | none => spaceOf a.toNat == .t0
  .next (if s.mapped (8 * w) 8 && served then
      let s := if s.remapped (8 * w) then s else flipWord w errs.toNat hard s
      let s := countSev (8 * w) sev.toNat (touchCtrl (8 * w) act (s.flipMask w != 0) s)
      (readRange .outside (8 * w) 8 s).2
    else s)

/-- R221, R216: a controller writes a word. -/
def execMemWrite (a d : BitVec 64) (act : Option (Nat × Nat)) (s : State) : Host.Outcome State Fault Refusal :=
  let w := a.toNat / 8
  let served := match s.ctrlAddrOf a.toNat with
    | some (c, _) => !s.sleeping c
    | none => spaceOf a.toNat == .t0
  .next (if s.mapped (8 * w) 8 && served then
      poke (8 * w) (leBytes 8 d.toNat) (touchCtrl (8 * w) act false s)
    else s)

/-- R231: bytes of a controller's address range: a pseudo-channel's bursts in use, or the channel's capacity. -/
def State.scrubEnd (s : State) (c : Nat) : Nat := if c < 16 then 50331645 * 32 else s.chanGiB * 2 ^ 30

/-- R231: the next line to scrub, and whether the pass ended. -/
def State.scrubNext (s : State) (c x : Nat) : Nat × Bool :=
  if c < 16 then
    let pc := x / 2 ^ 31
    if x % 2 ^ 31 + 64 < s.scrubEnd c then (x + 64, false)
    else if pc + 1 < 32 then ((pc + 1) * 2 ^ 31, false)
    else (0, true)
  else if x + 64 < s.scrubEnd c then (x + 64, false)
  else (0, true)

/-- R231, R217: scrub one word at its full code: corrections are written back, an uncorrectable word opens recovery. -/
def scrubWord (c x : Nat) (s : State) (w : Nat) : State :=
  let (res, _, corrected) := readMask false (s.flipMask w)
  if corrected then correctWord w s
  else if res.isSome then s
  else
    let s := noteUncorr c (x / 64) (bump (ctrlReg R.T1C_CNT_UNCORR R.T2C_CNT_UNCORR c) 1 s)
    if s.inObjTable (8 * w) || s.inObjMirror (8 * w) then restoreTable [w] s
    else if s.unowned (8 * w) then
      event 0x0607 (ctrlKind c) (ctrlInst c) (ctrlKind c) (ctrlInst c) x (x / 2 ^ 32) s
    else rcvAttach (s.hdieOf (8 * w)) (s.unitOf (8 * w)) (.scrub c) s

/-- R231: SCRUB_LINE. Patrol scrubbing pauses during self-refresh (R237). -/
def execScrubLine (c : Ctrl) (s : State) : Host.Outcome State Fault Refusal :=
  let n := ctrlNum c
  .next (if s.memState n ≠ 4 then s
    else
      let pos := ctrlReg R.T1C_SCRUB_POS R.T2C_SCRUB_POS n
      let x := s.reg pos
      let s := match s.partAddrOf n x with
        | some a =>
          if s.remapped a then s
          else
            let s := touchRanks a 64 (if n < 16 then ckDrop n (ckGroup x) s else s)
            (List.range 8).foldl (fun s i => scrubWord n x s (a / 8 + i)) s
        | none => s
      let (y, passed) := s.scrubNext n x
      let s := setReg pos y s
      if passed then bump (ctrlReg R.T1C_CNT_SCRUB_PASS R.T2C_CNT_SCRUB_PASS n) 1 s else s)

/-! ### The deep lode (R167, R168) -/

/-- An SSD of which nothing is known yet. -/
def ssd0 : Ssd := { present := false, ready := false, volatile := false, resetAt := none, outOfService := false,
                    units := 0, queues := 0, speed := 0, width := 0 }
/-- The SSD of a root port. -/
def State.ssd (s : State) (p : Nat) : Ssd := mapGet s.t3.ssds p ssd0
/-- Change an SSD. -/
def updSsd (p : Nat) (f : Ssd → Ssd) (s : State) : State :=
  let m := mapPut s.t3.ssds p (f (s.ssd p))
  { s with t3 := { s.t3 with ssds := m } }

/-- R386: NVME_EVENT. -/
def nvmeEvent (p kind : Nat) (s : State) : State := event 0x0508 8 p p kind 0 0 s

/-- The bytes of a chunk. -/
def chunkSize : Nat := 2 ^ 17

/-- R186: the SSD of a group chunk. -/
def chunkPort (ch : Nat) : Nat := ch % 4

/-- R167: I/O queue pairs on an SSD, and the entries of each. -/
def nvmeQueuePairs : Nat := 32
/-- R167: the entries of an I/O queue pair. -/
def nvmeQueueEntries : Nat := 1024

/-- R167: the commands that an SSD's queues hold; the rest wait for room, in order. -/
def State.nvmeQueued (s : State) (p : Nat) : List NvmeCmd :=
  (s.t3.cmds.filter fun c => c.port == p).take ((s.ssd p).queues * nvmeQueueEntries)

/-- Give an SSD a command for bytes of a chunk from `off` up. -/
def nvmeSubmitAt (owner ch off : Nat) (write : Bool) (data : List Byte) (s : State) : State :=
  let cmd : NvmeCmd := { id := s.t3.nextId, port := chunkPort ch, chunk := ch, off, write, flush := false, owner, data,
                         time := s.nclk }
  { s with t3 := { s.t3 with cmds := s.t3.cmds ++ [cmd], nextId := s.t3.nextId + 1 } }

/-- Give an SSD a command for an engine and a whole chunk. -/
def nvmeSubmit (owner ch : Nat) (write : Bool) (data : List Byte) (s : State) : State :=
  nvmeSubmitAt owner ch 0 write data s

/-- R257: the owner of a command whose engine has been aborted. -/
def orphanOwner : Nat := 2 ^ 60

/-- A command ends: a write that succeeded has landed; a read that failed leaves its chunk unread. -/
def nvmeEnd (c : NvmeCmd) (ok : Bool) (s : State) : State :=
  let cmds := s.t3.cmds.filter fun x => x.id != c.id
  let cells := if c.write && ok then memPuts s.t3.cells (c.chunk * chunkSize + c.off) c.data else s.t3.cells
  let bad := if ok then s.t3.bad.filter (· != c.chunk)
    else if c.write then s.t3.bad else setInsert s.t3.bad c.chunk
  let e : NvmeEnd := { owner := c.owner, chunk := c.chunk, write := c.write, ok }
  { s with t3 := { s.t3 with cmds := cmds, cells := cells, bad := bad, ends := s.t3.ends ++ [e] } }

end Sys2Proof.Machine
end

