-- ==== Sys2Proof/Machine/ObjOps.lean ====
section
/-! DEFINITION. What happens to whole objects: loss (R199), the end of a copy (R174, R178), and write-back of dirty units
(R180 to R182). -/

namespace Sys2Proof.Machine

/-- R191, R199: an object is lost; a slot that fills from it resolves. -/
def loseObject (hd tier : Nat) (s : State) (i : Nat) : State :=
  if (s.obj i).state = objLost then s
  else
    let s := markLost hd i tier s
    (s.slots.filter fun p => handleIndex p.2.primary == i).foldl
      (fun s p => slotLoss (p.1 / 16) (p.1 % 16) s) s

/-- The dirty bit of the unit that holds a page: by page in T1, by extent in T2 and in a lease. -/
def State.unitDirty (s : State) (a : Nat) : Bool :=
  match spaceOf a with
  | .t1 => s.ms.dirtyT1.contains (a / 4096)
  | .t2 => s.ms.dirtyT2.contains (a / 65536)
  | .drift => s.ms.dirtyTD.contains (a / 65536)
  | _ => false

/-- R203: NOW of the lease of a drift address. -/
def syncDirty (a : Nat) (s : State) : State :=
  match s.leaseOf a with
  | some i => setFld (R.PLT_LIN_DIRTY i) F.PLT_LIN_DIRTY_NOW
      (s.ms.dirtyTD.filter fun x => x / 2 ^ 29 == a / 2 ^ 45).length s
  | none => s

/-- R182: clear the dirty bit of the unit that holds a page. -/
def cleanUnit (s : State) (a : Nat) : State :=
  match spaceOf a with
  | .t1 => { s with ms := { s.ms with dirtyT1 := s.ms.dirtyT1.filter (· != a / 4096) } }
  | .t2 => { s with ms := { s.ms with dirtyT2 := s.ms.dirtyT2.filter (· != a / 65536) } }
  | .drift => syncDirty a { s with ms := { s.ms with dirtyTD := s.ms.dirtyTD.filter (· != a / 65536) } }
  | _ => s

/-- R182: the data units of a copy that are dirty, by their number in the object. -/
def State.dirtyUnits (s : State) (e : ObjEntry) (tier : Nat) : List Nat :=
  ((s.objIn e tier).units.zipIdx.filter fun p => s.unitDirty p.1).map (·.2)

/-- R178: a copy is no longer resident, and its charge is released. -/
def dropCopy (i tier : Nat) (s : State) : State :=
  let e := s.obj i
  let n := s.objLen e
  let s := putObj i (e.setResident tier false) s
  dropCharge e.tenant tier (chargeOf tier false e.size) n s

/-- The units an engine has taken up, and what it holds of each. -/
def State.held (s : State) (e : Nat) : SMap (List Byte) := (s.eng e).bufs

/-- Set the dirty bits of the units taken up again: their write-back has not ended. -/
def remark (e i tier : Nat) (s : State) : State :=
  let us := (s.objIn (s.obj i) tier).units
  (s.held e).foldl (fun s u => markDirty (us.getD u.1 0) 4096 s) s

/-- R204: the number under which the drain of an incoming lease moves bytes, beside the engines' own. -/
def drainEng (i : Nat) : Nat := 384 + i

/-- R204: the object that the drain of a lease is writing back. -/
def State.draining (s : State) (i : Nat) : Option Nat :=
  let x := s.eng (drainEng i)
  if x.stage = 0 then none else some x.next

/-- R175: the drain of some lease is writing the object back. -/
def State.drainBusy (s : State) (o : Nat) : Bool := (List.range 64).any fun i => s.draining i == some o

/-- R204: a drain that is cut short: the units under way are dirty still. -/
def cutDrain (i : Nat) (s : State) : State :=
  match s.draining i with
  | none => s
  | some o =>
    let e := drainEng i
    let s := if (s.eng e).stage = 114 then remark e o tierTD s else s
    let cmds := s.t3.cmds.map fun c => if c.owner = e then { c with owner := orphanOwner } else c
    disownReads (.engine e) (updEng e (fun _ => eng0) { s with t3 := { s.t3 with cmds := cmds } })

/-- R178: a write to what an object holds in a tier has not retired: held in a recovery entry, in flight over the fabric,
or given to an SSD. -/
def State.layoutBusy (s : State) (tier : Nat) (ly : Layout) : Bool :=
  if tier = 3 then ly.units.any fun u => s.t3.cmds.any fun c => c.write && c.chunk == u / chunkSize
  else ly.units.any (fun u => s.writeHeldOn u 4096) ||
    (tier == tierTD && s.tags.any fun x => match x.2.req with
      | some r => [2, 3, 4].contains r.pkt.type &&
          ly.units.contains ((4 * 2 ^ 60 + r.pkt.dst * 2 ^ 45 + 8 * r.pkt.addr) / 4096 * 4096)
      | none => false)

/-- The objects with a TD copy on a peer's lease. -/
def State.leaseObjects (s : State) (peer : Nat) : List Nat :=
  (s.objects.filter fun p => p.2.holds tierTD &&
    (s.objIn p.2 tierTD).units.any fun a => bitsOf a 59 45 == peer).map (·.1)

/-- R204, R205: a lease ends with its drain unfinished: objects with a dirty extent are lost, clean copies are dropped. -/
def endLeaseObjects (peer : Nat) (s : State) : State :=
  (s.leaseObjects peer).foldl (fun s i =>
    let e := s.obj i
    if (s.dirtyUnits e tierTD).isEmpty then dropCopy i tierTD s else loseObject 0 tierTD s i) s

/-- The contiguous runs of part addresses that bytes [off, off + n) of a copy or home of 4 KiB units cover. -/
def layoutRuns (ly : Layout) (off n : Nat) : List (Nat × Nat) :=
  (pagesOf off n).map fun u =>
    let lo := max off (u * 4096)
    let hi := min (off + n) ((u + 1) * 4096)
    (ly.units.getD u 0 + lo % 4096, hi - lo)

/-- Read bytes of what an object holds in T0, T1 or T2. -/
def objRead (w : Waiter) (ly : Layout) (off n : Nat) (s : State) : Rd × State :=
  (layoutRuns ly off n).foldl (fun (p : Rd × State) r =>
    match p.1 with
    | .ok bs => match readRange w r.1 r.2 p.2 with
      | (.ok more, s) => (.ok (bs ++ more), s)
      | o => o
    | _ => p) (.ok [], s)

end Sys2Proof.Machine
end

