-- ==== Sys2Proof/Machine/PltOps.lean ====
section
/-! DEFINITION. The Plotre fabric's shared operations (spec/12): packets and their bytes (R331, R332), coordinates,
neighbours and routes (R320, R333 to R335), ports (R321 to R330), and what a packet sent or received does to them. -/

namespace Sys2Proof.Machine

/-! ### State -/

/-- Change the fabric's state. -/
def updPlt (f : Plotre → Plotre) (s : State) : State := { s with plt := f s.plt }
/-- A port of which nothing is known. -/
def port0 : Port := { txSeq := 0, retry := [], rxSeq := 0, naking := false, again := 0, winFlits := 0, winErrors := 0,
                      rxBytes := [], lanes := [], credit := [], record := none, step := 1, passed := [], turn := [] }
/-- A port. -/
def State.port (s : State) (p : Nat) : Port := mapGet s.plt.ports p port0
/-- Change a port. -/
def updPort (p : Nat) (f : Port → Port) (s : State) : State :=
  updPlt (fun x => { x with ports := mapPut x.ports p (f (mapGet x.ports p port0)) }) s
/-- A collective context of which nothing is known. -/
def coll0 : Coll := { time := 0, chunks := [], done := [], ahead := [] }
/-- A collective context. -/
def State.coll (s : State) (c : Nat) : Coll := mapGet s.plt.colls c coll0
/-- Change a collective context. -/
def updColl (c : Nat) (f : Coll → Coll) (s : State) : State :=
  updPlt (fun x => { x with colls := mapPut x.colls c (f (mapGet x.colls c coll0)) }) s

/-- R350: STATE of a port: 0 off, 1 no light, 2 locking, 3 training, 4 up, 5 retraining, 6 miswired, 7 incompatible,
8 down, 9 unused. -/
def State.portState (s : State) (p : Nat) : Nat := s.fld (R.PLT_PORT_STAT p) F.PLT_PORT_STAT_STATE
/-- Set STATE of a port. -/
def setPortState (p v : Nat) (s : State) : State := setFld (R.PLT_PORT_STAT p) F.PLT_PORT_STAT_STATE v s

/-! ### Packets (R331, R332) -/

/-- R331: the header as a number. -/
def Packet.header (p : Packet) : Nat :=
  p.type + p.version * 2 ^ 5 + p.dl * 2 ^ 8 + p.rev * 2 ^ 9 + p.dst * 2 ^ 10 + p.src * 2 ^ 25 + p.tag * 2 ^ 40 +
  p.tagEpoch * 2 ^ 56 + p.epoch2 * 2 ^ 64 + p.lenM8 * 2 ^ 72 + p.fnStatus * 2 ^ 78 + p.addr * 2 ^ 86

/-- R331: the bytes of a packet. -/
def Packet.bytes (p : Packet) : List Byte := leBytes 16 p.header ++ p.payload

/-- R331: the header that 16 bytes spell. -/
def headerOf (bs : List Byte) : Packet :=
  let n := leAt bs 0 16
  { type := bitsOf n 4 0, version := bitsOf n 7 5, dl := bitsOf n 8 8, rev := bitsOf n 9 9, dst := bitsOf n 24 10,
    src := bitsOf n 39 25, tag := bitsOf n 55 40, tagEpoch := bitsOf n 63 56, epoch2 := bitsOf n 71 64,
    lenM8 := bitsOf n 77 72, fnStatus := bitsOf n 85 78, addr := bitsOf n 127 86, payload := [] }

/-- R331, R332: payload bytes that follow a header; LEN_M8 says the length wherever there is a payload. -/
def Packet.payloadLen (p : Packet) : Nat :=
  match p.type with
  | 0x01 => 0
  | 0x09 => 0
  | 0x0B => 0
  | 0x12 => 0
  | 0x11 => if bitsOf p.fnStatus 3 2 = 1 then 0 else 8 * (p.lenM8 + 1)
  | _ => 8 * (p.lenM8 + 1)

/-- R332: the VC of a type; a reserved type travels on the VC of its group of eight. -/
def pktVc (t : Nat) : Nat := t / 8

/-- R332: the packet types. -/
def pktTypes : List Nat := [0x01, 0x02, 0x03, 0x04, 0x08, 0x09, 0x0A, 0x0B, 0x10, 0x11, 0x12, 0x18, 0x1C]

/-- R332: the requests that are answered. -/
def pktIsRequest (t : Nat) : Bool := t == 1 || t == 2 || t == 3 || t == 4

/-- Bytes of the lender's memory that a request names. -/
def Packet.span (p : Packet) : Nat :=
  match p.type with
  | 0x03 => 64
  | 0x04 => 8
  | _ => 8 * (p.lenM8 + 1)

/-- R332: a packet that its destination drops: a reserved value, or a range across a 4 KiB boundary. -/
def Packet.bad (p : Packet) : Bool :=
  !pktTypes.contains p.type || p.version != 1 ||
  (pktIsRequest p.type && (bitsOf p.tag 14 12 != 0 || decide (8 * p.addr % 4096 + p.span > 4096))) ||
  (p.type == 3 && (p.lenM8 != 8 || 8 * p.addr % 64 != 0)) ||
  (p.type == 4 && (decide (p.fnStatus > 6) || decide (p.lenM8 > 1))) ||
  (pktVc p.type == 2 && (decide (bitsOf p.fnStatus 1 0 > 1) || bitsOf p.fnStatus 3 2 == 3 ||
    bitsOf p.fnStatus 7 5 != 0)) ||
  (p.type == 0x18 && (p.fnStatus == 0 || decide (p.fnStatus > 8)))

/-- R323: flits that a packet takes: 60 bytes of it in each. -/
def Packet.flits (p : Packet) : Nat := (16 + p.payload.length + 59) / 60

/-- R323: cut a VC's byte stream into packets; a zero byte where a packet would begin ends the flit. -/
def parsePackets : Nat → List Byte → List Packet × List Byte
  | 0, bs => ([], bs)
  | n + 1, bs =>
    match bs with
    | [] => ([], [])
    | b :: _ =>
      if b = 0 then ([], [])
      else if bs.length < 16 then ([], bs)
      else
        let h := headerOf bs
        let m := 16 + h.payloadLen
        if bs.length < m then ([], bs)
        else
          let (ps, r) := parsePackets n (bs.drop m)
          ({ h with payload := (bs.drop 16).take h.payloadLen } :: ps, r)

/-! ### Coordinates, neighbours and ports (R319, R320) -/

/-- A coordinate: dimension 0 X, 1 Y, 2 Z. -/
def coordOf (c d : Nat) : Nat := c / 32 ^ (2 - d) % 32
/-- Replace a coordinate. -/
def setCoord (c d v : Nat) : Nat := setBits c (5 * (2 - d) + 4) (5 * (2 - d)) v
/-- R319: the size of a dimension. -/
def State.dimSize (s : State) (d : Nat) : Nat := bitsOf (s.reg R.PLT_SYS) (5 * (2 - d) + 36) (5 * (2 - d) + 32) + 1
/-- R319: PLT_SYS has been written. -/
def State.sysSet (s : State) : Bool := s.lockMask R.PLT_SYS == allBits

/-- The dimension of a port's role, whether it moves in the + direction, and how far. -/
def portRole (p : Nat) : Nat × Bool × Nat :=
  let k := p % 8
  if k < 6 then (k / 2, k % 2 == 0, 1) else (k - 6, decide (p < 8), 2)

/-- The port of a plane for a direction of a dimension. -/
def portFor (plane d : Nat) (plus : Bool) : Nat := 8 * plane + 2 * d + if plus then 0 else 1
/-- The bypass port of a direction of X or Y. -/
def bypassFor (d : Nat) (plus : Bool) : Nat := (if plus then 6 else 14) + d
/-- R320: the partner port of a port. -/
def partnerPort (p : Nat) : Nat := if p % 8 < 6 then (if p % 2 = 0 then p + 1 else p - 1) else (p + 8) % 16
/-- R320: the part that a port is cabled to. -/
def State.neighbour (s : State) (p : Nat) : Nat :=
  let (d, plus, k) := portRole p
  let n := s.dimSize d
  let x := coordOf s.ownCoords d
  setCoord s.ownCoords d (if plus then (x + k) % n else (x + n * k - k) % n)
/-- R321: a port of a dimension of size 1, or a bypass port of a dimension smaller than 4. -/
def State.portUnused (s : State) (p : Nat) : Bool :=
  let (d, _, k) := portRole p
  if k = 1 then s.dimSize d == 1 else decide (s.dimSize d < 4)

/-- The plane on which a packet stands: of its port, or the one it starts on. -/
def planeOf (k : Nat) : Nat := if k < 2 then k else (k - 2) / 8

/-! ### Routes (R334, R335) -/

/-- R334, R335: the dimension in which a packet moves next, its direction, and the distance left that way. A packet that
has reversed keeps the direction in which it arrived until the dimension is done. -/
def State.nextMove (s : State) (k : Nat) (p : Packet) : Option (Nat × Bool × Nat) :=
  match (List.range 3).find? fun d => coordOf p.dst d != coordOf s.ownCoords d with
  | none => none
  | some d =>
    let n := s.dimSize d
    let fwd := (coordOf p.dst d + n - coordOf s.ownCoords d % n) % n
    let came : Option Bool := if k < 2 then none
      else let (d', plus, _) := portRole (k - 2)
           if d' = d then some (!plus) else none
    let plus : Bool := match came with
      | some m => if p.rev = 1 then m else decide (2 * fwd ≤ n)
      | none => decide (2 * fwd ≤ n)
    some (d, plus, if plus then fwd else n - fwd)

/-- R335: the ports to try for one direction. -/
def tryPorts (plane d : Nat) (plus : Bool) (left : Nat) : List Nat :=
  [portFor plane d plus, portFor (1 - plane) d plus] ++ (if d < 2 ∧ 2 ≤ left then [bypassFor d plus] else [])

/-- R335, R329: the port a packet takes, its place in the list, and whether it reverses. A retraining port keeps its
packets. -/
def State.route (s : State) (k : Nat) (p : Packet) : Option (Nat × Nat × Bool) :=
  match s.nextMove k p with
  | none => none
  | some (d, plus, left) =>
    let plane := planeOf k
    let fwd := tryPorts plane d plus left
    let back := if p.rev = 1 then [] else tryPorts plane d (!plus) (s.dimSize d - left)
    match (fwd ++ back).findIdx? fun x => s.portState x == 4 || s.portState x == 5 with
    | some i => some ((fwd ++ back).getD i 0, i, decide (fwd.length ≤ i))
    | none => none

/-- R334: DL after a packet leaves by a port: cleared where it changes dimension, set where it crosses the wrap. -/
def State.newDl (s : State) (k out : Nat) (p : Packet) : Nat :=
  let (d, plus, m) := portRole out
  let changed := decide (2 ≤ k) && (portRole (k - 2)).1 != d
  let x := coordOf s.ownCoords d
  let wraps := if plus then decide (x + m ≥ s.dimSize d) else decide (x < m)
  if wraps then 1 else if changed then 0 else p.dl

/-! ### Sending -/

/-- R326: flits of a retry buffer. -/
def retryMax : Nat := 2048
/-- R334: flits of a receive buffer. -/
def vcBuffer : Nat := 256

/-- R348: injected faults of one kind: each of `n` chances may be taken, where the rate is not zero. -/
def injectSome (p rate n : Nat) (s : State) : State :=
  if rate = 0 then s
  else (List.range n).foldl (fun s _ =>
    let (b, s) := freshBool s
    if b then bump (R.PLT_CNT_INJECT p) 1 s else s) s

/-- R348: the faults that a port in test mode injects into the flits of a packet. -/
def injectFlits (p n : Nat) (s : State) : State :=
  let t := R.PLT_TEST_CTL p
  if !s.flag t F.PLT_TEST_CTL_ENABLE then s
  else
    let s := injectSome p (s.fld t F.PLT_TEST_CTL_DROP_RATE) n s
    let s := injectSome p (s.fld t F.PLT_TEST_CTL_CORRUPT_RATE) n s
    let s := injectSome p (s.fld t F.PLT_TEST_CTL_REORDER_RATE) (n / 2) s
    if s.fld t F.PLT_TEST_CTL_CW_SYMBOLS = 0 then s
    else injectSome p (s.fld t F.PLT_TEST_CTL_CW_RATE) ((n + 9) / 10) s

/-- The credit counter of a packet. -/
def creditKey (p : Packet) : Nat := 2 * pktVc p.type + p.dl

/-- A port has room for a packet: in its retry buffer, and in the partner's receive buffer. -/
def State.portRoom (s : State) (port : Nat) (p : Packet) : Bool :=
  let x := s.port port
  decide (x.retry.length + p.flits ≤ retryMax) && decide (mapGet x.credit (creditKey p) 0 + p.flits ≤ vcBuffer)

/-- Send a packet by a port: its flits wait in the retry buffer for their ACK. -/
def emitPacket (port : Nat) (p : Packet) (s : State) : State :=
  let n := p.flits
  let id := s.plt.sent
  let s := updPort port (fun x => { x with
    txSeq := (x.txSeq + n) % 4096
    retry := x.retry ++ (List.range n).map fun i => ((x.txSeq + i) % 4096, id)
    credit := mapPut x.credit (creditKey p) (mapGet x.credit (creditKey p) 0 + n) }) s
  let s := updPlt (fun x => { x with sent := x.sent + 1 }) s
  send (.packet port p) (injectFlits port n (bump (R.PLT_CNT_FLITS_TX port) n s))

/-- A packet waits to be sent; `k` is the plane it starts on, or 2 + the port it came by. -/
def queuePacket (k : Nat) (p : Packet) (s : State) : State := { s with fabQ := s.fabQ ++ [(k, p)] }

/-- A packet of this part: a fresh header. -/
def packetTo (s : State) (type dst : Nat) : Packet :=
  { type, version := 1, dl := 0, rev := 0, dst, src := s.ownCoords, tag := 0, tagEpoch := 0, epoch2 := 0, lenM8 := 0,
    fnStatus := 0, addr := 0, payload := [] }

/-- R333: the reply to a request takes the plane on which it arrived. -/
def replyTo (k : Nat) (q : Packet) (type fn : Nat) (payload : List Byte) (s : State) : State :=
  let p := packetTo s type q.src
  let r := { p with tag := q.tag, tagEpoch := q.tagEpoch, epoch2 := q.epoch2, lenM8 := payload.length / 8 - 1,
                    fnStatus := fn, payload }
  if q.src = s.ownCoords then updPlt (fun x => { x with inq := x.inq ++ [(planeOf k, r)] }) s
  else queuePacket (planeOf k) r s

/-- R324: flits of a packet that came by a port are free again. -/
def freeCredit (k : Nat) (p : Packet) (s : State) : State :=
  if k < 2 then s
  else updPort (k - 2) (fun x => { x with
    credit := mapPut x.credit (16 + creditKey p) ((mapGet x.credit (16 + creditKey p) 0 + p.flits) % 256) }) s

/-! ### Loss of a link (R330) -/

/-- R330: the packets that a port's receive buffers hold: for this part, to be forwarded, or ahead of a collective. -/
def State.portHolds (s : State) (p : Nat) : Nat :=
  let mine (x : Nat × Packet) : Bool := x.1 == 2 + p
  (s.fabQ.filter mine).length + (s.plt.inq.filter mine).length + (s.plt.colls.map fun c => (c.2.ahead.filter mine).length).sum

/-- R330: the packets of a port's receive buffers are discarded. -/
def dropHeld (p : Nat) (s : State) : State :=
  let keep (l : List (Nat × Packet)) : List (Nat × Packet) := l.filter fun x => x.1 != 2 + p
  updPlt (fun x => { x with inq := keep x.inq, colls := x.colls.map fun c => (c.1, { c.2 with ahead := keep c.2.ahead }) })
    { s with fabQ := keep s.fabQ }

/-- R330: everything in a port's buffers is discarded, and each packet of which a flit was there is counted. -/
def portDiscard (p : Nat) (s : State) : State :=
  let x := s.port p
  let lost := (x.retry.map (·.2)).eraseDups.length + (x.rxBytes.filter fun y => !y.2.isEmpty).length + s.portHolds p
  let s := dropHeld p s
  let s := updPort p (fun x => { x with txSeq := 0, retry := [], rxSeq := 0, naking := false, again := 0, winFlits := 0,
                                        winErrors := 0, rxBytes := [], lanes := [], credit := [], record := none,
                                        step := 1, passed := [], turn := [] }) s
  bump R.PLT_CNT_LOST_PKT lost s

/-- A port stops carrying traffic in a STATE. -/
def portStop (p st : Nat) (s : State) : State :=
  let r := R.PLT_PORT_STAT p
  let s := setPortState p st (portDiscard p s)
  qosRefresh (setFld r F.PLT_PORT_STAT_TX_WIDTH 0 (setFld r F.PLT_PORT_STAT_RX_WIDTH 0 s))

/-- R386: PLT_PORT_STATE. -/
def portEvent (p : Nat) (s : State) : State :=
  let r := R.PLT_PORT_STAT p
  event 0x0A02 0x0C p p (s.portState p) (s.fld r F.PLT_PORT_STAT_PARTNER) (s.fld r F.PLT_PORT_STAT_PARTNER_PORT) s

/-! ### Leases as the fabric sees them -/

/-- A lease of which nothing is known. -/
def lease0 : Lease := { was := 0, since := 0, t0 := 0, msgs := [], last := none }
/-- A lease's times and message: incoming 0 to 63, outgoing 64 to 127. -/
def State.lease (s : State) (i : Nat) : Lease := mapGet s.plt.leases i lease0
/-- Change a lease's times and message. -/
def updLease (i : Nat) (f : Lease → Lease) (s : State) : State :=
  updPlt (fun x => { x with leases := mapPut x.leases i (f (mapGet x.leases i lease0)) }) s
/-- The control register of a lease. -/
def leaseCtl (i : Nat) : Reg := if i < 64 then R.PLT_LIN_CTL i else R.PLT_LOUT_CTL (i - 64)
/-- The size register of a lease. -/
def leaseSize (i : Nat) : Reg := if i < 64 then R.PLT_LIN_SIZE i else R.PLT_LOUT_SIZE (i - 64)
/-- STATE of a lease: 0 closed, 1 offered, 2 active, 3 notice, 4 hold, 5 unreachable. -/
def State.leaseState (s : State) (i : Nat) : Nat := s.fld (leaseCtl i) F.PLT_LIN_CTL_STATE
/-- Set STATE of a lease. -/
def setLeaseState (i v : Nat) (s : State) : State := setFld (leaseCtl i) F.PLT_LIN_CTL_STATE v s
/-- The peer of a lease. -/
def State.leasePeer (s : State) (i : Nat) : Nat := s.fld (leaseCtl i) F.PLT_LIN_CTL_PEER
/-- The epoch of a lease. -/
def State.leaseEpoch (s : State) (i : Nat) : Nat := s.fld (leaseCtl i) F.PLT_LIN_CTL_EPOCH

/-- R205: a lease becomes UNREACHABLE. -/
def leaseUnreach (i : Nat) (s : State) : State :=
  let st := s.leaseState i
  if st = 0 ∨ st = 5 then s
  else
    let now := s.nclk
    let s := updLease i (fun x => { x with was := st, since := now }) (setLeaseState i 5 s)
    event 0x0507 0 0 (i % 64) (s.leasePeer i) 0 0 s

end Sys2Proof.Machine
end

