-- ==== Sys2Proof/Machine/Plt.lean ====
section
/-! DEFINITION. Packets that have arrived over the Plotre fabric: remote access at the lender and replies at the borrower
(R332, R338 to R341), counters and test mode (R348, R349). -/

namespace Sys2Proof.Machine

/-! ### Arrivals -/

/-- Take the first element that satisfies a test. -/
def takeFirst {α : Type} (f : α → Bool) : List α → Option (α × List α)
  | [] => none
  | x :: t => if f x then some (x, t) else
    match takeFirst f t with
    | some (y, r) => some (y, x :: r)
    | none => none

/-- The oldest arrival of a plane and VC. -/
def State.arrival (s : State) (plane vc : Nat) : Option ((Nat × Packet) × List (Nat × Packet)) :=
  takeFirst (fun x => planeOf x.1 == plane && pktVc x.2.type == vc) s.plt.inq

/-- The oldest arrival of a plane and a type's VC is taken if it is of that type and good. -/
def withArrival (plane type : Nat) (f : Nat → Packet → State → State) (s : State) : State :=
  match s.arrival plane (pktVc type) with
  | some ((k, q), rest) =>
    if q.type = type ∧ !q.bad then f k q (freeCredit k q (updPlt (fun x => { x with inq := rest }) s)) else s
  | none => s

/-- R332: RESERVED_PACKET_TYPE: a packet with a reserved value is dropped; a request gets a NACK. -/
def execReservedPacketType (plane : Fin 2) (vc : Fin 4) (s : State) : Host.Outcome State Fault Refusal :=
  .next (match s.arrival plane vc with
    | some ((k, q), rest) =>
      if !q.bad then s
      else
        let s := freeCredit k q (updPlt (fun x => { x with inq := rest }) s)
        let s := event 0x0A04 0x0C (k - 2) (k - 2) q.type q.src 0 s
        if pktIsRequest q.type then replyTo k q 0x0B St.badCommand [] s else s
    | none => s)

/-! ### Remote access at the lender (R339) -/

/-- R339: whether a request is performed at the lender: its address there; a stale epoch; or no lease. -/
inductive Grant where
  | at_ (a : Nat)
  | stale
  | none
deriving DecidableEq, Repr

/-- R339, R201: the lease of a request. -/
def State.grant (s : State) (q : Packet) (write : Bool) : Grant :=
  let mine := (List.range 64).filter fun i => s.fld (R.PLT_LOUT_CTL i) F.PLT_LOUT_CTL_PEER == q.src
  let st (i : Nat) : Nat := s.fld (R.PLT_LOUT_CTL i) F.PLT_LOUT_CTL_STATE
  let ep (i : Nat) : Nat := s.fld (R.PLT_LOUT_CTL i) F.PLT_LOUT_CTL_EPOCH
  match mine.find? fun i => st i != 0 with
  | some i =>
    if ep i ≠ q.epoch2 then .stale
    else if !(st i == 2 || st i == 3 || st i == 4) || (write && st i == 4) ||
        decide (8 * q.addr + q.span > 65536 * s.fld (R.PLT_LOUT_SIZE i) F.PLT_LOUT_SIZE_UNITS) then .none
    else .at_ (s.reg (R.PLT_LOUT_BASE i) + 8 * q.addr)
  | none => if mine.any fun i => ep i != 0 && ep i != q.epoch2 then .stale else .none

/-- R339: what serving a request came to: a reply of a type with its payload, a NACK, or it waits for a repair. -/
inductive Served where
  | reply (type : Nat) (payload : List Byte) (s : State)
  | nack (status : Nat) (s : State)
  | later (s : State)

/-- R199, R339: the NACK of a failed access at the lender. -/
def lenderNack (e : AccErr) : Nat := if e = .address then St.badCommand else St.objectLost

/-- R339: a read by a remote part. -/
def serveRead (type : Nat) (r : Rd × State) : Served :=
  match r with
  | (.ok bs, s) => .reply type bs s
  | (.held, s) => .later s
  | (.err e, s) => .nack (lenderNack e) s

/-- R339: a write by a remote part. -/
def serveWrite (r : Wr × State) : Served :=
  match r with
  | (.ok, s) => .reply 0x09 [] s
  | (.stall, s) => .later s
  | (.err e, s) => .nack (lenderNack e) s

/-- R339: perform the oldest request of a type; one that waits stays where it is. -/
def lenderServe (plane type : Nat) (write : Bool) (f : Waiter → Packet → Nat → State → Served) (s : State) : State :=
  match s.arrival plane 0 with
  | some ((k, q), rest) =>
    if q.type ≠ type ∨ q.bad then s
    else
      let drop (s : State) : State := freeCredit k q (updPlt (fun x => { x with inq := rest }) s)
      let w : Waiter := .remote q.src q.tag
      match s.grant q write with
      | .stale => drop (bump R.PLT_LEASE_CNT_STALE 1 s)
      | .none => replyTo k q 0x0B St.revoked [] (drop (bump R.PLT_CNT_NOLEASE 1 s))
      | .at_ a =>
        if s.ms.failed.contains w then replyTo k q 0x0B St.objectLost [] (drop (clearFailed w s))
        else match f w q a s with
        | .reply t bs s => replyTo k q t St.ok bs (drop s)
        | .nack st s => replyTo k q 0x0B st [] (drop s)
        | .later s => s
  | none => s

/-- R339: RD. -/
def execPktRd (plane : Fin 2) (s : State) : Host.Outcome State Fault Refusal :=
  .next (lenderServe plane 1 false (fun w q a s => serveRead 0x08 (readRange w a q.span s)) s)

/-- R339: WR. -/
def execPktWr (plane : Fin 2) (s : State) : Host.Outcome State Fault Refusal :=
  .next (lenderServe plane 2 true (fun w q a s => serveWrite (writeRange w true a q.payload s)) s)

/-- R332: the runs of bytes that a masked write writes. -/
def maskRuns (q : Packet) : List (Nat × List Byte) := activeRuns (leAt q.payload 0 8) (sliceBytes q.payload 8 64)

/-- R339: WRMASK. -/
def execPktWrmask (plane : Fin 2) (s : State) : Host.Outcome State Fault Refusal :=
  .next (lenderServe plane 3 true (fun w q a s =>
    if s.asleep a 64 then .later s
    else (maskRuns q).foldl (fun r x => match r with
      | .reply _ _ s => serveWrite (writeRange w true (a + x.1) x.2 s)
      | o => o) (.reply 0x09 [] s)) s)

/-- R339, R115: AMO. -/
def execPktAmo (plane : Fin 2) (s : State) : Host.Outcome State Fault Refusal :=
  .next (lenderServe plane 4 true (fun w q a s =>
    serveRead 0x0A (memAmo w q.fnStatus a (leAt q.payload 0 8) (leAt q.payload 8 8) s)) s)

/-! ### Replies at the borrower (R340, R341) -/

/-- A reply that answers a request in flight, of a lease epoch that is not stale. -/
def withReply (plane type : Nat) (f : Nat → FabReq → Packet → State → State) (s : State) : State :=
  withArrival plane type (fun _ q s =>
    let i := tagIndex q.tag
    match (s.tagSlot i).req with
    | none => bump R.PLT_CNT_STALE 1 s
    | some r =>
      if (s.tagSlot i).epoch ≠ q.tagEpoch then bump R.PLT_CNT_STALE 1 s
      else
        let a := 4 * 2 ^ 60 + r.pkt.dst * 2 ^ 45 + 8 * r.pkt.addr
        let epoch := match s.leaseOf a with
          | some l => s.fld (R.PLT_LIN_CTL l) F.PLT_LIN_CTL_EPOCH
          | none => q.epoch2 + 1
        if epoch ≠ q.epoch2 then bump R.PLT_LEASE_CNT_STALE 1 s else f i r q (freeSlot i s)) s

/-- R341: hand a reply's payload to its requester. -/
def handReply (i : Nat) (r : FabReq) (q : Packet) (s : State) : State :=
  match r.who with
  | .ctx c => ctxReply c i (some q.payload) s
  | .engine e => if r.pkt.type = 1 ∨ r.pkt.type = 4 then updEng e (fun x => { x with reply := some q.payload }) s else s
  | _ => s

/-- R341: RD_REPLY. -/
def execPktRdReply (plane : Fin 2) (s : State) : Host.Outcome State Fault Refusal := .next (withReply plane 0x08 handReply s)

/-- R341: WR_ACK. -/
def execPktWrAck (plane : Fin 2) (s : State) : Host.Outcome State Fault Refusal := .next (withReply plane 0x09 handReply s)

/-- R341: AMO_REPLY. -/
def execPktAmoReply (plane : Fin 2) (s : State) : Host.Outcome State Fault Refusal := .next (withReply plane 0x0A handReply s)

/-- R341: a request fails at its requester with a status. -/
def failRequest (i : Nat) (r : FabReq) (status : Nat) (s : State) : State :=
  match r.who with
  | .ctx c => ctxReply c i none s
  | .engine e => updEng e (fun x => { x with failed := some (status, 4 * 2 ^ 60 + r.pkt.dst * 2 ^ 45 + 8 * r.pkt.addr) }) s
  | _ => s

/-- R341: NACK. -/
def execPktNack (plane : Fin 2) (s : State) : Host.Outcome State Fault Refusal :=
  .next (withReply plane 0x0B (fun i r q s =>
    let a := 4 * 2 ^ 60 + r.pkt.dst * 2 ^ 45 + 8 * r.pkt.addr
    if q.fnStatus = St.unreachable then
      let s := failRequest i r St.unreachable s
      match s.leaseOf a with
      | some l => leaseUnreach l s
      | none => s
    else if q.fnStatus = St.objectLost then
      if r.pkt.type = 1 ∧ (s.ownerOf a).isSome then
        let s := rcvAttach (planeOf plane) (s.unitOf a) r.who s
        match r.who with
        | .ctx c => ctxPark c i s
        | _ => s
      else failRequest i r St.objectLost s
    else if q.fnStatus = St.badCommand then failRequest i r St.busError s
    else failRequest i r q.fnStatus s) s)

/-- R340: one millisecond of NCLK. -/
def fabTimeout : Nat := 1800000

/-- R340, R205: a request has had no reply within 1 ms. -/
def execFabricRequestTimeout (plane : Fin 2) (slot : Fin 4096) (s : State) : Host.Outcome State Fault Refusal :=
  let i := plane.val * 4096 + slot.val
  .next (match (s.tagSlot i).req with
    | none => s
    | some r =>
      if s.nclk < r.time + fabTimeout then s
      else
        let s := bump R.PLT_CNT_TIMEOUT 1 (stepSlot i s)
        let s := match r.who with
          | .ctx c => ctxNoReply c i s
          | _ => failRequest i r St.busError s
        match s.leaseOf (4 * 2 ^ 60 + r.pkt.dst * 2 ^ 45) with
        | some l => leaseUnreach l s
        | none => s)

/-! ### Counters and test mode -/

/-- R349: zero every counter of the global and port blocks. -/
def pltCntClear (who : Who) (s : State) : State :=
  if !s.privWriter who then ignoredWrite who R.PLT_CNT_CLEAR.off s
  else
    let s := zeroRegs [R.PLT_CNT_STALE, R.PLT_CNT_UNREACH, R.PLT_CNT_TIMEOUT, R.PLT_CNT_DETOUR, R.PLT_CNT_NOLEASE,
      R.PLT_CNT_LOST_PKT, R.PLT_CNT_COLL_FAIL] s
    zeroRegs ((List.range 16).flatMap fun p => [R.PLT_CNT_FEC_CORR p, R.PLT_CNT_FEC_UNCORR p, R.PLT_CNT_CRC p,
      R.PLT_CNT_REPLAY p, R.PLT_CNT_RETRAIN p, R.PLT_CNT_FLITS_TX p, R.PLT_CNT_FLITS_RX p, R.PLT_CNT_INJECT p]) s

/-- R349: PLT_CNT_CLEAR. -/
def execPltCntClear (who : Who) (s : State) : Host.Outcome State Fault Refusal := .next (pltCntClear who s)

/-- R348: a write to PLT_TEST_CTL: PF0 only, and only while ARMED. Setting ENABLE records an event. -/
def pltTestCtlWrite (who : Who) (p val : Nat) (s : State) : State :=
  let r := R.PLT_TEST_CTL p
  if who ≠ .pf0 ∨ !s.whoOpen who ∨ !s.flag R.PLT_TEST_EN F.PLT_TEST_EN_ARMED then ignoredWrite who r.off s
  else
    let was := s.flag r F.PLT_TEST_CTL_ENABLE
    let s := setReg r (bitsOf val 63 11 * 2 ^ 11 + bitsOf val 8 0) s
    if bitAt val 8 && !was then event 0x0A05 0x0C p p (bitsOf val 31 0) (bitsOf val 63 32) 0 s else s

/-- R348: PLT_TEST_CTL_WRITE. -/
def execPltTestCtlWrite (who : Who) (p : Fin 16) (val : BitVec 64) (s : State) : Host.Outcome State Fault Refusal :=
  .next (pltTestCtlWrite who p val.toNat s)

end Sys2Proof.Machine
end

