-- ==== Sys2Proof/Machine/Coll.lean ====
section
/-! DEFINITION. Collective reduction (R343 to R347), the forwarding of packets (R334, R335), and what the loss of a port
does to both. -/

namespace Sys2Proof.Machine

/-! ### The tree (R343) -/

/-- A bound of a context's box: dimension, and 0 for the lowest or 1 for the highest. -/
def State.boxOf (s : State) (c d hi : Nat) : Nat :=
  bitsOf (s.reg (R.PLT_COLL_BOX c)) (10 * d + 5 * hi + 4) (10 * d + 5 * hi)
/-- The box contains the part. -/
def State.inBox (s : State) (c : Nat) : Bool :=
  (List.range 3).all fun d => decide (s.boxOf c d 0 ≤ coordOf s.ownCoords d) && decide (coordOf s.ownCoords d ≤ s.boxOf c d 1)
/-- The part is the root of the box. -/
def State.isRoot (s : State) (c : Nat) : Bool := (List.range 3).all fun d => coordOf s.ownCoords d == s.boxOf c d 0
/-- R343: the dimension in which the parent lies. -/
def State.parentDim (s : State) (c : Nat) : Nat :=
  ((List.range 3).find? fun d => decide (coordOf s.ownCoords d > s.boxOf c d 0)).getD 3
/-- R343: the dimensions in which children lie. -/
def State.childDims (s : State) (c : Nat) : List Nat :=
  (List.range 3).filter fun d => decide (coordOf s.ownCoords d < s.boxOf c d 1) &&
    (List.range d).all fun i => coordOf s.ownCoords i == s.boxOf c i 0
/-- The part one step away in a dimension. -/
def State.stepIn (s : State) (d : Nat) (plus : Bool) : Nat :=
  let x := coordOf s.ownCoords d
  setCoord s.ownCoords d (if plus then x + 1 else x - 1)
/-- The parent of this part. -/
def State.collParent (s : State) (c : Nat) : Nat := s.stepIn (s.parentDim c) false
/-- The children of this part. -/
def State.collChildren (s : State) (c : Nat) : List Nat := (s.childDims c).map fun d => s.stepIn d true
/-- A tree link is there: up, or retraining, on either plane. -/
def State.treeLink (s : State) (d : Nat) (plus : Bool) : Bool :=
  [0, 1].any fun pl => s.portState (portFor pl d plus) == 4 || s.portState (portFor pl d plus) == 5
/-- R347: every tree link of a context is there. -/
def State.treeWhole (s : State) (c : Nat) : Bool :=
  (s.isRoot c || s.treeLink (s.parentDim c) false) && (s.childDims c).all fun d => s.treeLink d true

/-! ### Registers (R351) -/

/-- A field of a context's CTL. -/
def State.collCtl (s : State) (c : Nat) (f : Fld) : Nat := s.fld (R.PLT_COLL_CTL c) f
/-- OP: 0 SUM_SAT, 1 MAX. -/
def State.collOp (s : State) (c : Nat) : Nat := s.collCtl c F.PLT_COLL_CTL_OP
/-- KIND: 0 ALL_REDUCE, 1 REDUCE, 2 BROADCAST. -/
def State.collKind (s : State) (c : Nat) : Nat := s.collCtl c F.PLT_COLL_CTL_KIND
/-- SEQ. -/
def State.collSeq (s : State) (c : Nat) : Nat := s.collCtl c F.PLT_COLL_CTL_SEQ
/-- COUNT. -/
def State.collCount (s : State) (c : Nat) : Nat := s.collCtl c F.PLT_COLL_CTL_COUNT
/-- STATE: 0 idle, 1 running, 2 done, 3 failed. -/
def State.collState (s : State) (c : Nat) : Nat := s.fld (R.PLT_COLL_STAT c) F.PLT_COLL_STAT_STATE
/-- R344: chunks of a collective. -/
def State.collChunks (s : State) (c : Nat) : Nat := (s.collCount c + 127) / 128
/-- Elements of a chunk. -/
def State.chunkElems (s : State) (c i : Nat) : Nat := min 128 (s.collCount c - 128 * i)

/-- R346, R347: set the outcome and write NOTIFY. -/
def collEnd (c st status : Nat) (s : State) : State :=
  let r := R.PLT_COLL_STAT c
  let s := setFld r F.PLT_COLL_STAT_STATUS status (setFld r F.PLT_COLL_STAT_STATE st s)
  let n := s.reg (R.PLT_COLL_NOTIFY c)
  let s := updColl c (fun x => { x with chunks := [], done := [] }) s
  if n != 0 && s.reachable n 4 then poke n (leBytes 4 1) s else s

/-! ### Sending -/

/-- A COLL packet of a context for a chunk. COLL_ABORT carries the status where the others carry the chunk (log 66). -/
def collPacket (s : State) (c type dst i : Nat) (sat : Bool) (xs : List Int) : Packet :=
  let bs := packElems .int32 xs
  let bs := bs ++ List.replicate ((8 - bs.length % 8) % 8) 0
  { packetTo s type dst with
    epoch2 := s.collSeq c
    lenM8 := bs.length / 8 - 1
    fnStatus := s.collOp c + s.collKind c * 4 + sat.toNat * 16
    addr := c * 2 ^ 32 + i
    payload := bs }

/-- R347: a collective fails; `tell` names the parts that are sent COLL_ABORT. -/
def collFail (c status : Nat) (tell : List Nat) (s : State) : State :=
  let s := tell.foldl (fun s d => queuePacket 0 (collPacket s c 0x12 d status false []) s) s
  let s := event 0x0A03 0 0 c status (s.collSeq c) 0 s
  collEnd c 3 status (bump R.PLT_CNT_COLL_FAIL 1 s)

/-- The parts next to this one in the tree. -/
def State.treeParts (s : State) (c : Nat) : List Nat := (if s.isRoot c then [] else [s.collParent c]) ++ s.collChildren c

/-! ### Combining (R345) -/

/-- Combine two vectors: saturating sums or maxima, and whether an addition saturated. -/
def collCombine (op : Nat) (a b : List Int) : List Int × Bool :=
  if op = 1 then ((a.zip b).map fun p => max p.1 p.2, false)
  else
    let rs := (a.zip b).map fun p => satAdd32 p.1 p.2
    (rs.map (·.1), rs.any (·.2))

/-- A chunk of which nothing has arrived. -/
def chunk0 : CollChunk := { acc := none, sat := false, gave := [] }

/-- R345: a result chunk at this part: counted, written to DST where its KIND says so, and sent to the children. -/
def collResult (c i : Nat) (sat : Bool) (xs : List Int) (s : State) : State :=
  let kind := s.collKind c
  let st := R.PLT_COLL_STAT c
  let s := if sat then setFld st F.PLT_COLL_STAT_SAT_CHUNKS (s.fld st F.PLT_COLL_STAT_SAT_CHUNKS + 1) s else s
  let s := (s.collChildren c).foldl (fun s d =>
    queuePacket 0 (collPacket s c 0x11 d i sat (if kind = 1 then [] else xs)) s) s
  let s := if kind != 1 || s.isRoot c then poke (s.reg (R.PLT_COLL_DST c) + 512 * i) (packElems .int32 xs) s else s
  let s := updColl c (fun x => { x with done := setInsert x.done i, chunks := mapErase x.chunks i }) s
  if (s.coll c).done.length = s.collChunks c then collEnd c 2 St.ok s else s

/-- R345: a part of the tree gives its vector of a chunk; once all have given, the chunk goes up, or the root has its
result. `who` is the giver: a part, or 32 768 for this part's own input. -/
def collGive (c i who : Nat) (sat : Bool) (xs : List Int) (s : State) : State :=
  let x := mapGet (s.coll c).chunks i chunk0
  if x.gave.contains who ∨ (s.coll c).done.contains i then s
  else
    let (acc, sat') := match x.acc with
      | none => (xs, false)
      | some a => collCombine (s.collOp c) a xs
    let y : CollChunk := { acc := some acc, sat := x.sat || sat || sat', gave := x.gave ++ [who] }
    let s := updColl c (fun z => { z with chunks := mapPut z.chunks i y }) s
    if y.gave.length < (s.childDims c).length + 1 then s
    else if s.isRoot c then collResult c i y.sat acc s
    else queuePacket 0 (collPacket s c 0x10 (s.collParent c) i y.sat acc) s

/-- R345: read the part's own input and give it, chunk by chunk. A read held for a repair is made again when it ends. -/
def collFeed (c : Nat) (s : State) : State :=
  if s.collState c ≠ 1 then s
  else match readRange (.coll c) (s.reg (R.PLT_COLL_SRC c)) (4 * s.collCount c) s with
  | (.held, s) => s
  | (.err _, s) => collFail c St.objectLost (s.treeParts c) s
  | (.ok bs, s) =>
    (List.range (s.collChunks c)).foldl (fun s i =>
      let xs := unpackElems .int32 ((bs.drop (512 * i)).take 512) (s.chunkElems c i)
      if s.collKind c = 2 then collResult c i false xs s else collGive c i 32768 false xs s) s

/-! ### Arrivals -/

/-- The part a COLL packet came from, for the context it names. -/
def collSeqAhead (a b : Nat) : Bool := (a + 256 - b) % 256 == 1

/-- R344, R346: what a COLL packet does whose SEQ is the context's. -/
def collTake (c : Nat) (q : Packet) (s : State) : State :=
  let i := q.addr % 2 ^ 32
  let sat := bitAt q.fnStatus 4
  if s.collState c ≠ 1 then s
  else if q.type = 0x12 then collFail c i ((s.treeParts c).filter (· != q.src)) s
  else if bitsOf q.fnStatus 1 0 ≠ s.collOp c ∨ bitsOf q.fnStatus 3 2 ≠ s.collKind c ∨ s.collChunks c ≤ i then
    collFail c St.badCommand [] s
  else
    let xs := unpackElems .int32 q.payload (s.chunkElems c i)
    if q.type = 0x10 then collGive c i q.src sat xs s
    else if (s.coll c).done.contains i then s
    else collResult c i sat xs s

/-- R346: a COLL packet is processed, waits for the local GO, or is dropped. -/
def collArrive (plane type : Nat) (s : State) : State :=
  match s.arrival plane 2 with
  | some ((k, q), rest) =>
    if q.type ≠ type ∨ q.bad then s
    else
      let c := bitsOf q.addr 37 32 % 64
      let s := updPlt (fun x => { x with inq := rest }) s
      if q.epoch2 = s.collSeq c then collTake c q (freeCredit k q s)
      else if collSeqAhead q.epoch2 (s.collSeq c) then updColl c (fun x => { x with ahead := x.ahead ++ [(k, q)] }) s
      else bump R.PLT_CNT_STALE 1 (freeCredit k q s)
  | none => s

/-- R345: COLL_UP. -/
def execPktCollUp (plane : Fin 2) (s : State) : Host.Outcome State Fault Refusal := .next (collArrive plane 0x10 s)

/-- R345: COLL_DOWN. -/
def execPktCollDown (plane : Fin 2) (s : State) : Host.Outcome State Fault Refusal := .next (collArrive plane 0x11 s)

/-- R347: COLL_ABORT. -/
def execPktCollAbort (plane : Fin 2) (s : State) : Host.Outcome State Fault Refusal := .next (collArrive plane 0x12 s)

/-! ### GO, ABORT and the timeout -/

/-- R347, R351: GO fails at once: a reserved value, a box without the part, no elements, or an address outside T0 to
T2. -/
def State.collBad (s : State) (c : Nat) : Bool :=
  let n := s.reg (R.PLT_COLL_NOTIFY c)
  decide (1 < s.collOp c) || s.collKind c == 3 || !s.inBox c || s.collCount c == 0 ||
    !s.reachable (s.reg (R.PLT_COLL_SRC c)) (4 * s.collCount c) ||
    !s.reachable (s.reg (R.PLT_COLL_DST c)) (4 * s.collCount c) || (n != 0 && !s.reachable n 4)

/-- R345, R346: GO steps SEQ and starts the collective; packets that came one ahead are taken. -/
def collGo (c : Nat) (s : State) : State :=
  let s := setFld (R.PLT_COLL_CTL c) F.PLT_COLL_CTL_SEQ ((s.collSeq c + 1) % 256) s
  let st := R.PLT_COLL_STAT c
  let s := setReg st 1 s
  let now := s.nclk
  let ahead := (s.coll c).ahead
  let s := updColl c (fun x => { x with time := now, chunks := [], done := [], ahead := [] }) s
  if s.collBad c then collFail c St.badCommand [] s
  else if !s.treeWhole c then collFail c St.unreachable (s.treeParts c) s
  else
    let s := if s.collKind c = 2 ∧ !s.isRoot c then s else collFeed c s
    ahead.foldl (fun s x => collTake c x.2 (freeCredit x.1 x.2 s)) s

/-- R351: a write to CTL. While the collective runs only ABORT acts. -/
def collCtlWrite (who : Who) (c val : Nat) (s : State) : State :=
  let r := R.PLT_COLL_CTL c
  if !s.privWriter who then ignoredWrite who r.off s
  else if s.collState c = 1 then
    if bitAt val 2 then collFail c St.aborted (s.treeParts c) s else ignoredWrite who r.off s
  else
    let s := setReg r (bitsOf val 63 32 * 2 ^ 32 + s.collSeq c * 2 ^ 24 + bitsOf val 11 8 * 2 ^ 8 + bitsOf val 0 0) s
    if bitAt val 2 then s
    else if !bitAt val 1 then s
    else if bitAt val 0 then collGo c s
    else ignoredWrite who r.off s

/-- R351: a write to BOX, SRC, DST or NOTIFY, not while the collective runs. -/
def collRegWrite (who : Who) (c : Nat) (r : Reg) (val : Nat) (s : State) : State :=
  if !s.privWriter who || s.collState c == 1 then ignoredWrite who r.off s else setReg r val s

/-- R345: COLL_GO: a write of CTL as it stands, with GO and without ABORT. -/
def execCollGo (who : Who) (c : Fin 64) (s : State) : Host.Outcome State Fault Refusal :=
  .next (collCtlWrite who c (setBits (s.reg (R.PLT_COLL_CTL c)) 2 1 1) s)

/-- R347: COLLECTIVE_ABORT: a write of CTL as it stands, with ABORT and without GO. -/
def execCollectiveAbort (who : Who) (c : Fin 64) (s : State) : Host.Outcome State Fault Refusal :=
  .next (collCtlWrite who c (setBits (s.reg (R.PLT_COLL_CTL c)) 2 1 2) s)

/-- R347: COLL_TIMEOUT: the limit of PLT_CTL has passed since GO. -/
def execCollTimeout (c : Fin 64) (s : State) : Host.Outcome State Fault Refusal :=
  let ms := s.fld R.PLT_CTL F.PLT_CTL_COLL_TIMEOUT
  .next (if s.collState c != 1 || ms == 0 || decide (s.nclk < (s.coll c).time + 1800000 * ms) then s
    else collFail c 0x80 [] s)

/-! ### Forwarding -/

/-- R347: the running collectives whose tree has lost a link fail. -/
def collCheck (s : State) : State :=
  (List.range 64).foldl (fun s c =>
    if s.collState c = 1 ∧ !s.treeWhole c then collFail c St.unreachable (s.treeParts c) s else s) s

/-- R343: the port of a tree packet: its dimension's port on plane 0, or on plane 1; it never detours. -/
def State.treeRoute (s : State) (k : Nat) (p : Packet) : Option Nat :=
  match s.nextMove k p with
  | none => none
  | some (d, plus, _) =>
    [portFor 0 d plus, portFor 1 d plus].find? fun x => s.portState x == 4 || s.portState x == 5

/-- R335: a packet that no port can take: a request becomes a NACK, any other packet is dropped. -/
def unroutable (k : Nat) (p : Packet) (s : State) : State :=
  let s := bump R.PLT_CNT_UNREACH 1 s
  if pktIsRequest p.type then replyTo k p 0x0B St.unreachable [] s else s

/-- R335, R343: the port by which a packet leaves, the packet as it leaves, and its port's place in the routing list. -/
def State.leaves (s : State) (k : Nat) (p : Packet) : Option (Nat × Packet × Nat) :=
  if pktVc p.type = 2 then (s.treeRoute k p).map fun out => (out, p, 0)
  else (s.route k p).map fun (out, i, back) => (out, { p with dl := s.newDl k out p, rev := if back then 1 else p.rev }, i)

/-- R336: the inputs of an output port: the local injection, and the ports. -/
def inputOf (k : Nat) : Nat := if k < 2 then 0 else k - 1
/-- R336: how many inputs there are. -/
def inputs : Nat := 17

/-- R336: a waiting packet is one of a VC that an input has for an output port. -/
def State.isFor (s : State) (out vc input : Nat) (x : Nat × Packet) : Bool :=
  pktVc x.2.type == vc && inputOf x.1 == input && (match s.leaves x.1 x.2 with
    | some (o, _, _) => o == out
    | none => false)

/-- R329, R336: the oldest packet of a VC that an input has for an output port can be sent. -/
def State.inputReady (s : State) (out vc input : Nat) : Bool :=
  match s.fabQ.find? (s.isFor out vc input) with
  | none => false
  | some x => match s.leaves x.1 x.2 with
    | some (o, q, _) => s.portState o == 4 && s.portRoom o q
    | none => false

/-- R336: the input that an output port serves next on a VC, in round robin; none where the VC has no flits ready. -/
def State.nextInput (s : State) (out vc : Nat) : Option Nat :=
  ((List.range inputs).map fun i => (mapGet (s.port out).turn vc 0 + 1 + i) % inputs).find? (s.inputReady out vc)

/-- R336: the order in which an output port serves its VCs. -/
def vcOrder : List Nat := [3, 1, 2, 0]
/-- R336: flit slots for which a VC may be passed over. -/
def vcPatience : Nat := 64

/-- R336: the VC that an output port serves next: one passed over for 64 slots, else the first in order. -/
def State.nextVc (s : State) (out : Nat) : Option Nat :=
  let ready := vcOrder.filter fun v => (s.nextInput out v).isSome
  (ready.find? fun v => vcPatience ≤ mapGet (s.port out).passed v 0).orElse fun _ => ready.head?

/-- R336: the slots of a packet are taken: the other VCs with flits ready are passed over. -/
def passOver (out vc input n : Nat) (s : State) : State :=
  let passed := (vcOrder.filter fun v => v != vc && (s.nextInput out v).isSome).foldl
    (fun m v => mapPut m v (mapGet (s.port out).passed v 0 + n)) []
  updPort out (fun x => { x with passed, turn := mapPut x.turn vc input }) s

/-- R335, R336: an output port sends the packet whose turn it is, whole (log 114). -/
def serveOutput (out : Nat) (s : State) : State :=
  match s.nextVc out with
  | none => s
  | some vc => match s.nextInput out vc with
    | none => s
    | some input => match takeFirst (s.isFor out vc input) s.fabQ with
      | none => s
      | some ((k, p), rest) => match s.leaves k p with
        | none => s
        | some (o, q, i) =>
          let s := { passOver out vc input q.flits s with fabQ := rest }
          freeCredit k p (emitPacket o q (if i = 0 then s else bump R.PLT_CNT_DETOUR 1 s))

/-- R335, R343: a packet that no port can take, or that breaks its collective. -/
def dropUnrouted (k : Nat) (p : Packet) (s : State) : State :=
  freeCredit k p (if pktVc p.type = 2 then collCheck s else unroutable k p s)

/-- R335, R336: PACKET_FORWARD: the oldest packet that cannot be routed is dealt with; where every packet can be, an output
port sends one. -/
def execPacketForward (port : Fin 16) (s : State) : Host.Outcome State Fault Refusal :=
  .next (match takeFirst (fun x => (s.leaves x.1 x.2).isNone) s.fabQ with
    | some ((k, p), rest) => dropUnrouted k p { s with fabQ := rest }
    | none => serveOutput port s)

end Sys2Proof.Machine
end

