-- ==== Sys2Proof/Machine/Events.lean ====
section
/-! DEFINITION. The event recorder (spec/14): accepting a record, its buckets, and the main and tenant rings. -/

namespace Sys2Proof.Machine

/-- Change the recorder. -/
def updEv (f : Recorder → Recorder) (s : State) : State := { s with ev := f s.ev }

/-- R378: slots of the main ring. -/
def mainSlots : Nat := 2097152

/-- R374: SEQ of record number `n`. -/
def evSeq (n : Nat) : Nat := n % 4194303 + 1

/-- R372, R374: the 32 bytes of a record. -/
def evBytes (e : EvRec) (seq suppressed : Nat) (tenant : Bool) : List Byte :=
  leBytes 2 e.code ++ leBytes 2 (packSource e.kind e.inst) ++ leBytes 4 e.p0 ++ leBytes 8 e.time ++ leBytes 4 e.p1 ++
    leBytes 4 e.p2 ++ leBytes 4 e.p3 ++
    leBytes 4 (seq * 1024 + (evFatal e.code).toNat * 512 + tenant.toNat * 256 + min 255 suppressed)

/-- R378, R453: a ring write succeeds unless the slot's stack or address is out of service. -/
def State.ringOk (s : State) (a : Nat) : Bool := spaceOf a == .t1 && s.mapped a 32 && !s.pageOut (a / 4096)

/-- R378, R381: the zero fill of a ring in T1, whose words are encoded anew. -/
def zeroRing (a n : Nat) (s : State) : State :=
  if spaceOf a == .t1 then
    let m := memZero s.mem a n
    rewriteFlips a n { s with mem := m }
  else s

/-- R375: steps 1 to 3: zero MARK, bytes 0 to 27, MARK. -/
def writeRecord (a : Nat) (bs : List Byte) (s : State) : State :=
  poke (a + 28) (sliceBytes bs 28 4) (poke a (sliceBytes bs 0 28) (poke (a + 28) (leBytes 4 0) s))

/-- R375, R378, R453: write a record to the main ring; whether it was written. -/
def mainWrite (e : EvRec) (suppressed : Nat) (tenant : Bool) (s : State) : Bool × State :=
  let n := s.reg R.EVR_MAIN_WR
  let rd := s.reg R.EVR_MAIN_RD
  let a := s.reg R.EVR_MAIN_BASE + 32 * (n % mainSlots)
  if !s.ringOk a then (false, bump R.EVR_CNT_LOST 1 s)
  else
    let s := if n - rd ≥ mainSlots ∧ rd ≤ n then bump R.EVR_CNT_OVERRUN 1 s else s
    let s := setReg R.EVR_MAIN_WR (n + 1) (writeRecord a (evBytes e (evSeq n) suppressed tenant) s)
    (true, if s.flag R.EVR_CTL F.EVR_CTL_IEN && n == rd then sendMsix 0 (s.fld R.EVR_CTL F.EVR_CTL_VECTOR) s else s)

/-- R378: records kept before the base is set. -/
def preBaseMax : Nat := 256

/-- R384: forget the suppressed records of a bucket. -/
def clearSuppressed (k : Nat) (s : State) : State :=
  updEv (fun r => { r with buckets := mapUpd r.buckets k evBucket0 fun b => { b with suppressed := 0 } }) s

/-- R378: a record that passes its code's bucket goes to the main ring. -/
def toMain (e : EvRec) (tenant : Bool) (s : State) : State :=
  let k := evBucketKey e.code (evKey e)
  let sup := (mapGet s.ev.buckets k evBucket0).suppressed
  if !s.locked R.EVR_MAIN_BASE then
    if s.ev.preBase.length < preBaseMax then
      clearSuppressed k (updEv (fun r => { r with preBase := r.preBase ++ [(e, sup, tenant)] }) s)
    else bump R.EVR_CNT_LOST 1 s
  else
    let (ok, s) := mainWrite e sup tenant s
    if ok then clearSuppressed k s else s

/-- R383: PCLK cycles of a refill period of 10 ms / RATE, rounded down. A RATE of 0 sets no limit: no period (log 118). -/
def gainPeriod (rate : Nat) : Nat := 6750000 / rate

/-- R383: a bucket gains the tokens of the periods that have ended, until it is full. -/
def settleBucket (now rate : Nat) (b : EvBucket) : EvBucket :=
  if b.spent = 0 ∨ now < b.ends then b
  else
    let p := gainPeriod rate
    let n := if p = 0 then b.spent else min b.spent ((now - b.ends) / p + 1)
    { b with spent := b.spent - n, ends := b.ends + n * p }

/-- R383: a bucket test, after the gains: whether it passes, and the bucket then. The first period starts when the bucket
falls below BURST. -/
def bucketTake (now rate burst : Nat) (b : EvBucket) : Bool × EvBucket :=
  let b := settleBucket now rate b
  if rate = 0 then (true, b)
  else if b.spent < burst then
    (true, { b with spent := b.spent + 1, ends := if b.spent = 0 then now + gainPeriod rate else b.ends })
  else (false, b)

/-- R381: a copy that is not written: DROPPED and the ring's count of missed copies rise. -/
def dropRing (t : Nat) (s : State) : State :=
  let r := R.EVR_TR_STAT (t + 1)
  let d := s.fld r F.EVR_TR_STAT_DROPPED
  evSuppressTr t (setFld r F.EVR_TR_STAT_DROPPED (min 0xFFFFFFFF (d + 1)) s)

/-- R381: slots of a tenant ring. -/
def State.trSlots (s : State) (t : Nat) : Nat := 2 ^ (7 + s.fld (R.EVR_TR_BASE t) F.EVR_TR_BASE_SIZE)

/-- R381, R384: offer a copy to a tenant ring. -/
def toTenant (e : EvRec) (t : Nat) (s : State) : State :=
  let ctl := R.EVR_TR_CTL t
  let wr := R.EVR_TR_WR (t + 1)
  let b := mapGet s.ev.trBucket t evBucket0
  if s.ev.filling.contains t then evSuppressTr t s
  else
    let (ok, b) := bucketTake s.pclk (s.fld ctl F.EVR_TR_CTL_RATE) (s.fld ctl F.EVR_TR_CTL_BURST) b
    let s := updEv (fun r => { r with trBucket := mapPut r.trBucket t b }) s
    if !ok then dropRing t s
    else
      let n := s.reg wr
      let rd := s.reg (R.EVR_TR_RD (t + 1))
      let a := s.fld (R.EVR_TR_BASE t) F.EVR_TR_BASE_ADDR * 4096 + 32 * (n % s.trSlots t)
      if n - rd = s.trSlots t ∨ !s.ringOk a then dropRing t s
      else
        let s := setReg wr (n + 1) (writeRecord a (evBytes e (evSeq n) b.suppressed true) s)
        let s := updEv (fun r => { r with trBucket := mapUpd r.trBucket t evBucket0 fun b => { b with suppressed := 0 } }) s
        if s.flag ctl F.EVR_TR_CTL_IEN && n == rd then sendMsix (t + 1) (s.fld ctl F.EVR_TR_CTL_VECTOR) s else s

/-- R385, R411: a fatal record is reported over the sideband. -/
def noteFatal (e : EvRec) (s : State) : State :=
  if !evFatal e.code then s
  else
    let m := { s.mgmt with smbAlert := true }
    updEv (fun r => { r with fatal := r.fatal ++ [e] }) { s with mgmt := m }

/-- R378 to R385: the recorder accepts a record. -/
def acceptRecord (e : EvRec) (s : State) : State :=
  let cfg := R.EVR_CODE_CFG (e.code % 4096)
  let ring := match e.tenant with
    | some t => s.flag (R.EVR_TR_CTL t) F.EVR_TR_CTL_VALID
    | none => false
  let copy (s : State) : State := match e.tenant with
    | some t => if ring then toTenant e t s else s
    | none => s
  if evFatal e.code then noteFatal e (copy (toMain e ring s))
  else if !s.flag cfg F.EVR_CODE_CFG_ENABLE then s
  else
    let k := evBucketKey e.code (evKey e)
    let b := mapGet s.ev.buckets k evBucket0
    let (ok, b) := bucketTake s.pclk (s.fld cfg F.EVR_CODE_CFG_RATE) (s.fld cfg F.EVR_CODE_CFG_BURST) b
    let s := updEv (fun r => { r with buckets := mapPut r.buckets k b }) s
    copy (if ok then toMain e ring s else evSuppress e s)

/-- R379, R394: a recorder writes: there is a leader, and no split claim holds it. -/
def State.recorderRuns (s : State) : Bool :=
  !s.flag R.FMN_LEAD_STAT F.FMN_LEAD_STAT_NONE && !s.flag R.FMN_LEAD_STAT F.FMN_LEAD_STAT_FROZEN

/-- R375, R379, R380: EVENT_ACCEPT: the oldest record of a source. -/
def execEventAccept (kind : Fin 32) (inst : Fin 2048) (s : State) : Host.Outcome State Fault Refusal :=
  let k := evSource kind inst
  .next (if !s.recorderRuns then s
    else match mapGet s.ev.queues k [] with
    | [] => s
    | e :: rest => acceptRecord e (updEv (fun r => { r with queues := mapPut r.queues k rest }) s))

/-- R383: EVENT_BUCKET_REFILL: a code's bucket, or a tenant ring's, gains the tokens of the periods that have ended. -/
def execEventBucketRefill (ring : Bool) (k key : Nat) (s : State) : Host.Outcome State Fault Refusal :=
  .next (updEv (fun r =>
    if ring then
      let rate := s.fld (R.EVR_TR_CTL k) F.EVR_TR_CTL_RATE
      if (mapFind r.trBucket k).isSome then { r with trBucket := mapUpd r.trBucket k evBucket0 (settleBucket s.pclk rate) }
      else r
    else if (mapFind r.buckets (evBucketKey k key)).isSome then
      let rate := s.fld (R.EVR_CODE_CFG (k % 4096)) F.EVR_CODE_CFG_RATE
      { r with buckets := mapUpd r.buckets (evBucketKey k key) evBucket0 (settleBucket s.pclk rate) }
    else r) s)

/-- R383: a bucket whose BURST and RATE are written: its content is cut to the new BURST, and where that leaves it below
BURST the refill period starts if it was not running. A running period ends as the old RATE set it. -/
def rebase (now : Nat) (old new : Nat × Nat) (b : EvBucket) : EvBucket :=
  let b := settleBucket now old.2 b
  { b with spent := new.1 - min (old.1 - b.spent) new.1
           ends := if b.spent = 0 then now + gainPeriod new.2 else b.ends }

/-- R384: the keys of a code: the SPIDs for HP1_NOMATCH. -/
def evKeys (k : Nat) : List Nat := if k % 4096 = 0x901 then List.range 4096 else [0]

/-- R5, R378: a write to EVR_MAIN_BASE: the ring is zero-filled, and what was kept is written in order. -/
def mainBaseWrite (who : Who) (mask val : Nat) (s : State) : State :=
  let r := R.EVR_MAIN_BASE
  if !s.privWriter who || mask != allBits then ignoredWrite who r.off s
  else if s.locked r then s
  else if spaceOf val != .t1 then ignoredWrite who r.off s
  else
    let a := val / 2 ^ 26 * 2 ^ 26
    let s := zeroRing a (2 ^ 26) (setReg r a s)
    let kept := s.ev.preBase
    let s := lockBits r allBits (updEv (fun x => { x with preBase := [] }) s)
    kept.foldl (fun s p => (mainWrite p.1 p.2.1 p.2.2 s).2) s

/-- R378: MAIN_RING_BASE_SET. -/
def execMainRingBaseSet (who : Who) (val : BitVec 64) (s : State) : Host.Outcome State Fault Refusal :=
  .next (mainBaseWrite who allBits val.toNat s)

/-- R7, R387: a write to EVR_TR_BASE: of SIZE only a value above 8 is ignored. -/
def trBaseWrite (who : Who) (t val : Nat) (s : State) : State :=
  let r := R.EVR_TR_BASE t
  let size := bitsOf val 3 0
  if !s.privWriter who || s.flag (R.EVR_TR_CTL t) F.EVR_TR_CTL_VALID || decide (size > 8) then ignoredWrite who r.off s
  else setReg r (val / 4096 * 4096 + size) s

/-- R381, R387: a write to EVR_TR_CTL: setting VALID starts the zero fill and zeroes WR and RD. -/
def trCtlWrite (who : Who) (t val : Nat) (s : State) : State :=
  let r := R.EVR_TR_CTL t
  if !s.privWriter who then ignoredWrite who r.off s
  else
    let was := s.flag r F.EVR_TR_CTL_VALID
    let old := (s.fld r F.EVR_TR_CTL_BURST, s.fld r F.EVR_TR_CTL_RATE)
    let burst := if bitsOf val 47 40 = 0 then 1 else bitsOf val 47 40
    let s := setReg r (burst * 2 ^ 40 + bitsOf val 39 32 * 2 ^ 32 + bitsOf val 15 5 * 32 + bitsOf val 1 0) s
    let s := updEv (fun x => { x with trBucket := mapUpd x.trBucket t evBucket0 (rebase s.pclk old (burst, bitsOf val 39 32)) }) s
    if bitAt val 0 && !was then
      let s := updEv (fun x => { x with filling := setInsert x.filling t }) s
      setReg (R.EVR_TR_WR (t + 1)) 0 (setReg (R.EVR_TR_RD (t + 1)) 0 s)
    else s

/-- R381: TENANT_RING_ENABLE. -/
def execTenantRingEnable (who : Who) (t : Fin 256) (s : State) : Host.Outcome State Fault Refusal :=
  .next (trCtlWrite who t (setBits (s.reg (R.EVR_TR_CTL t)) 0 0 1) s)

/-- R381: TENANT_RING_FILL_DONE. -/
def execTenantRingFillDone (t : Fin 256) (s : State) : Host.Outcome State Fault Refusal :=
  .next (if !s.ev.filling.contains t.val then s
    else
      let a := s.fld (R.EVR_TR_BASE t) F.EVR_TR_BASE_ADDR * 4096
      updEv (fun x => { x with filling := x.filling.filter (· != t.val) }) (zeroRing a (32 * s.trSlots t) s))

/-- R383, R387: a write to EVR_CODE_CFG; an index with no code ignores it. -/
def codeCfgWrite (who : Who) (k val : Nat) (s : State) : State :=
  let r := R.EVR_CODE_CFG k
  if !s.privWriter who || !evCodes.contains k then ignoredWrite who r.off s
  else
    let old := (s.fld r F.EVR_CODE_CFG_BURST, s.fld r F.EVR_CODE_CFG_RATE)
    let burst := if bitsOf val 23 16 = 0 then 1 else bitsOf val 23 16
    let s := setReg r (burst * 2 ^ 16 + bitsOf val 15 8 * 256 + bitsOf val 0 0) s
    let f := rebase s.pclk old (burst, bitsOf val 15 8)
    updEv (fun x => { x with buckets := (evKeys k).foldl (fun m key => mapUpd m (evBucketKey k key) evBucket0 f) x.buckets }) s

/-- R388: a write to EVR_TR_RD, from the function (or PF0 or the foreman). -/
def trRdWrite (who : Who) (f val : Nat) (s : State) : State :=
  let r := R.EVR_TR_RD f
  if f = 0 ∨ !s.fnWriter f who then ignoredWrite who r.off s else setReg r val s

/-- R387: zero every counter of the block. -/
def evrCntClear (who : Who) (s : State) : State :=
  if !s.privWriter who then ignoredWrite who R.EVR_CNT_CLEAR.off s
  else
    zeroRegs ([R.EVR_CNT_OVERRUN, R.EVR_CNT_LOST, R.EVR_CNT_SRC_DROP] ++ evCodes.map R.EVR_CODE_CNT ++
      (List.range 64).flatMap fun n => [R.EVR_T0_CNT_CORR n, R.EVR_T0_CNT_UNCORR n]) s

/-- R387: EVR_CNT_CLEAR. -/
def execEvrCntClear (who : Who) (s : State) : Host.Outcome State Fault Refusal := .next (evrCntClear who s)

end Sys2Proof.Machine
end

