-- ==== Sys2Proof/Machine/Ports.lean ====
section
/-! DEFINITION. The ports of the Plotre fabric: bring-up (R316 to R321, R327, R328), retrain and loss (R329, R330),
codewords and flits (R322 to R326). -/

namespace Sys2Proof.Machine

/-! ### Ports (R327 to R330) -/

/-- R318: a port passes feed light. -/
def State.portLit (s : State) (p : Nat) : Bool := [2, 3, 4, 5].contains (s.portState p)

/-- Bits set in a wavelength mask. -/
def lambdas (m : Nat) : Nat := popBits 8 m

/-- R327, R429: a port may train: it is enabled, PLT_SYS is written, the host gate is open, and its H-die is in
service. -/
def State.portMayTrain (s : State) (p : Nat) : Bool :=
  bitAt (s.fld R.PLT_CTL F.PLT_CTL_PORT_EN) p && s.sysSet && s.hostOpen && !s.portUnused p &&
    bitAt (s.fld R.FMN_TOPO_CAP F.FMN_TOPO_CAP_DIE_PRESENT) (4 + p / 8)

/-- Set the next step of bring-up. -/
def portStep (p k : Nat) (s : State) : State := updPort p (fun x => { x with step := k }) s

/-- R330, R347: a port stops carrying traffic; collectives that have lost a tree link fail. -/
def portLost (p st : Nat) (s : State) : State := collCheck (portStop p st s)

/-- R330: a port loses its link. -/
def portDown (p : Nat) (s : State) : State := portEvent p (portLost p 8 s)

/-- R349: a write to PLT_CTL: cleared enables take their ports to OFF at once. -/
def pltCtlWrite (who : Who) (val : Nat) (s : State) : State :=
  let r := R.PLT_CTL
  if !s.privWriter who then ignoredWrite who r.off s
  else
    let old := s.fld r F.PLT_CTL_PORT_EN
    let s := setReg r (bitsOf val 31 8 * 2 ^ 8) s
    (List.range 16).foldl (fun s p =>
      if bitAt old p && !bitAt val (16 + p) then (if s.portState p = 9 then s else portLost p 0 s)
      else if !bitAt old p && bitAt val (16 + p) then portStep p 1 s
      else s) s

/-- R327: PORT_ENABLE. -/
def execPortEnable (who : Who) (p : Fin 16) (on : Bool) (s : State) : Host.Outcome State Fault Refusal :=
  .next (pltCtlWrite who (setBits (s.reg R.PLT_CTL) (16 + p.val) (16 + p.val) on.toNat) s)

/-- R319, R321: a write of the bits in `mask` of PLT_SYS: a coordinate at or above its dimension is refused. Once both
halves are written, ports that the size does not use read UNUSED. -/
def pltSysWrite (who : Who) (mask val : Nat) (s : State) : State :=
  let r := R.PLT_SYS
  let v := s.rwlMerge r mask (bitsOf val 46 32 * 2 ^ 32 + bitsOf val 14 0)
  let past (d : Nat) : Bool := decide (coordOf (bitsOf v 14 0) d > bitsOf v (5 * (2 - d) + 36) (5 * (2 - d) + 32))
  if !s.privWriter who then ignoredWrite who r.off s
  else if s.lockedOut r mask then s
  else if past 0 || past 1 || past 2 then ignoredWrite who r.off s
  else
    let s := lockBits r mask (setReg r v s)
    if s.sysSet then (List.range 16).foldl (fun s p => if s.portUnused p then setPortState p 9 s else s) s else s

/-- R327: step 1: the feed of each wavelength. -/
def execPortLightCheck (p : Fin 16) (feed : BitVec 8) (s : State) : Host.Outcome State Fault Refusal :=
  .next (if !s.portMayTrain p || (s.port p).step != 1 then s
    else
      let s := setFld (R.PLT_PORT_LAMBDA p) F.PLT_PORT_LAMBDA_FEED feed.toNat s
      if lambdas feed.toNat < 4 then setPortState p 1 s else portStep p 2 (setPortState p 2 s))

/-- R327: step 2: the port has locked. -/
def execPortLockDone (p : Fin 16) (locked : BitVec 8) (s : State) : Host.Outcome State Fault Refusal :=
  .next (if !s.portMayTrain p || (s.port p).step != 2 then s
    else
      let l := R.PLT_PORT_LAMBDA p
      portStep p 3 (setFld l F.PLT_PORT_LAMBDA_TX_LOCK (locked.toNat &&& s.fld l F.PLT_PORT_LAMBDA_FEED) s))

/-- R327: step 3: partner light on some wavelengths, or none yet. -/
def execPortPartnerLight (p : Fin 16) (rx : BitVec 8) (s : State) : Host.Outcome State Fault Refusal :=
  .next (if !s.portMayTrain p || (s.port p).step != 3 || s.portState p == 5 then s
    else
      let s := setFld (R.PLT_PORT_LAMBDA p) F.PLT_PORT_LAMBDA_RX_GOOD rx.toNat s
      if rx = 0 then s else portStep p 4 (setPortState p 3 s))

/-- R327: steps 4 and 5: the lanes are aligned and FEC is locked. -/
def execPortFecLock (p : Fin 16) (s : State) : Host.Outcome State Fault Refusal :=
  .next (if !s.portMayTrain p || (s.port p).step != 4 then s
    else portStep p 6 (updPort p (fun x => { x with record := none }) s))

/-- R328: a direction's width: eight, or four of at least four good wavelengths. -/
def widthOf (m : Nat) : Nat := if lambdas m = 8 then 8 else 4

/-- R328: step 7: the first outcome whose condition holds. -/
def portDecide (p : Nat) (rec : ExchRecord) (s : State) : State :=
  let l := R.PLT_PORT_LAMBDA p
  let st := R.PLT_PORT_STAT p
  let tx := s.fld l F.PLT_PORT_LAMBDA_TX_LOCK &&& rec.good.toNat
  let rx := s.fld l F.PLT_PORT_LAMBDA_RX_GOOD
  let s := setFld st F.PLT_PORT_STAT_PARTNER rec.coords.toNat (setFld st F.PLT_PORT_STAT_PARTNER_PORT rec.port.val s)
  if !bitAt rec.versions.toNat 1 then portStep p 0 (portEvent p (portLost p 7 s))
  else if rec.size.toNat != bitsOf (s.reg R.PLT_SYS) 46 32 || rec.coords.toNat != s.neighbour p ||
      rec.port.val != partnerPort p then portStep p 0 (portEvent p (portLost p 6 s))
  else if lambdas tx < 4 ∨ lambdas rx < 4 then (if s.portState p = 5 then portDown p s else portLost p 8 s)
  else
    let s := setFld st F.PLT_PORT_STAT_LINK_VERSION 1 (setPortState p 4 s)
    let s := setFld st F.PLT_PORT_STAT_TX_WIDTH (widthOf tx) (setFld st F.PLT_PORT_STAT_RX_WIDTH (widthOf rx) s)
    qosRefresh (updPort p (fun x => { x with step := 0, again := 0, winFlits := 0, winErrors := 0, lanes := [],
                                             record := some rec }) s)

/-- R327: step 6: the partner's record, decided upon once it has come twice without change. -/
def execExchangeRecord (p : Fin 16) (rec : ExchRecord) (s : State) : Host.Outcome State Fault Refusal :=
  .next (if !s.portMayTrain p || (s.port p).step != 6 then s
    else if (s.port p).record = some rec then portDecide p rec s
    else updPort p (fun x => { x with record := some rec }) s)

/-- R328: an INCOMPATIBLE or MISWIRED port starts again at step 1. -/
def execPortRetryTimer (p : Fin 16) (s : State) : Host.Outcome State Fault Refusal :=
  .next (if s.portState p = 6 ∨ s.portState p = 7 then portStep p 1 s else s)

/-- R329: a port that is UP retrains. -/
def portRetrain (p : Nat) (s : State) : State :=
  if s.portState p ≠ 4 then s
  else
    let st := R.PLT_PORT_STAT p
    let s := event 0x0A01 0x0C p p (s.fld st F.PLT_PORT_STAT_TX_WIDTH) (s.fld st F.PLT_PORT_STAT_RX_WIDTH) 0 s
    qosRefresh (setPortState p 5 (bump (R.PLT_CNT_RETRAIN p) 1 s))

/-- R329: replays of one flit, CRC failures in a window, and codewords discarded of 64 on a lane, that a link bears. -/
def maxAgain : Nat := 16
/-- R329: more than 1 flit in 10^6 of a window of 2^20. -/
def maxCrc : Nat := 1
/-- R329: discarded codewords in 64. -/
def maxDiscards : Nat := 8

/-- R329: what the port has counted makes it retrain. -/
def State.retrainDue (s : State) (p : Nat) : Bool :=
  let x := s.port p
  decide (maxAgain ≤ x.again) || decide (maxCrc < x.winErrors) ||
    x.lanes.any fun l => decide (maxDiscards < (l.2.filter id).length)

/-- R329: PORT_RETRAIN: a trigger has been met, or FEC lock is lost. -/
def execPortRetrain (p : Fin 16) (lockLost : Bool) (s : State) : Host.Outcome State Fault Refusal :=
  .next (if lockLost || s.retrainDue p then portRetrain p s else s)

/-- R329: the flits that waited in the retry buffer are sent again. -/
def replayRetry (p : Nat) (s : State) : State :=
  let n := (s.port p).retry.length
  bump (R.PLT_CNT_FLITS_TX p) n (bump (R.PLT_CNT_REPLAY p) n s)

/-- R329, R330: a retrain ends: flits that wait are replayed, or the port is down. -/
def execPortRetrainDone (p : Fin 16) (rx : BitVec 8) (rec : Option ExchRecord) (s : State) :
    Host.Outcome State Fault Refusal :=
  .next (if s.portState p ≠ 5 then s
    else
      let s := setFld (R.PLT_PORT_LAMBDA p) F.PLT_PORT_LAMBDA_RX_GOOD rx.toNat s
      match rec with
      | none => portDown p s
      | some r =>
        let t := portDecide p r s
        if t.portState p = 4 then replayRetry p t else if t.portState p = 8 then t else portDown p t)

/-- R330: a port loses partner light. -/
def execPartnerLightLoss (p : Fin 16) (s : State) : Host.Outcome State Fault Refusal :=
  .next (if s.portState p = 4 ∨ s.portState p = 5 ∨ s.portState p = 3 then portDown p s else s)

/-- R328: the wavelengths on which a port sends: all eight, or the four lowest-numbered good ones. -/
def State.sending (s : State) (p : Nat) : Nat :=
  let good := s.fld (R.PLT_PORT_LAMBDA p) F.PLT_PORT_LAMBDA_TX_LOCK &&& (((s.port p).record.map (·.good.toNat)).getD 0)
  if s.fld (R.PLT_PORT_STAT p) F.PLT_PORT_STAT_TX_WIDTH = 8 then good
  else ((((List.range 8).filter fun k => bitAt good k).take 4).map fun k => 2 ^ k).sum

/-- R329, R330: a feed leaves its limits: a wavelength in use retrains the port, and with fewer than four usable ones it
is down. -/
def execFeedOutOfLimits (p : Fin 16) (feed : BitVec 8) (s : State) : Host.Outcome State Fault Refusal :=
  let l := R.PLT_PORT_LAMBDA p
  let left := s.fld l F.PLT_PORT_LAMBDA_TX_LOCK &&& feed.toNat
  let used := s.sending p
  let s1 := setFld l F.PLT_PORT_LAMBDA_TX_LOCK left (setFld l F.PLT_PORT_LAMBDA_FEED feed.toNat s)
  .next (if s.portState p = 4 ∨ s.portState p = 5 then
      (if lambdas left < 4 then portDown p s1 else if used &&& feed.toNat ≠ used then portRetrain p s1 else s1)
    else s1)

/-! ### Codewords and flits (R322 to R326) -/

/-- The latest DATA flit received in order. -/
def State.portAck (s : State) (p : Nat) : Nat := ((s.port p).rxSeq + 4095) % 4096

/-- R324: send a CONTROL flit. -/
def sendControl (p : Nat) (s : State) : State :=
  let x := s.port p
  send (.control p (s.portAck p) x.naking ((List.range 8).map fun k => mapGet x.credit (16 + k) 0))
    (bump (R.PLT_CNT_FLITS_TX p) 1 s)

/-- R325: ask for a replay. -/
def sendNak (p : Nat) (s : State) : State := sendControl p (updPort p (fun x => { x with naking := true }) s)

/-- R322: a codeword arrives: corrected, or discarded with its flits. -/
def execCodewordReceive (p : Fin 16) (lane : Fin 8) (errs : Nat) (s : State) : Host.Outcome State Fault Refusal :=
  .next (if s.portState p < 3 ∨ 5 < s.portState p then s
    else
      let bad := decide (15 < errs)
      let s := updPort p (fun x => { x with
        lanes := mapPut x.lanes lane.val ((bad :: mapGet x.lanes lane.val []).take 64) }) s
      if bad then
        let s := bump (R.PLT_CNT_FEC_UNCORR p) 1 s
        if s.portState p = 4 ∧ !(s.port p).naking then sendNak p s else s
      else bump (R.PLT_CNT_FEC_CORR p) errs s)

/-- R329: the window of flits over which CRC failures are counted. -/
def flitWindow : Nat := 1048576

/-- R329: count a flit in the window. -/
def windowFlit (p : Nat) (bad : Bool) (s : State) : State :=
  updPort p (fun x =>
    if x.winFlits + 1 ≥ flitWindow ∧ x.winErrors + bad.toNat ≤ 1 then { x with winFlits := 0, winErrors := 0 }
    else { x with winFlits := x.winFlits + 1, winErrors := x.winErrors + bad.toNat }) s

/-- R333, R335: a packet that has arrived is for this part, or is forwarded. -/
def arrivePacket (port : Nat) (s : State) (q : Packet) : State :=
  if q.dst = s.ownCoords then updPlt (fun x => { x with inq := x.inq ++ [(2 + port, q)] }) s
  else queuePacket (2 + port) q s

/-- R325: a DATA flit arrives: in order and good, it is taken and its VC's packets are cut out; else it is dropped. -/
def execDataFlitReceive (p : Fin 16) (vc : Fin 4) (seq : BitVec 12) (crcOk : Bool) (payload : List Byte) (s : State) :
    Host.Outcome State Fault Refusal :=
  .next (if s.portState p ≠ 4 then s
    else
      let s := windowFlit p (!crcOk) (if crcOk then s else bump (R.PLT_CNT_CRC p) 1 s)
      let x := s.port p
      if !crcOk then (if x.naking && seq.toNat != x.rxSeq then s else sendNak p s)
      else if seq.toNat ≠ x.rxSeq then (if x.naking then s else sendNak p s)
      else
        let (ps, rest) := parsePackets 60 (mapGet x.rxBytes vc.val [] ++ sliceBytes payload 0 60)
        let s := updPort p (fun x => { x with rxSeq := (x.rxSeq + 1) % 4096, naking := false,
                                              rxBytes := mapPut x.rxBytes vc.val rest }) s
        ps.foldl (arrivePacket p) (bump (R.PLT_CNT_FLITS_RX p) 1 s))

/-- R324: credits that a CONTROL flit returns. -/
def takeCredits (cr : SMap Nat) (credits : List Nat) : SMap Nat :=
  (List.range 8).foldl (fun m k =>
    let now := credits.getD k 0 % 256
    let back := (now + 256 - mapGet m (8 + k) 0) % 256
    mapPut (mapPut m k (mapGet m k 0 - back)) (8 + k) now) cr

/-- R324 to R326: a CONTROL flit arrives: its ACK frees the retry buffer, and a NAK replays what is left. -/
def execControlFlitReceive (p : Fin 16) (ack : BitVec 12) (nak : Bool) (credits : List Nat) (s : State) :
    Host.Outcome State Fault Refusal :=
  .next (if s.portState p ≠ 4 then s
    else
      let x := s.port p
      let left := match x.retry.findIdx? fun y => y.1 == ack.toNat with
        | some i => x.retry.drop (i + 1)
        | none => x.retry
      let again := if nak then (if left.length < x.retry.length then 1 else x.again + 1)
        else if left.length < x.retry.length then 0 else x.again
      let s := bump (R.PLT_CNT_FLITS_RX p) 1 s
      let s := updPort p (fun x => { x with retry := left, again, credit := takeCredits x.credit credits }) s
      if nak then bump (R.PLT_CNT_FLITS_TX p) left.length (bump (R.PLT_CNT_REPLAY p) left.length s) else s)

/-- R324: the last of every 256 flit slots. -/
def execControlFlitSend (p : Fin 16) (s : State) : Host.Outcome State Fault Refusal :=
  .next (if s.portState p = 4 then sendControl p s else s)

end Sys2Proof.Machine
end

