-- ==== Sys2Proof/Machine/Leases.lean ====
section
/-! DEFINITION. Drift leases (R201 to R206, R210, R342). A lease's number is 0 to 63 for an incoming lease, where this
part borrows, and 64 to 127 for an outgoing one. -/

namespace Sys2Proof.Machine

/-! ### Messages (R342) -/

/-- R342: send a lease message; the payload is SIZE, or zero. One that expects an answer is kept to be sent again. -/
def leaseSend (i msg : Nat) (s : State) : State :=
  let sized := msg == 1 || msg == 2 || msg == 3 || msg == 4
  let p := { packetTo s 0x18 (s.leasePeer i) with
    epoch2 := s.leaseEpoch i
    fnStatus := msg
    payload := leBytes 8 (if sized then s.fld (leaseSize i) F.PLT_LIN_SIZE_UNITS else 0) }
  let now := s.nclk
  let kept := msg == 1 || msg == 3 || msg == 5 || msg == 7
  let s := if kept then updLease i (fun x => { x with msgs := mapPut x.msgs msg now }) s else s
  queuePacket 0 p s

/-- R342: the message that waited has its answer. -/
def leaseAnswered (i msg : Nat) (s : State) : State :=
  updLease i (fun x => { x with msgs := mapErase x.msgs msg }) s

/-- The packet that brought a message leaves the arrival queue. -/
def takeLeaseMsg (type : Nat) (m : LeaseMsg) (s : State) : State :=
  match takeFirst (fun x => x.2.type == 0x18 && x.2.fnStatus == type && x.2.src == m.peer.toNat &&
      x.2.epoch2 == m.epoch.toNat) s.plt.inq with
  | some ((k, q), rest) => freeCredit k q (updPlt (fun x => { x with inq := rest }) s)
  | none => s

/-- The open lease with a peer: incoming from `lo` = 0, outgoing from `lo` = 64. -/
def State.openLease (s : State) (lo peer : Nat) : Option Nat :=
  ((List.range 64).map (lo + ·)).find? fun i => s.leaseState i != 0 && s.leasePeer i == peer

/-- A message for an open lease: dropped and counted where its epoch is stale, or where no lease is open. -/
def leaseMsg (lo type : Nat) (m : LeaseMsg) (f : Nat → State → State) (s : State) : State :=
  let s := takeLeaseMsg type m s
  match s.openLease lo m.peer.toNat with
  | none => bump R.PLT_LEASE_CNT_STALE 1 s
  | some i => if s.leaseEpoch i ≠ m.epoch.toNat then bump R.PLT_LEASE_CNT_STALE 1 s else f i s

/-! ### Closing -/

/-- R201: a lease closes: its epoch steps, and nothing of a borrowed range is kept. -/
def closeLease (i : Nat) (s : State) : State :=
  let ctl := leaseCtl i
  let s := setFld ctl F.PLT_LIN_CTL_EPOCH ((s.leaseEpoch i + 1) % 256) (setLeaseState i 0 s)
  let peer := s.leasePeer i
  let s := updLease i (fun x => { x with msgs := [], last := some peer }) s
  if 64 ≤ i then s
  else
    let d := s.ms.dirtyTD.filter fun x => x / 2 ^ 29 != 4 * 2 ^ 15 + peer
    let s := setFld (R.PLT_LIN_DIRTY i) F.PLT_LIN_DIRTY_NOW 0 s
    { s with ms := { s.ms with dirtyTD := d }, mem := memZero s.mem (4 * 2 ^ 60 + peer * 2 ^ 45) (2 ^ 45) }

/-- R204, R205: the borrower's end of a lease that closes with its drain unfinished. -/
def closeBorrowed (i : Nat) (s : State) : State := closeLease i (endLeaseObjects (s.leasePeer i) (cutDrain i s))

/-! ### Register writes (R210) -/

/-- R204: step 2 at the borrower: NOTICE, an event, and stores fail from now on. -/
def borrowerNotice (i : Nat) (s : State) : State :=
  let now := s.nclk
  let s := updLease i (fun x => { x with t0 := now }) (setLeaseState i 3 s)
  event 0x0506 0 0 i (s.leasePeer i) (s.leaseEpoch i) 0 s

/-- R210: a write to PLT_LIN_CTL: PEER while CLOSED, then ACCEPT or RETURN. -/
def linCtlWrite (who : Who) (i val : Nat) (s : State) : State :=
  let r := R.PLT_LIN_CTL i
  if !s.privWriter who then ignoredWrite who r.off s
  else
    let s := if s.leaseState i = 0 then setFld r F.PLT_LIN_CTL_PEER (bitsOf val 26 12) s
      else if bitsOf val 26 12 ≠ s.leasePeer i then ignoredWrite who r.off s else s
    let own := s.leasePeer i == s.ownCoords
    let s := if bitAt val 5 || bitAt val 4 then ignoredWrite who r.off s else s
    let s := if !bitAt val 7 then s
      else if own || s.leaseState i != 1 then ignoredWrite who r.off s
      else leaseSend i 2 (setLeaseState i 2 s)
    if !bitAt val 6 then s
    else if own || s.leaseState i != 2 then ignoredWrite who r.off s
    else leaseSend i 6 (borrowerNotice i s)

/-- R210: a write to PLT_LOUT_CTL: PEER while CLOSED, then OFFER or REVOKE. -/
def loutCtlWrite (who : Who) (i val : Nat) (s : State) : State :=
  let r := R.PLT_LOUT_CTL i
  let k := 64 + i
  if !s.privWriter who then ignoredWrite who r.off s
  else
    let s := if s.leaseState k = 0 then setFld r F.PLT_LOUT_CTL_PEER (bitsOf val 26 12) s
      else if bitsOf val 26 12 ≠ s.leasePeer k then ignoredWrite who r.off s else s
    let own := s.leasePeer k == s.ownCoords
    let s := if bitAt val 7 || bitAt val 6 then ignoredWrite who r.off s else s
    let s := if !bitAt val 4 then s
      else if own || s.leaseState k != 0 || (s.openLease 64 (s.leasePeer k)).isSome then ignoredWrite who r.off s
      else leaseSend k 1 (setLeaseState k 1 s)
    if !bitAt val 5 then s
    else if own || s.leaseState k != 2 then ignoredWrite who r.off s
    else
      let now := s.nclk
      leaseSend k 5 (updLease k (fun x => { x with t0 := now }) (setLeaseState k 3 s))

/-- R201, R210: a write to PLT_LOUT_SIZE: a smaller size of an open lease is ignored; a larger one grows it. -/
def loutSizeWrite (who : Who) (i val : Nat) (s : State) : State :=
  let r := R.PLT_LOUT_SIZE i
  let k := 64 + i
  let n := bitsOf val 28 0
  let old := s.fld r F.PLT_LOUT_SIZE_UNITS
  if !s.privWriter who || (s.leaseState k != 0 && decide (n < old)) then ignoredWrite who r.off s
  else
    let s := setReg r n s
    if old < n ∧ s.leaseState k ≠ 0 then leaseSend k 3 s else s

/-- R210: a write to PLT_LOUT_BASE, only while CLOSED. -/
def loutBaseWrite (who : Who) (i val : Nat) (s : State) : State :=
  let r := R.PLT_LOUT_BASE i
  if !s.privWriter who || s.leaseState (64 + i) != 0 then ignoredWrite who r.off s
  else setReg r (val / 65536 * 65536) s

/-- R203, R210: a write to PLT_LIN_DIRTY: LIMIT. -/
def linDirtyWrite (who : Who) (i val : Nat) (s : State) : State :=
  let r := R.PLT_LIN_DIRTY i
  if !s.privWriter who then ignoredWrite who r.off s else setFld r F.PLT_LIN_DIRTY_LIMIT (bitsOf val 63 32) s

/-- A lease's control register as it stands, with one command bit and no other (R210: bits 7 to 4 are commands). -/
def withBit (s : State) (r : Reg) (b : Nat) : Nat := setBits (setBits (s.reg r) 7 4 0) b b 1

/-- R210: LEASE_OFFER. -/
def execLeaseOffer (who : Who) (i : Fin 64) (s : State) : Host.Outcome State Fault Refusal :=
  .next (loutCtlWrite who i (withBit s (R.PLT_LOUT_CTL i) 4) s)
/-- R210: LEASE_ACCEPT. -/
def execLeaseAccept (who : Who) (i : Fin 64) (s : State) : Host.Outcome State Fault Refusal :=
  .next (linCtlWrite who i (withBit s (R.PLT_LIN_CTL i) 7) s)
/-- R204: LEASE_RETURN. -/
def execLeaseReturn (who : Who) (i : Fin 64) (s : State) : Host.Outcome State Fault Refusal :=
  .next (linCtlWrite who i (withBit s (R.PLT_LIN_CTL i) 6) s)
/-- R204: LEASE_REVOKE. -/
def execLeaseRevoke (who : Who) (i : Fin 64) (s : State) : Host.Outcome State Fault Refusal :=
  .next (loutCtlWrite who i (withBit s (R.PLT_LOUT_CTL i) 5) s)
/-- R201: LEASE_GROW. -/
def execLeaseGrow (who : Who) (i : Fin 64) (units : Nat) (s : State) : Host.Outcome State Fault Refusal :=
  .next (loutSizeWrite who i units s)

/-! ### Messages received -/

/-- R201: a message of the peer's for a lease that has closed: an epoch that the lease of this register block has passed. -/
def State.offerStale (s : State) (i : Nat) (m : LeaseMsg) : Bool :=
  (s.lease i).last == some m.peer.toNat &&
    (let d := (s.leaseEpoch i + 256 - m.epoch.toNat) % 256
     decide (1 ≤ d) && decide (d ≤ 128))

/-- R342: OFFER at the borrower: the incoming lease whose PEER names the lender, while it is CLOSED. A repeat of the open
lease's is ignored; a stale one is counted (R201). -/
def execLeaseMsgOffer (m : LeaseMsg) (s : State) : Host.Outcome State Fault Refusal :=
  let s := takeLeaseMsg 1 m s
  let stale := bump R.PLT_LEASE_CNT_STALE 1 s
  .next (match s.openLease 0 m.peer.toNat with
    | some i => if s.leaseEpoch i = m.epoch.toNat then s else stale
    | none => match (List.range 64).find? fun i => s.leaseState i == 0 && s.leasePeer i == m.peer.toNat with
    | none => s
    | some i =>
      if s.offerStale i m then stale
      else
      let s := setFld (R.PLT_LIN_CTL i) F.PLT_LIN_CTL_EPOCH m.epoch.toNat (setLeaseState i 1 s)
      setReg (R.PLT_LIN_SIZE i) m.units.toNat s)

/-- R342: ACCEPT at the lender. -/
def execLeaseMsgAccept (m : LeaseMsg) (s : State) : Host.Outcome State Fault Refusal :=
  .next (leaseMsg 64 2 m (fun i s => if s.leaseState i = 1 then leaseAnswered i 1 (setLeaseState i 2 s) else s) s)

/-- R342: GROW at the borrower; it answers GROWN. -/
def execLeaseMsgGrow (m : LeaseMsg) (s : State) : Host.Outcome State Fault Refusal :=
  .next (leaseMsg 0 3 m (fun i s =>
    if m.units.toNat > s.fld (R.PLT_LIN_SIZE i) F.PLT_LIN_SIZE_UNITS then
      leaseSend i 4 (setReg (R.PLT_LIN_SIZE i) m.units.toNat s)
    else s) s)

/-- R342: GROWN at the lender. -/
def execLeaseMsgGrown (m : LeaseMsg) (s : State) : Host.Outcome State Fault Refusal :=
  .next (leaseMsg 64 4 m (fun i s =>
    if m.units.toNat = s.fld (leaseSize i) F.PLT_LIN_SIZE_UNITS then leaseAnswered i 3 s else s) s)

/-- R204: NOTICE at the borrower. -/
def execLeaseMsgNotice (m : LeaseMsg) (s : State) : Host.Outcome State Fault Refusal :=
  .next (leaseMsg 0 5 m (fun i s => if s.leaseState i = 2 then borrowerNotice i s else s) s)

/-- R342: RETURN at the lender. -/
def execLeaseMsgReturn (m : LeaseMsg) (s : State) : Host.Outcome State Fault Refusal :=
  .next (leaseMsg 64 6 m (fun i s =>
    if s.leaseState i = 2 then
      let now := s.nclk
      updLease i (fun x => { x with t0 := now }) (setLeaseState i 3 s)
    else s) s)

/-- R342: DRAIN_DONE at the lender: CLOSED goes back, and the lease closes. -/
def execLeaseMsgDrainDone (m : LeaseMsg) (s : State) : Host.Outcome State Fault Refusal :=
  .next (leaseMsg 64 7 m (fun i s =>
    if s.leaseState i = 3 ∨ s.leaseState i = 4 then closeLease i (leaseSend i 8 s) else s) s)

/-- R342: CLOSED at the borrower. -/
def execLeaseMsgClosed (m : LeaseMsg) (s : State) : Host.Outcome State Fault Refusal :=
  .next (leaseMsg 0 8 m (fun i s => if s.leaseState i = 3 then closeBorrowed i s else s) s)

/-! ### Times (R204, R205, R342) -/

/-- The number of a lease from its direction. -/
def leaseNum (out : Bool) (i : Nat) : Nat := if out then 64 + i else i

/-- R342: every 100 µs an unanswered message is sent again. -/
def execLeaseMsgResend (out : Bool) (i : Fin 64) (s : State) : Host.Outcome State Fault Refusal :=
  let k := leaseNum out i
  .next (((s.lease k).msgs.filter fun m => decide (m.2 + usCycles 100 ≤ s.nclk)).foldl (fun s m => leaseSend k m.1 s) s)

/-- R204: step 4: the lease is not closed 2 ms after the notice. -/
def execLeaseHoldStart (i : Fin 64) (s : State) : Host.Outcome State Fault Refusal :=
  let k := 64 + i.val
  .next (if s.leaseState k = 3 ∧ (s.lease k).t0 + usCycles 2000 ≤ s.nclk then setLeaseState k 4 s else s)

/-- R204: step 5: 102 ms after the notice. -/
def execLeaseHoldEnd (out : Bool) (i : Fin 64) (s : State) : Host.Outcome State Fault Refusal :=
  let k := leaseNum out i
  .next (if s.nclk < (s.lease k).t0 + usCycles 102000 then s
    else if out then (if s.leaseState k = 4 then closeLease k s else s)
    else if s.leaseState k = 3 then closeBorrowed k s else s)

/-- R205: LEASE_UNREACHABLE. -/
def execLeaseUnreachable (out : Bool) (i : Fin 64) (s : State) : Host.Outcome State Fault Refusal :=
  .next (leaseUnreach (leaseNum out i) s)

/-- R205: the time for which a lease may be unreachable. -/
def unreachLimit : Nat := usCycles 100000

/-- R205: the route returns within 100 ms. -/
def execLeaseReachableAgain (out : Bool) (i : Fin 64) (s : State) : Host.Outcome State Fault Refusal :=
  let k := leaseNum out i
  .next (if s.leaseState k = 5 ∧ s.nclk ≤ (s.lease k).since + unreachLimit then setLeaseState k (s.lease k).was s else s)

/-- R205: 100 ms after it became UNREACHABLE, each end closes the lease. -/
def execLeaseUnreachableClose (out : Bool) (i : Fin 64) (s : State) : Host.Outcome State Fault Refusal :=
  let k := leaseNum out i
  .next (if s.leaseState k = 5 ∧ (s.lease k).since + unreachLimit ≤ s.nclk then
      let s := event 0x0507 0 0 i (s.leasePeer k) 1 0 s
      if out then closeLease k s else closeBorrowed k s
    else s)

end Sys2Proof.Machine
end

