-- ==== Sys2Proof/Machine/Hp0.lean ====
section
/-! DEFINITION. The commands of HP0: doorbells, fetches, completions, interrupts, aborts, resets and peer windows
(spec/10), and the link state that PEAK follows (R353). -/

namespace Sys2Proof.Machine

/-! ### Doorbells and queues -/

/-- R267: SQ_DOORBELL. -/
def execSqDoorbell (f : Fin 257) (q : Nat) (skew : Fin 8) (width : Nat) (val : BitVec 64) (s : State) :
    Host.Outcome State Fault Refusal := .next (doorbell f (16 * q + skew) width val.toNat s)

/-- R267: CQ_DOORBELL. -/
def execCqDoorbell (f : Fin 257) (q : Nat) (skew : Fin 8) (width : Nat) (val : BitVec 64) (s : State) :
    Host.Outcome State Fault Refusal := .next (doorbell f (16 * q + 8 + skew) width val.toNat s)

/-- R270: QROUTE_WRITE. -/
def execQrouteWrite (who : Who) (i : Fin 262144) (val : BitVec 64) (s : State) : Host.Outcome State Fault Refusal :=
  .next (qrouteWrite who i val.toNat s)

/-- R266: QUEUE_ENABLE. -/
def execQueueEnable (who : Who) (f : Fin 257) (q : Fin 1024) (val : BitVec 64) (s : State) :
    Host.Outcome State Fault Refusal := .next (qpCfgWrite who f q (setBits val.toNat 0 0 1) s)

/-- R275: QUEUE_DISABLE. -/
def execQueueDisable (who : Who) (f : Fin 257) (q : Fin 1024) (val : BitVec 64) (s : State) :
    Host.Outcome State Fault Refusal := .next (qpCfgWrite who f q (setBits val.toNat 0 0 0) s)

/-- R275: a held enable proceeds. -/
def execQueueEnableRelease (f : Fin 257) (q : Fin 1024) (s : State) : Host.Outcome State Fault Refusal :=
  let st := R.HP0_QP_STAT f q
  .next (if s.flag st F.HP0_QP_STAT_PENDING && !s.qpBusy f q then qpInit f q s else s)

/-- R269: an H-die tram is bound to the HP0 queue engine. -/
def State.fetchTram (s : State) : Bool :=
  (List.range 64).any fun i => s.engValid (256 + i) && s.engOwnerKind (256 + i) == 1

/-- R363: the tenant's commands in flight are below its limit; an admin queue has none. -/
def State.inflightOk (s : State) (f : Nat) : Bool :=
  f == 0 || decide (s.fld (R.QOS_TEN_STAT (f - 1)) F.QOS_TEN_STAT_CHARGE <
    s.fld (R.QOS_TEN_CTL (f - 1)) F.QOS_TEN_CTL_INFLIGHT_LIMIT)

/-- R268: the fields of a submission entry's header. -/
def sqeRt (e : List Byte) : Bool := bitAt (leAt e 1 1) 0
/-- R268: CLASS. -/
def sqeClass (e : List Byte) : Nat := leAt e 2 1 % 4

/-- R269: VERSION is accepted and the host left NOTICE 0. -/
def State.sqeOk (s : State) (e : List Byte) : Bool :=
  bitAt (s.fld R.HP0_CAP F.HP0_CAP_SQE_VERSIONS) (leAt e 0 1 / 16) && !bitAt (leAt e 1 1) 7

/-- R268, R365: the entry as it is delivered. -/
def deliverEntry (t : Token) (e : List Byte) : List Byte :=
  sliceBytes e 0 4 ++ leBytes 4 (t.due.getD 0) ++ leBytes 6 t.value ++ sliceBytes e 14 50

/-- R269, R277: the queue may fetch its next slot, and deliver it. -/
def State.canFetch (s : State) (f q : Nat) : Bool :=
  let st := R.HP0_QP_STAT f q
  let head := s.fld st F.HP0_QP_STAT_SQ_HEAD
  let ep := s.fld st F.HP0_QP_STAT_EPOCH
  s.fetches && s.hostOk f && decide (q < qpCount f) && s.qpOn f q && !s.flag st F.HP0_QP_STAT_HELD &&
    head != s.fld st F.HP0_QP_STAT_SQ_TAIL && s.doorClear f q && s.inflightOk f && s.fetchTram &&
    !(s.hp0.tokens.any fun t => t.fn == f && t.q == q && t.epoch == ep && t.slot == head)

/-- R269, R270: hold the queue, with one event. -/
def holdQueue (f q why : Nat) (s : State) : State :=
  let s := setFld (R.HP0_QP_STAT f q) F.HP0_QP_STAT_HELD 1 s
  fnEvent 0x0801 f (queueIndex f q) why 0 s

/-- R268, R269: take a fetched entry: the token is in flight, and the entry is delivered or completed as bad. -/
def takeEntry (f q : Nat) (ctx : Option Nat) (e : List Byte) (s : State) : State :=
  let st := R.HP0_QP_STAT f q
  let head := s.fld st F.HP0_QP_STAT_SQ_HEAD
  let now := s.usec % 2 ^ 32
  let t : Token :=
    { fn := f, q, epoch := s.fld st F.HP0_QP_STAT_EPOCH, slot := head, fetchUs := now, cls := sqeClass e,
      due := if sqeRt e then some ((now + leAt e 4 4) % 2 ^ 32) else none, head := [], ctx }
  let t := { t with head := sliceBytes (deliverEntry t e) 0 16 }
  let s := setFld st F.HP0_QP_STAT_SQ_HEAD ((head + 1) % s.sqSize f q) s
  let s := chargeInflight f true (updHp0 (fun h => { h with tokens := h.tokens ++ [t] }) s)
  if !s.sqeOk e then bump R.HP0_CNT_INTAKE_BAD 1 (ownCompletion t St.badCommand (dropToken t s))
  else match ctx with
  | some c => pushIntake c (deliverEntry t e) s
  | none => updHp0 (fun h => { h with admin := h.admin ++ [deliverEntry t e] }) s

/-- R269, R270: the next entry of a queue: `entry` is what the host read brings, or none where it fails. -/
def execSubmissionFetch (f : Fin 257) (q : Fin 1024) (entry : Option (List Byte)) (s : State) :
    Host.Outcome State Fault Refusal :=
  .next (if !s.canFetch f q then s
    else
      let c := s.fld (R.HP0_QROUTE (queueIndex f q)) F.HP0_QROUTE_CTX
      if f.val ≠ 0 ∧ !s.routeOk f q then holdQueue f q 0 s
      else if f.val ≠ 0 ∧ (s.kc c).intake.length ≥ intakeDepth then s
      else match entry with
      | none =>
        let k := qpKey f q
        bump R.HP0_CNT_CPL_ERR 1
          (holdQueue f q 1 (updHp0 (fun h => { h with heldErr := setInsert h.heldErr k }) s))
      | some e => takeEntry f q (if f.val = 0 then none else some c) e s)

/-! ### Completions and interrupts -/

/-- R274: the oldest completion of a path is written once its queue has room. -/
def execCompletionWrite (src : Option (Fin 1024)) (s : State) : Host.Outcome State Fault Refusal :=
  let path := match src with | some c => (s.kc c).unsent | none => s.hp0.own
  .next (match path with
    | [] => s
    | c :: rest =>
      if !s.hostOk c.tok.fn || !s.cqRoom c.tok.fn c.tok.q then s
      else
        let s := match src with
          | some x => updCtx x (fun k => { k with unsent := rest }) s
          | none => updHp0 (fun h => { h with own := rest }) s
        writeCompletion c s)

/-- R274: COAL_T µs after the first unsignalled completion. -/
def execMsixCoalesceTimer (f : Fin 257) (q : Fin 1024) (s : State) : Host.Outcome State Fault Refusal :=
  let cfg := R.HP0_QP_CFG f q
  let k := qpKey f q
  .next (match mapFind s.hp0.coal k with
    | none => s
    | some (_, first) =>
      let t := s.fld cfg F.HP0_QP_CFG_COAL_T
      if s.flag cfg F.HP0_QP_CFG_IEN && t != 0 && decide (first + usCycles t ≤ s.nclk) then
        sendMsix f (s.fld cfg F.HP0_QP_CFG_VECTOR) (updHp0 (fun h => { h with coal := mapErase h.coal k }) s)
      else s)

/-- R364: once a token is back in a VF's interrupt bucket, the oldest waiting message takes it. -/
def execIrqDelayedSend (v : Fin 256) (s : State) : Host.Outcome State Fault Refusal :=
  .next (match mapGet s.hp0.irqWait v [] with
    | [] => s
    | x :: rest =>
      if s.irqToken (v + 1) then sendMsix (v + 1) x (updHp0 (fun h => { h with irqWait := mapPut h.irqWait v rest }) s)
      else s)

/-- R276: HOST_ABORT. -/
def execHostAbort (who : Who) (f : Fin 257) (token : BitVec 42) (s : State) : Host.Outcome State Fault Refusal :=
  .next (fnAbort who f token.toNat s)

/-- R265, R395: the leading foreman serves the oldest admin entry and writes its completion; a notice needs none. -/
def execAdminCommand (status : BitVec 8) (result : BitVec 64) (s : State) : Host.Outcome State Fault Refusal :=
  .next (if s.flag R.FMN_LEAD_STAT F.FMN_LEAD_STAT_NONE || s.flag R.FMN_LEAD_STAT F.FMN_LEAD_STAT_FROZEN then s
    else match s.hp0.admin with
    | [] => s
    | e :: rest =>
      let s := updHp0 (fun h => { h with admin := rest }) s
      match s.hp0.tokens.find? fun t => t.fn == 0 && t.value == entryToken e with
      | none => s
      | some t =>
        let c := leBytes 8 result.toNat ++ sliceBytes e 14 2 ++ leBytes 2 0 ++ leBytes 1 status.toNat ++ leBytes 3 0
        updHp0 (fun h => { h with own := h.own ++ [{ tok := t, entry := c }] }) (dropToken t s))

/-! ### Resets -/

/-- R283: step 5: every queue's EPOCH steps, and its entry is cleared. -/
def flrQueues (f : Nat) (s : State) : State :=
  (List.range (qpCount f)).foldl (fun s q =>
    let ep := (s.qpStat f q F.HP0_QP_STAT_EPOCH + 1) % 256
    let s := zeroRegs [R.HP0_QP_SQ_BASE f q, R.HP0_QP_CQ_BASE f q, R.HP0_QP_CFG f q] s
    setReg (R.HP0_QP_STAT f q) (ep * 256) s) s

/-- R283: what a function-level reset leaves of the configuration of a function: the payload size and the error log keep
their values (log 106). -/
def flrCfg (c : FnCfg) : FnCfg :=
  { fnCfg0 with devCtl := setBits fnCfg0.devCtl 7 5 (bitsOf c.devCtl 7 5), aer := c.aer, vfEn := c.vfEn, vfMse := c.vfMse,
                ari := c.ari, numVfs := c.numVfs, vfBars := c.vfBars }

/-- R283, R284, R368: step 1, 3 and 4 for a function: nothing of it leaves any more. -/
def flrStopHp0 (f : Nat) (s : State) : State :=
  let mine (c : Cpl) : Bool := c.tok.fn == f
  let s := updHp0 (fun h =>
    { h with own := h.own.filter (fun c => !mine c), resetting := setInsert h.resetting f,
             refused := setInsert h.refused f, irqWait := mapErase h.irqWait (f - 1),
             coal := h.coal.filter (fun p => p.1 / 1024 != f), heldErr := h.heldErr.filter (fun k => k / 1024 != f),
             cqHead := h.cqHead.filter (fun p => p.1 / 1024 != f), doorAt := h.doorAt.filter (fun p => p.1 / 1024 != f) }) s
  let knc := s.knc.map fun p => (p.1, { p.2 with unsent := p.2.unsent.filter fun c => !mine c })
  let s := updCfg f flrCfg { s with knc := knc }
  zeroRegs ((List.range 32).map (msixPba f)) s

/-- R283: the function's tokens leave the in-flight set; a PRIV = 1 context (or the foreman) that holds one receives a
notice. -/
def flrTokens (f : Nat) (s : State) : State :=
  let ts := s.hp0.tokens.filter fun t => t.fn == f
  let s := updHp0 (fun h => { h with tokens := h.tokens.filter fun t => t.fn != f }) s
  ts.foldl (fun s t =>
    match t.ctx with
    | some c => if s.ctxPriv c then giveNotice s t else s
    | none => giveNotice s t) s

/-- R283: steps 1 to 5 for VF `v`. -/
def flrVf (s : State) (v : Nat) : State :=
  let f := v + 1
  if s.hp0.resetting.contains f then bump R.HP0_CNT_FLR 1 s
  else
    let s := flrStopHp0 f s
    let s := (s.tenantCtxs v).foldl (fun s c => ctxFlr c s) s
    let s := (s.tenantEngines v).foldl (fun s e => engAbort e St.functionReset s) s
    let s := updHp0 (fun h => { h with notices := h.notices.filter fun t => match t.ctx with
      | some c => !(s.tenantCtxs v).contains c
      | none => true }) s
    flrQueues f (flrTokens f s)

/-- R262: every register of the peer windows lies in this range. -/
def isWindowReg (off : Nat) : Bool := decide (0xD100000 ≤ off) && decide (off < 0xD100000 + 257 * 0x800)

/-- R285: PF0's reset: every VF, the admin queues, the windows and VF Enable. -/
def flrPf0 (s : State) : State :=
  if s.hp0.resetting.contains 0 then bump R.HP0_CNT_FLR 1 s
  else
    let s := (List.range 256).foldl flrVf s
    let s := flrQueues 0 (flrTokens 0 (flrStopHp0 0 s))
    let ctl := s.ctl.filter fun p => !isWindowReg p.1
    let m := { s.mgmt with doe := { stage := 0, conn := [], certs := [], meas := [] } }
    let s := { s with ctl := ctl, mgmt := m }
    let s := updCfg 0 (fun c => { c with vfEn := false, vfMse := false, ari := false, numVfs := 0, vfBars := [] }) s
    winRun (updHp0 (fun h => { h with winWait := h.winWait.map fun r => { r with held := false } }) s)

/-- R282: a hot reset, a link down or a Secondary Bus Reset: the configuration of every function takes its reset values. -/
def hotReset (s : State) : State :=
  let s := flrPf0 s
  updHp0 (fun h => { h with cfg := [] }) (setFld R.HP0_LINK_STAT F.HP0_LINK_STAT_STATE 1 s)

/-- R430: a configuration request reaches a function: HP0 answers them normally, and the function exists. -/
def State.cfgReaches (s : State) (f : Nat) : Bool := s.mgmt.cfgOpen && s.hp0Up && s.fnExists f

/-- R283: FUNCTION_LEVEL_RESET: the configuration write that initiates it. -/
def execFunctionLevelReset (v : Fin 256) (s : State) : Host.Outcome State Fault Refusal :=
  .next (if s.cfgReaches (v + 1) then flrVf s v else s)

/-- R285: PF0_FUNCTION_RESET. -/
def execPf0FunctionReset (s : State) : Host.Outcome State Fault Refusal := .next (if s.cfgReaches 0 then flrPf0 s else s)

/-- R282: HOT_RESET. In fundamental reset the ports are idle (R421). -/
def execHotReset (s : State) : Host.Outcome State Fault Refusal := .next (if s.mgmt.released then hotReset s else s)

/-- R283: step 6: no memory write of the function is without its response: of a stopped context, of an aborted engine, or of
a peer window, held for repair or not. -/
def State.flrQuiet (s : State) (f : Nat) : Bool :=
  (s.hostPosted.all fun r => r.fn != f) && (f == 0 ||
    ((s.tenantCtxs (f - 1)).all fun c => (s.kc c).out.isEmpty && !s.writeHeldBy (.ctx c)) &&
    ((s.tenantEngines (f - 1)).all fun e => s.engState e != 4 && !s.engWritesOut e))

/-- R283, R368: steps 6 and 7: the charge is released and the reset is complete. -/
def execFlrChargeRelease (f : Fin 257) (s : State) : Host.Outcome State Fault Refusal :=
  .next (if !s.hp0.resetting.contains f.val || !s.flrQuiet f then s
    else
      let s := if f.val = 0 then s else setFld (R.QOS_TEN_STAT (f - 1)) F.QOS_TEN_STAT_CHARGE 0 s
      fnEvent 0x0804 f f 0 0 (updHp0 (fun h => { h with resetting := h.resetting.filter (· != f.val) }) s))

/-- R262: log2 of the size of a base register: BAR0, BAR2 and BAR4 of PF0, or of a VF. -/
def barBits (vf : Bool) (n : Nat) : Nat :=
  match n / 2 with
  | 0 => if vf then 18 else 30
  | 1 => if vf then 14 else 12
  | _ => if vf then 32 else 36

/-- R262: what a dword of a 64-bit base register keeps of a value: the address bits below its size read zero. -/
def barKeeps (vf : Bool) (n val : Nat) : Nat :=
  let b := barBits vf n
  if n % 2 = 0 then val / 2 ^ min b 32 * 2 ^ min b 32 % 2 ^ 32 else val / 2 ^ (b - 32) * 2 ^ (b - 32)

/-- R262: a base register's dword as it reads: a 64-bit memory BAR, prefetchable where it is BAR4. -/
def barReads (bars : SMap Nat) (n : Nat) : Nat :=
  mapGet bars n 0 + if n % 2 = 0 then (if n = 4 then 12 else 4) else 0

/-- R260, R262: the effect of a configuration write on a function's configuration. A VF has no base registers, no Memory
Space Enable and no SR-IOV registers of its own, and NumVFs stands while VF Enable is set (log 106). -/
def cfgWrite (f : Nat) (w : CfgWrite) (c : FnCfg) : FnCfg :=
  match w with
  | .command bme mse => { c with bme, mse := mse && f == 0 }
  | .bar n val => if f = 0 then { c with bars := mapPut c.bars n.val (barKeeps false n val.toNat) } else c
  | .deviceControl val => { c with devCtl := val.toNat % 2 ^ 15 }
  | .deviceControl2 val => { c with devCtl2 := val.toNat }
  | .msix enable mask => { c with msixEn := enable, fmask := mask }
  | .sriovControl vfEnable vfMse ari => if f = 0 then { c with vfEn := vfEnable, vfMse, ari } else c
  | .numVfs n => if f = 0 ∧ !c.vfEn then { c with numVfs := min 256 n.toNat } else c
  | .vfBar n val => if f = 0 then { c with vfBars := mapPut c.vfBars n.val (barKeeps true n val.toNat) } else c
  | .aerStatus clear => { c with aer := { c.aer with status := (BitVec.ofNat 32 c.aer.status &&& ~~~clear).toNat } }
  | .aerMask val => { c with aer := { c.aer with mask := val.toNat } }
  | .aerSeverity val => { c with aer := { c.aer with severity := val.toNat } }

/-- R284: a configuration write. Setting Bus Master Enable ends the refusal, and what was pending may leave. Bit 15 of
Device Control initiates a function-level reset. -/
def execBusMasterEnable (f : Fin 257) (w : CfgWrite) (s : State) : Host.Outcome State Fault Refusal :=
  .next (if !s.cfgReaches f then s
    else
      let s := updCfg f (cfgWrite f w) s
      match w with
      | .command true _ => flushMsix f (updHp0 (fun h => { h with refused := h.refused.filter (· != f.val) }) s)
      | .deviceControl val => if bitAt val.toNat 15 then (if f.val = 0 then flrPf0 s else flrVf s (f.val - 1)) else s
      | _ => flushMsix f s)

/-- R260: D3HOT. -/
def execD3hot (f : Fin 257) (on : Bool) (s : State) : Host.Outcome State Fault Refusal :=
  .next (if s.cfgReaches f then updCfg f (fun c => { c with d3 := on }) s else s)

/-! ### Peer windows -/

/-- R286: PEER_WINDOW_REQUEST. -/
def execPeerWindowRequest (f : Fin 257) (off : BitVec 36) (rid : BitVec 16) (tag : BitVec 14) (ro ido : Bool) (op : WinOp)
    (s : State) : Host.Outcome State Fault Refusal :=
  let (n, data) : Nat × Option (List Byte) := match op with
    | .read n => (n, none)
    | .write bs => (bs.length, some bs)
  .next (winArrive { id := 0, ro, ido, held := false, parked := false, fn := f, off := off.toNat % (64 * winSize f),
                     rid := rid.toNat, tag := tag.toNat, len := n, data } s)

/-- R287: WINDOW_COMMIT. -/
def execWindowCommit (who : Who) (f : Fin 257) (w : Fin 64) (val : BitVec 64) (s : State) :
    Host.Outcome State Fault Refusal := .next (winCtlWrite who f w (setBits val.toNat 3 3 1) s)

/-- R287: steps 3 to 5: every request accepted before has its response or completion, the shadow becomes active, and the
held requests proceed. -/
def execWindowCommitDone (f : Fin 257) (w : Fin 64) (s : State) : Host.Outcome State Fault Refusal :=
  let act := R.HP0_WIN_ACT_CTL f w
  let shd := R.HP0_WIN_SHD_CTL f w
  let mine (r : WinReq) : Bool := r.fn == f && r.off / winSize f == w
  .next (if !s.flag act F.HP0_WIN_ACT_CTL_PENDING || (s.hp0.winWait ++ s.hostPosted).any fun r => mine r && !r.held then s
    else
      let ep := (s.fld act F.HP0_WIN_ACT_CTL_EPOCH + 1) % 256
      let s := setReg (R.HP0_WIN_ACT_BASE f w) (s.reg (R.HP0_WIN_SHD_BASE f w)) s
      let v := setBits (s.reg shd) 47 40 ep
      let s := setReg act v (setReg shd v s)
      winRun (updHp0 (fun h => { h with winWait := h.winWait.map fun r => if mine r then { r with held := false } else r }) s))

/-- R289: HP0_CNT_CLEAR. -/
def execHp0CntClear (who : Who) (s : State) : Host.Outcome State Fault Refusal := .next (hp0CntClear who s)

/-! ### Links -/

/-- R353: the link of HP0, HP1 or a root port changes; PEAK follows. HP0's link leaving L0,
at once or through recovery, for any other state is a reset (R282); once it is in L0, pending messages leave. -/
def linkChange (link : PcieLink) (st speed width : Nat) (mode : Bool) (s : State) : State :=
  let word := speed * 2 ^ 20 + width * 2 ^ 14 + mode.toNat * 256 + st
  match link with
  | .hp0 =>
    let was := s.fld R.HP0_LINK_STAT F.HP0_LINK_STAT_STATE
    let s := if (was = 2 ∨ was = 3) ∧ st ≠ 2 ∧ st ≠ 3 then hotReset s else s
    let s := qosRefresh (setReg R.HP0_LINK_STAT word s)
    if st = 2 then (List.range 257).foldl (fun s f => flushMsix f s) s else s
  | .hp1 => qosRefresh (setReg R.HP1_LINK_STAT word s)
  | .nvme p =>
    let d := s.ssd p
    let up := decide (st = 2)
    let d : Ssd := if st = 3 then d
      else { d with present := d.present || up, speed := if up then speedGT speed else 0, width := if up then width else 0 }
    let m := mapPut s.t3.ssds p d
    qosRefresh { s with t3 := { s.t3 with ssds := m } }

/-- R353: PCIE_LINK_STATE_CHANGE. -/
def execPcieLinkStateChange (link : PcieLink) (st : Fin 16) (speed : Fin 7) (width : Fin 17) (mode : Bool) (s : State) :
    Host.Outcome State Fault Refusal :=
  .next (if s.mgmt.released then linkChange link st speed width mode s else s)

end Sys2Proof.Machine
end

