-- ==== Sys2Proof/Machine/PoolOps.lean ====
section
/-! DEFINITION. The pool of HP1 (spec/11): its pages and their homes, the T1 cache, regions, versions and drafts, the
sharer directory, and the buckets. A page is numbered extent × 65536 + page, a line page × 64 + line. -/

namespace Sys2Proof.Machine

/-- Change the pool unit. -/
def updPool (f : Pool → Pool) (s : State) : State := { s with pool := f s.pool }

/-- R430, R415, R290: HP1 takes requests: after host release, with its link in L0 and port-based routing. -/
def State.poolOpen (s : State) : Bool :=
  s.hostOpen && s.dieUp 5 && s.fld R.HP1_LINK_STAT F.HP1_LINK_STAT_STATE == 2 &&
    s.flag R.HP1_LINK_STAT F.HP1_LINK_STAT_PBR

/-! ### Extents and regions (R293, R294, R305) -/

/-- R293: extents with their home in T2. -/
def State.poolN2 (s : State) : Nat := s.fld R.HP1_POOL_T2 F.HP1_POOL_T2_EXTENTS
/-- R293: extents with their home in T3. -/
def State.poolN3 (s : State) : Nat := s.fld R.HP1_POOL_T3 F.HP1_POOL_T3_EXTENTS

/-- R305: the region of an extent. -/
def State.extRegion (s : State) (x : Nat) : Nat := s.fld (R.HP1_EXT x) F.HP1_EXT_REGION
/-- R305: the mode of a region. -/
def State.regionMode (s : State) (r : Nat) : Nat := s.fld (R.HP1_REGION_CFG r) F.HP1_REGION_CFG_MODE
/-- R294: an extent belongs to its region. -/
def State.extAssigned (s : State) (x : Nat) : Bool :=
  decide (x < s.poolN2 + s.poolN3) && s.fld (R.HP1_EXT x) F.HP1_EXT_STATE == 1

/-- The extents that are not as after reset. -/
def State.extents (s : State) : List Nat :=
  (s.ctl.filter fun p => 0xE100000 ≤ p.1 && p.1 < 0xE180000).map fun p => (p.1 - 0xE100000) / 8

/-- R305: the region holds an extent. -/
def State.regionHolds (s : State) (r : Nat) : Bool :=
  s.extents.any fun x => s.flag (R.HP1_EXT x) F.HP1_EXT_VALID && s.extRegion x == r

/-! ### Range entries (R295, R296) -/

/-- R295: the STATE of an entry. -/
def State.rangeState (s : State) (e : Nat) : Nat := s.fld (R.HP1_RANGE_B e) F.HP1_RANGE_B_STATE
/-- Set the STATE of an entry. -/
def setRangeState (e v : Nat) (s : State) : State := setFld (R.HP1_RANGE_B e) F.HP1_RANGE_B_STATE v s
/-- R295: the SPID of an entry. -/
def State.rangeSpid (s : State) (e : Nat) : Nat := s.fld (R.HP1_RANGE_A e) F.HP1_RANGE_A_SPID
/-- R295: HPA_BASE of an entry. -/
def State.rangeHpa (s : State) (e : Nat) : Nat := s.fld (R.HP1_RANGE_A e) F.HP1_RANGE_A_HPA_BASE * 2 ^ 28
/-- R295: the extents of an entry: the first, and how many. -/
def State.rangeFirst (s : State) (e : Nat) : Nat := s.fld (R.HP1_RANGE_A e) F.HP1_RANGE_A_FIRST_EXT
/-- R295: COUNT of an entry. -/
def State.rangeCount (s : State) (e : Nat) : Nat := s.fld (R.HP1_RANGE_B e) F.HP1_RANGE_B_COUNT_M1 + 1
/-- R298: the EPOCH of an entry. -/
def State.rangeEpoch (s : State) (e : Nat) : Nat := s.fld (R.HP1_RANGE_B e) F.HP1_RANGE_B_EPOCH

/-- The entries whose STATE is not CLOSED. -/
def State.ranges (s : State) : List Nat :=
  ((s.ctl.filter fun p => 0xE200000 ≤ p.1 && p.1 < 0xE300000 && p.1 % 16 == 8).map fun p =>
    (p.1 - 0xE200008) / 16).filter fun e => s.rangeState e != 0

/-- R295: an entry names an extent. -/
def State.rangeNames (s : State) (e x : Nat) : Bool :=
  decide (s.rangeFirst e ≤ x) && decide (x < s.rangeFirst e + s.rangeCount e)

/-- R295: the entry's extents exist and belong to one region. -/
def State.rangeExtsOk (s : State) (e : Nat) : Bool :=
  let f := s.rangeFirst e
  (List.range (s.rangeCount e)).all fun i => s.extAssigned (f + i) && s.extRegion (f + i) == s.extRegion f

/-- R295: the entry that a host address matches, ACTIVE or WITHDRAWING. -/
def State.rangeMatch (s : State) (spid a : Nat) : Option Nat :=
  s.ranges.find? fun e => s.rangeState e ≥ 2 && s.rangeSpid e == spid && decide (s.rangeHpa e ≤ a) &&
    decide (a < s.rangeHpa e + s.rangeCount e * 2 ^ 28)

/-- R295: the page that a host address reaches through an entry. -/
def State.pageAt (s : State) (e a : Nat) : Nat :=
  let d := a - s.rangeHpa e
  (s.rangeFirst e + d / 2 ^ 28) * 65536 + d / 4096 % 65536

/-- A page's extent. -/
def extOf (page : Nat) : Nat := page / 65536

/-! ### Frames and pages (R300, R302) -/

/-- A page as its hosts see it: 4 096 plain bytes (unlisted: zero) and the poison bits of its 64 lines. -/
structure PoolPage where
  cells  : List Host.Cell
  poison : Nat
deriving DecidableEq, Repr

/-- R302: every line poisoned. -/
def allPoison : Nat := 2 ^ 64 - 1

/-- The 64 bytes of a line. -/
def PoolPage.line (p : PoolPage) (l : Nat) : List Byte := memGets p.cells (64 * l) 64
/-- The 4 096 plain bytes. -/
def PoolPage.bytes (p : PoolPage) : List Byte := memGets p.cells 0 4096
/-- R300: the frame of a page. -/
def PoolPage.frame (p : PoolPage) : List Byte := encodePage p.bytes p.poison

/-- R300: the BDZ unit decodes a frame. -/
def pageOf (f : List Byte) : PoolPage :=
  let h := frameHdr f
  { cells := memPuts [] 0 (bdzDecode h (sliceBytes f 64 h.length)), poison := h.poison }

/-- R294: the frame of 64 ZERO lines. -/
def zeroFrame : List Byte := mkFrame 4 0 0 0 0 0 (List.replicate 32 0) []

/-- R151: HP1's checks of a frame it has read. -/
def poolDamaged (f : List Byte) : Bool := (frameDamage .bdz f 4160 none false).isSome

/-- R155: a page is rewritten as a RAW page frame: the lines of `lost` are poisoned, every other keeps its bytes. -/
def rawAgain (f : List Byte) (lost : Nat) : List Byte := rawPageFrame (pageOf f).bytes ((pageOf f).poison ||| lost)

/-- R300, R302: merge the written bytes of a line; a whole line clears its poison. -/
def PoolPage.merge (p : PoolPage) (l : Nat) (bs : List Byte) (mask : Nat) : PoolPage :=
  let cells := (List.range 64).foldl (fun c i =>
    if bitAt mask i then memPut c (64 * l + i) (bs.getD i 0) else c) p.cells
  { cells, poison := if mask = 2 ^ 64 - 1 then setBits p.poison l l 0 else p.poison }

/-- R155, R302: the lines of a frame that cannot be decoded when some of its bytes are bad. -/
def linesLost (f : List Byte) (bad : Nat → Bool) : Nat :=
  let h := frameHdr f
  if (List.range 64).any bad then allPoison
  else ((List.range 64).foldl (fun (q : Nat × Nat) l =>
    let n := if h.codec == 5 then 64 else bdzSize (h.selector l)
    let hit := (List.range n).any fun i => bad (64 + q.2 + i)
    (if hit then q.1 + 2 ^ l else q.1, q.2 + n)) (0, 0)).1

/-! ### The directory and the homes (R292, R293, R302) -/

/-- R293: what the directory says of a page. -/
def State.dirEnt (s : State) (page : Nat) : Option DirEnt := mapFind s.pool.dir page
/-- Write the directory's entry of a page. -/
def putDir (page : Nat) (d : DirEnt) (s : State) : State := updPool (fun x => { x with dir := mapPut x.dir page d }) s

/-- R302: the pool unit reads a word of its tables at byte `off` from a base. The answer says whether it is uncorrectable. -/
def readTable (r : Reg) (f : Fld) (off : Nat) (s : State) : Bool × Nat × State :=
  let w := s.privAddr (t2Addr (s.fld r f * 4096)) off / 8
  if !s.locked r || s.flipMask w == 0 then (false, w, s)
  else
    let (_, bad, s) := readWords [w] s
    (bad, w, s)

/-- R302: an uncorrectable word of the directory is served from the mirror, and written anew. -/
def readDir (page : Nat) (s : State) : State :=
  let (bad, w, s) := readTable R.HP1_DIR_BASE F.HP1_DIR_BASE_PAGE (Config.dirOff page) s
  if bad then restoreWords [w] s else s

/-- R293: the T2 address of a page's home slot. -/
def State.homeT2 (s : State) (page : Nat) : Nat :=
  t2Addr (s.fld R.HP1_POOL_T2 F.HP1_POOL_T2_BASE + extOf page * 0x10400000 + page % 65536 * 4160)

/-- R293: the home lies in T2. -/
def State.homeIsT2 (s : State) (page : Nat) : Bool := decide (extOf page < s.poolN2)

/-- R293: the T3 chunk of a page's home block and its offset in the chunk. -/
def State.homeT3 (s : State) (page : Nat) : Nat × Nat :=
  let g := (s.fld R.HP1_POOL_T3 F.HP1_POOL_T3_BASE + 2048 * (extOf page - s.poolN2)) * 2 ^ 17 + page % 65536 * 4096
  (g / 2 ^ 17, g % 2 ^ 17)

/-- R293: the 4 096 bytes of a T3 block: the frame, or, where that is longer, the plain bytes. -/
def homeBlock (f : List Byte) : List Byte := if f.length ≤ 4096 then sliceBytes f 0 4096 else (pageOf f).bytes

/-- R293: the directory's entry of a frame: what a T3 block of plain bytes does not hold. -/
def entOf (f : List Byte) (deep : Bool) : DirEnt :=
  if !deep || decide (f.length ≤ 4096) then { len := f.length, plain := false, crc := 0, poison := 0 }
  else { len := f.length, plain := true, crc := (frameHdr f).crc, poison := (frameHdr f).poison }

/-- R293: the frame that a T3 block and the directory give, and whether it fails its checks (R151). -/
def frameFrom (d : DirEnt) (block : List Byte) : List Byte × Bool :=
  if d.plain then
    let f := rawPageFrame block d.poison
    (f, (frameHdr f).crc != d.crc)
  else (block.take d.len, poolDamaged (block.take d.len))

/-- An owner number of an NVMe command on behalf of a pool page (engines are below 384, the drains of leases below 448). -/
def pageOwner (page : Nat) : Nat := 1024 + page

/-- R302: bytes of a T2 home that cannot be read: by uncorrectable words, or out of service. -/
def State.byteBad (s : State) (a : Nat) : Bool :=
  s.pageOut (a / 4096) || (s.flipMask (a / 8) != 0 && (readMask false (s.flipMask (a / 8))).1.isNone)

/-- R300, R302: the first 4 KiB page of a T2 home that a read finds damaged or in recovery. -/
def State.homeHurt (s : State) (page n : Nat) : Option Nat :=
  let a := s.homeT2 page
  (pagesOf a n).find? fun p => (s.rcvOf (.t2Page p)).isSome || s.pageOut p ||
    (s.flippedIn (max a (p * 4096)) (min (a + n) ((p + 1) * 4096) - max a (p * 4096))).any fun w =>
      (readMask false (s.flipMask w)).1.isNone

/-- R353, R362: the pool unit, on H1, uses what a request of its crosses. -/
def poolTouch (t : RegTarget) (s : State) : State :=
  match s.qosPath 5 t with
  | some (_, path) => path.foldl poolUses s
  | none => s

/-! ### The T1 cache (R301) -/

/-- R301: sectors of a frame. -/
def CacheFrame.sectors (c : CacheFrame) : Nat := (c.frame.length + 255) / 256
/-- R301: sectors of the cache. -/
def State.cacheSectors (s : State) : Nat := s.fld R.HP1_POOL_T1 F.HP1_POOL_T1_SIZE_GIB * 2 ^ 22

/-- The frame of a page in the cache. -/
def State.frameIn (s : State) (page : Nat) : Option CacheFrame := s.pool.cache.find? fun c => c.page == page
/-- The page's frame in the cache is dirty. -/
def State.cacheDirty (s : State) (page : Nat) : Bool := ((s.frameIn page).map (·.dirty)).getD false
/-- R300: the page of a frame in the cache. -/
def State.cachePage (s : State) (page : Nat) : PoolPage := pageOf (((s.frameIn page).map (·.frame)).getD zeroFrame)

/-- A frame leaves the cache. -/
def uncache (page : Nat) (s : State) : State :=
  updPool (fun x => { x with cache := x.cache.filter fun c => c.page != page }) s

/-- R300: count bytes moved between tiers. -/
def movedBytes (n : Nat) (s : State) : State := bump R.HP1_CNT_FRAME_BYTES n s

/-- R301, R232: write a frame to its T2 home. None: a channel in self-refresh holds it. -/
def writeHome (page : Nat) (f : List Byte) (s : State) : Option State :=
  let a := s.homeT2 page
  match writeRangeBy true .outside true a f s with
  | (.stall, _) => none
  | (_, s) => some (putDir page (entOf f false) (movedBytes f.length (poolTouch (.part (BitVec.ofNat 64 a) true) s)))

/-- R301: evict one frame. A dirty one is written to its home; a T3 home holds it only once R168 completes the write. -/
def evict (page : Nat) (s : State) : State :=
  match s.frameIn page with
  | none => s
  | some c =>
    if !c.dirty then uncache page s
    else if s.homeIsT2 page then
      match writeHome page c.frame s with
      | some s => uncache page s
      | none => s
    else if s.t3.cmds.any fun x => x.owner == pageOwner page && x.write then s
    else
      let (ch, off) := s.homeT3 page
      if !s.ssdUp (chunkPort ch) then uncache page (putDir page (entOf c.frame true) s)
      else movedBytes 4096 (nvmeSubmitAt (pageOwner page) ch off true (homeBlock c.frame)
        (poolTouch (.ssd (Fin.ofNat 4 (chunkPort ch)) true) s))

/-- R301: evict the least recently used frames until the cache holds what it has room for. -/
def makeRoom (keep : Nat) (s : State) : State :=
  s.pool.cache.foldl (fun s c =>
    if c.page = keep ∨ ((s.pool.cache.map CacheFrame.sectors).sum) ≤ s.cacheSectors then s else evict c.page s) s

/-- R300, R301: a frame is in the cache, most recently used. -/
def install (page : Nat) (dirty : Bool) (f : List Byte) (s : State) : State :=
  let c : CacheFrame := { page, dirty := dirty || s.cacheDirty page, frame := f }
  makeRoom page (updPool (fun x => { x with cache := (x.cache.filter fun c => c.page != page) ++ [c] }) s)

/-- R151, R155: a frame that the pool unit has read is checked and installed. A damaged one, with no tier below that holds
it, is rewritten as a RAW page: which of its lines could be decoded is a free value (log 109). -/
def landFrame (page : Nat) (f : List Byte) (damaged : Bool) (s : State) : State :=
  if !damaged then install page false f s
  else
    let (m, s) := freshWord s
    install page true (rawAgain f m.toNat) s

/-- R302: bytes of a T1 or T2 reservation can be damaged: an instance under it is out of service, or a word is
uncorrectable. -/
def State.rangeSuspect (s : State) (a n : Nat) : Bool :=
  let lo := stackOf (spaceOff a)
  let hi := stackOf (spaceOff (a + n - 1))
  let out := if spaceOf a == .t1 then (List.range 16).any fun c => decide (lo ≤ c) && decide (c ≤ hi) && s.memState c == 6
    else s.chans.any fun c => s.memState (16 + c) == 6
  decide (0 < n) && (out || (s.flippedIn a n).any fun w => (readMask (spaceOf a == .t1) (s.flipMask w)).1.isNone)

/-- R301: the T1 address of the cache. -/
def State.cacheBase (s : State) : Nat := t1Addr (s.fld R.HP1_POOL_T1 F.HP1_POOL_T1_BASE_GIB * 2 ^ 30)

/-- R302, R155: the pool unit looks at a frame in the cache. Which sectors hold a frame is open, so whether damage under the
reservation lies in this one, and which of its lines it leaves, are free values (log 109). A clean frame, whose home holds
the current version, leaves the cache to be fetched again; a dirty one is rewritten as a RAW page. -/
def checkCached (page : Nat) (s : State) : State :=
  match s.frameIn page with
  | none => s
  | some c =>
    if !s.rangeSuspect s.cacheBase (s.cacheSectors * 256) then s
    else
      let (hit, s) := freshBool s
      if !hit then s
      else if !c.dirty then uncache page s
      else
        let (m, s) := freshWord s
        install page true (rawAgain c.frame m.toNat) s

/-! ### Versions and drafts (R306 to R310) -/

/-- R306: a SNAPSHOT region before any commit. -/
def snap0 : Snap := { versions := [(0, [])], hosts := [] }
/-- A host that has nothing of a region. -/
def snapHost0 : SnapHost :=
  { base := none, draft := [], lost := [], full := false, result := 0, seq := 0, busy := 0, before := (0, 0) }
/-- The versions and hosts of a region. -/
def State.snap (s : State) (r : Nat) : Snap := mapGet s.pool.snaps r snap0
/-- What a host has of a region. -/
def Snap.host (n : Snap) (spid : Nat) : SnapHost := mapGet n.hosts spid snapHost0
/-- R306: LATEST. -/
def Snap.latest (n : Snap) : Nat := (n.versions.getLast?.getD (0, [])).1
/-- R310: side slots held. -/
def Snap.slots (n : Snap) : Nat :=
  (n.versions.map fun v => v.2.length).sum + (n.hosts.map fun h => h.2.draft.length).sum

/-- R309: the side slots held by every region. -/
def State.sideUsed (s : State) : Nat := (s.pool.snaps.map fun n => n.2.slots).sum

/-- R315: REGION_STAT follows the region. -/
def syncSnap (r : Nat) (s : State) : State :=
  let n := s.snap r
  setReg (R.HP1_REGION_STAT r) (n.latest % 2 ^ 32 * 2 ^ 32 + n.slots % 2 ^ 24 * 2 ^ 8 + n.versions.length % 32) s

/-- Change a region. -/
def updSnap (r : Nat) (f : Snap → Snap) (s : State) : State :=
  syncSnap r (updPool (fun x => { x with snaps := mapPut x.snaps r (f (s.snap r)) }) s)
/-- Change what a host has of a region. -/
def updSnapHost (r spid : Nat) (f : SnapHost → SnapHost) (s : State) : State :=
  updSnap r (fun n => { n with hosts := mapPut n.hosts spid (f (n.host spid)) }) s

/-- R310: the frame that version `v` holds of a page in a side slot: of the newest retained version at or below `v`. -/
def Snap.sidePage (n : Snap) (v page : Nat) : Option (List Byte) :=
  ((n.versions.takeWhile (·.1 != v)) ++ (n.versions.filter (·.1 == v))).reverse.findSome? fun w => mapFind w.2 page

/-- R310: versions still retained: LATEST, and every BASE. -/
def Snap.retained (n : Snap) (v : Nat) : Bool :=
  v == n.latest || n.hosts.any fun h => h.2.base == some v

/-- R310: pages of an older version pass to the next newer one, unless it holds the same page. -/
def passPages (old new : SMap (List Byte)) : SMap (List Byte) :=
  old.foldl (fun m p => if (mapFind m p.1).isSome then m else mapPut m p.1 p.2) new

/-- R310: versions, oldest first, that stop being retained pass their pages up. -/
def passDown (keep : Nat → Bool) : List (Nat × SMap (List Byte)) → List (Nat × SMap (List Byte))
  | [] => []
  | (v, p) :: rest =>
    match passDown keep rest with
    | [] => [(v, p)]
    | (w, q) :: t => if keep v then (v, p) :: (w, q) :: t else (w, passPages p q) :: t

/-- R310: a frame of a side slot is copied into its page's home; a home that a channel holds takes it from the cache. -/
def foldPage (s : State) (p : Nat × List Byte) : State :=
  let s := uncache p.1 s
  (writeHome p.1 p.2 s).getD (install p.1 true p.2 s)

/-- R307, R310: the pages that retiring versions folds into the home. -/
def Snap.folds (n : Snap) : Nat :=
  match n.versions with
  | [] => 0
  | (v0, _) :: rest =>
    if n.retained v0 then 0 else (((passDown n.retained rest).head?).map fun v => v.2.length).getD 0

/-- R310: retire versions: those newer than the oldest first, then the oldest, whose successor is folded into the home. -/
def snapTrim (r : Nat) (s : State) : State :=
  let n := s.snap r
  match n.versions with
  | [] => s
  | (v0, p0) :: rest =>
    let rest' := passDown n.retained rest
    if n.retained v0 then updSnap r (fun n => { n with versions := (v0, p0) :: rest' }) s
    else match rest' with
      | [] => s
      | (v1, ps) :: t =>
        let s := ps.foldl foldPage s
        updSnap r (fun n => { n with versions := (v1, []) :: t }) s

/-- R308: DISCARD empties the draft. -/
def SnapHost.emptied (h : SnapHost) : SnapHost := { h with draft := [], lost := [], full := false }
/-- R308: the draft holds no page. -/
def SnapHost.clean (h : SnapHost) : Bool := h.draft.isEmpty && h.lost.isEmpty

/-- R310: a new version would exceed the retention limit of 16. -/
def Snap.tooMany (n : Snap) (spid : Nat) : Bool :=
  let bases := (n.hosts.filter fun h => h.1 != spid).filterMap (·.2.base)
  decide ((n.versions.filter fun v => bases.contains v.1).length + 1 > 16)

/-- R307: RESULT, SEQ and BUSY as a host's control page shows them at an NCLK time. -/
def SnapHost.shown (h : SnapHost) (now : Nat) : Nat × Nat × Bool :=
  if now < h.busy then (h.before.1, h.before.2, true) else (h.result, h.seq, false)

/-- R307: a command ends with a status, having moved `n` pages: BUSY is 1 for a free time within the bound of 1 µs and 20 ns
for each page. -/
def snapDone (r spid seq n st : Nat) (s : State) : State :=
  let (x, s) := freshWord s
  let busy := s.nclk + x.toNat % (usCycles 1 + 36 * n + 1)
  let now := s.nclk
  updSnapHost r spid (fun h =>
    { h with before := ((h.shown now).1, (h.shown now).2.1), result := st, seq, busy }) s

/-- R307, R308: a command of a host on a region, from a request of an entry. One written while BUSY is 1 is discarded and
recorded. -/
def snapCommand (r spid e op seq : Nat) (s : State) : State :=
  let n := s.snap r
  let h := n.host spid
  let done (st : Nat) (s : State) : State := snapDone r spid seq 0 st s
  let trim (k st : Nat) (s : State) : State := snapTrim r (snapDone r spid seq (k + (s.snap r).folds) st s)
  if s.nclk < h.busy then blockEventOpen R.HP1_CAP.off s
  else
  match op with
  | 1 =>
    if !h.clean then done St.badCommand s
    else trim 0 St.ok (updSnapHost r spid (fun h => { h with base := some n.latest }) s)
  | 2 =>
    if s.rangeState e = 3 then done St.revoked s
    else match h.base with
    | none => done St.badCommand s
    | some b =>
      if h.full then done St.quota s
      else if h.clean then done St.ok s
      else if b != n.latest then done St.publishConflict (bump R.HP1_CNT_CONFLICT 1 s)
      else if n.tooMany spid then done St.quota s
      else
        let v := (n.latest + 1) % 2 ^ 32
        let s := updSnap r (fun n => { n with versions := n.versions ++ [(v, h.draft)] }) s
        let s := updSnapHost r spid (fun h => { h.emptied with base := some v }) s
        trim h.draft.length St.ok (bump R.HP1_CNT_PUBLISH 1 s)
  | 3 => done St.ok (updSnapHost r spid (fun h => h.emptied) s)
  | 4 => trim 0 St.ok (updSnapHost r spid (fun h => { h.emptied with base := none }) s)
  | _ => done St.badCommand s

/-- R307: the bytes of a host's control page at an NCLK time. -/
def controlPage (n : Snap) (spid now : Nat) : List Byte :=
  let h := n.host spid
  let (result, seq, busy) := h.shown now
  let status := result + seq * 2 ^ 8 + busy.toNat * 2 ^ 16 + h.full.toNat * 2 ^ 17
  let base := h.base.getD 0 + h.base.isSome.toNat * 2 ^ 32
  List.replicate 64 0 ++ leBytes 8 status ++ leBytes 8 base ++ leBytes 8 n.latest ++
    leBytes 8 (h.draft.length + h.lost.length)

/-- R298, R310: a host's draft and open version of a region are dropped. -/
def snapDrop (r spid : Nat) (s : State) : State :=
  if (mapFind (s.snap r).hosts spid).isNone then s
  else snapTrim r (updSnapHost r spid (fun h => { h.emptied with base := none }) s)

/-! ### Buckets and load (R303, R304) -/

/-- R303: bytes of a host's bucket. -/
def State.bucketSize (s : State) (h : Nat) : Nat := s.fld (R.HP1_HOST h) F.HP1_HOST_BURST * 1024
/-- R303: the host is limited. -/
def State.bucketOn (s : State) (h : Nat) : Bool := s.flag (R.HP1_HOST h) F.HP1_HOST_RATE
/-- R303: bytes left in a host's bucket. -/
def State.bucketLeft (s : State) (h : Nat) : Nat := s.bucketSize h - mapGet s.pool.spent h 0
/-- R303: take the 64 bytes of a request. -/
def takeBucket (h : Nat) (s : State) : State :=
  if !s.bucketOn h then s
  else updPool (fun x => { x with spent := mapPut x.spent h (min (s.bucketSize h) (mapGet x.spent h 0 + 64)) }) s

/-- R362: a resource that the pool source used in the previous interval reads HIGH or CRITICAL. -/
def State.readsHigh (s : State) : Bool :=
  s.qos.usedBefore.any fun r => decide (2 ≤ s.fld (R.QOS_RES_STAT r) F.QOS_RES_STAT_LEVEL)

/-- R304: DevLoad: 0 Light, 1 Optimal, 2 Moderate, 3 Severe. -/
def State.devLoad (s : State) (h : Nat) : Nat :=
  let on := s.bucketOn h
  let left := s.bucketLeft h
  if (on && decide (left < 64)) || decide (2048 < s.pool.sharedQ.length) then 3
  else if (on && decide (4 * left < s.bucketSize h)) || s.readsHigh then 2
  else if on && decide (4 * left < 3 * s.bucketSize h) then 1
  else 0

/-! ### Answers -/

/-- R304: answer a request; a read's 64 bytes are counted, and a write or a MemInv has no data. -/
def poolReply (q : PoolReq) (data : List Byte) (poison : Bool) (s : State) : State :=
  let h := q.spid.toNat
  let load := s.devLoad h
  if q.data.isSome || q.inv then send (.pool q.tag.toNat none false load) s
  else
    let s := bump R.HP1_CNT_PLAIN_BYTES 64 s
    let s := if poison then bump R.HP1_CNT_POISON_TX 1 s else s
    send (.pool q.tag.toNat (some data) poison load) s

/-- R291, R298: a refused read returns zero with poison; a refused write is discarded. -/
def poolRefuse (q : PoolReq) (s : State) : State := poolReply q (List.replicate 64 0) true s

/-- R304, R312: answer an accepted request; a write-back has no response. -/
def poolAnswer (p : PoolPend) (data : List Byte) (poison : Bool) (s : State) : State :=
  if p.back then s else poolReply p.req data poison s

/-- R300, R302: a read of a line of a page: what a poisoned line's bytes are is open. -/
def poolReadLine (q : PoolReq) (p : PoolPage) (l : Nat) (s : State) : State :=
  if bitAt p.poison l then
    let (bs, s) := freshBytes 64 s
    poolReply q bs true s
  else poolReply q (p.line l) false s

end Sys2Proof.Machine
end

