-- ==== Sys2Proof/Machine/Pool.lean ====
section
/-! DEFINITION. The commands of HP1 and the pool (R290 to R315) and the writes of their registers. -/

namespace Sys2Proof.Machine

/-! ### Fetching a page (R300, R302) -/

/-- The page that an accepted request reaches. -/
def State.pendPage (s : State) (p : PoolPend) : Nat := s.pageAt p.entry p.req.hpa.toNat
/-- The line within its page. -/
def PoolPend.line (p : PoolPend) : Nat := p.req.hpa.toNat % 4096 / 64
/-- The line's number. -/
def State.pendLine (s : State) (p : PoolPend) : Nat := s.pendPage p * 64 + p.line

/-- A request waits for the page. -/
def State.pageAwaited (s : State) (page : Nat) : Bool := s.pool.parked.any fun q => s.pendPage q == page

/-- The request waits for its page; its hit or miss has been counted. -/
def parkPool (p : PoolPend) (s : State) : State :=
  updPool (fun x => { x with parked := x.parked ++ [{ p with counted := true }] }) s

/-- R300: count a request's hit or miss, once. -/
def noteCache (r : Reg) (p : PoolPend) (s : State) : State := if p.counted then s else bump r 1 s

/-- R300: a miss on a page whose home is in T2: the frame is read. False: the request waits for it. -/
def fetchT2 (p : PoolPend) (page : Nat) (d : DirEnt) (s : State) : Bool × State :=
  let a := s.homeT2 page
  match s.homeHurt page d.len with
  | some q => (false, parkPool p (rcvAttach (s.hdieOf (q * 4096)) (.t2Page q) (.pool page) s))
  | none =>
    match readRangeBy true (.pool page) a d.len s with
    | (.ok f, s) =>
      (true, landFrame page f (poolDamaged f) (poolTouch (.part (BitVec.ofNat 64 a) false) (movedBytes d.len s)))
    | (.held, s) => (false, parkPool p s)
    | (.err _, s) => (true, install page true (rawPageFrame [] allPoison) s)

/-- R300: a miss on a page whose home is in T3: an NVMe command reads its block, unless one is on its way. -/
def fetchT3 (p : PoolPend) (page : Nat) (s : State) : State :=
  let (ch, off) := s.homeT3 page
  let s := parkPool p s
  if (s.rcvOf (.t3Chunk ch)).isSome || !s.ssdUp (chunkPort ch) then rcvAttach 1 (.t3Chunk ch) (.pool page) s
  else if s.t3.cmds.any fun c => c.owner == pageOwner page && !c.write then s
  else nvmeSubmitAt (pageOwner page) ch off false [] (poolTouch (.ssd (Fin.ofNat 4 (chunkPort ch)) false) s)

/-- R300: a miss: the page is read from its home. A page that the directory marks as 64 ZERO lines (R294) is not read. -/
def fetchHome (p : PoolPend) (page : Nat) (s : State) : Bool × State :=
  match s.dirEnt page with
  | none => (true, install page false zeroFrame s)
  | some d => if s.homeIsT2 page then fetchT2 p page d s else (false, fetchT3 p page s)

/-- R300: a request's look into the cache: a hit or a miss. -/
def fetchCached (p : PoolPend) (page : Nat) (s : State) : Bool × State :=
  match s.frameIn page with
  | some c => (true, install page false c.frame (noteCache R.HP1_CNT_CACHE_HIT p s))
  | none => fetchHome p page (noteCache R.HP1_CNT_CACHE_MISS p s)

/-- R300: bring a page into the cache. False: the request waits for it. -/
def fetchPage (p : PoolPend) (page : Nat) (s : State) : Bool × State :=
  let s := readDir page s
  if s.pageAwaited page then (false, parkPool p (noteCache R.HP1_CNT_CACHE_MISS p s))
  else fetchCached p page (checkCached page (poolTouch (.part (BitVec.ofNat 64 s.cacheBase) false) s))

/-! ### Performing a request -/

/-- R299: a write whose entry's EPOCH has stepped is discarded and counted; a read then ends with poison. -/
def poolStale (p : PoolPend) (s : State) : State :=
  let s := if p.req.data.isSome then bump R.HP1_CNT_STALE 1 s else s
  if p.back then s else poolRefuse p.req s

/-- R300: perform a request on a page in the cache: a write rewrites its frame. -/
def onPage (p : PoolPend) (page : Nat) (s : State) : State :=
  if p.epoch != s.rangeEpoch p.entry then poolStale p s
  else match p.req.data with
    | none => poolReadLine p.req (s.cachePage page) p.line s
    | some bs =>
      poolAnswer p [] false (install page true ((s.cachePage page).merge p.line bs p.req.mask.toNat).frame s)

/-- R302: a page in a side slot: damage under the side reserve is found, or not, by a free choice. -/
def sidePoison (s : State) : Nat × State :=
  let a := t2Addr (s.fld R.HP1_POOL_SIDE F.HP1_POOL_SIDE_BASE_PAGE * 4096)
  if !s.rangeSuspect a (s.fld R.HP1_POOL_SIDE F.HP1_POOL_SIDE_SLOTS * 4160) then (0, s)
  else
    let (w, s) := freshWord s
    (w.toNat, s)

/-- R306, R307: a read in a SNAPSHOT region. None: it reads the page from its home. -/
def snapRead (p : PoolPend) (r page : Nat) (s : State) : Option State :=
  let n := s.snap r
  let spid := p.req.spid.toNat
  let h := n.host spid
  if page = s.fld (R.HP1_REGION_CFG r) F.HP1_REGION_CFG_FIRST_EXT * 65536 then
    some (poolReply p.req (sliceBytes (controlPage n spid s.nclk) (64 * p.line) 64) false s)
  else
    let side (f : List Byte) : State :=
      let (m, s) := sidePoison s
      let g := pageOf f
      poolReadLine p.req { g with poison := g.poison ||| m } p.line s
    if h.lost.contains page then some (poolReadLine p.req { cells := [], poison := allPoison } p.line s)
    else match mapFind h.draft page with
      | some f => some (side f)
      | none => (n.sidePage (h.base.getD n.latest) page).map side

/-- R306, R309: a write to a page of a draft that has its slot. -/
def draftWrite (p : PoolPend) (r page : Nat) (g : PoolPage) (s : State) : State :=
  let f := (g.merge p.line (p.req.data.getD []) p.req.mask.toNat).frame
  poolReply p.req [] false (updSnapHost r p.req.spid.toNat (fun h => { h with draft := mapPut h.draft page f }) s)

/-- R309: side slots allow another page. -/
def State.slotFree (s : State) (r : Nat) : Bool :=
  decide ((s.snap r).slots < s.fld (R.HP1_REGION_CFG r) F.HP1_REGION_CFG_SIDE_LIMIT) &&
    decide (s.sideUsed < s.fld R.HP1_POOL_SIDE F.HP1_POOL_SIDE_SLOTS)

/-- R306, R307, R309: a write in a SNAPSHOT region. None: its first write to the page copies it from its home. -/
def snapWrite (p : PoolPend) (r page : Nat) (s : State) : Option State :=
  let n := s.snap r
  let spid := p.req.spid.toNat
  let h := n.host spid
  let discard (s : State) : State := poolReply p.req [] false s
  if page = s.fld (R.HP1_REGION_CFG r) F.HP1_REGION_CFG_FIRST_EXT * 65536 then
    let w := leAt (p.req.data.getD []) 0 8
    if p.line = 0 ∧ p.req.mask.toNat = 0xFF then some (discard (snapCommand r spid p.entry (w % 256) (w / 256 % 256) s))
    else some (discard s)
  else match h.base with
    | none => some (discard (bump R.HP1_CNT_REVOKE_DROP 1 s))
    | some b =>
      if h.lost.contains page then some (discard s)
      else match mapFind h.draft page with
        | some f => some (draftWrite p r page (pageOf f) s)
        | none =>
          if !s.slotFree r then
            some (discard (bump R.HP1_CNT_DRAFT_FULL 1
              (updSnapHost r spid (fun h => { h with lost := page :: h.lost, full := true }) s)))
          else (n.sidePage b page).map fun f => draftWrite p r page (pageOf f) s

/-- R306: a SNAPSHOT request that reaches the page's home. -/
def snapHome (p : PoolPend) (r page : Nat) (s : State) : State :=
  if p.epoch != s.rangeEpoch p.entry then poolStale p s
  else if p.req.data.isSome then draftWrite p r page (s.cachePage page) s
  else poolReadLine p.req (s.cachePage page) p.line s

/-- A request on a page in the cache, in its region. -/
def performPend (p : PoolPend) (s : State) : State :=
  let page := s.pendPage p
  let r := s.extRegion (extOf page)
  if s.regionMode r = 1 then
    match if p.req.data.isSome then snapWrite p r page s else snapRead p r page s with
    | some s' => s'
    | none => snapHome p r page s
  else onPage p page s

/-- R300: a request of EXCLUSIVE data, or of a DIRECTORY line that is its own. R290: a MemInv moves no data. -/
def pageRequest (p : PoolPend) (s : State) : State :=
  if p.req.inv then poolAnswer p [] false s
  else
    let (ok, s) := fetchPage p (s.pendPage p) s
    if ok then onPage p (s.pendPage p) s else s

/-- R306: a request in a SNAPSHOT region. -/
def snapRequest (p : PoolPend) (s : State) : State :=
  let page := s.pendPage p
  let r := s.extRegion (extOf page)
  if p.req.inv then poolAnswer p [] false s
  else if p.epoch != s.rangeEpoch p.entry then poolStale p s
  else match if p.req.data.isSome then snapWrite p r page s else snapRead p r page s with
    | some s' => s'
    | none =>
      let (ok, s) := fetchPage p page s
      if ok then snapHome p r page s else s

/-- A page's data has come: the requests that wait for it are performed in arrival order. -/
def wakePage (page : Nat) (s : State) : State :=
  let mine := s.pool.parked.filter fun q => s.pendPage q == page
  let s := updPool (fun x => { x with parked := x.parked.filter fun q => s.pendPage q != page }) s
  mine.foldl (fun s q => performPend q s) s

/-! ### The sharer directory (R312, R313) -/

/-- Who holds a line. -/
def State.holders (s : State) (line : Nat) : Option Sharers := mapFind s.pool.sharers line

/-- R313: the SPIDs with an ACTIVE or WITHDRAWING entry on an extent. -/
def State.extSpids (s : State) (x : Nat) : List Nat :=
  ((s.ranges.filter fun e => s.rangeState e ≥ 2 && s.rangeNames e x).map s.rangeSpid).eraseDups

/-- R312, R313: the SPIDs that hold a line. -/
def State.holding (s : State) (line : Nat) : List Nat :=
  match s.holders line with
  | none => []
  | some (.shared l) => l
  | some (.owned o) => [o]
  | some (.wide gone) => (s.extSpids (line / 64 / 65536)).filter fun h => !gone.contains h

/-- R312: the SPIDs that hold a line, other than one. -/
def State.others (s : State) (line spid : Nat) : List Nat := (s.holding line).filter (· != spid)

/-- R312: the SPIDs that must answer before a request is served. -/
def State.mustAnswer (s : State) (line : Nat) (q : PoolReq) : List Nat :=
  let spid := q.spid.toNat
  if q.own || q.data.isSome then s.others line spid
  else if q.inv then []
  else match s.holders line with
    | some (.owned o) => if o = spid then [] else [o]
    | _ => []

/-- Set who holds a line. -/
def setHolders (line : Nat) (h : Option Sharers) (s : State) : State :=
  updPool (fun x => match h with
    | some v => { x with
        sharers := mapPut (mapErase x.sharers line) line v
        dirUse := if x.dirUse.contains line then x.dirUse else x.dirUse ++ [line] }
    | none => { x with sharers := mapErase x.sharers line, dirUse := x.dirUse.filter (· != line) }) s

/-- R313: a line's entry of the sharer directory is used. -/
def touchLine (line : Nat) (s : State) : State :=
  if (s.holders line).isNone then s
  else updPool (fun x => { x with dirUse := x.dirUse.filter (· != line) ++ [line] }) s

/-- R312: send a snoop, unless one to that host for that line is on its way. -/
def snoop (line : Nat) (s : State) (spid : Nat) : State :=
  if s.pool.snoops.any fun n => n.spid == spid && n.line == line then s
  else
    let n : Snoop := { spid, line, time := s.nclk }
    bump R.HP1_CNT_BISNP 1 (send (.snoop spid line) (updPool (fun x => { x with snoops := x.snoops ++ [n] }) s))

/-- R312, R313: a host no longer holds a line. A region-wide line is held by none once no host of it is left. -/
def forgetHolder (line spid : Nat) (s : State) : State :=
  match s.holders line with
  | some (.shared l) =>
    let l' := l.filter (· != spid)
    setHolders line (if l'.isEmpty then none else some (.shared l')) s
  | some (.owned o) => if o = spid then setHolders line none s else s
  | some (.wide gone) =>
    setHolders line (if (s.others line spid).isEmpty then none else some (.wide (setInsert gone spid))) s
  | none => s

/-- R312, R313: who holds a line after a request on it is answered. -/
def admitHolder (line : Nat) (q : PoolReq) (s : State) : State :=
  let spid := q.spid.toNat
  if q.data.isSome then
    match s.holders line with
    | some (.owned _) => s
    | some _ => setHolders line (if (s.holding line).contains spid then some (.shared [spid]) else none) s
    | none => s
  else if q.own then setHolders line (some (.owned spid)) s
  else if q.inv then forgetHolder line spid s
  else match s.holders line with
    | none => setHolders line (some (.shared [spid])) s
    | some (.shared l) =>
      if l.contains spid then s
      else if l.length < 4 then setHolders line (some (.shared (l ++ [spid]))) s
      else setHolders line (some (.wide [])) s
    | some (.owned _) => s
    | some (.wide gone) => setHolders line (some (.wide (gone.filter (· != spid)))) s

/-- R313: ways of a set, and the sets of 2^26 entries. -/
def dirWays : Nat := 16
/-- R313: sets of the sharer directory. -/
def dirSets : Nat := 2 ^ 22
/-- R313: the set of a line. -/
def dirSet (line : Nat) : Nat := Config.sharerSet line % dirSets

/-- R313: a request would admit a line to the directory, and the line's set is full. -/
def State.setFull (s : State) (line : Nat) (q : PoolReq) : Bool :=
  (s.holders line).isNone && q.data.isNone && (q.own || !q.inv) &&
    decide (dirWays ≤ (s.pool.sharers.filter fun p => dirSet p.1 == dirSet line).length)

/-- R313: a full set evicts its least recently used entry, snooping its holders. -/
def makeWay (line : Nat) (q : PoolReq) (s : State) : State :=
  if !s.setFull line q then s
  else match s.pool.dirUse.find? fun l => dirSet l == dirSet line with
    | none => s
    | some v => if (s.holding v).isEmpty then setHolders v none s else (s.holding v).foldl (snoop v) s

/-- R302, R313: an uncorrectable word of the sharer directory makes its line held by every host of its region. -/
def checkSharer (line : Nat) (s : State) : State :=
  let (bad, w, s) := readTable R.HP1_SHARER_BASE F.HP1_SHARER_BASE_PAGE (Config.sharerOff line) s
  if bad then setHolders line (some (.wide [])) (rewriteWords [w] s) else s

/-- R312, R313: what a request waits for is asked for: room in its line's set, and the answers of the line's holders. -/
def dirAsk (p : PoolPend) (s : State) : State :=
  let line := s.pendLine p
  let s := makeWay line p.req s
  if s.pool.snoops.any fun n => n.line == line then s
  else (s.mustAnswer line p.req).foldl (snoop line) s

/-- R312: nothing stands before a request on its line. -/
def State.dirReady (s : State) (p : PoolPend) : Bool :=
  let line := s.pendLine p
  !(s.pool.snoops.any fun n => n.line == line) && (s.mustAnswer line p.req).isEmpty && !s.setFull line p.req

/-- R300, R312: a request comes before another of its line, or of the same host and page. -/
def State.dirAhead (s : State) (q p : PoolPend) : Bool :=
  s.pendLine q == s.pendLine p || (q.req.spid == p.req.spid && s.pendPage q == s.pendPage p)

/-- R312: serve a request that nothing holds back. -/
def dirServe (p : PoolPend) (s : State) : State :=
  let line := s.pendLine p
  pageRequest p (if p.epoch != s.rangeEpoch p.entry then s else touchLine line (admitHolder line p.req s))

/-- R312: a request in a DIRECTORY region: in arrival order on its line, and (R300) on its host's page. -/
def dirRequest (p : PoolPend) (s : State) : State :=
  let wait (s : State) : State := updPool (fun x => { x with biWait := x.biWait ++ [p] }) s
  if s.pool.biWait.any fun q => s.dirAhead q p then wait s
  else
    let s := dirAsk p (checkSharer (s.pendLine p) s)
    if s.dirReady p then dirServe p s else wait s

/-- R312: serve, in arrival order, the waiting requests that nothing holds back any more. -/
def dirRetry (s : State) : State :=
  (s.pool.biWait).foldl (fun s p =>
    match s.pool.biWait.find? fun q => s.dirAhead q p with
    | some q =>
      if q != p then s
      else
        let s := dirAsk p s
        if s.dirReady p then dirServe p (updPool (fun x => { x with biWait := x.biWait.erase p }) s) else s
    | none => s) s

/-! ### Arrival (R291, R295, R298, R303) -/

/-- Serve an accepted request that its bucket lets through. -/
def poolServe (p : PoolPend) (s : State) : State :=
  let s := takeBucket p.req.spid.toNat s
  match s.regionMode (s.extRegion (extOf (s.pendPage p))) with
  | 1 => snapRequest p s
  | 2 => dirRequest p s
  | _ => pageRequest p s

/-- R303: the bucket of host `h` does not let a request through. -/
def State.bucketEmpty (s : State) (h : Nat) : Bool := s.bucketOn h && decide (s.bucketLeft h < 64)

/-- R303: a request of host `h` must wait: for its bucket, or behind others of the host. -/
def State.bucketHolds (s : State) (h : Nat) : Bool := s.bucketEmpty h || !(mapGet s.pool.hostQ h []).isEmpty

/-- R303: requests that the shared queue takes. -/
def sharedMax : Nat := 4096

/-- R303: hold a request: in its host's queue of 256, else in the shared queue. -/
def poolHold (p : PoolPend) (s : State) : State :=
  let h := p.req.spid.toNat
  let q := mapGet s.pool.hostQ h []
  bump R.HP1_CNT_HOLD 1 (if q.length < 256 then updPool (fun x => { x with hostQ := mapPut x.hostQ h (q ++ [p]) }) s
    else updPool (fun x => { x with sharedQ := x.sharedQ ++ [p] }) s)

/-- R291: a request that matches no range. -/
def poolNoMatch (q : PoolReq) (s : State) : State :=
  let a := q.hpa.toNat
  let s := event 0x0901 0x0B 0 q.spid.toNat a (a / 2 ^ 32) q.data.isSome.toNat (bump R.HP1_CNT_NOMATCH 1 s)
  poolRefuse q (takeBucket q.spid.toNat s)

/-- R291, R295, R298, R415: HP1 takes a CXL.mem request. -/
def poolTake (q : PoolReq) (s : State) : State :=
  if s.mgmt.tripped then poolRefuse q s
  else match s.rangeMatch q.spid.toNat q.hpa.toNat with
    | none => poolNoMatch q s
    | some e =>
      let b := R.HP1_RANGE_B e
      if !(if q.data.isSome then s.flag b F.HP1_RANGE_B_WR else s.flag b F.HP1_RANGE_B_RD) || !s.rangeExtsOk e then
        poolNoMatch q s
      else if s.rangeState e = 3 then
        poolRefuse q (takeBucket q.spid.toNat (bump R.HP1_CNT_REVOKE_DROP 1 s))
      else
        let p : PoolPend := { req := q, entry := e, epoch := s.rangeEpoch e, counted := false, back := false }
        if s.bucketHolds q.spid.toNat then poolHold p s else poolServe p s

/-- R303: HP1 returns no link credits. -/
def State.linkFull (s : State) : Bool := decide (sharedMax ≤ s.pool.sharedQ.length)

/-- R303: a CXL.mem request arrives: while the shared queue is full, every host waits. -/
def poolArrive (q : PoolReq) (s : State) : State :=
  if !s.poolOpen then s
  else if s.linkFull || !s.pool.linkQ.isEmpty then updPool (fun x => { x with linkQ := x.linkQ ++ [q] }) s
  else poolTake q s

/-- R303: requests that waited for link credits are taken, in order, while the shared queue has room. -/
def runLink : Nat → State → State
  | 0, s => s
  | n + 1, s =>
    match s.pool.linkQ with
    | [] => s
    | q :: t => if s.linkFull then s else runLink n (poolTake q (updPool (fun x => { x with linkQ := t }) s))

/-- R300: POOL_READ. -/
def execPoolRead (req : PoolReq) (s : State) : Host.Outcome State Fault Refusal :=
  .next (poolArrive { req with data := none } s)

/-- R300: POOL_WRITE. -/
def execPoolWrite (req : PoolReq) (s : State) : Host.Outcome State Fault Refusal :=
  .next (poolArrive { req with inv := false, data := some (sliceBytes (req.data.getD []) 0 64) } s)

/-- R307, R308: a host writes a command to its control page. -/
def snapWriteReq (op : Nat) (spid : BitVec 12) (hpa : BitVec 52) (tag : BitVec 16) (seq : BitVec 8) : PoolReq :=
  { spid, tag, hpa, own := false, inv := false, data := some (sliceBytes (leBytes 2 (op + 256 * seq.toNat)) 0 64),
    mask := 0xFF }

/-- R308: OPEN. -/
def execSnapOpen (spid : BitVec 12) (hpa : BitVec 52) (tag : BitVec 16) (seq : BitVec 8) (s : State) :
    Host.Outcome State Fault Refusal := .next (poolArrive (snapWriteReq 1 spid hpa tag seq) s)

/-- R308: PUBLISH. -/
def execSnapPublish (spid : BitVec 12) (hpa : BitVec 52) (tag : BitVec 16) (seq : BitVec 8) (s : State) :
    Host.Outcome State Fault Refusal := .next (poolArrive (snapWriteReq 2 spid hpa tag seq) s)

/-- R308: DISCARD. -/
def execSnapDiscard (spid : BitVec 12) (hpa : BitVec 52) (tag : BitVec 16) (seq : BitVec 8) (s : State) :
    Host.Outcome State Fault Refusal := .next (poolArrive (snapWriteReq 3 spid hpa tag seq) s)

/-- R308: CLOSE. -/
def execSnapClose (spid : BitVec 12) (hpa : BitVec 52) (tag : BitVec 16) (seq : BitVec 8) (s : State) :
    Host.Outcome State Fault Refusal := .next (poolArrive (snapWriteReq 4 spid hpa tag seq) s)

/-- R303: requests of a host leave its queue while its bucket lets them; the shared queue moves up. -/
def drainHost (h : Nat) : Nat → State → State
  | 0, s => s
  | n + 1, s =>
    match mapGet s.pool.hostQ h [] with
    | [] => s
    | p :: t =>
      if s.bucketEmpty h then s
      else
        let up := s.pool.sharedQ.find? fun q => q.req.spid.toNat == h
        let q := match up with | some x => t ++ [x] | none => t
        let sh := match up with | some x => s.pool.sharedQ.erase x | none => s.pool.sharedQ
        let s := updPool (fun x => { x with
          hostQ := if q.isEmpty then mapErase x.hostQ h else mapPut x.hostQ h q, sharedQ := sh }) s
        drainHost h n (poolServe p s)

/-- R303: what host `h` has queued goes as far as its bucket lets it; then the link's requests are taken. -/
def drainPool (h : Nat) (s : State) : State :=
  let s := drainHost h ((mapGet s.pool.hostQ h []).length + s.pool.sharedQ.length) s
  runLink s.pool.linkQ.length s

/-- R303: HP1_HOST_BUCKET_REFILL. -/
def execHp1HostBucketRefill (h : Fin 4096) (bytes : Nat) (s : State) : Host.Outcome State Fault Refusal :=
  let left := mapGet s.pool.spent h.val 0 - bytes
  .next (drainPool h (updPool (fun x =>
    { x with spent := if left = 0 then mapErase x.spent h.val else mapPut x.spent h.val left }) s))

/-! ### Withdrawal (R297, R298, R314) -/

/-- R298: step 1. In a DIRECTORY region every line that the host holds is snooped. -/
def withdraw (e cause : Nat) (s : State) : State :=
  if s.rangeState e != 2 then s
  else
    let spid := s.rangeSpid e
    let d : Drawn := { t0 := s.nclk, byHost := cause == 2, cause, cut := false }
    let s := setRangeState e 3 (updPool (fun x => { x with drawn := mapPut x.drawn e d }) s)
    if s.regionMode (s.extRegion (s.rangeFirst e)) = 2 then
      (s.pool.sharers.filter fun p => s.rangeNames e (p.1 / 64 / 65536)).foldl (fun s p =>
        if (s.holding p.1).contains spid then snoop p.1 s spid else s) s
    else s

/-- R297, R298: a WITHDRAW of an entry: an OFFERED one returns to CLOSED; an ACTIVE one is withdrawn. -/
def rangeWithdraw (e cause : Nat) (s : State) : State :=
  if s.rangeState e = 1 then setRangeState e 0 s else withdraw e cause s

/-- R312, R314: a snoop has ended: the host no longer holds the line. -/
def snoopEnded (line spid : Nat) (s : State) : State :=
  forgetHolder line spid
    (updPool (fun x => { x with snoops := x.snoops.filter fun n => !(n.spid == spid && n.line == line) }) s)

/-- R312: the entry through which a host reached a line. -/
def State.backEntry (s : State) (spid line : Nat) : Option Nat :=
  s.ranges.find? fun e => s.rangeState e ≥ 2 && s.rangeSpid e == spid && s.rangeNames e (line / 64 / 65536)

/-- R312, R299: the modified line that answers a snoop is written; with no entry left for it, it is stale. -/
def lineBack (spid line : Nat) (bs : List Byte) (s : State) : State :=
  match s.backEntry spid line with
  | none => bump R.HP1_CNT_STALE 1 s
  | some e =>
    let hpa := s.rangeHpa e + (line * 64 - s.rangeFirst e * 2 ^ 28)
    let q : PoolReq := { spid := BitVec.ofNat 12 spid, tag := 0, hpa := BitVec.ofNat 52 hpa, own := false, inv := false,
                         data := some (sliceBytes bs 0 64), mask := BitVec.allOnes 64 }
    pageRequest { req := q, entry := e, epoch := s.rangeEpoch e, counted := false, back := true } s

/-- R312, R299: BI_RESPONSE. A late answer is dropped, and its data counted as stale. -/
def biResponse (spid line : Nat) (data : Option (List Byte)) (s : State) : State :=
  if !s.pool.snoops.any fun n => n.spid == spid && n.line == line then
    (if data.isSome then bump R.HP1_CNT_STALE 1 s else s)
  else
    let s := takeBucket spid s
    let s := match data with
      | some bs => lineBack spid line bs s
      | none => s
    dirRetry (snoopEnded line spid s)

/-- R312: BI_RESPONSE. -/
def execBiResponse (spid : BitVec 12) (line : Nat) (data : Option (List Byte)) (s : State) :
    Host.Outcome State Fault Refusal := .next (if s.poolOpen then biResponse spid.toNat line data s else s)

/-- R314: BI_TIMEOUT: 1 ms in NCLK cycles. -/
def biTimeoutCycles : Nat := usCycles 1000

/-- R314: a host that does not answer is treated as failed for the region. -/
def execBiTimeout (spid : BitVec 12) (line : Nat) (s : State) : Host.Outcome State Fault Refusal :=
  .next (match s.pool.snoops.find? fun n => n.spid == spid.toNat && n.line == line with
    | none => s
    | some n =>
      if s.nclk < n.time + biTimeoutCycles then s
      else
        let r := s.extRegion (line / 64 / 65536)
        let h := spid.toNat
        let s := event 0x0903 0x0B 0 h r 0 0 (bump R.HP1_CNT_BI_TIMEOUT 1 s)
        let s := dirRetry (snoopEnded line h s)
        (s.ranges.filter fun e => s.rangeSpid e == h && s.extRegion (s.rangeFirst e) == r).foldl
          (fun s e => withdraw e 3 s) s)

/-- R296, R297: another entry in use takes the same host addresses, or, in an EXCLUSIVE region, the same extents. -/
def State.rangeClash (s : State) (e : Nat) : Bool :=
  let mode := s.regionMode (s.extRegion (s.rangeFirst e))
  let lo := s.rangeHpa e
  let hi := lo + s.rangeCount e * 2 ^ 28
  s.ranges.any fun o => o != e &&
    ((s.rangeSpid o == s.rangeSpid e && decide (s.rangeHpa o < hi) && decide (lo < s.rangeHpa o + s.rangeCount o * 2 ^ 28)) ||
     (mode == 0 && decide (s.rangeFirst o < s.rangeFirst e + s.rangeCount e) &&
       decide (s.rangeFirst e < s.rangeFirst o + s.rangeCount o)))

/-- R296, R297: the entry is offered, and the host is told. -/
def rangeOffer (who : Who) (e : Nat) (s : State) : State :=
  if !s.privWriter who || s.rangeState e != 0 || s.rangeClash e || !s.rangeExtsOk e then
    ignoredWrite who (R.HP1_RANGE_B e).off s
  else send (.capacity (s.rangeSpid e) e 0) (setRangeState e 1 s)

/-- R297: RANGE_OFFER. -/
def execRangeOffer (who : Who) (e : Fin 65536) (s : State) : Host.Outcome State Fault Refusal :=
  .next (rangeOffer who e s)

/-- R297: DC_ADD_RESPONSE. -/
def execDcAddResponse (e : Fin 65536) (accept : Bool) (s : State) : Host.Outcome State Fault Refusal :=
  .next (if s.rangeState e = 1 then setRangeState e (if accept then 2 else 0) s else s)

/-- R297, R298: RANGE_WITHDRAW. -/
def execRangeWithdraw (who : Who) (e : Fin 65536) (s : State) : Host.Outcome State Fault Refusal :=
  .next (if s.privWriter who then rangeWithdraw e 0 s else ignoredWrite who (R.HP1_RANGE_B e).off s)

/-- R298: DC_RELEASE: by the host or by the fabric manager. -/
def execDcRelease (e : Fin 65536) (byHost : Bool) (s : State) : Host.Outcome State Fault Refusal :=
  .next (if byHost then withdraw e 2 s else rangeWithdraw e 1 s)

/-- R298: step 3. -/
def withdrawCutoff (e : Nat) (d : Drawn) (s : State) : State :=
  let spid := s.rangeSpid e
  let mine (p : PoolPend) : Bool := p.entry == e
  let ended := s.pool.parked.filter mine ++ s.pool.biWait.filter mine ++ mapGet s.pool.hostQ spid [] |>.filter mine
  let ended := ended ++ s.pool.sharedQ.filter mine
  let rest := (mapGet s.pool.hostQ spid []).filter fun p => !mine p
  let s := updPool (fun x => { x with
    parked := x.parked.filter fun p => !mine p
    biWait := x.biWait.filter fun p => !mine p
    sharedQ := x.sharedQ.filter fun p => !mine p
    hostQ := if rest.isEmpty then mapErase x.hostQ spid else mapPut x.hostQ spid rest
    drawn := mapPut x.drawn e { d with cut := true } }) s
  let s := ended.foldl (fun s p => poolStale p s) s
  let s := (s.pool.snoops.filter fun n => n.spid == spid && s.rangeNames e (n.line / 64 / 65536)).foldl
    (fun s n => snoopEnded n.line spid s) s
  let s := (s.pool.sharers.filter fun p => s.rangeNames e (p.1 / 64 / 65536)).foldl
    (fun s p => forgetHolder p.1 spid s) s
  let r := s.extRegion (s.rangeFirst e)
  let s := if s.regionMode r = 1 then snapDrop r spid s else s
  let s := dirRetry (setFld (R.HP1_RANGE_B e) F.HP1_RANGE_B_EPOCH (s.rangeEpoch e + 1) s)
  runLink s.pool.linkQ.length s

/-- R298: WITHDRAW_CUTOFF, at t0 + 64 µs. -/
def execWithdrawCutoff (e : Fin 65536) (s : State) : Host.Outcome State Fault Refusal :=
  .next (match mapFind s.pool.drawn e.val with
    | some d => if d.cut || decide (s.nclk < d.t0 + usCycles 64) then s else withdrawCutoff e d s
    | none => s)

/-- R298: WITHDRAW_CLOSE: step 4. -/
def execWithdrawClose (e : Fin 65536) (s : State) : Host.Outcome State Fault Refusal :=
  .next (match mapFind s.pool.drawn e.val with
    | some d =>
      if !d.cut then s
      else
        let s := send (.capacity (s.rangeSpid e) e (if d.byHost then 1 else 2)) s
        let s := event 0x0902 0x0B 0 e (s.rangeSpid e) (Config.causeCode 0x0902 d.cause).toNat 0 s
        setRangeState e 0 (updPool (fun x => { x with drawn := mapErase x.drawn e.val }) s)
    | none => s)

/-! ### The cache, extents and registers -/

/-- R301: FRAME_CACHE_EVICT. -/
def execFrameCacheEvict (page : Nat) (s : State) : Host.Outcome State Fault Refusal := .next (evict page s)

/-- R293: an extent's HOME. -/
def State.extHome (s : State) (x : Nat) : Nat :=
  if x < s.poolN2 then 2 else if x < s.poolN2 + s.poolN3 then 3 else 0

/-- R294: drop what an extent held. -/
def dropExtent (x : Nat) (s : State) : State :=
  let out (page : Nat) : Bool := page / 65536 != x
  let keep {α : Type} (m : SMap α) : SMap α := m.filter fun p => out p.1
  let snaps := s.pool.snaps.map fun n => (n.1, { n.2 with
    versions := n.2.versions.map fun v => (v.1, keep v.2)
    hosts := n.2.hosts.map fun h => (h.1, { h.2 with draft := keep h.2.draft, lost := h.2.lost.filter out }) })
  let s := updPool (fun x => { x with dir := keep x.dir, cache := x.cache.filter fun c => out c.1, snaps := snaps }) s
  s.pool.snaps.foldl (fun s n => syncSnap n.1 s) s

/-- R294: a write to HP1_EXT that is ignored: of an extent that does not exist, with no pool cache, while a range names the
extent, or of a T3 extent for a region that is not EXCLUSIVE. -/
def State.extBad (s : State) (x val : Nat) : Bool :=
  decide (s.poolN2 + s.poolN3 ≤ x) || (bitAt val 16 && s.fld R.HP1_POOL_T1 F.HP1_POOL_T1_SIZE_GIB == 0) ||
    (s.ranges.any fun e => s.rangeNames e x) || (bitAt val 16 && s.extHome x == 3 && s.regionMode (bitsOf val 15 8) != 0)

/-- R294: a write to HP1_EXT. -/
def extWrite (who : Who) (x val : Nat) (s : State) : State :=
  let r := R.HP1_EXT x
  if !s.privWriter who || s.extBad x val then ignoredWrite who r.off s
  else setReg r ((bitAt val 16).toNat * 2 ^ 16 + bitsOf val 15 8 * 2 ^ 8 + s.extHome x * 16 + 2) (dropExtent x s)

/-- R294: EXTENT_ASSIGN. -/
def execExtentAssign (who : Who) (x : Fin 65536) (val : BitVec 32) (s : State) : Host.Outcome State Fault Refusal :=
  .next (extWrite who x val.toNat s)

/-- R294: EXTENT_CLEAR_DONE. -/
def execExtentClearDone (x : Fin 65536) (s : State) : Host.Outcome State Fault Refusal :=
  let r := R.HP1_EXT x
  .next (if s.fld r F.HP1_EXT_STATE = 2 then
      setFld r F.HP1_EXT_STATE (if s.flag r F.HP1_EXT_VALID then 1 else 0) s
    else s)

/-- R296: a write to HP1_RANGE_A. -/
def rangeAWrite (who : Who) (e val : Nat) (s : State) : State :=
  let r := R.HP1_RANGE_A e
  if !s.privWriter who || s.rangeState e != 0 then ignoredWrite who r.off s
  else setReg r (bitsOf val 63 28 * 2 ^ 28 + bitsOf val 15 0) s

/-- R296 to R298: a write to HP1_RANGE_B: COUNT_M1, RD and WR, then WITHDRAW, then OFFER. -/
def rangeBWrite (who : Who) (e val : Nat) (s : State) : State :=
  let r := R.HP1_RANGE_B e
  if !s.privWriter who then ignoredWrite who r.off s
  else
    let n := bitsOf val 39 24
    let s := if n = s.fld r F.HP1_RANGE_B_COUNT_M1 then s
      else if s.rangeState e = 0 then setFld r F.HP1_RANGE_B_COUNT_M1 n s
      else ignoredWrite who r.off s
    let s := setFld r F.HP1_RANGE_B_WR (bitsOf val 2 2) (setFld r F.HP1_RANGE_B_RD (bitsOf val 1 1) s)
    let s := if bitAt val 3 then rangeWithdraw e 0 s else s
    if bitAt val 0 then rangeOffer who e s else s

/-- R303: a write to HP1_HOST: BURST of 0 stores 1. -/
def hp1HostWrite (who : Who) (h val : Nat) (s : State) : State :=
  let r := R.HP1_HOST h
  if !s.privWriter who then ignoredWrite who r.off s
  else drainPool h (setReg r (max 1 (bitsOf val 31 16) * 65536 + bitsOf val 7 0) s)

/-- R305: a write to HP1_REGION_CFG. -/
def regionCfgWrite (who : Who) (i val : Nat) (s : State) : State :=
  let r := R.HP1_REGION_CFG i
  let mode := bitsOf val 2 1
  let old := s.regionMode i
  let first := bitsOf val 31 16
  if !s.privWriter who || mode == 3 ||
      (s.regionHolds i && (mode != old || first != s.fld r F.HP1_REGION_CFG_FIRST_EXT)) then ignoredWrite who r.off s
  else
    let s := setReg r (bitsOf val 63 16 * 65536 + bitsOf val 2 0) s
    if mode = old then s
    else
      let s := updPool (fun x => { x with snaps := mapErase x.snaps i }) s
      if mode = 1 then updSnap i (fun n => n) s else setReg (R.HP1_REGION_STAT i) 0 s

/-- R292, R293, R236: a write of the bits in `mask` of one of the reservation registers, each field once after reset. Only
HP1_POOL_T1 and HP1_POOL_SIDE have no field across bits 31 and 32 (R7). -/
def poolCfgWrite (who : Who) (r : Reg) (mask val : Nat) (s : State) : State :=
  let ext := bitsOf val 63 47
  let n := s.chans.length
  let halves := r.off == R.HP1_POOL_T1.off || r.off == R.HP1_POOL_SIDE.off
  let bad :=
    if r.off = R.HP1_POOL_T1.off then
      bitAt mask 32 && (decide (bitsOf val 47 32 < 1) || decide (64 < bitsOf val 47 32))
    else if r.off = R.HP1_POOL_T2.off then decide (65536 < ext + s.poolN3) || bitsOf val 11 0 != 0
    else if r.off = R.HP1_POOL_T3.off then decide (65536 < s.poolN2 + ext) || bitsOf val 42 41 != 0
    else if r.off = R.HP1_POOL_SIDE.off then false
    else n == 0 || bitsOf val 42 12 % max 1 n != 0
  let v :=
    if r.off = R.HP1_POOL_T1.off then bitsOf val 47 32 * 2 ^ 32 + bitsOf val 9 0
    else if r.off = R.HP1_POOL_T2.off ∨ r.off = R.HP1_POOL_T3.off then ext * 2 ^ 47 + bitsOf val 42 0
    else if r.off = R.HP1_POOL_SIDE.off then bitsOf val 63 32 * 2 ^ 32 + bitsOf val 30 0
    else bitsOf val 42 12 * 4096
  if !s.privWriter who || (!halves && mask != allBits) then ignoredWrite who r.off s
  else if s.lockedOut r mask then s
  else if bad then ignoredWrite who r.off s
  else lockBits r mask (setReg r (s.rwlMerge r mask v) s)

/-- R315: zero every counter of the block. -/
def hp1CntClear (who : Who) (s : State) : State :=
  if !s.privWriter who then ignoredWrite who R.HP1_CNT_CLEAR.off s
  else zeroRegs [R.HP1_CNT_NOMATCH, R.HP1_CNT_REVOKE_DROP, R.HP1_CNT_STALE, R.HP1_CNT_POISON_TX, R.HP1_CNT_CACHE_HIT,
    R.HP1_CNT_CACHE_MISS, R.HP1_CNT_PLAIN_BYTES, R.HP1_CNT_FRAME_BYTES, R.HP1_CNT_BISNP, R.HP1_CNT_BI_TIMEOUT,
    R.HP1_CNT_PUBLISH, R.HP1_CNT_CONFLICT, R.HP1_CNT_DRAFT_FULL, R.HP1_CNT_HOLD] s

/-- R315: HP1_CNT_CLEAR. -/
def execHp1CntClear (who : Who) (s : State) : Host.Outcome State Fault Refusal := .next (hp1CntClear who s)

/-! ### Ends of what a page waited for -/

/-- R199, R302: the unit under a page that requests wait for has been lost: the page is rewritten as a RAW page with the lines
that could not be decoded poisoned, and the requests are answered. -/
def failPoolPage (page : Nat) (s : State) : State :=
  if !s.pageAwaited page then s
  else
    let f := match s.dirEnt page with
      | some d =>
        if s.homeIsT2 page then
          let a := s.homeT2 page
          let f := memGets s.mem a d.len
          rawAgain f (linesLost f fun i => s.byteBad (a + i))
        else rawPageFrame [] allPoison
      | none => zeroFrame
    wakePage page (install page true f s)

/-- R237, R302: every request that waits for a page is tried again. -/
def poolRetry (s : State) : State :=
  let l := s.pool.parked
  let s := updPool (fun x => { x with parked := [] }) s
  l.foldl (fun s p =>
    if s.regionMode (s.extRegion (extOf (s.pendPage p))) = 1 then snapRequest p s else pageRequest p s) s

/-- R168, R293, R300, R301: an NVMe command for a pool page has ended. A page whose write failed stays in the cache. -/
def poolNvmeEnd (c : NvmeCmd) (ok : Bool) (s : State) : State :=
  let page := c.owner - 1024
  match c.write, ok with
  | true, true => match s.frameIn page with
    | some f => if homeBlock f.frame == c.data then uncache page (putDir page (entOf f.frame true) s) else s
    | none => s
  | true, false => s
  | false, true =>
    if !s.pageAwaited page then s
    else
      let block := memGets s.t3.cells (c.chunk * chunkSize + c.off) 4096
      let f := match s.dirEnt page with
        | some d => frameFrom d block
        | none => (zeroFrame, false)
      wakePage page (landFrame page f.1 f.2 (movedBytes 4096 s))
  | false, false => if s.pageAwaited page then rcvAttach 1 (.t3Chunk c.chunk) (.pool page) s else s

end Sys2Proof.Machine
end

