-- ==== Sys2Proof/Machine/Recovery.lean ====
section
/-! DEFINITION. The hoist slots' fills (R188 to R193, R153, R154) and the recovery units (R195 to R199, R452). -/

namespace Sys2Proof.Machine

/-! ### Fills -/

/-- R190: the tier a fill reads from: T1 where PRIMARY is resident there, else T2. -/
def fillTier (e : ObjEntry) : Option Nat := if e.holds 1 then some 1 else if e.holds 2 then some 2 else none

/-- R153: a damaged frame of a landed slot: its tile, its offset in the slice and the reason. -/
def State.slotDamage (s : State) (h slot : Nat) (d : HSlot) : List (Nat × Nat × Nat) :=
  let v := s.slotView h slot 0 false
  let base := sliceBase h
  (List.range d.tiles).filterMap fun t =>
    let e := indexEntry (leNat (memGets s.mem (base + v.idxOff + 8 * t) 8))
    let off := v.areaOff + 32 * e.offset
    let room := v.areaOff + d.areaLen - off
    if !e.valid || e.zero then none
    else match frameDamage .expander (memGets s.mem (base + off) (min room (64 + e.length))) room (some e) false with
      | some r => some (t, off, r)
      | none => none

/-- R153, R154: a tile of the slot's residence has been refetched on landing. -/
def noteRefetched (h slot : Nat) (s : State) (x : Nat × Nat × Nat) : State :=
  let k := h * 16 + slot
  let l := mapGet s.refetch k [] ++ [{ slot, tile := x.1, asked := true, mxe := 3 * h, done := true }]
  { s with refetch := mapPut s.refetch k l }

/-- R153: a frame still damaged after its refetch is what the object holds: it is recorded and left. -/
def noteSlotDamage (h : Nat) (s : State) (x : Nat × Nat × Nat) : State :=
  tenantEvent 0x0401 5 h (s.engTenant (320 + h)) (3 * h) x.2.2 x.2.1 x.1 s

/-- R189: a fill's bytes are written into the slot. R240: a PRIV = 0 owner's regions must allow it. -/
def putSlot (h slot : Nat) (idx area : List Byte) (s : State) : EAns Unit × State :=
  let v := s.slotView h slot 0 false
  let e := 320 + h
  match engWrite e (sliceBase h + v.idxOff) idx .dataWrite s with
  | (.ok _, s) => engWrite e (sliceBase h + v.areaOff) area .dataWrite s
  | (r, s) => (r, s)

/-- R193, R191: the landed bytes resolve a slot that still fills; the fill has ended. -/
def fillDone (h slot n : Nat) (s : State) : State :=
  let s := bump (R.HST_CNT_BYTES h) n s
  let s := if s.slotState h slot = slotFilling then setFld (R.HST_SLOT_STAT h slot) F.HST_SLOT_STAT_STATE slotPrimary s else s
  fillEnded h slot s

/-- R153, R245: bytes of an object copy that a fill reads. -/
def fillRead (h slot : Nat) (ly : Layout) (off n : Nat) (s : State) : EAns (List Byte) × State :=
  let w : Waiter := .fill h slot
  let a := ly.units.getD (off / 4096) 0 + off % 4096
  if s.ms.failed.contains w then (.fail St.objectLost a, clearFailed w s)
  else match (layoutRuns ly off n).find? fun p => s.engRefused (320 + h) p.1 p.2 2 .dataRead with
    | some p => (.fail St.busError p.1, s)
    | none => match objRead w ly off n s with
      | (.ok bs, s) => (.ok bs, s)
      | (.held, s) => (.wait, s)
      | (.err x, s) => (.fail (errStatus x) a, s)

/-- R190: what a fill reads: the index table and the frame area. -/
def fillSource (h slot : Nat) (ly : Layout) (d : HSlot) (s : State) : EAns (List Byte × List Byte) × State :=
  match fillRead h slot ly d.idxOff (8 * d.tiles) s with
  | (.ok idx, s) =>
    (match fillRead h slot ly d.areaOff d.areaLen s with
     | (.ok area, s) => (.ok (idx, area), s)
     | (.wait, s) => (.wait, s)
     | (.fail st a, s) => (.fail st a, s))
  | (.wait, s) => (.wait, s)
  | (.fail st a, s) => (.fail st a, s)

/-- R245, R246: an access of a fill failed: the hoist halts; `dir` is 1 for a read, 2 for a write. -/
def fillHalt (h st dir a : Nat) (s : State) : State := engHaltAt (320 + h) st 0 dir a s

/-- R153: the frames that landed damaged are refetched once from the source tier, and what is damaged still is recorded. -/
def landSlot (h slot : Nat) (d : HSlot) (ly : Layout) (idx area : List Byte) (s : State) : State :=
  let n := idx.length + area.length
  match putSlot h slot idx area s with
  | (.wait, s) => s
  | (.fail st a, s) => fillHalt h st 2 a s
  | (.ok _, s) =>
    let bad := s.slotDamage h slot d
    if bad.isEmpty then fillDone h slot n s
    else match fillSource h slot ly d s with
      | (.wait, s) => s
      | (.fail st a, s) => fillHalt h st 1 a s
      | (.ok (idx, area), s) =>
        let s := (putSlot h slot idx area (bad.foldl (noteRefetched h slot) s)).2
        fillDone h slot n ((s.slotDamage h slot d).foldl (noteSlotDamage h) s)

/-- R190, R193: PRIMARY has gone stale: a slot that fills resolves as for a loss, and the fill reads nothing more and
ends. -/
def fillStale (h slot : Nat) (s : State) : State :=
  let s := blockEventOpen (0x5000000 + h * 4096) s
  let s := slotLoss h slot s
  if s.slotState h slot = slotStandby then fillEnded h slot s else s

/-- R190: a fill that waits for PRIMARY checks it again: a stale handle resolves the slot, a resident copy starts the reads. -/
def fillResident (h slot : Nat) (s : State) : State :=
  match mapFind s.slots (h * 16 + slot) with
  | none => s
  | some d =>
    if s.slotState h slot != slotFilling || d.reading then s
    else if !s.handleOk d.primary then
      fillStale h slot s
    else if (fillTier (s.obj (handleIndex d.primary))).isNone then s
    else { s with slots := mapPut s.slots (h * 16 + slot) { d with reading := true } }

/-- R190: FILL_SOURCE_RESIDENT. -/
def execFillSourceResident (h : Fin 64) (slot : Fin 16) (s : State) : Host.Outcome State Fault Refusal :=
  .next (fillResident h slot s)

/-- R190: a fill's source reads, and its landing. A read that is held keeps the fill waiting; one that fails halts the
hoist. -/
def fillLand (h slot : Nat) (d : HSlot) (s : State) : State :=
  if !s.handleOk d.primary then fillStale h slot s
  else
    let e := s.obj (handleIndex d.primary)
    match fillTier e with
    | none => s
    | some t =>
      let ly := s.objIn e t
      match fillSource h slot ly d s with
      | (.ok (idx, area), s) => landSlot h slot d ly idx area s
      | (.wait, s) => s
      | (.fail st a, s) => fillHalt h st 1 a s

/-- R190: SLOT_FILL_LANDED. A deadline that passed in an earlier cycle acts first; in the same cycle the landing
prevails (R193). -/
def execSlotFillLanded (h : Fin 64) (slot : Fin 16) (s : State) : Host.Outcome State Fault Refusal :=
  let s1 := match mapFind s.slots (h.val * 16 + slot.val) with
    | some d => if d.mark + d.deadline < s.nclk then missDeadline h slot s else s
    | none => s
  .next (match mapFind s1.slots (h.val * 16 + slot.val) with
    | none => s1
    | some d =>
      let st := s1.slotState h slot
      if !d.reading || !s1.engActive (320 + h.val) 1 || (s1.eng (320 + h.val)).acted ||
          !(st == slotFilling || st == slotStandby) then s1
      else fillLand h slot d s1)

/-- R192: LAYER_DEADLINE_MISS. -/
def execLayerDeadlineMiss (h : Fin 64) (slot : Fin 16) (s : State) : Host.Outcome State Fault Refusal :=
  .next (missDeadline h slot s)

/-- R191: SLOT_DISCARD. -/
def execSlotDiscard (who : Who) (h : Fin 64) (slot : Fin 16) (s : State) : Host.Outcome State Fault Refusal :=
  .next (slotDiscard who h slot s)

/-! ### Refetch of a tile (R154) -/

/-- R154: a tile's refetch has ended; the loads that wait for it restart. -/
def refetchEnded (h slot tile : Nat) (s : State) : State :=
  let k := h * 16 + slot
  let l := (mapGet s.refetch k []).map fun r => if r.tile = tile then { r with done := true } else r
  pumpCrew h { s with refetch := mapPut s.refetch k l }

/-- R154: the hoist checks a refetched tile on landing. -/
def checkLanded (h : Nat) (v : SlotView) (tile : Nat) (s : State) : State :=
  let e := indexEntry (leNat (s.peekRuns h (v.runs (v.idxOff + 8 * tile) 8)))
  let off := v.areaOff + 32 * e.offset
  let room := v.areaOff + v.areaLen - off
  let n := min room (64 + e.length)
  if !e.valid || e.zero then s
  else match frameDamage .landing (s.peekRuns h (v.runs off n)) room (some e) false with
    | some r => noteSlotDamage h s (tile, ((v.runs off 1).headD (off, 0)).1, r)
    | none => s

/-- R154: bytes of a refetched tile are rewritten in place. -/
def putView (h : Nat) (v : SlotView) (off : Nat) (bs : List Byte) (s : State) : State :=
  ((v.runs off bs.length).foldl (fun (p : List Byte × State) r =>
    (p.1.drop r.2, (writeRange (.fill h 0) true (sliceBase h + r.1) (p.1.take r.2) p.2).2)) (bs, s)).2

/-- R154: the object that a slot's view came from, where its copy can be read, the view, and the offsets of its index and
frame area in the object. -/
def State.refetchSource (s : State) (h slot : Nat) (d : HSlot) : Option (Layout × SlotView × Nat × Nat) :=
  let sby := s.slotState h slot == slotStandby
  let hd := if sby then d.standby else d.primary
  let e := s.obj (handleIndex hd)
  let tier := if sby then (e.below 0).head? else fillTier e
  if !s.handleOk hd then none
  else match tier with
    | some t => if t = 3 then none else some (s.objIn e t, s.slotView h slot 0 sby, if sby then d.sbyIdx else d.idxOff,
        if sby then d.sbyArea else d.areaOff)
    | none => none

/-- R154: HOIST_REFETCH_DONE. -/
def execHoistRefetchDone (h : Fin 64) (slot : Fin 16) (tile : Fin 65536) (s : State) : Host.Outcome State Fault Refusal :=
  .next (match s.refetchOf h slot tile, mapFind s.slots (h.val * 16 + slot.val) with
    | some r, some d =>
      if r.done then s
      else match s.refetchSource h slot d with
      | none => refetchEnded h slot tile s
      | some (ly, v, idx, area) =>
        let w : Waiter := .refetch h slot tile
        match objRead w ly (idx + 8 * tile.val) 8 s with
        | (.held, s) => s
        | (.err _, s) => refetchEnded h slot tile s
        | (.ok ib, s) =>
          let e := indexEntry (leNat ib)
          match objRead w ly (area + 32 * e.offset) e.length s with
          | (.held, s) => s
          | (.err _, s) => refetchEnded h slot tile s
          | (.ok fb, s) =>
            refetchEnded h slot tile (checkLanded h v tile
              (putView h v (v.areaOff + 32 * e.offset) fb (putView h v (v.idxOff + 8 * tile.val) ib s)))
    | _, _ => s)

/-! ### Recovery entries (R195, R196) -/

/-- R195: entries of a recovery unit. -/
def rcvEntries : Nat := 64

/-- R211: the entries in use of an H-die, and the peak. -/
def syncRcv (hd : Nat) (s : State) : State :=
  let n := (s.ms.rcv.filter fun e => e.hdie == hd).length
  let r := R.T2C_RCV_STAT hd
  setFld r F.T2C_RCV_STAT_PEAK (max n (s.fld r F.T2C_RCV_STAT_PEAK)) (setFld r F.T2C_RCV_STAT_ACTIVE n s)

/-- R196: RECOVERY_ENTRY_ALLOCATE: the oldest unit that waits gets an entry. -/
def execRecoveryEntryAllocate (hd : Fin 2) (s : State) : Host.Outcome State Fault Refusal :=
  .next (match takeFirst (fun e => e.hdie == hd.val) s.ms.rcvWait with
    | none => s
    | some (e, rest) =>
      if (s.ms.rcv.filter fun x => x.hdie == hd.val).length ≥ rcvEntries then s
      else syncRcv hd { s with ms := { s.ms with rcv := s.ms.rcv ++ [e], rcvWait := rest } })

/-! ### Sources (R197) -/

/-- R196: the tier of a unit, and its address. -/
def unitPlace : UnitKey → Nat × Nat
  | .t0Page p => (0, p * 4096)
  | .t1Page p => (1, p * 4096)
  | .t2Stripe r => (2, r * 4096)
  | .t2Page p => (2, p * 4096)
  | .t3Chunk c => (3, c * 2 ^ 17)
  | .t3Stripe r => (3, r * 2 ^ 17)
  | .tdExtent x => (4, x * 65536)

/-- The bytes of a unit. -/
def unitBytes : UnitKey → Nat
  | .t2Stripe _ => 12 * 4096
  | .t3Chunk _ => 2 ^ 17
  | .t3Stripe _ => 4 * 2 ^ 17
  | .tdExtent _ => 65536
  | _ => 4096

/-- A page holds an uncorrectable word, or is lost. -/
def State.pageBad (s : State) (a : Nat) : Bool :=
  s.pageOut (a / 4096) || (s.flippedIn a 4096).any fun w => (readMask (spaceOf a == .t1) (s.flipMask w)).1.isNone

/-- A T3 chunk that cannot be read: its last read failed, or its SSD is out of service. -/
def State.chunkBad (s : State) (c : Nat) : Bool :=
  s.t3.bad.contains c || !s.ssdUp (chunkPort c)

/-- R184, R187: members of a T2 stripe row that cannot be read. -/
def State.rowBad (s : State) (row : Nat) : Nat := ((List.range 12).filter fun i => s.pageBad (row + 4096 * i)).length

/-- R186: chunks of a T3 stripe row that cannot be read. -/
def State.stripeBad (s : State) (ch : Nat) : Nat := ((List.range 4).filter fun i => s.chunkBad (ch / 4 * 4 + i)).length

/-- R197: whether data unit `u` of what an object holds in a tier can be read, or rebuilt first. -/
def State.unitGood (s : State) (e : ObjEntry) (tier u : Nat) : Nat → Bool
  | 0 => false
  | n + 1 =>
    let a := (s.objIn e tier).units.getD u 0
    if tier = 3 then !s.chunkBad (a / 2 ^ 17) || (e.prot && s.stripeBad (a / 2 ^ 17) ≤ 1)
    else if tier = e.home then
      !s.pageBad a || (e.prot && (match (s.objHome e).rows.find? fun r => r ≤ a && a < r + 12 * 4096 with
        | some r => s.rowBad r ≤ 2
        | none => false))
    else !s.pageBad a ||
      (!(tier != 0 && s.unitDirty a) && (match e.below tier with
        | t :: _ => s.unitGood e t u n
        | [] => false))

/-- The bytes of data unit `u` of what an object holds in a tier, as they are once good. -/
def State.unitData (s : State) (e : ObjEntry) (tier u : Nat) : List Byte :=
  let a := (s.objIn e tier).units.getD u 0
  if tier = 3 then memGets s.t3.cells a 4096 else memGets s.mem a 4096

/-- R197: the tier that a copy is repaired from: the next lower one, but T3 for a T2 copy of a T3 home, and the home for a TD
copy. -/
def repairTier (o : Owner) : Option Nat :=
  if o.tier = 2 ∧ o.ent.home = 3 ∨ o.tier = tierTD then some o.ent.home else (o.ent.below o.tier).head?

/-- R197: the pages of a copy that a unit rebuilds from the next lower copy, with their bytes; none where it cannot. -/
def State.copySource (s : State) (a n : Nat) : Option (List (Nat × List Byte)) :=
  let ps := (pagesOf a n).filterMap fun p => match s.ownerOf (p * 4096) with
    | some o => if o.tier = o.ent.home then none else some (p * 4096, o)
    | none => none
  let ok := ps.all fun x => match x.2.unit, repairTier x.2 with
    | some u, some t => !(x.2.tier != 0 && s.unitDirty x.1) && s.unitGood x.2.ent t u 5
    | _, _ => false
  if ps.isEmpty || !ok then none
  else some (ps.map fun x => (x.1, s.unitData x.2.ent ((repairTier x.2).getD 3) (x.2.unit.getD 0)))

/-- R197: how a unit is repaired: its rows rebuilt in place, or pages written from the next lower copy; none: it has no
source, or the source cannot be read. -/
def State.repair (s : State) (k : UnitKey) : Option (List (Nat × List Byte)) :=
  let a := (unitPlace k).2
  match k with
  | .t2Stripe _ => if s.rowBad a ≤ 2 then some [] else none
  | .t3Chunk _ => none
  | .t3Stripe _ => if s.stripeBad (a / 2 ^ 17) ≤ 1 then some [] else none
  | _ => s.copySource a (unitBytes k)

/-- R198: the repair came from the deep lode or a home over the fabric, and counts as a refetch. -/
def isRefetch : UnitKey → Bool
  | .t2Page _ => true
  | .tdExtent _ => true
  | _ => false

/-! ### The end of a repair -/

/-- R198: the words of a unit are whole again; a word that fails again is remapped. -/
def healUnit (k : UnitKey) (s : State) : State :=
  let (t, a) := unitPlace k
  if t = 3 then
    let c := a / 2 ^ 17
    let cs := match k with | .t3Stripe _ => [c, c + 1, c + 2, c + 3] | _ => [c]
    { s with t3 := { s.t3 with bad := s.t3.bad.filter fun x => !cs.contains x } }
  else restoreWords ((s.flippedIn a (unitBytes k)).filter fun w => !s.pageOut (w / 512)) s

/-- Close a recovery entry. -/
def closeEntry (e : RcvEntry) (s : State) : State :=
  syncRcv e.hdie { s with ms := { s.ms with rcv := s.ms.rcv.filter fun x => x.key != e.key } }

/-- R196, R198: the held writes of an entry are applied in arrival order. -/
def applyHeld (ws : List Held) (s : State) : State :=
  ws.foldl (fun s x => writePieces x.who x.mark x.addr x.data s) s

/-- R198: an attached read is answered from the rebuilt unit, at once or, where its requester issues it again, from what it
is given of the unit. -/
def answerWaiter (s : State) (w : Waiter) : State :=
  match w with
  | .ctx c => ctxServe c s
  | .host id => winServe (fun r => r.id == id) s
  | .coll c => collFeed c s
  | .pool _ => poolRetry s
  | _ => s

/-- R198: the requesters that issue their reads again are given the rebuilt unit as it stands before the held writes. -/
def giveUnit (e : RcvEntry) (s : State) : State :=
  let (t, a) := unitPlace e.key
  if t = 3 ∨ e.writes.isEmpty then s
  else
    let bs := memGets s.mem a (unitBytes e.key)
    let again := e.waiters.filter fun w => match w with
      | .engine _ => true
      | .fill _ _ => true
      | .refetch _ _ _ => true
      | .remote _ _ => true
      | _ => false
    let gs := again.map fun w => ({ who := w, addr := a, data := bs } : Given)
    { s with ms := { s.ms with given := s.ms.given ++ gs } }

/-- R196, R277: an entry has completed: the reads that stalled for room, and what waited for its writes, are tried again. -/
def retryStalled (s : State) : State :=
  winRun (s.ms.credit.foldl answerWaiter { s with ms := { s.ms with credit := [] } })

/-- R386: REPAIR_DONE. -/
def repairEvent (e : RcvEntry) (s : State) : State :=
  let (t, a) := unitPlace e.key
  event 0x0505 0x0D e.hdie t a (a / 2 ^ 32) e.waiters.length s

/-- The entry at place `n` of an H-die's recovery unit. -/
def State.rcvAt (s : State) (hd n : Nat) : Option RcvEntry := (s.ms.rcv.filter fun e => e.hdie == hd)[n]?

/-- R198: REPAIR_COMPLETE. -/
def execRepairComplete (hd : Fin 2) (n : Nat) (s : State) : Host.Outcome State Fault Refusal :=
  .next (match s.rcvAt hd n with
    | none => s
    | some e =>
      match s.repair e.key with
      | none => s
      | some ps =>
        let s := healUnit e.key (ps.foldl (fun s p => landBytes false p.1 p.2 s) s)
        let s := e.waiters.foldl answerWaiter (giveUnit e (closeEntry e s))
        let s := repairEvent e (retryStalled (applyHeld e.writes s))
        let s := bump (R.T2C_RCV_CNT_WAITERS hd) e.waiters.length s
        bump (if isRefetch e.key then R.T2C_RCV_CNT_REFETCH hd else R.T2C_RCV_CNT_REPAIR hd) 1 s)

/-- R199: the objects with bytes in a unit. -/
def State.unitObjects (s : State) (k : UnitKey) : List Nat :=
  let (t, a) := unitPlace k
  let step := if t = 3 then 2 ^ 17 else 4096
  ((s.objects.filter fun p => (List.range (unitBytes k / step)).any fun j =>
    (s.ownerBy p t (a + step * j)).isSome || (t == 3 && (List.range 32).any fun i =>
      (s.ownerBy p t (a + step * j + 4096 * i)).isSome)).map (·.1))

/-- R199: an attached read gets its error, in the form of its kind of reader. -/
def failWaiter (k : UnitKey) (s : State) (w : Waiter) : State :=
  let note (s : State) : State := { s with ms := { s.ms with failed := s.ms.failed ++ [w] } }
  match w with
  | .ctx c => ctxFailUnit c k s
  | .engine _ => note s
  | .fill h slot => if s.slotState h slot == slotFilling || s.slotState h slot == slotStandby then note s else s
  | .remote _ _ => note s
  | .refetch h slot tile => refetchEnded h slot tile s
  | .host id => match s.hp0.winWait.find? fun r => r.id == id with
    | some r => winRun (poisonReply r (winOut r s))
    | none => s
  | .pool page => failPoolPage page s
  | .coll c => if s.collState c = 1 then collFail c St.objectLost (s.treeParts c) s else s
  | _ => s

/-- R197, R452: a unit whose row gives no repair source. -/
def State.noSource (s : State) (k : UnitKey) : Bool :=
  match k with
  | .t2Stripe _ => false
  | .t3Stripe _ => false
  | .t3Chunk _ => true
  | _ => match s.ownerOf (unitPlace k).2 with
    | some o => o.tier == o.ent.home || (o.tier != 0 && s.unitDirty (unitPlace k).2)
    | none => true

/-- R197: the source of a unit's repair lies in the deep lode, or over the fabric, so that its read can fail. -/
def State.farSource (s : State) (k : UnitKey) : Bool :=
  match k with
  | .t3Stripe _ => true
  | .t2Stripe _ => false
  | .t3Chunk _ => true
  | _ => match s.ownerOf (unitPlace k).2 with
    | some o => o.ent.home == 3
    | none => true

/-- R199, R452: REPAIR_FAIL. -/
def execRepairFail (hd : Fin 2) (n : Nat) (s : State) : Host.Outcome State Fault Refusal :=
  .next (match s.rcvAt hd n with
    | none => s
    | some e =>
      if (s.repair e.key).isSome && !s.farSource e.key then s
      else
        let bare := s.noSource e.key
        let s := (s.unitObjects e.key).foldl (loseObject hd (unitPlace e.key).1) s
        let s := bump (R.T2C_RCV_CNT_LOST hd) 1 s
        let s := e.waiters.foldl (failWaiter e.key) (closeEntry e s)
        let s := retryStalled (applyHeld e.writes s)
        if bare then bump (R.T2C_RCV_CNT_WAITERS hd) e.waiters.length (repairEvent e s) else s)

/-! ### Self-refresh -/

/-- R237: the writes that a channel held are performed. -/
def srLand (c : Nat) (s : State) : State :=
  let mine (x : Held) : Bool := match s.ctrlAddrOf x.addr with
    | some (d, _) => d == 16 + c
    | none => false
  let now := s.ms.srHeld.filter mine
  let left := s.ms.srHeld.filter fun x => !mine x
  applyHeld now { s with ms := { s.ms with srHeld := left } }

/-- R237: SELF_REFRESH_REFILL_DONE: accesses that the channel held are performed. -/
def execSelfRefreshRefillDone (c : Fin 12) (s : State) : Host.Outcome State Fault Refusal :=
  .next (if (mapFind s.ms.srMask (16 + c.val)).isSome ∧ s.memState (16 + c.val) = 3 then
      let s := srLand c (srRefilled c s)
      let s := (s.knc.map (·.1)).foldl (fun s x => ctxServe x s) s
      poolRetry (winServe (fun _ => true) s)
    else s)

end Sys2Proof.Machine
end

