-- ==== Sys2Proof/Machine/Seams.lean ====
section
/-! DEFINITION. The seam links (R18 to R25): flits and replays, retrain, failover, and dies that are isolated. -/

namespace Sys2Proof.Machine

/-- Change the seam links' state. -/
def updSeams (f : Seams → Seams) (s : State) : State := { s with seams := f s.seams }
/-- A direction of a link of which nothing is known. -/
def seamDir0 : SeamDir := { rxSeq := 0, acked := 0, sent := 0, replays := 0, winFlits := 0, winErrors := 0, delivered := 0 }
/-- A direction of a link. -/
def State.seamDir (s : State) (link : Nat) (dir : Bool) : SeamDir := mapGet s.seams.dirs (2 * link + dir.toNat) seamDir0
/-- Change a direction of a link. -/
def updDir (link : Nat) (dir : Bool) (f : SeamDir → SeamDir) (s : State) : State :=
  updSeams (fun x => { x with dirs := mapPut x.dirs (2 * link + dir.toNat) (f (mapGet x.dirs (2 * link + dir.toNat) seamDir0)) }) s

/-- R28: set the two bits of a link; a change after start-up sets its bit in FMN_SEAM_CHANGED. -/
def setSeam (link v : Nat) (s : State) : State :=
  if s.seamLink link = v then s
  else
    let s := setReg R.FMN_SEAM_STATE (setBits (s.reg R.FMN_SEAM_STATE) (2 * link + 1) (2 * link) v) s
    if s.mgmt.seamed then setReg R.FMN_SEAM_CHANGED (setBits (s.reg R.FMN_SEAM_CHANGED) link link 1) s else s

/-- R28: a replay of a link. -/
def seamReplay (link : Nat) (s : State) : State :=
  setReg (R.FMN_SEAM_RETRY_CNT link) (min 0xFFFFFFFF (s.reg (R.FMN_SEAM_RETRY_CNT link) + 1)) s

/-- R22: a direction calls for a retrain: 16 replays of one flit, or more than 1 flit in 10^6 failing its CRC. -/
def SeamDir.due (d : SeamDir) : Bool := decide (16 ≤ d.replays) || decide (2 ≤ d.winErrors)

/-- R22: the window of flits. Each direction counts its own, in windows that follow one another (DESIGN CHOICE, log 87). -/
def SeamDir.count (d : SeamDir) (bad : Bool) : SeamDir :=
  if d.winFlits + 1 ≥ flitWindow ∧ d.winErrors + bad.toNat ≤ 1 then { d with winFlits := 0, winErrors := 0 }
  else { d with winFlits := d.winFlits + 1, winErrors := d.winErrors + bad.toNat }

/-- R21, R23: a flit that is good and in order is passed on. A link acknowledges each flit by the next one it takes, so
that the retry buffer keeps the newest alone (DESIGN CHOICE, log 80). -/
def SeamDir.take (d : SeamDir) : SeamDir :=
  { d with acked := d.rxSeq, rxSeq := d.rxSeq + 1, replays := 0, delivered := d.delivered + 1 }

/-- R22, R23: flits of the link arrive: over the link itself, or, while its failover runs, over the new route. -/
def State.seamCarries (s : State) (link : Nat) : Bool :=
  s.seamLink link == 1 || s.seamLink link == 2 ||
    (s.seams.failing.contains link && s.hasDetour link)

/-- R21: a flit arrives: good and in order it is passed on; a CRC error or a gap asks for a replay; a duplicate is
discarded (R23). Either way the sender has sent it. -/
def execSeamFlitReceive (link : Fin 8) (dir : Bool) (seq : Nat) (crcOk : Bool) (s : State) :
    Host.Outcome State Fault Refusal :=
  .next (if !s.seamCarries link then s
    else
      let s := updDir link dir (fun d => { d.count (!crcOk) with sent := max d.sent (seq + 1) }) s
      let d := s.seamDir link dir
      if !crcOk || decide (d.rxSeq < seq) then
        seamReplay link (updDir link dir (fun d => { d with replays := d.replays + 1 }) s)
      else if seq < d.rxSeq then s
      else updDir link dir SeamDir.take s)

/-- R23: step 2: over the new route the source replays every flit not acknowledged; the receiver discards those it has. -/
def SeamDir.failover (d : SeamDir) : SeamDir :=
  let new := d.sent - d.rxSeq
  { d with acked := max d.acked d.sent, rxSeq := d.rxSeq + new, delivered := d.delivered + new, replays := 0,
           winFlits := 0, winErrors := 0 }

/-- R22: a link that is called for retrains; its traffic stalls. -/
def execSeamRetrain (link : Fin 8) (s : State) : Host.Outcome State Fault Refusal :=
  .next (if (s.seamLink link = 1 ∨ s.seamLink link = 2) ∧ ((s.seamDir link false).due ∨ (s.seamDir link true).due) then
      qosRefresh (setSeam link 3 s)
    else s)

/-- R22, R24: the retrain ends: full width, half width, or the link is down (R23). -/
def execSeamRetrainDone (link : Fin 8) (found : LinkWidth) (s : State) : Host.Outcome State Fault Refusal :=
  let v := match found with | .down => 0 | .half => 1 | .full => 2
  .next (if s.seamLink link ≠ 3 ∨ s.seams.failing.contains link.val then s
    else
      let fresh (d : SeamDir) : SeamDir := { d with replays := 0, winFlits := 0, winErrors := 0 }
      let s := updDir link false fresh (updDir link true fresh s)
      let s := event 0x0201 9 link link v 0 0 s
      if v = 0 then updSeams (fun x => { x with failing := x.failing ++ [link.val] }) s
      else qosRefresh (setSeam link v s))

/-! ### Isolation (R25) -/

/-- The dies that a die reaches: `n` more steps. -/
def State.reachDies (s : State) : Nat → List Nat → List Nat
  | 0, l => l
  | n + 1, l =>
    let more := (List.range 8).foldl (fun l i =>
      let (a, b) := seamEnds i
      if !s.seamUp i then l
      else if l.contains a then setInsert l b
      else if l.contains b then setInsert l a else l) l
    s.reachDies n more

/-- The dies in service that a die reaches over the seam links. -/
def State.component (s : State) (d : Nat) : List Nat := (s.reachDies 6 [d]).filter s.dieUp

/-- R25: of some dies, those that stay: the largest set that reach each other, and of equal ones that of the lowest die
(DESIGN CHOICE, log 88). -/
def State.keptDies (s : State) (dies : List Nat) : List Nat :=
  dies.foldl (fun best d =>
    let c := if s.dieUp d then s.component d else []
    if c.length > best.length then c else best) []

/-- R28, R29: a die's present bit is cleared. -/
def clearDie (d : Nat) (s : State) : State :=
  setFld R.FMN_TOPO_CAP F.FMN_TOPO_CAP_DIE_PRESENT (setBits (s.fld R.FMN_TOPO_CAP F.FMN_TOPO_CAP_DIE_PRESENT) d d 0) s

/-- R386: INSTANCE_LOST: isolation is cause 0 (R386 lists no causes: log 67). -/
def instanceLost (kind num : Nat) (s : State) : State := event 0x0203 0 0 kind num (Config.causeCode 0x0203 0).toNat 0 s

/-- R25: the descriptor that an engine executes completes with ABORTED. -/
def engStop (e : Nat) (s : State) : State :=
  if s.engState e = 1 ∨ s.engState e = 2 then engAbort e St.aborted s else s

/-- R25: a crew is taken out of service. -/
def loseCrew (s : State) (n : Nat) : State :=
  if !s.crewUp n then s
  else
    let s := setReg R.FMN_CREW_PRESENT (setBits (s.reg R.FMN_CREW_PRESENT) n n 0) s
    let s := (List.range 3).foldl (fun s i => abortRuns (3 * n + i) s) s
    let s := ((List.range 4).map (4 * n + ·) ++ [320 + n]).foldl (fun s e => engStop e s) s
    instanceLost 0x10 n s

/-- R25: a stack or channel is taken out of service. -/
def loseCtrl (s : State) (c : Nat) : State :=
  if s.memState c = 6 ∨ s.memState c = 7 ∨ s.memState c = 0 then s
  else
    let s := setMemState c 6 s
    let s := if c < 16 then clearStackPresent c s else s
    instanceLost (ctrlKind c) (ctrlInst c) s

/-- R25: an SSD's port is taken out of service. -/
def losePort (s : State) (p : Nat) : State :=
  instanceLost 8 p (qosRefresh (updSsd p (fun d => { d with outOfService := true }) s))

/-- R25: an isolated die is taken out of service. -/
def loseDie (s : State) (d : Nat) : State :=
  let s := clearDie d s
  if d < 4 then
    let s := ((List.range 16).map (16 * d + ·)).foldl loseCrew s
    ((List.range 4).map (4 * d + ·)).foldl loseCtrl s
  else
    let h := d - 4
    let s := ((List.range 6).map (16 + 6 * h + ·)).foldl loseCtrl s
    let s := [2 * h, 2 * h + 1].foldl losePort s
    let s := ((List.range 8).map (8 * h + ·)).foldl (fun s p =>
      if s.portState p = 0 ∨ s.portState p = 9 then s else portDown p s) s
    let s := setFld (R.FMN_CLAIM h) F.FMN_CLAIM_OUT 1 s
    if h = 0 then linkChange .hp0 0 0 0 false s else linkChange .hp1 0 0 0 false s

/-- R25: the current descriptor of an engine reads, writes or stands in the other half. -/
def State.engFar (s : State) (e : Nat) : Bool :=
  let far (a : Nat) : Bool := inHalfB (s.dieAt a) != inHalfB (engDie e)
  let d := s.engDesc e
  !d.isEmpty && (far (s.reg (engCur e)) || (dSrcSpace d == 0 && far (s.dSrc e d)) || (dDstSpace d == 0 && far (s.dDst e d)))

/-- R25: a host command needs the other half: it is with a context there, or with a leading foreman there. -/
def State.tokenFar (s : State) (t : Token) : Bool :=
  match t.ctx with
  | some c => decide (512 ≤ c)
  | none => s.gateOpen 1 && !s.gateOpen 0

/-- R25: the halves have no path between them: fetching stops, commands of the other half complete with ABORTED, and the
event is fatal. -/
def splitHalves (s : State) : State :=
  if s.mgmt.halved then s
  else
    let s := { s with mgmt := { s.mgmt with halved := true } }
    let s := (s.hp0.tokens.filter s.tokenFar).foldl (fun s t => ownCompletion t St.aborted s) s
    let s := ((s.engs.map (·.1)).filter s.engFar).foldl (fun s e => engStop e s) s
    event 0x0204 0 0 (s.reg R.FMN_SEAM_STATE) 0 0 0 s

/-- R25: dies that no path reaches from those that stay are lost. -/
def loseOthers (dies : List Nat) (s : State) : State :=
  let kept := s.keptDies dies
  (dies.filter fun d => s.dieUp d && !kept.contains d).foldl loseDie s

/-- R25: act on the links that are down: the halves from each other, and dies that no path reaches. -/
def isolate (s : State) : State :=
  if !s.seamUp 6 && !s.seamUp 7 then loseOthers [2, 3, 5] (loseOthers [0, 1, 4] (splitHalves s))
  else loseOthers (List.range 6) s

/-- R23: steps 2 to 4: what was not acknowledged is replayed, traffic resumes on the new routes, and the event is
recorded. -/
def execSeamFailoverComplete (link : Fin 8) (s : State) : Host.Outcome State Fault Refusal :=
  .next (if !s.seams.failing.contains link.val then s
    else
      let s := updSeams (fun x => { x with failing := x.failing.filter (· != link.val) }) s
      let s := setSeam link 0 s
      let s := if s.hasDetour link then updDir link false SeamDir.failover (updDir link true SeamDir.failover s) else s
      let s := event 0x0202 9 link link (s.reg R.FMN_SEAM_STATE) 0 0 s
      qosRefresh (isolate s))

end Sys2Proof.Machine
end

