-- ==== Sys2Proof/Machine/Mgmt.lean ====
section
/-! DEFINITION. The foremen: leadership (R391 to R396), fuses and identity (R397 to R400), boot (R401 to R406), MGMT
packets (R390), the test-mode enable (R412), and power and temperature (R413 to R415). -/

namespace Sys2Proof.Machine

/-- Change the management complex. -/
def updMgmt (f : Mgmt → Mgmt) (s : State) : State := { s with mgmt := f s.mgmt }

/-- A foreman that has not booted since the release. -/
def foreman0 : Foreman := { avoid := none, beatAt := 0, standAt := none, inReset := true, comps := [] }
/-- A foreman. -/
def State.foreman (s : State) (f : Nat) : Foreman := mapGet s.mgmt.foremen f foreman0
/-- Change a foreman. -/
def updForeman (f : Nat) (g : Foreman → Foreman) (s : State) : State :=
  updMgmt (fun m => { m with foremen := mapPut m.foremen f (g (s.foreman f)) }) s

/-! ### Claims (R391) -/

/-- A field of a foreman's claim. -/
def State.claim (s : State) (f : Nat) (x : Fld) : Nat := s.fld (R.FMN_CLAIM f) x
/-- Set a field of a foreman's claim. -/
def setClaim (f : Nat) (x : Fld) (v : Nat) (s : State) : State := setFld (R.FMN_CLAIM f) x v s
/-- R391: the claim asserts. -/
def State.asserts (s : State) (f : Nat) : Bool := s.claim f F.FMN_CLAIM_ASSERT == 1
/-- The other foreman. -/
def otherForeman (f : Nat) : Nat := 1 - f

/-- The boot STATE of a foreman. -/
def State.bootState (s : State) (f : Nat) : Nat := s.fld (R.FMN_BOOT_STAT f) F.FMN_BOOT_STAT_STATE
/-- R405: the foreman runs its firmware, or recovery from ROM (R406). -/
def State.foremanUp (s : State) (f : Nat) : Bool :=
  s.dieUp (4 + f) && (s.bootState f == 2 || s.bootState f == 3)

/-- The leading foreman, while no split claim holds it. -/
def State.leader (s : State) : Option Nat :=
  if s.flag R.FMN_LEAD_STAT F.FMN_LEAD_STAT_NONE || s.flag R.FMN_LEAD_STAT F.FMN_LEAD_STAT_FROZEN then none
  else some (s.fld R.FMN_LEAD_STAT F.FMN_LEAD_STAT_LEADER)

/-- R406: the leader runs its firmware, and not recovery. -/
def State.leaderRuns (s : State) : Option Nat :=
  match s.leader with
  | some f => if s.bootState f = 2 then some f else none
  | none => none

/-- R393, R394: a foreman is reset: it asserts no claim any more and boots again. -/
def resetForeman (f : Nat) (s : State) : State :=
  let s := if s.asserts f && s.fld R.FMN_LEAD_STAT F.FMN_LEAD_STAT_LEADER == f
    then setFld R.FMN_LEAD_STAT F.FMN_LEAD_STAT_NONE 1 s else s
  let b := R.FMN_BOOT_STAT f
  let s := setFld b F.FMN_BOOT_STAT_SVN 0 (setFld b F.FMN_BOOT_STAT_STATE 0 (setFld b F.FMN_BOOT_STAT_SLOT 3 s))
  updForeman f (fun _ => foreman0) (setClaim f F.FMN_CLAIM_ASSERT 0 s)

/-! ### Leadership (R392 to R396) -/

/-- R396: the trams and hoists that a foreman owns are aborted. -/
def abortForemanEngines (s : State) : State :=
  ((List.range 384).filter fun e => s.engValid e && s.engOwnerKind e == 3).foldl (fun s e => engAbort e St.aborted s) s

/-- R396: step 3: every admin token in flight completes with ABORTED. -/
def abortAdmin (s : State) : State :=
  let ts := s.hp0.tokens.filter fun t => t.fn == 0
  let s := ts.foldl (fun s t => ownCompletion t St.aborted (dropToken t s)) s
  updHp0 (fun h => { h with admin := [] }) s

/-- The foreman led before, and leads still: a split claim that is resolved for the leader moves nothing (log 119). -/
def State.ledBy (s : State) (f : Nat) : Bool :=
  s.fld R.FMN_LEAD_STAT F.FMN_LEAD_STAT_TERM != 0 && !s.flag R.FMN_LEAD_STAT F.FMN_LEAD_STAT_NONE &&
    s.fld R.FMN_LEAD_STAT F.FMN_LEAD_STAT_LEADER == f

/-- R396: leadership passes to a foreman whose claim alone asserts; `note` is recorded before LEADER. At the first election
no recorder hands anything over (R379). -/
def becomeLeader (f : Nat) (note : State → State) (s : State) : State :=
  let term := s.claim f F.FMN_CLAIM_TERM
  let first := s.fld R.FMN_LEAD_STAT F.FMN_LEAD_STAT_TERM == 0
  let stays := s.ledBy f
  let s := setReg R.FMN_LEAD_STAT (term * 2 ^ 32 + f) s
  let s := if stays then s else abortForemanEngines s
  let s := if first || stays then s else event 0x0D01 0x11 f f (s.reg R.EVR_MAIN_WR) 0 0 s
  let s := event 0x0C01 0x0F f f term 0 0 (note s)
  let s := updMgmt (fun m => { m with splitAt := none }) s
  let s := if stays then s else
    abortAdmin (updMgmt (fun m => { m with inbound := [], doe := spdmReset, mctp := spdmReset }) s)
  let ph := s.fld R.CLK_START_STAT F.CLK_START_STAT_PHASE
  let up := if s.bootState f = 3 then 5 else 2
  if ph < 2 ∨ ph = 5 then setFld R.CLK_START_STAT F.CLK_START_STAT_PHASE up s else s

/-- R392: the TERM a foreman stands at: at the first election both stand at TERM 1. -/
def State.standTerm (s : State) : Nat :=
  if s.fld R.FMN_LEAD_STAT F.FMN_LEAD_STAT_TERM = 0 then 1
  else 1 + max (s.claim 0 F.FMN_CLAIM_TERM) (s.claim 1 F.FMN_CLAIM_TERM)

/-- R392: steps 1 and 2: a foreman stands. -/
def stand (f : Nat) (s : State) : State :=
  let now := s.nclk
  let s := setClaim f F.FMN_CLAIM_TERM s.standTerm (setClaim f F.FMN_CLAIM_CANDIDATE 1 s)
  updForeman f (fun x => { x with standAt := some now }) s

/-- R393: a follower stands when no other foreman leads, or the other's claim reads OUT. -/
def execElectionStand (f : Fin 2) (s : State) : Host.Outcome State Fault Refusal :=
  let o := otherForeman f
  .next (if s.foremanUp f && !s.asserts f && (s.foreman f).standAt.isNone &&
      !s.flag R.FMN_FUSE_STAT F.FMN_FUSE_STAT_MISMATCH && (!s.asserts o || s.claim o F.FMN_CLAIM_OUT == 1)
    then stand f s else s)

/-- R392: step 4; R406: a foreman in recovery wins only where the other has no valid slot either. -/
def State.winsElection (s : State) (f : Nat) : Bool :=
  let o := otherForeman f
  let t := s.claim f F.FMN_CLAIM_TERM
  let u := s.claim o F.FMN_CLAIM_TERM
  let mine := s.claim f F.FMN_CLAIM_IMAGE_OK
  let theirs := s.claim o F.FMN_CLAIM_IMAGE_OK
  if !s.dieUp (4 + o) || s.claim o F.FMN_CLAIM_OUT == 1 then true
  else if s.bootState f = 3 ∧ theirs = 1 then false
  else decide (u < t) || (t == u && (decide (theirs < mine) || (mine == theirs && decide (f < o))))

/-- R394: both claims assert: the lower TERM is cleared and its foreman reset; equal terms latch a split claim. -/
def watchClaims (s : State) : State :=
  if !(s.asserts 0 && s.asserts 1) then s
  else
    let t0 := s.claim 0 F.FMN_CLAIM_TERM
    let t1 := s.claim 1 F.FMN_CLAIM_TERM
    if t0 < t1 then resetForeman 0 s
    else if t1 < t0 then resetForeman 1 s
    else
      let now := s.nclk
      let s := setFld R.FMN_LEAD_STAT F.FMN_LEAD_STAT_SPLIT 1 (setFld R.FMN_LEAD_STAT F.FMN_LEAD_STAT_FROZEN 1 s)
      bump R.FMN_CNT_SPLIT 1 (updMgmt (fun m => { m with splitAt := some now, smbAlert := true }) s)

/-- R392: steps 3 to 5: ELECTION_DECIDE, 1 ms after the foreman stood. -/
def execElectionDecide (f : Fin 2) (s : State) : Host.Outcome State Fault Refusal :=
  .next (match (s.foreman f).standAt with
    | none => s
    | some t =>
      if s.nclk < t + usCycles 1000 then s
      else
        let s := updForeman f (fun x => { x with standAt := none }) s
        if !s.winsElection f then setClaim f F.FMN_CLAIM_CANDIDATE 0 s
        else
          let s := watchClaims (setClaim f F.FMN_CLAIM_ASSERT 1 s)
          if s.asserts f && !s.asserts (otherForeman f) then becomeLeader f (fun s => s) s else s)

/-- R394: steps 3 to 5: SPLIT_RESOLVE, 1 ms after the split claim. -/
def execSplitResolve (s : State) : Host.Outcome State Fault Refusal :=
  .next (match s.mgmt.splitAt with
    | none => s
    | some t =>
      if s.nclk < t + usCycles 1000 then s
      else
        let p := s.fld R.FMN_FUSE_STAT F.FMN_FUSE_STAT_PRIORITY
        let ok := s.claim p F.FMN_CLAIM_IMAGE_OK == 1 || s.claim (otherForeman p) F.FMN_CLAIM_IMAGE_OK == 0
        let k := if ok then p else otherForeman p
        let term := s.claim k F.FMN_CLAIM_TERM + 1
        let s := setClaim k F.FMN_CLAIM_TERM term (resetForeman (otherForeman k) s)
        becomeLeader k (fun s => event 0x0C02 0x0F k term 0 0 0 s) s)

/-- R393: HEARTBEAT_TIMEOUT: the HEARTBEAT of `f` has not advanced for 10 ms: its follower stands, or its leader resets
it. -/
def execHeartbeatTimeout (f : Fin 2) (s : State) : Host.Outcome State Fault Refusal :=
  let o := otherForeman f
  .next (if !s.foremanUp o then s
    else if s.asserts f then (if (s.foreman o).standAt.isNone && !s.asserts o then stand o s else s)
    else if s.leader = some o then
      resetForeman f (blockEvent 0 (R.FMN_CLAIM f).off (s.reg (R.FMN_CLAIM f)) s)
    else s)

/-- R393: FOREMAN_RESET. -/
def execForemanReset (f : Fin 2) (s : State) : Host.Outcome State Fault Refusal :=
  .next (if s.mgmt.released then resetForeman f s else s)

/-! ### Fuses and identity (R397 to R400) -/

/-- R397: a foreman's copy of the fuse block. -/
def State.fuse (s : State) (f : Nat) : Fuses := s.mgmt.fuses.getD f fusesBlank

/-- R398: fields that must not differ between the copies. -/
def Fuses.fixed (x : Fuses) : Fuses := { x with revoke := 0, svn := 0 }
/-- R398: the copies differ in a field other than KEY_REVOKE and SVN_FLOOR. -/
def State.fuseMismatch (s : State) : Bool := (s.fuse 0).fixed != (s.fuse 1).fixed
/-- R398: KEY_REVOKE. -/
def State.keyRevoke (s : State) : Nat := ((s.fuse 0).revoke ||| (s.fuse 1).revoke) % 16
/-- R397, R398: the floor. -/
def State.svnFloor (s : State) : Nat := popBits 64 ((s.fuse 0).svn ||| (s.fuse 1).svn)

/-- R416: FMN_FUSE_STAT after R398. -/
def loadFuseStat (s : State) : State :=
  setReg R.FMN_FUSE_STAT (s.svnFloor * 2 ^ 40 + s.keyRevoke * 2 ^ 32 + (s.fuse 0).usage % 256 * 2 ^ 16 +
    s.fuseMismatch.toNat * 2 + (s.fuse 0).priority.toNat) s

/-- The big-endian number that a byte string spells. -/
def beNat (bs : List Byte) : Nat := leNat bs.reverse

/-- The bytes of an ASCII string. -/
def ascii (x : String) : List Byte := x.toList.map fun c => BitVec.ofNat 8 c.toNat

/-- HMAC with SHA-256 of a key of at most 64 bytes (R399). -/
def hmacSha256 (key msg : List Byte) : List Byte :=
  let k := sliceBytes key 0 64
  let pad (x : Byte) : List Byte := k.map (· ^^^ x)
  Config.sha256 (pad 0x5C ++ Config.sha256 (pad 0x36 ++ msg))

/-- FIPS 186-5: the order of P-256 (log 7). -/
def p256Order : Nat := 0xFFFFFFFF00000000FFFFFFFFFFFFFFFFBCE6FAADA7179E84F3B9CAC2FC632551

/-- R399: the private identity key. -/
def identityKey (seed : List Byte) : Nat :=
  let a := hmacSha256 seed (ascii "UGZ-6416 identity" ++ [1])
  let b := hmacSha256 seed (ascii "UGZ-6416 identity" ++ [2])
  beNat (a ++ b.take 8) % (p256Order - 1) + 1

/-- R399: X ‖ Y of the identity key. -/
def State.idPub (s : State) : List Byte := sliceBytes (Config.p256Pub (identityKey (s.fuse 0).seed)) 0 64

/-- R405: step 2. -/
def loadIdentity (s : State) : State :=
  let s := (List.range 8).foldl (fun s i => setReg (R.FMN_ID_PUB i) (leAt s.idPub (8 * i) 8) s) s
  let (n, s) := freshWord s
  setReg R.FMN_TEST_NONCE n.toNat s

/-- R400: a key that permits firmware. -/
def State.fwKey (s : State) (k : Nat) : Bool := bitAt (s.fuse 0).usage (2 * k)

/-- R400: a write to FMN_FUSE_PROG. -/
def fuseProgWrite (who : Who) (val : Nat) (s : State) : State :=
  let r := R.FMN_FUSE_PROG
  let rev := s.keyRevoke ||| bitsOf val 11 8
  let target := bitsOf val 6 0
  let lead := match who with
    | .foreman f => s.gateOpen f
    | _ => false
  let svn := s.fld (R.FMN_BOOT_STAT (s.fld R.FMN_LEAD_STAT F.FMN_LEAD_STAT_LEADER)) F.FMN_BOOT_STAT_SVN
  let all := (List.range 4).all fun k => !s.fwKey k || bitAt rev k
  let refused := !lead || s.flag r F.FMN_FUSE_PROG_BUSY || (bitsOf val 11 8 != 0 && all) ||
    (decide (s.svnFloor < target) && decide (svn < target))
  if refused then ignoredWrite who r.off s
  else if rev = s.keyRevoke ∧ target ≤ s.svnFloor then s
  else setReg r (2 ^ 31 + bitsOf val 11 8 * 256 + target) s

/-- R400: FUSE_REVOKE. -/
def execFuseRevoke (who : Who) (keys : BitVec 4) (s : State) : Host.Outcome State Fault Refusal :=
  .next (fuseProgWrite who (keys.toNat * 256) s)

/-- R400: FUSE_SVN_RAISE. -/
def execFuseSvnRaise (who : Who) (target : BitVec 7) (s : State) : Host.Outcome State Fault Refusal :=
  .next (fuseProgWrite who target.toNat s)

/-- R397: a thermometer code with `n` ones at least. -/
def thermo (w n : Nat) : Nat := w ||| (2 ^ min n 64 - 1)

/-- R400: the bits being programmed are set in a copy. -/
def programFuses (rev target : Nat) (x : Fuses) : Fuses :=
  { x with revoke := x.revoke ||| rev, svn := if target = 0 then x.svn else thermo x.svn target }

/-- R400: FUSE_PROG_DONE: both copies are programmed. -/
def execFuseProgDone (s : State) : Host.Outcome State Fault Refusal :=
  let r := R.FMN_FUSE_PROG
  .next (if !s.flag r F.FMN_FUSE_PROG_BUSY then s
    else
      let rev := s.fld r F.FMN_FUSE_PROG_REVOKE
      let target := s.fld r F.FMN_FUSE_PROG_SVN_TARGET
      loadFuseStat (setReg r 0 (updMgmt (fun m => { m with fuses := m.fuses.map (programFuses rev target) }) s)))

/-! ### Boot (R401 to R406) -/

/-- Bytes of the flash. -/
def State.flashBytes (s : State) (a n : Nat) : List Byte := memGets s.mgmt.flash a n

/-- R401: the start of an image slot. -/
def slotBase (k : Nat) : Nat := if k = 0 then 0x20000 else 0x1F20000
/-- R401: bytes of an image slot. -/
def slotSize : Nat := 0x1F00000
/-- R401: the start of the persistent area. -/
def persistBase : Nat := 0x3E20000

/-- R402: a valid directory copy: its SEQ and ACTIVE. -/
def dirCopy (bs : List Byte) : Option (Nat × Nat) :=
  if leAt bs 0 2 = 0x4E6A ∧ leAt bs 2 1 / 16 = 1 ∧ leAt bs 8 4 = crc32c (sliceBytes bs 0 8) then
    some (leAt bs 4 4, leAt bs 3 1)
  else none

/-- R402: the slot the ROM tries first. -/
def State.activeSlot (s : State) : Nat :=
  let a := dirCopy (s.flashBytes 0 16)
  let b := dirCopy (s.flashBytes 0x10000 16)
  let act := match a, b with
    | some x, some y => if x.1 < y.1 then y.2 else x.2
    | some x, none => x.2
    | none, some y => y.2
    | none, none => 0
  if act = 1 then 1 else 0

/-- R403: an entry of the component table: KIND, OFFSET, LENGTH, the reserved word, DIGEST. -/
structure Component where
  kind   : Nat
  off    : Nat
  len    : Nat
  rsv    : Nat
  digest : List Byte
deriving DecidableEq, Repr

/-- R403: entry `i` of the component table. -/
def compEntry (h : List Byte) (i : Nat) : Component :=
  let o := 96 + 48 * i
  { kind := leAt h o 4, off := leAt h (o + 4) 4, len := leAt h (o + 8) 4, rsv := leAt h (o + 12) 4,
    digest := sliceBytes h (o + 16) 32 }

/-- R404, reason 0x02: a reserved byte that is not zero, or a count, length or offset out of range. -/
def headerBad (h : List Byte) : Bool :=
  let n := leAt h 6 2
  let len := leAt h 16 4
  let zero (o k : Nat) : Bool := (sliceBytes h o k).all (· == 0)
  let used (c : Component) : Bool :=
    decide (1 ≤ c.kind) && decide (c.kind ≤ 3) && c.rsv == 0 && decide (c.off + c.len ≤ len) &&
      (c.kind != 1 || decide (c.len ≤ 0x800000))
  !zero 9 7 || !zero 20 12 || !zero 480 32 || decide (3 < leAt h 5 1) || decide (n < 1) || decide (8 < n) ||
    decide (64 < leAt h 8 1) || decide (slotSize < len) || decide (len < 576) ||
    !((List.range n).all fun i => used (compEntry h i)) ||
    !((List.range (8 - n)).all fun i => zero (96 + 48 * (n + i)) 48)

/-- R404: the first check that a slot fails, or 0. -/
def State.slotReason (s : State) (f k : Nat) (unread : Bool) : Nat :=
  let h := s.flashBytes (slotBase k) 576
  let key := leAt h 5 1
  let n := leAt h 6 2
  if unread then 0x08
  else if leAt h 0 4 ≠ 0x5A475546 ∨ leAt h 4 1 / 16 ≠ 1 then 0x01
  else if headerBad h then 0x02
  else if bitAt s.keyRevoke key || !s.fwKey key then 0x03
  else if Config.sha256 (sliceBytes h 32 64) ≠ (s.fuse f).rootHash.getD key [] then 0x04
  else if leAt h 8 1 < s.svnFloor then 0x05
  else if !Config.ecdsaVerify (sliceBytes h 32 64) (Config.sha256 (sliceBytes h 0 512)) (sliceBytes h 512 64) then 0x06
  else if (List.range n).all fun i =>
      let c := compEntry h i
      Config.sha256 (s.flashBytes (slotBase k + c.off) c.len) == c.digest then 0
  else 0x07

/-- R404, R386: record why a slot was rejected. -/
def rejectSlot (f k reason : Nat) (s : State) : State :=
  if reason = 0 then s
  else
    let s := setFld (R.FMN_BOOT_STAT f) (if k = 0 then F.FMN_BOOT_STAT_REASON_A else F.FMN_BOOT_STAT_REASON_B) reason s
    event 0x0C05 0x0F f k reason 0 0 s

/-- R405: steps 3 to 6: the slot that passes; R404: after a later mismatch the foreman boots from the other slot. -/
def bootSlots (f : Nat) (unread : List Nat) (s : State) : Option Nat × State :=
  let avoid := (s.foreman f).avoid
  let a := s.activeSlot
  let b := 1 - a
  let ra := s.slotReason f a (unread.contains a)
  let s := rejectSlot f a ra s
  if ra = 0 ∧ avoid ≠ some a then (some a, s)
  else
    let rb := s.slotReason f b (unread.contains b)
    let s := rejectSlot f b rb s
    (if rb = 0 then some b else none, s)

/-- R405: step 7: the claim is written, and the foreman stands or follows. -/
def bootClaim (f : Nat) (ok : Bool) (s : State) : State :=
  let s := setClaim f F.FMN_CLAIM_CANDIDATE 0 (setClaim f F.FMN_CLAIM_IMAGE_OK ok.toNat s)
  if s.asserts (otherForeman f) then
    setClaim f F.FMN_CLAIM_TERM (s.claim (otherForeman f) F.FMN_CLAIM_TERM) s
  else stand f s

/-- R405: steps 5, 7 and 8 with the slot that passed. -/
def bootWith (f : Nat) (slot : Option Nat) (s : State) : State :=
  let b := R.FMN_BOOT_STAT f
  match slot with
  | some k =>
    let h := s.flashBytes (slotBase k) 576
    let cs := (List.range (leAt h 6 2)).map fun i => ((compEntry h i).kind, (compEntry h i).digest)
    let s := setFld b F.FMN_BOOT_STAT_SVN (leAt h 8 1) (setFld b F.FMN_BOOT_STAT_SLOT k s)
    let s := setFld b F.FMN_BOOT_STAT_STATE 2 s
    bootClaim f true (updForeman f (fun x => { x with inReset := false, comps := cs, beatAt := s.nclk }) s)
  | none =>
    let s := setFld b F.FMN_BOOT_STAT_STATE 3 s
    bootClaim f false (updForeman f (fun x => { x with inReset := false, comps := [], beatAt := s.nclk }) s)

/-- R398: the copies differ: neither foreman claims, and both halt. -/
def haltMismatch (s : State) : State :=
  let halt (f : Nat) (s : State) : State := setFld (R.FMN_BOOT_STAT f) F.FMN_BOOT_STAT_STATE 4 s
  setFld R.CLK_START_STAT F.CLK_START_STAT_PHASE 5 (halt 1 (halt 0 (loadFuseStat s)))

/-- R399, R386: the certificate chain's leaf must carry the identity key. -/
def State.chainOk (s : State) : Bool :=
  Config.leafKey (Config.certChain (s.mgmt.flash.filter fun c => persistBase ≤ c.1)) == s.idPub

/-- R399: the certificate chain. -/
def State.chain (s : State) : List Byte := Config.certChain (s.mgmt.flash.filter fun c => persistBase ≤ c.1)

/-- R405: FOREMAN_BOOT_DONE. -/
def execForemanBootDone (f : Fin 2) (unread : List Nat) (s : State) : Host.Outcome State Fault Refusal :=
  .next (if !(s.mgmt.released && s.mgmt.filled && s.mgmt.seamed && s.dieUp (4 + f) && s.bootState f == 0) then s
    else if s.fuseMismatch then haltMismatch s
    else
      let s := loadIdentity (loadFuseStat s)
      let (slot, s) := bootSlots f unread s
      let s := if slot.isSome && !s.chainOk then
          event 0x0C05 0x0F f (slot.getD 0) 0x09 0 0 s
        else s
      let s := if s.fld R.CLK_START_STAT F.CLK_START_STAT_PHASE = 0 then
          setFld R.CLK_START_STAT F.CLK_START_STAT_PHASE 1 s else s
      bootWith f slot s)

/-- R406, R398: the sideband recovery is served: by a leader in recovery, or after a fuse mismatch. -/
def State.recovering (s : State) : Bool :=
  s.flag R.FMN_FUSE_STAT F.FMN_FUSE_STAT_MISMATCH || (match s.leader with
    | some f => s.bootState f == 3
    | none => false)

/-- R406: RECOVERY_FLASH_WRITE: image slots and directory copies only. -/
def execRecoveryFlashWrite (off : BitVec 26) (data : List Byte) (s : State) : Host.Outcome State Fault Refusal :=
  .next (if !s.recovering || decide (persistBase < off.toNat + data.length) then s
    else updMgmt (fun m => { m with flash := memPuts m.flash off.toNat data }) s)

/-- R406: RECOVERY_RESTART. -/
def execRecoveryRestart (s : State) : Host.Outcome State Fault Refusal :=
  .next (if s.recovering then resetForeman 1 (resetForeman 0 s) else s)

/-! ### MGMT packets (R390) and the test-mode enable (R412) -/

/-- R390: the leading foreman's inbound queue. -/
def inboundDepth : Nat := 64

/-- R390: MGMT. -/
def execPktMgmt (plane : Fin 2) (s : State) : Host.Outcome State Fault Refusal :=
  .next (withArrival plane 0x1C (fun _ q s =>
    if s.leader.isNone || decide (inboundDepth ≤ s.mgmt.inbound.length) then bump R.FMN_CNT_MGMT_DROP 1 s
    else updMgmt (fun m => { m with inbound := m.inbound ++ [q.payload] }) s) s)

/-- R412: whether an enable is accepted. -/
def State.enableOk (s : State) (e : List Byte) : Bool :=
  let k := leAt e 5 1
  e.length == 128 && leAt e 0 4 == 0x5A475445 && leAt e 4 1 / 16 == 1 && decide (k < 4) && !bitAt s.keyRevoke k &&
    bitAt (s.fuse 0).usage (2 * k + 1) && leAt e 8 8 == s.reg R.FMN_TEST_NONCE &&
    sliceBytes e 16 32 == Config.sha256 s.idPub &&
    Config.ecdsaVerify (Config.rootKey ((s.fuse 0).rootHash.getD k [])) (Config.sha256 (sliceBytes e 0 64))
      (sliceBytes e 64 64)

/-- R412: TEST_MODE_ENABLE. -/
def execTestModeEnable (enable : List Byte) (s : State) : Host.Outcome State Fault Refusal :=
  .next (if s.leaderRuns.isNone then s
    else
      let s := if s.enableOk enable then setFld R.PLT_TEST_EN F.PLT_TEST_EN_ARMED 1 s
        else bump R.FMN_CNT_TOKEN_REJECT 1 s
      let (n, s) := freshWord s
      setReg R.FMN_TEST_NONCE n.toNat s)

/-- R411: FATAL_RECORD_COLLECT. -/
def execFatalRecordCollect (s : State) : Host.Outcome State Fault Refusal :=
  .next (if s.leaderRuns.isNone then s
    else match s.ev.fatal with
    | [] => s
    | e :: rest =>
      let alert := !rest.isEmpty || s.flag R.FMN_LEAD_STAT F.FMN_LEAD_STAT_SPLIT
      send (.fatal e) (updMgmt (fun m => { m with smbAlert := alert }) (updEv (fun r => { r with fatal := rest }) s)))

/-! ### Power and temperature (R413 to R415) -/

/-- The control of a half. -/
def State.half (s : State) (h : Nat) : HalfCtl := if h = 0 then s.mgmt.half0 else s.mgmt.half1
/-- Change the control of a half; PWR_HALF_CTL and PWR_STAT follow: the lower duty applies. -/
def updHalf (h : Nat) (g : HalfCtl → HalfCtl) (s : State) : State :=
  let x := g (s.half h)
  let s := updMgmt (fun m => if h = 0 then { m with half0 := x } else { m with half1 := x }) s
  let d := min x.powerDuty x.thermDuty
  let s := setReg (R.PWR_HALF_CTL h) ((x.powerHalf || x.thermHalf).toNat * 256 + d) s
  setFld R.PWR_STAT (if h = 0 then F.PWR_STAT_DUTY_A else F.PWR_STAT_DUTY_B) d s

/-- R417: a write of a half's duty: 0 stores 1 and more than 64 stores 64. -/
def halfCtlWrite (who : Who) (h val : Nat) (s : State) : State :=
  let may := match who with
    | .foreman f => f.val == h || s.gateOpen f
    | _ => false
  if !may then ignoredWrite who (R.PWR_HALF_CTL h).off s
  else updHalf h (fun x => { x with powerDuty := max 1 (min 64 (bitsOf val 6 0)), powerHalf := bitAt val 8,
                                    thermDuty := max 1 (min 64 (bitsOf val 6 0)), thermHalf := bitAt val 8 }) s

/-- R417: a write to PWR_CAP_CFG: outside 800 to 2 200 the nearer end is stored. -/
def capWrite (who : Who) (val : Nat) (s : State) : State :=
  if !s.privWriter who then ignoredWrite who R.PWR_CAP_CFG.off s
  else setReg R.PWR_CAP_CFG (max 800 (min 2200 (bitsOf val 11 0))) s

/-- R417: a write to PWR_THERM_CFG: outside 80 to 100 the nearer end is stored. -/
def thermWrite (who : Who) (val : Nat) (s : State) : State :=
  if !s.privWriter who then ignoredWrite who R.PWR_THERM_CFG.off s
  else setReg R.PWR_THERM_CFG (max 80 (min 100 (bitsOf val 7 0))) s

/-- R413: samples in the 1 ms running average. -/
def samplesPerMs : Nat := 10

/-- R413: a foreman controls the half: its own, or the leader for it. -/
def State.halfControlled (s : State) (h : Nat) : Bool := s.bootState h == 2 || s.leaderRuns.isSome

/-- R413: the duty that power control asks for after a sample: halved at once above 1.25 × CAP_W; else a free value that
falls while the average is above the cap and rises while it is not. -/
def powerDuty (watts avg cap old draw : Nat) : Nat :=
  if 4 * watts > 5 * cap then max 1 (old / 2)
  else if avg > cap then max 1 (min old (Config.freeDuty draw))
  else max old (min 64 (Config.freeDuty draw))

/-- R413: power control of one half after a sample. -/
def powerControl (watts avg : Nat) (s : State) (h : Nat) : State :=
  if !s.halfControlled h then s
  else
    let cap := s.fld R.PWR_CAP_CFG F.PWR_CAP_CFG_CAP_W
    let x := s.half h
    let d := powerDuty watts avg cap x.powerDuty s.free
    let at1 := if x.powerDuty = 1 ∧ avg > cap then x.atOneFor + 1 else 0
    let half := decide (100 ≤ at1) || (x.powerHalf && d == 1)
    let s := updHalf h (fun x => { x with powerDuty := d, atOneFor := at1, powerHalf := half }) { s with free := s.free + 1 }
    if d = x.powerDuty ∧ half = x.powerHalf then s else event 0x0C03 0x0F h (4 + h) 0 d 0 s

/-- R413: POWER_SAMPLE. -/
def execPowerSample (watts : Nat) (s : State) : Host.Outcome State Fault Refusal :=
  .next (if !s.mgmt.released then s
    else
      let l := (watts :: s.mgmt.samples).take samplesPerMs
      let avg := l.sum / max 1 l.length
      let s := setFld R.PWR_STAT F.PWR_STAT_PKG_W (min 4095 avg) (updMgmt (fun m => { m with samples := l }) s)
      [0, 1].foldl (powerControl watts avg) s)

/-- R413: POWER_CAP_DIVIDE: in proportion to the demand; with no leader each half uses half of CAP_W. -/
def execPowerCapDivide (demand0 demand1 : Nat) (s : State) : Host.Outcome State Fault Refusal :=
  let cap := s.fld R.PWR_CAP_CFG F.PWR_CAP_CFG_CAP_W
  let c0 := if s.leaderRuns.isNone ∨ demand0 + demand1 = 0 then cap / 2 else cap * demand0 / (demand0 + demand1)
  .next (updHalf 1 (fun x => { x with cap := cap - c0 }) (updHalf 0 (fun x => { x with cap := c0 }) s))

/-- R415: a thermal trip. `temp` is the reading, or none where a sensor is silent. -/
def thermalTrip (d : Nat) (temp : Option Nat) (s : State) : State :=
  if s.mgmt.tripped then s
  else
    let (w, s) := match temp with
      | some t => (t, s)
      | none => let (w, s) := freshWord s; (w.toNat, s)
    let s := event 0x0C04 0 0 d w 0 0 (updMgmt (fun m => { m with tripped := true, thermtrip := true }) s)
    (List.range 16).foldl (fun s p => if s.portState p = 9 ∨ s.portState p = 0 then s
      else portEvent p (portLost p 0 s)) s

/-- The half of a die (R16). -/
def halfOf (d : Nat) : Nat := if d = 2 ∨ d = 3 ∨ d = 5 then 1 else 0

/-- R414: thermal control of a half whose hottest reading is `t`, on die `d`. At or above 105 °C the first row of the table
holds as well: once the half stands at 8 its duty falls by 4 each millisecond (log 120). -/
def thermalControl (h d t : Nat) (s : State) : State :=
  if !s.halfControlled h then s
  else
    let lim := s.fld R.PWR_THERM_CFG F.PWR_THERM_CFG_THROTTLE_C
    let x := s.half h
    let now := s.nclk
    if t ≥ 105 ∧ (8 < x.thermDuty ∨ !x.thermHalf) then
      let s := updHalf h (fun x => { x with thermDuty := min 8 x.thermDuty, thermHalf := true, fellAt := now }) s
      event 0x0C03 0x0F h d 1 (min 8 x.thermDuty) 0 s
    else if t ≥ lim then
      if now < x.fellAt + usCycles 1000 then s
      else
        let v := max 1 (x.thermDuty - 4)
        event 0x0C03 0x0F h d 1 v 0 (updHalf h (fun x => { x with thermDuty := v, fellAt := now }) s)
    else if t + 2 < lim then
      let s := updHalf h (fun x => { x with thermHalf := false }) s
      if now < x.roseAt + usCycles 10000 then s
      else updHalf h (fun x => { x with thermDuty := min 64 (x.thermDuty + 1), roseAt := now }) s
    else s

/-- R414: the hottest reading of a half, with its die. -/
def hottest (h : Nat) (dies : List (Option Nat)) : Option (Nat × Nat) :=
  (List.range 6).foldl (fun best d =>
    if halfOf d ≠ h then best
    else match dies[d]?, best with
      | some (some t), some (_, u) => if t > u then some (d, t) else best
      | some (some t), none => some (d, t)
      | _, _ => best) none

/-- R414: one die's reading is reported, and trips the part where R414 says so. -/
def readDie (dies : List (Option Nat)) (s : State) (d : Nat) : State :=
  if !s.dieUp d then s
  else match dies[d]? with
  | none => s
  | some none => thermalTrip d none s
  | some (some t) =>
    let s := setReg R.PWR_TEMP (setBits (s.reg R.PWR_TEMP) (8 * d + 7) (8 * d) (min 255 t)) s
    if t ≥ 110 then thermalTrip d (some t) s else s

/-- R414: TEMP_SAMPLE. -/
def execTempSample (dies : List (Option Nat)) (s : State) : Host.Outcome State Fault Refusal :=
  .next (if !s.mgmt.released then s
    else
      let s := (List.range 6).foldl (readDie dies) s
      [0, 1].foldl (fun s h => match hottest h dies with
        | some (d, t) => thermalControl h d t s
        | none => s) s)

end Sys2Proof.Machine
end

