-- ==== Sys2Proof/Machine/QosCmds.lean ====
section
/-! DEFINITION. The commands of bandwidth regulation (R359 to R369) and the writes of its registers. -/

namespace Sys2Proof.Machine

/-- R359: the occupancy of a resource: the highest among its controllers. One whose queues are not listed is empty. -/
def occOf (occ : List (Nat × Nat)) (r : Nat) : Nat := ((occ.filter fun p => p.1 == r).map (·.2)).foldl max 0

/-- R363: each tenant held by its limit counts the interval. -/
def countHeld (s : State) (t : Nat) : State :=
  if s.fld (R.QOS_TEN_STAT t) F.QOS_TEN_STAT_CHARGE ≥ s.fld (R.QOS_TEN_CTL t) F.QOS_TEN_CTL_INFLIGHT_LIMIT
  then bump (R.QOS_CNT_INFLIGHT_HOLD t) 1 s else s

/-- R362: what the POOL source used in the interval that ends becomes what it used in the previous one. -/
def endInterval (s : State) : State :=
  { s with qos := { s.qos with used := [], usedBefore := s.qos.used, nextReport := (s.nclk / 64 + 1) * 64 } }

/-- R359, R360, R363: an interval of 64 NCLK cycles ends: every resource reports. Before its end nothing does. -/
def execQosLevelReport (occ : List (Nat × Nat)) (s : State) : Host.Outcome State Fault Refusal :=
  .next (if s.nclk < s.qos.nextReport then s
    else endInterval ((List.range 256).foldl countHeld
      ((List.range 21).foldl (fun s r => qosReport s (r, occOf occ r)) s)))

/-- R356: QOS_GUAR_WRITE. -/
def execQosGuarWrite (who : Who) (src : Fin 259) (r : Fin 32) (val : BitVec 32) (s : State) :
    Host.Outcome State Fault Refusal :=
  .next (if s.privWriter who then qosGuarWrite src r val.toNat s
    else ignoredWrite who (R.QOS_BW src r).off s)

/-- R355: REGULATED_REQUEST_ISSUE: held until its way is clear and every bucket of its path holds its bytes. -/
def execRegulatedRequestIssue (die : Fin 6) (src : Fin 259) (target : RegTarget) (bytes : Nat) (s : State) :
    Host.Outcome State Fault Refusal :=
  .next ((qosIssue die src target bytes s).getD s)

/-- R367: zero a monitor. -/
def latClear (t c : Nat) (s : State) : State :=
  setFld (R.QOS_LAT_CFG t c) F.QOS_LAT_CFG_ALARMED 0
    (zeroRegs [R.QOS_LAT_MAX t c, R.QOS_LAT_CNT t c, R.QOS_LAT_MISS t c] s)

/-- R367, R369: a write to QOS_LAT_CFG. -/
def latCfgWrite (who : Who) (t c val : Nat) (s : State) : State :=
  let r := R.QOS_LAT_CFG t c
  if !s.privWriter who then ignoredWrite who r.off s
  else
    let s := setFld r F.QOS_LAT_CFG_ALARM_US val s
    if bitAt val 32 then latClear t c s else s

/-- R367: LAT_CLEAR. -/
def execLatClear (who : Who) (t : Fin 256) (c : Fin 4) (s : State) : Host.Outcome State Fault Refusal :=
  .next (if s.privWriter who then latClear t c s else ignoredWrite who (R.QOS_LAT_CFG t c).off s)

/-- R369: zero every QOS_CNT_ and QOS_RES_CNT_ counter. -/
def qosCntClear (who : Who) (s : State) : State :=
  if !s.privWriter who then ignoredWrite who R.QOS_CNT_CLEAR.off s
  else
    let s := zeroRegs [R.QOS_CNT_REFUSED, R.QOS_CNT_SCALED] s
    let s := zeroRegs ((List.range 32).flatMap fun r => [R.QOS_RES_CNT_HIGH r, R.QOS_RES_CNT_CRIT r]) s
    zeroRegs ((List.range 256).flatMap fun t => [R.QOS_CNT_IRQ_DELAY t, R.QOS_CNT_INFLIGHT_HOLD t]) s

/-- R369: QOS_CNT_CLEAR. -/
def execQosCntClear (who : Who) (s : State) : Host.Outcome State Fault Refusal := .next (qosCntClear who s)

/-- R369: a write to QOS_RES_CFG. -/
def qosResCfgWrite (who : Who) (r val : Nat) (s : State) : State :=
  let m := bitsOf val 3 0
  let h := bitsOf val 7 4
  let c := bitsOf val 11 8
  if !s.privWriter who || !(decide (1 ≤ m) && decide (m < h) && decide (h < c) && decide (c ≤ 8)) then
    ignoredWrite who (R.QOS_RES_CFG r).off s
  else setReg (R.QOS_RES_CFG r) (bitsOf val 11 0) s

/-- R363, R364, R369: a write to QOS_TEN_CTL: INFLIGHT_LIMIT of 0 stores 1. -/
def qosTenCtlWrite (who : Who) (t val : Nat) (s : State) : State :=
  if !s.privWriter who then ignoredWrite who (R.QOS_TEN_CTL t).off s
  else setReg (R.QOS_TEN_CTL t) (bitsOf val 31 16 * 65536 + max 1 (bitsOf val 15 0)) s

end Sys2Proof.Machine
end

