-- ==== Sys2Proof/Machine/Startup.lean ====
section
/-! DEFINITION. Fundamental reset (R419, R420, R425, R426, R442) and start-up (R427 to R430). -/

namespace Sys2Proof.Machine

/-! ### Fundamental reset -/

/-- R400: a power loss while fuses are programmed leaves each of the bits either set or clear. -/
def cutFuses (s : State) : State :=
  let r := R.FMN_FUSE_PROG
  if !s.flag r F.FMN_FUSE_PROG_BUSY then s
  else
    let rev := s.fld r F.FMN_FUSE_PROG_REVOKE
    let t := s.fld r F.FMN_FUSE_PROG_SVN_TARGET
    let cut (x : Fuses) (w : Nat) : Fuses :=
      { x with revoke := x.revoke ||| (rev &&& w % 16), svn := x.svn ||| (2 ^ min t 64 - 1) &&& w / 16 % 2 ^ 64 }
    let (a, s) := freshWord s
    let (b, s) := freshWord s
    let (c, s) := freshWord s
    let (d, s) := freshWord s
    let l := [cut (s.fuse 0) (a.toNat * 16 + b.toNat % 16), cut (s.fuse 1) (c.toNat * 16 + d.toNat % 16)]
    updMgmt (fun m => { m with fuses := l }) s

/-- R425, R426: a fundamental reset: every register takes its reset value except CLK_RESET_CAUSE; the fuses, the flash and
the SSDs keep their contents (R420), and hard faults stay in the memories. -/
def fundamentalReset (cause die rails : Nat) (s : State) : State :=
  let s := cutFuses s
  let z := State.reset
  let m := { z.mgmt with fuses := s.mgmt.fuses, flash := s.mgmt.flash, nvmePerst := rails == 0x3FF, ddrRst := rails == 0x3FF }
  let t := { z.t3 with cells := s.t3.cells }
  let ms := { z.ms with stuck := s.ms.stuck, flips := s.ms.stuck }
  let z := { z with pending := s.pending, free := s.free, out := s.out, persist := s.persist, mgmt := m, t3 := t, ms := ms }
  setReg R.CLK_RAIL_STAT rails (setReg R.CLK_RESET_CAUSE (die * 16 + cause) z)

/-- R419, R1: SUPPLY_FAULT: of row `rail` of R418. Past an absolute limit no statement of the manual holds. -/
def execSupplyFault (rail : Fin 10) (beyond : Bool) (s : State) : Host.Outcome State Fault Refusal :=
  if beyond then .fault .beyondAbsoluteLimits
  else .next (fundamentalReset 0 0 (setBits (s.fld R.CLK_RAIL_STAT F.CLK_RAIL_STAT_GOOD) rail rail 0) s)

/-- R425, R442: PERST_N_ASSERT. -/
def execPerstAssert (s : State) : Host.Outcome State Fault Refusal :=
  .next (fundamentalReset 1 0 (s.fld R.CLK_RAIL_STAT F.CLK_RAIL_STAT_GOOD) s)

/-- R422, R425: REFCLK_LOSS. -/
def execRefclkLoss (s : State) : Host.Outcome State Fault Refusal :=
  .next (fundamentalReset 2 0 (s.fld R.CLK_RAIL_STAT F.CLK_RAIL_STAT_GOOD) s)

/-- R423, R425: PLL_LOSS_OF_LOCK. -/
def execPllLoss (die : Fin 6) (s : State) : Host.Outcome State Fault Refusal :=
  .next (fundamentalReset 3 die (s.fld R.CLK_RAIL_STAT F.CLK_RAIL_STAT_GOOD) s)

/-! ### Start-up (R427) -/

/-- R429: a stack or channel that does not hold a gate back: in service, lost, or not installed. -/
def State.memSettled (s : State) (c : Nat) : Bool := s.memState c == 4 || s.memState c == 6 || s.memState c == 7

/-- R427: steps 1 and 2: RELEASE: the conditions of R419 hold together and the PLLs have locked. -/
def execRelease (sris0 sris1 : Bool) (addrSel : BitVec 2) (s : State) : Host.Outcome State Fault Refusal :=
  .next (if s.mgmt.released then s
    else
      let s := updMgmt (fun m => { m with released := true, nvmePerst := false, ddrRst := false }) { s with nclk := 0 }
      let s := setReg R.CLK_STAT (0x3F * 2 ^ 24 + sris1.toNat * 2 + sris0.toNat) (setReg R.CLK_RAIL_STAT 0x3FF s)
      let s := setReg R.CLK_START_STAT (0xFFFF * 2 ^ 16 + 0xFFF * 16) s
      let s := setFld R.FMN_SMB_CFG F.FMN_SMB_CFG_ADDR (0x60 + addrSel.toNat) s
      let s := setFld R.HP1_LINK_STAT F.HP1_LINK_STAT_STATE 1 (setFld R.HP0_LINK_STAT F.HP0_LINK_STAT_STATE 1 s)
      (List.range 28).foldl (fun s c => setMemState c 1 s) s)

/-- R427: step 3: ONDIE_FILL_DONE. -/
def execOndieFillDone (s : State) : Host.Outcome State Fault Refusal :=
  .next (if s.mgmt.released && !s.mgmt.filled then
      let m := s.mem.filter fun c => spaceOf c.1 != .t0
      updMgmt (fun x => { x with filled := true }) { s with mem := m }
    else s)

/-- R28: the state bits of a link. -/
def linkBits : LinkWidth → Nat
  | .down => 0 | .half => 1 | .full => 2

/-- R427: step 4: SEAM_TRAIN_DONE: the topology registers are loaded. -/
def execSeamTrainDone (links : List LinkWidth) (crews : BitVec 64) (stackSet : BitVec 16) (s : State) :
    Host.Outcome State Fault Refusal :=
  .next (if !s.mgmt.released || s.mgmt.seamed then s
    else
      let s := updMgmt (fun x => { x with seamed := true }) s
      let v := ((List.range 8).map fun i => linkBits (links.getD i .down) * 4 ^ i).sum
      let s := setReg R.FMN_CREW_PRESENT crews.toNat (setReg R.FMN_SEAM_STATE v s)
      let s := setFld R.FMN_TOPO_CAP F.FMN_TOPO_CAP_DIE_PRESENT 0x3F s
      let s := setFld R.FMN_TOPO_CAP F.FMN_TOPO_CAP_STACK_PRESENT_LO (stackSet.toNat % 256) s
      let s := setFld R.FMN_TOPO_CAP F.FMN_TOPO_CAP_STACK_PRESENT_HI (stackSet.toNat / 256) s
      qosRefresh (isolate s))

/-- R430: CONFIG_RETRY_END, 50 ms after release. -/
def execConfigRetryEnd (s : State) : Host.Outcome State Fault Refusal :=
  .next (if s.mgmt.released && decide (usCycles 50000 ≤ s.nclk) then updMgmt (fun m => { m with cfgOpen := true }) s
    else s)

/-- R427, R404: step 9: RUNTIME_LOAD_DONE. A component that differs from its digest resets the foreman, which boots again
from the other slot. -/
def execRuntimeLoadDone (ok : Bool) (s : State) : Host.Outcome State Fault Refusal :=
  .next (match s.leaderRuns with
    | none => s
    | some f =>
      if s.mgmt.runtime || !((List.range 16).all s.memSettled) then s
      else if ok then updMgmt (fun m => { m with runtime := true }) s
      else
        let k := s.fld (R.FMN_BOOT_STAT f) F.FMN_BOOT_STAT_SLOT
        updForeman f (fun x => { x with avoid := some k }) (resetForeman f (rejectSlot f k 0x07 s)))

/-- R429: COMPUTE_RELEASE. -/
def execComputeRelease (s : State) : Host.Outcome State Fault Refusal :=
  .next (if s.fld R.CLK_START_STAT F.CLK_START_STAT_PHASE = 2 ∧ s.mgmt.filled ∧ s.mgmt.seamed ∧ s.mgmt.runtime ∧
      s.leader.isSome ∧ (List.range 16).all s.memSettled then
      let now := s.nclk
      setFld R.CLK_START_STAT F.CLK_START_STAT_PHASE 3 { s with mgmt := { s.mgmt with computeAt := now } }
    else s)

/-- R429: HOST_RELEASE: the leader loads PEAK and ADMIT_MAX of every resource, and the gate opens. -/
def execHostRelease (s : State) : Host.Outcome State Fault Refusal :=
  .next (if s.fld R.CLK_START_STAT F.CLK_START_STAT_PHASE = 3 ∧ s.leader.isSome ∧
      ((List.range 12).all fun c => s.memSettled (16 + c)) then
      setFld R.CLK_START_STAT F.CLK_START_STAT_PHASE 4 (qosRefresh s)
    else s)

end Sys2Proof.Machine
end

