-- ==== Sys2Proof/Machine/Control.lean ====
section
/-! DEFINITION. Control space as its registers are read and written (R5 to R9, R71, R263, R264, R430): how an access finds
its register, the views that are not stored, and the write of each register. -/

namespace Sys2Proof.Machine

/-! ### Finding the register of an access (R7) -/

/-- A register access: the row of the register map, its indices, the offset of its first byte, and the bits accessed. -/
structure CtlRef where
  desc : RegDesc
  ix   : List Nat
  off  : Nat
  mask : Nat
deriving DecidableEq, Repr

/-- What stands at a control offset for an access: a register, nothing, a word of a function's MSI-X table or pending-bit
array, or an access that R7 does not allow. -/
inductive CtlAt where
  | reg (r : CtlRef)
  | reserved
  | msix (f off mask : Nat) (table : Bool)
  | bad
deriving DecidableEq, Repr

/-- The bits of the lower half of a 64-bit register. -/
def lowHalf : Nat := 2 ^ 32 - 1
/-- The bits of the upper half. -/
def highHalf : Nat := allBits - lowHalf

/-- The number and offset in its page of a function page. -/
def fnPage (off : Nat) : Option (Nat × Nat) :=
  let f := (off - 0x10000000) / 0x40000
  if 0x10000000 ≤ off ∧ f < 257 then some (f, (off - 0x10000000) % 0x40000) else none

/-- R264: what a function page mirrors: the topology registers, and the quota block of the function's tenant. -/
def mirrorOf (off : Nat) : Option Nat :=
  match fnPage off with
  | some (f, o) =>
    if 0x1000 ≤ o ∧ o < 0x1040 then some (0x10000 + (o - 0x1000))
    else if 0x2000 ≤ o ∧ o < 0x2100 ∧ f ≠ 0 then some (0x6000000 + (f - 1) * 0x100 + (o - 0x2000))
    else none
  | none => none

/-- R7: the access of `width` bytes at a control offset. A width that the register does not have is not allowed. -/
def ctlAt (off width : Nat) : CtlAt :=
  if (width ≠ 4 ∧ width ≠ 8) ∨ off % width ≠ 0 then .bad
  else
    let mask := if width = 8 then allBits else if off % 8 = 0 then lowHalf else highHalf
    let msix : Option CtlAt := match fnPage off with
      | some (f, o) =>
        if 0x8000 ≤ o ∧ o < 0x10000 then some (.msix f (off / 8 * 8) mask true)
        else if 0x10000 ≤ o ∧ o < 0x10100 then some (.msix f (off / 8 * 8) mask false)
        else none
      | none => none
    match msix, regAt off with
    | some a, _ => a
    | none, some (d, ix) =>
      if d.width = 32 then (if width = 4 then .reg ⟨d, ix, off, lowHalf⟩ else .bad) else .reg ⟨d, ix, off, mask⟩
    | none, none =>
      if off % 8 = 4 then
        match regAt (off - 4) with
        | some (d, ix) => if d.width = 64 then .reg ⟨d, ix, off - 4, highHalf⟩ else .reserved
        | none => .reserved
      else .reserved

/-- The bits of the fields of a register that have one of some access types. -/
def RegDesc.bits (d : RegDesc) (p : Acc → Bool) : Nat :=
  (d.fields.filter fun f => p f.acc).foldl (fun m f => m ||| (2 ^ (f.hi + 1 - f.lo) - 1) * 2 ^ f.lo) 0

/-- R7: the value of the bits of `mask` as an access of that half sees it. -/
def halfValue (mask v : Nat) : Nat := if mask = highHalf then v / 2 ^ 32 else v &&& mask

/-! ### Reads -/

/-- R17: the instance that a capability register describes is absent: its crew or H-die, or its stack or channel. The
register then reads as zero: the spec says only that it reads as absent. DESIGN CHOICE (log 103). -/
def State.capAbsent (s : State) (b i : Nat) : Bool :=
  let gone (n : Nat) : Bool := s.mgmt.seamed && !s.crewUp n
  let half (h : Nat) : Bool := s.mgmt.seamed && !s.dieUp (4 + h)
  if b = (R.MXE_CAP 0).off ∨ b = (R.MXE_XP_CAP 0).off then gone (i / 3)
  else if b = (R.MXE_CREW_CAP 0).off ∨ b = (R.HST_CAP 0).off then gone i
  else if b = (R.KNC_CAP 0).off then gone (i / 4)
  else if b = (R.TRM_CAP 0).off then
    if i < 256 then gone (i / 4) else half (i / 288)
  else if b = (R.T1C_CAP 0).off then s.memAbsent i
  else if b = (R.T2C_CAP 0).off then s.memAbsent (16 + i)
  else if b = R.HP0_CAP.off then half 0
  else if b = R.HP1_CAP.off then half 1
  else false

/-- R71: MXE_BANK_STAT. -/
def State.bankStat (s : State) (m : Nat) : Nat :=
  ((List.range 4).map fun b =>
    let k := (s.mx m).bank b
    let q := (List.range 4).find? fun i => s.qBound m i && bitAt (s.fld (R.MXE_QCTL m i) F.MXE_QCTL_BANK_MASK) b
    (q.getD 0 * 16 + q.isSome.toNat * 8 + k.poisoned.toNat * 4 + k.degraded.toNat * 2 + k.sat.toNat) * 2 ^ (8 * b)).sum

/-- R289: HP0_FN_STAT. -/
def State.fnStat (s : State) (f : Nat) : Nat :=
  let c := s.fnCfg f
  let state := if s.hp0.resetting.contains f then 2
    else if (List.range (qpCount f)).any (s.qpOn f) then 1 else 0
  (s.hp0.tokens.filter fun t => t.fn == f).length * 2 ^ 32 + (s.fnMse f).toNat * 512 + c.bme.toNat * 256 + state

/-- R387: EVR_CODE_CFG: FATAL and TENANT as the code table gives them; an index with no code reads zero. -/
def State.codeCfg (s : State) (k : Nat) : Nat :=
  if evCodes.contains k then
    bitsOf (s.reg (R.EVR_CODE_CFG k)) 31 3 * 8 + (evFatal k).toNat * 4 + (evTenantCodes.contains k).toNat * 2 +
      bitsOf (s.reg (R.EVR_CODE_CFG k)) 0 0
  else 0

/-- R432: CLK_START_STAT: MS from the clock, and the controllers still awaited. -/
def State.startStat (s : State) : Nat :=
  let lost16 := ((List.range 16).map fun k => if s.memSettled k then 0 else 2 ^ k).sum
  let chans := ((List.range 12).map fun k => if s.memSettled (16 + k) then 0 else 2 ^ k).sum
  if s.mgmt.released then
    min 0xFFFF (s.nclk / 1800000) * 2 ^ 32 + lost16 * 2 ^ 16 + chans * 16 + s.fld R.CLK_START_STAT F.CLK_START_STAT_PHASE
  else s.reg R.CLK_START_STAT

/-- R294: HP1_EXT of an extent that no reservation holds is absent once both are set. -/
def State.extView (s : State) (x : Nat) : Nat :=
  let v := s.reg (R.HP1_EXT x)
  if s.locked R.HP1_POOL_T2 && s.locked R.HP1_POOL_T3 then
    if s.poolN2 + s.poolN3 ≤ x then 3 else bitsOf v 16 8 * 256 + s.extHome x * 16 + bitsOf v 3 0
  else v

/-- R259: TRM_CAP: an H-die tram's KIND and OPS differ from a crew tram's. -/
def trmCap (t : Nat) : Nat := if t < 256 then 0x00010102000201BF else 0x00010202000201FF

/-- The whole value of a register as it stands, with the views that are computed. -/
def State.view (s : State) (r : CtlRef) : Nat :=
  let b := r.desc.base
  let i := r.ix.getD 0 0
  let j := r.ix.getD 1 0
  let v := s.reg ⟨r.off, r.desc.rst⟩
  if s.capAbsent b i then 0
  else if b = (R.TRM_CAP 0).off then trmCap i
  else if b = (R.MXE_BANK_STAT 0).off then s.bankStat i
  else if b = (R.MXE_QSTAT 0 0).off then (s.mq i j).depth * 256 + s.qState i j * 16
  else if b = (R.KNC_CTX_GREG 0 0 0).off ∧ r.ix.getD 2 0 = 0 then 0
  else if b = (R.KNC_CTX_PREG 0 0 0).off ∧ r.ix.getD 2 0 = 0 then allBits
  else if b = (R.T1C_CAPACITY 0).off then s.capacity i
  else if b = (R.T1C_STAT 0).off then bitsOf v 31 28 * 2 ^ 28 + bitsOf v 25 0
  else if b = (R.T2C_STAT 0).off then bitsOf v 31 28 * 2 ^ 28 + (privChannel i).toNat * 2 ^ 27 + bitsOf v 26 0
  else if b = (R.HP0_FN_STAT 0).off then s.fnStat i
  else if b = (R.HP0_WIN_ACT_CTL 0 0).off ∨ b = (R.HP0_WIN_SHD_CTL 0 0).off then
    setBits v 47 40 (s.fld (R.HP0_WIN_ACT_CTL i j) F.HP0_WIN_ACT_CTL_EPOCH)
  else if b = (R.EVR_CODE_CFG 0).off then s.codeCfg i
  else if b = (R.EVR_TR_WR 0).off ∨ b = (R.EVR_TR_RD 0).off then (if i = 0 then 0 else v)
  else if b = (R.EVR_TR_STAT 0).off then
    if i = 0 then 0
    else bitsOf v 63 32 * 2 ^ 32 + (s.flag (R.EVR_TR_CTL (i - 1)) F.EVR_TR_CTL_VALID).toNat * 16 +
      s.fld (R.EVR_TR_BASE (i - 1)) F.EVR_TR_BASE_SIZE
  else if b = (R.EVR_TR_WHERE 0).off then
    if i = 0 then 0 else s.fld (R.EVR_TR_BASE (i - 1)) F.EVR_TR_BASE_ADDR * 4096
  else if b = R.CLK_START_STAT.off then s.startStat
  else if b = (R.HP1_EXT 0).off then s.extView i
  else v

/-- R108: a register of a context that can be reached only while the context is stopped or faulted. -/
def ctxOnly (b : Nat) : Bool :=
  b == (R.KNC_CTX_GREG 0 0 0).off || b == (R.KNC_CTX_PREG 0 0 0).off || b == (R.KNC_CTX_VREG 0 0 0).off ||
    b == (R.KNC_CTX_PC 0 0).off

/-- R71: the value that a read of a counter returns: latched whenever the lower half is read. -/
def latchRead (r : CtlRef) (v : Nat) (s : State) : Nat × State :=
  if r.mask &&& lowHalf = 0 then (((mapFind s.latch r.off).map (·.toNat)).getD 0, s)
  else
    let l := mapPut s.latch r.off (BitVec.ofNat 64 v)
    (v, { s with latch := l })

/-- R5, R8, R71, R89, R108: a read of a register. -/
def regRead (who : Who) (r : CtlRef) (s : State) : Nat × State :=
  let b := r.desc.base
  let i := r.ix.getD 0 0
  let j := r.ix.getD 1 0
  if b = (R.MXE_SEM 0 0).off ∧ s.semRefused who i j then (0, semRefuse who i j s)
  else if ctxOnly b && !s.ctxHalted (4 * i + j) then
    let (x, s) := freshWord s
    (halfValue r.mask x.toNat, s)
  else
    let v := s.view r &&& r.desc.bits (· != .wo)
    if r.desc.latch then
      let (x, s) := latchRead r v s
      (halfValue r.mask x, s)
    else (halfValue r.mask v, s)

/-- R7, R264: a read of `width` bytes at a control offset. -/
def ctlRead (who : Who) (off width : Nat) (s : State) : Nat × State :=
  let at_ := match mirrorOf off with
    | some o => ctlAt o width
    | none => ctlAt off width
  match at_ with
  | .bad => (2 ^ (8 * width) - 1, badAccess off width s)
  | .reserved => (0, s)
  | .msix f o mask _ =>
    (halfValue mask (s.reg (if o % 16 = 8 ∧ o % 0x40000 < 0x10000 then ⟨o, (msixData f 0).rst⟩ else ⟨o, 0⟩)), s)
  | .reg r => regRead who r s

/-- R430: the offsets of BAR0 that are served before host release. -/
def earlyServed (off : Nat) : Bool := decide (off ≤ 0x10FFF) || (decide (0x1B000000 ≤ off) && decide (off ≤ 0x1B000FFF))

/-! ### Writes -/

/-- A register that a plain write of the bits left after its checks sets. -/
def plainWrite (ok : Bool) (who : Who) (r : CtlRef) (val : Nat) (s : State) : State :=
  if ok then setReg ⟨r.off, r.desc.rst⟩ val s else ignoredWrite who r.off s

/-- R208, R236: a write to T1C_OBJ_BASE, T1C_OBJ_MIRROR or T1C_OBJ_ENTRIES. -/
def objRegWrite (who : Who) (r : CtlRef) (val : Nat) (s : State) : State :=
  let g : Reg := ⟨r.off, r.desc.rst⟩
  let n := s.chans.length
  let ok :=
    if r.off = R.T1C_OBJ_BASE.off then r.mask == allBits && spaceOf val == .t1
    else if r.off = R.T1C_OBJ_MIRROR.off then
      r.mask == allBits && spaceOf val == .t2 && n != 0 && spaceOff val / 4096 % max 1 n == 0
    else true
  if !s.privWriter who || (r.off != R.T1C_OBJ_ENTRIES.off && r.mask != allBits) then ignoredWrite who r.off s
  else if s.lockedOut g r.mask then s
  else if !ok then ignoredWrite who r.off s
  else lockBits g r.mask (setReg g (s.rwlMerge g r.mask val) s)

/-- R122: a write of LUTCFGt through the core's register block; R122 keeps the old value for an illegal one. -/
def lutCfgWrite (who : Who) (r : CtlRef) (val : Nat) (s : State) : State :=
  plainWrite (s.blockWriter who && decide (bitsOf val 36 32 ≤ 24) && bitsOf val 38 37 != 3) who r val s

/-- R104, R108: a write of a register of a context through its register block. -/
def ctxRegWrite (who : Who) (r : CtlRef) (val : Nat) (s : State) : State :=
  let b := r.desc.base
  let c := 4 * r.ix.getD 0 0 + r.ix.getD 1 0
  let i := r.ix.getD 2 0
  if !s.bindWriter who then ignoredWrite who r.off s
  else if b = (R.KNC_CTX_RGN 0 0 0).off then
    plainWrite (r.mask &&& lowHalf == 0 || decide (16 ≤ bitsOf val 15 10) && decide (bitsOf val 15 10 ≤ 45)) who r val s
  else if !s.ctxHalted c then ignoredWrite who r.off s
  else if b = (R.KNC_CTX_PC 0 0).off then setReg (ctxPc c) val s
  else if b = (R.KNC_CTX_GREG 0 0 0).off then setG c i val s
  else if b = (R.KNC_CTX_PREG 0 0 0).off then setP c i val s
  else wroteReg c (32 + i / 8) (setReg (ctxV c (i / 8) (i % 8)) val s)

/-- R71: a write to MXE_CNT_CLEAR. -/
def mxeCntClear (who : Who) (m val : Nat) (s : State) : State :=
  let s := if bitAt val 1 then blockDo who (R.MXE_CNT_CLEAR m).off (mxeClearEvents m) s else s
  if bitAt val 0 then blockDo who (R.MXE_CNT_CLEAR m).off (mxeClearCycles m) s else s

/-- Writes of the blocks of the crews: MXEs, semaphores, kneader cores, expanders (R71, R89, R102, R122, R135, R162). -/
def crewWrite (who : Who) (r : CtlRef) (val : Nat) (s : State) : Option State :=
  let b := r.desc.base
  let i := r.ix.getD 0 0
  let j := r.ix.getD 1 0
  if b = (R.MXE_CTL 0).off then some (plainWrite (s.blockWriter who) who r val s)
  else if b = (R.MXE_CNT_CLEAR 0).off then some (mxeCntClear who i val s)
  else if b = (R.MXE_QCTL 0 0).off then some (qctlWrite who i j val s)
  else if b = (R.MXE_SEM 0 0).off then some (semWrite who i j val s)
  else if b = (R.MXE_SEM_ADD 0 0).off then some (semAddWrite who i j val s)
  else if b = (R.KNC_CNT_CLEAR 0).off then some (if bitAt val 0 then blockDo who r.off (kncCntClear i) s else s)
  else if b = (R.KNC_LUTCFG 0 0).off then some (lutCfgWrite who r val s)
  else if b = (R.KNC_CTX_CTL 0 0).off then some (kncCtlWrite who (4 * i + j) val s)
  else if b = (R.KNC_CTX_CMD 0 0).off then some (ctxCmdWrite who (4 * i + j) val s)
  else if ctxOnly b || b == (R.KNC_CTX_RGN 0 0 0).off then some (ctxRegWrite who r val s)
  else if b = (R.MXE_XP_CNT_CLEAR 0).off then some (if bitAt val 0 then blockDo who r.off (xpClear i) s else s)
  else if b = (R.MXE_XP_LAST_DAMAGE 0).off then
    some (if bitAt val 31 then blockDo who r.off (setFld (R.MXE_XP_LAST_DAMAGE i) F.MXE_XP_LAST_DAMAGE_VALID 0) s else s)
  else none

/-- Writes of the blocks of the trams and hoists (R209, R259). -/
def engBlockWrite (who : Who) (r : CtlRef) (val : Nat) (s : State) : Option State :=
  let b := r.desc.base
  let i := r.ix.getD 0 0
  let j := r.ix.getD 1 0
  if b = (R.TRM_CTL 0).off then some (engCtlWrite who i val s)
  else if b = (R.HST_CTL 0).off then some (engCtlWrite who (320 + i) val s)
  else if b = (R.TRM_HEAD 0).off then some (engHeadWrite who i val s)
  else if b = (R.HST_HEAD 0).off then some (engHeadWrite who (320 + i) val s)
  else if b = (R.TRM_CMD 0).off then some (engCmdWrite who i val s)
  else if b = (R.HST_CMD 0).off then some (engCmdWrite who (320 + i) val s)
  else if b = (R.HST_LAYER_NEXT 0).off then some (layerNextWrite who i val s)
  else if b = (R.HST_SLOT_CFG 0 0).off then some (slotCfgWrite who i j val s)
  else if b = (R.HST_SLOT_STAT 0 0).off then some (if bitAt val 8 then slotDiscard who i j s else s)
  else none

/-- Writes of the memory blocks: quotas, the object table, leases, controllers (R207, R208, R210, R238). -/
def memBlockWrite (who : Who) (r : CtlRef) (val : Nat) (s : State) : Option State :=
  let b := r.desc.base
  let i := r.ix.getD 0 0
  if b = (R.QOS_QUOTA 0 0).off then some (plainWrite (s.privWriter who) who r val s)
  else if b = R.T1C_OBJ_BASE.off ∨ b = R.T1C_OBJ_MIRROR.off ∨ b = R.T1C_OBJ_ENTRIES.off then
    some (objRegWrite who r val s)
  else if b = (R.PLT_LIN_CTL 0).off then some (linCtlWrite who i val s)
  else if b = (R.PLT_LIN_DIRTY 0).off then some (linDirtyWrite who i val s)
  else if b = (R.PLT_LOUT_CTL 0).off then some (loutCtlWrite who i val s)
  else if b = (R.PLT_LOUT_SIZE 0).off then some (loutSizeWrite who i val s)
  else if b = (R.PLT_LOUT_BASE 0).off then some (loutBaseWrite who i val s)
  else if b = (R.T1C_CTL 0).off then some (memCtlWrite who i val s)
  else if b = (R.T2C_CTL 0).off then some (memCtlWrite who (16 + i) val s)
  else if b = (R.T1C_INJ_ADDR 0).off then some (injAddrWrite who i val s)
  else if b = (R.T2C_INJ_ADDR 0).off then some (injAddrWrite who (16 + i) val s)
  else if b = (R.T1C_INJ_CTL 0).off then some (injCtlWrite who i val s)
  else if b = (R.T2C_INJ_CTL 0).off then some (injCtlWrite who (16 + i) val s)
  else if b = (R.T1C_CNT_CLEAR 0).off then some (if bitAt val 0 then memCntClear who i s else s)
  else if b = (R.T2C_CNT_CLEAR 0).off then some (if bitAt val 0 then memCntClear who (16 + i) s else s)
  else if b = (R.T2C_LP 0).off then some (lpWrite who i val s)
  else none

/-- Writes of HP0's block, the function pages and the recorder (R289, R387, R388). -/
def hostBlockWrite (who : Who) (r : CtlRef) (val : Nat) (s : State) : Option State :=
  let b := r.desc.base
  let i := r.ix.getD 0 0
  let j := r.ix.getD 1 0
  if b = R.HP0_CNT_CLEAR.off then some (if bitAt val 0 then hp0CntClear who s else s)
  else if b = (R.HP0_WIN_SHD_BASE 0 0).off then some (winBaseWrite who i j val s)
  else if b = (R.HP0_WIN_SHD_CTL 0 0).off then some (winCtlWrite who i j val s)
  else if b = (R.HP0_QROUTE 0).off then some (qrouteWrite who i val s)
  else if b = (R.HP0_FN_ABORT 0).off then some (fnAbort who i val s)
  else if b = (R.HP0_QP_SQ_BASE 0 0).off ∨ b = (R.HP0_QP_CQ_BASE 0 0).off then
    some (qpBaseWrite who i j ⟨r.off, r.desc.rst⟩ val s)
  else if b = (R.HP0_QP_CFG 0 0).off then some (qpCfgWrite who i j val s)
  else if b = (R.EVR_TR_RD 0).off then some (trRdWrite who i val s)
  else if b = R.EVR_MAIN_BASE.off then some (mainBaseWrite who r.mask val s)
  else if b = R.EVR_MAIN_RD.off ∨ b = R.EVR_CTL.off then some (plainWrite (s.privWriter who) who r val s)
  else if b = R.EVR_CNT_CLEAR.off then some (if bitAt val 0 then evrCntClear who s else s)
  else if b = (R.EVR_CODE_CFG 0).off then some (codeCfgWrite who i val s)
  else if b = (R.EVR_TR_BASE 0).off then some (trBaseWrite who i val s)
  else if b = (R.EVR_TR_CTL 0).off then some (trCtlWrite who i val s)
  else none

/-- Writes of HP1's block, the fabric's and regulation's (R315, R349 to R351, R369). -/
def portBlockWrite (who : Who) (r : CtlRef) (val : Nat) (s : State) : Option State :=
  let b := r.desc.base
  let i := r.ix.getD 0 0
  let j := r.ix.getD 1 0
  if b = R.HP1_CNT_CLEAR.off then some (if bitAt val 0 then hp1CntClear who s else s)
  else if b = R.HP1_POOL_T1.off ∨ b = R.HP1_POOL_T2.off ∨ b = R.HP1_POOL_T3.off ∨ b = R.HP1_POOL_SIDE.off ∨
      b = R.HP1_DIR_BASE.off ∨ b = R.HP1_DIR_MIRROR.off ∨ b = R.HP1_SHARER_BASE.off then
    some (poolCfgWrite who ⟨r.off, r.desc.rst⟩ r.mask val s)
  else if b = (R.HP1_HOST 0).off then some (hp1HostWrite who i val s)
  else if b = (R.HP1_REGION_CFG 0).off then some (regionCfgWrite who i val s)
  else if b = (R.HP1_EXT 0).off then some (extWrite who i val s)
  else if b = (R.HP1_RANGE_A 0).off then some (rangeAWrite who i val s)
  else if b = (R.HP1_RANGE_B 0).off then some (rangeBWrite who i val s)
  else if b = R.PLT_SYS.off then some (pltSysWrite who r.mask val s)
  else if b = R.PLT_CTL.off then some (pltCtlWrite who val s)
  else if b = R.PLT_CNT_CLEAR.off then some (if bitAt val 0 then pltCntClear who s else s)
  else if b = (R.PLT_TEST_CTL 0).off then some (pltTestCtlWrite who i val s)
  else if b = (R.PLT_COLL_CTL 0).off then some (collCtlWrite who i val s)
  else if b = (R.PLT_COLL_BOX 0).off ∨ b = (R.PLT_COLL_SRC 0).off ∨ b = (R.PLT_COLL_DST 0).off ∨
      b = (R.PLT_COLL_NOTIFY 0).off then some (collRegWrite who i ⟨r.off, r.desc.rst⟩ val s)
  else if b = R.QOS_CNT_CLEAR.off then some (if bitAt val 0 then qosCntClear who s else s)
  else if b = (R.QOS_RES_CFG 0).off then some (qosResCfgWrite who i val s)
  else if b = (R.QOS_BW 0 0).off then
    some (if r.mask &&& lowHalf = 0 then s
      else if s.privWriter who then qosGuarWrite i j (val % 2 ^ 32) s else ignoredWrite who r.off s)
  else if b = (R.QOS_TEN_CTL 0).off then some (qosTenCtlWrite who i val s)
  else if b = (R.QOS_LAT_CFG 0 0).off then some (latCfgWrite who i j val s)
  else none

/-- Writes of the foremen's and the power block (R28, R416, R417). -/
def mgmtBlockWrite (who : Who) (r : CtlRef) (val : Nat) (s : State) : Option State :=
  let b := r.desc.base
  if b = R.FMN_SEAM_CHANGED.off then
    some (if who = .pf0 ∧ s.whoOpen who then
        setFld R.FMN_SEAM_CHANGED F.FMN_SEAM_CHANGED_LINK (s.reg R.FMN_SEAM_CHANGED &&& (val ^^^ allBits)) s
      else ignoredWrite who r.off s)
  else if b = R.FMN_FUSE_PROG.off then some (fuseProgWrite who val s)
  else if b = R.PWR_CAP_CFG.off then some (capWrite who val s)
  else if b = R.PWR_THERM_CFG.off then some (thermWrite who val s)
  else if b = (R.PWR_HALF_CTL 0).off then some (halfCtlWrite who (r.ix.getD 0 0) val s)
  else none

/-- R5, R7: the value that a write of some bits of a register presents to the register's checks: the half written, and the
kept fields of the other half. -/
def State.mergeWrite (s : State) (r : CtlRef) (val : Nat) : Nat :=
  let data := if r.mask = highHalf then val % 2 ^ 32 * 2 ^ 32 else val &&& r.mask
  let kept := s.reg ⟨r.off, r.desc.rst⟩ &&& r.desc.bits (fun a => a == .rw || a == .rwl) &&& (r.mask ^^^ allBits)
  (data ||| kept) &&& r.desc.bits (· != .ro)

/-- R5, R7: a write to a register. One that reaches no field that a write acts on has no effect. -/
def regWrite (who : Who) (r : CtlRef) (data : Nat) (s : State) : State :=
  let val := s.mergeWrite r data
  if r.mask &&& r.desc.bits (· != .ro) = 0 then s
  else ((crewWrite who r val s).orElse fun _ => (engBlockWrite who r val s).orElse fun _ =>
    (memBlockWrite who r val s).orElse fun _ => (hostBlockWrite who r val s).orElse fun _ =>
    (portBlockWrite who r val s).orElse fun _ => mgmtBlockWrite who r val s).getD s

/-- R264: a write to a function's MSI-X table; the pending-bit array takes none. A vector that is no longer masked sends
what was pending. -/
def msixWrite (who : Who) (f off mask val : Nat) (table : Bool) (s : State) : State :=
  if !s.fnWriter f who then ignoredWrite who off s
  else if !table then s
  else
    let r : Reg := if off % 16 = 8 then ⟨off, (msixData f 0).rst⟩ else ⟨off, 0⟩
    let data := if mask = highHalf then val % 2 ^ 32 * 2 ^ 32 else val &&& mask
    let v := data ||| (s.reg r &&& (mask ^^^ allBits))
    flushMsix f (setReg r (if off % 16 = 8 then bitsOf v 32 0 else v / 4 * 4) s)

/-- R395: the gate lets a foreman's write to PWR_HALF_CTL of its own half through. -/
def gateExempt (who : Who) (off : Nat) : Bool :=
  match who with
  | .foreman f => off == (R.PWR_HALF_CTL f).off
  | _ => false

/-- R7, R264, R395: a write of `width` bytes at a control offset. -/
def ctlWrite (who : Who) (off width val : Nat) (s : State) : State :=
  if !s.whoOpen who && !gateExempt who off then stopWrite who s
  else if (mirrorOf off).isSome then ignoredWrite who off s
  else match ctlAt off width with
  | .bad => badAccess off width s
  | .reserved => s
  | .msix f o mask table => msixWrite who f o mask val table s
  | .reg r => regWrite who r val s

/-- R263: a VF reaches its own function page only. -/
def whoReaches (who : Who) (off : Nat) : Bool :=
  match who with
  | .vf v => (fnPage off).any fun p => p.1 == 1 + v.val
  | _ => true

/-- R5 to R9: REGISTER_WRITE. -/
def execRegisterWrite (who : Who) (off : Nat) (width : Nat) (val : BitVec 64) (s : State) :
    Host.Outcome State Fault Refusal :=
  .next (if whoReaches who off then ctlWrite who off width val.toNat s else s)

/-- R71: COUNTER_LOW_READ. -/
def execCounterLowRead (off : Nat) (s : State) : Host.Outcome State Fault Refusal :=
  .next (match ctlAt off 4 with
    | .reg r => if r.desc.latch && r.mask == lowHalf then (latchRead r (s.view r) s).2 else s
    | _ => s)

end Sys2Proof.Machine
end

