-- ==== Sys2Proof/Machine/Engines.lean ====
section
/-! DEFINITION. Trams and hoists (spec/09): the checks of a descriptor (R244), what each descriptor does (R247 to R256),
its notifications and completion (R250), and aborts (R257). Object operations are in ObjEngine. -/

namespace Sys2Proof.Machine

/-! ### The checks of R244 -/

/-- R239: the operations an engine accepts. -/
def opAllowed (e op : Nat) : Bool :=
  if e < 320 then [0x01, 0x02, 0x03, 0x10, 0x11, 0x12, 0x30, 0x31].contains op || (hdieTram e && op == 0x20)
  else [0x01, 0x11, 0x12, 0x30, 0x31, 0x40, 0x41].contains op

/-- R241: SRC, of an operation that has one, lies in host space. -/
def srcHost (d : List Byte) : Bool := [0x01, 0x03, 0x10, 0x11, 0x12].contains (dOp d) && dSrcSpace d == 1
/-- R241: DST, of an operation that has one, lies in host space. -/
def dstHost (d : List Byte) : Bool := [0x01, 0x02, 0x03, 0x10, 0x11, 0x12].contains (dOp d) && dDstSpace d == 1
/-- R244: a space field of the descriptor is 1. -/
def namesHost (d : List Byte) : Bool := dSrcSpace d == 1 || dDstSpace d == 1

/-- Check 3: a reserved or out-of-range value of a defined field of the descriptor. -/
def fieldBad (d : List Byte) : Bool :=
  let op := dOp d
  let cls := dsc d 46 1
  decide (dSwap d > 5) || decide (dSrcSpace d > 1) || decide (dDstSpace d > 1) ||
  (dSwap d != 0 && op != 1 && op != 3) || bitAt (dsc d 40 4) 31 ||
  ((dFlag d 0 || dFlag d 1) && dsc d 32 8 == 0) ||
  (namesHost d && decide (dFunction d > 256)) ||
  (op == 0x10 && decide (dsc d 44 1 > 1)) ||
  (op == 0x20 && (decide (dsc d 44 1 > 6) || decide (dsc d 45 1 > 4) ||
    (dsc d 44 1 == 0 && (decide (cls % 8 > 4) || (bitAt cls 3 && bitAt cls 5))))) ||
  (op == 0x30 && (decide (dsc d 44 1 > 3) || decide (dsc d 45 1 > 1) ||
    (dsc d 45 1 == 1 && (dsc d 44 1 != 2 || dsc d 16 8 != 2 ^ 64 - 1 || spaceOf (dsc d 8 8) == .control)))) ||
  (op == 0x31 && dLen d == 0) || (op == 0x40 && decide (dsc d 44 1 > 15))

/-- Check 4: a host space, or an OBJECT, that the engine or its owner may not use. -/
def State.rightsBad (s : State) (e : Nat) (d : List Byte) : Bool :=
  let root := s.engOwnerKind e == 0 && s.ctxPriv (s.engOwner e)
  (namesHost d && (!hdieTram e || !(root || s.engOwnerKind e == 1))) ||
  (dOp d == 0x20 && !(root || s.engOwnerKind e == 3))

/-- R249: the bytes of a SWAP unit. -/
def swapUnit (sw : Nat) : Nat := [1, 2, 4, 8, 4, 8].getD sw 1

/-- Check 5: a length or address off its boundary. -/
def alignBad (d : List Byte) : Bool :=
  let op := dOp d
  ((op == 1 || op == 3) && dLen d % swapUnit (dSwap d) != 0) || (op == 0x30 && dsc d 8 8 % 8 != 0) ||
  (op == 0x10 && dLen d % 4096 != 0) || (op == 0x31 && dsc d 8 8 % 64 != 0) || dsc d 24 8 % 64 != 0

/-- Check 6: a third active loop. -/
def State.loopBad (s : State) (e : Nat) (d : List Byte) : Bool :=
  dOp d == 0x31 && (mapFind (s.eng e).loops (s.reg (engCur e))).isNone && decide ((s.eng e).loops.length ≥ 2)

/-- R17: the crew or H-die of the instance whose block holds a control offset, where it is absent. -/
def State.ctlAbsent (s : State) (o : Nat) : Bool :=
  let inst (base step n per : Nat) : Bool := decide (base ≤ o) && decide (o < base + n * step) && !s.crewUp ((o - base) / step / per)
  inst 0x1000000 0x1000 192 3 || inst 0x2000000 0x1000 64 1 || inst 0x3000000 0x4000 256 4 ||
  let half (base step n : Nat) : Bool := decide (base ≤ o) && decide (o < base + 2 * n * step) && !s.dieUp (4 + (o - base) / step / n)
  let mem (base first n : Nat) : Bool := decide (base ≤ o) && decide (o < base + n * 0x1000) && s.memAbsent (first + (o - base) / 0x1000)
  inst 0x4000000 0x1000 192 3 || inst 0x5000000 0x1000 64 1 || inst 0xC000000 0x1000 256 4 ||
  half 0xC100000 0x1000 32 || half 0x9000000 0x1000 1 || half 0xD000000 0x1000000 1 || half 0xF010000 0x1000 8 ||
  mem 0xA000000 0 16 || mem 0xB000000 16 12

/-- R17: a part address that names an absent instance: a tile-store slice, a stack, or the block of a unit. -/
def State.namesAbsent (s : State) (a : Nat) : Bool :=
  match spaceOf a with
  | .t0 => decide (spaceOff a < 2 ^ 30) && !s.crewUp (spaceOff a / 2 ^ 24)
  | .t1 => decide (spaceOff a < 16 * stackBytes) && s.memState (stackOf (spaceOff a)) == 7
  | .control => s.ctlAbsent (spaceOff a)
  | _ => false

/-- The part addresses that a descriptor and its pass block name. -/
def State.namedAddrs (s : State) (e : Nat) (d : List Byte) : List Nat :=
  let op := dOp d
  let len := dLen d != 0
  let src := (op == 1 || op == 3 || op == 0x10) && len || op == 0x11 || op == 0x12
  let dst := (op == 1 || op == 2 || op == 3 || op == 0x10) && len || op == 0x11 || op == 0x12
  (if src && !srcHost d then [s.dSrc e d] else []) ++ (if dst && !dstHost d then [s.dDst e d] else []) ++
  (if op == 0x11 || op == 0x12 then [dsc d 48 8] else []) ++
  (if op == 0x12 then [leAt (((s.eng e).block).getD []) 16 8] else []) ++
  (if op == 0x20 && [0, 1, 4, 6].contains (dsc d 44 1) && decide (dsc d 45 1 < 3) then [dsc d 16 8] else []) ++
  (if op == 0x30 || op == 0x31 || op == 0x40 then [dsc d 8 8] else []) ++
  (if dFlag d 0 || dFlag d 1 then [dsc d 32 8] else []) ++ (if dsc d 24 8 != 0 then [dsc d 24 8] else [])

/-- R254: TILES of a pass block is out of range. -/
def blockBad (b : List Byte) : Bool := leAt b 0 4 == 0 || decide (leAt b 0 4 > 65536)

/-- R244: the number of the first of checks 1 to 3 that a descriptor fails before its pass block is read, or 0. -/
def firstChecks (e : Nat) (d : List Byte) : Nat :=
  if dsc d 1 1 / 16 ≠ 1 then 1
  else if !opAllowed e (dOp d) then 2
  else if fieldBad d then 3
  else 0

/-- R244: the number of the first check that the fetched descriptor fails, or 0. -/
def State.engCheck (s : State) (e : Nat) (d : List Byte) : Nat :=
  if firstChecks e d ≠ 0 then firstChecks e d
  else if (((s.eng e).block).map blockBad).getD false then 3
  else if s.rightsBad e d then 4
  else if alignBad d then 5
  else if s.loopBad e d then 6
  else if (s.namedAddrs e d).any s.namesAbsent then 7
  else 0

/-! ### Running a descriptor -/

/-- R246: halt on a failed access. -/
def engFail (e status detail dir addr : Nat) (s : State) : State := engHaltAt e status detail dir addr s

/-- R244: a fetched descriptor, with its pass block, is checked; it then runs. -/
def engChecks (e : Nat) (d : List Byte) (s : State) : State :=
  let k := s.engCheck e d
  if k = 0 then updEng e (fun x => { x with checked := true }) s else engHalt e St.badCommand k s

/-- R244, R254: check a fetched descriptor; a pass's block is read for check 3. -/
def engAdmit (e : Nat) (d : List Byte) (s : State) : State :=
  if firstChecks e d ≠ 0 ∨ (dOp d ≠ 0x11 ∧ dOp d ≠ 0x12) then engChecks e d s
  else match engGather e 2 (dsc d 48 8) 64 .other s with
  | (.wait, s) => s
  | (.fail st x, s) => engFail e st 0 1 x s
  | (.ok b, s) => engChecks e d (updEng e (fun x => { x with block := some b }) s)

/-- R243: DESCRIPTOR_FETCH. -/
def execDescriptorFetch (e : Fin 384) (s : State) : Host.Outcome State Fault Refusal :=
  .next (if !s.engActive e 1 || (s.eng e).checked then s
    else match (s.eng e).desc with
    | some d => engAdmit e d s
    | none =>
      let a := s.reg (engCur e)
      if spaceOf a == .drift then engHaltAt e St.busError 0 3 a s
      else match engRead e a 64 .other s with
      | (.wait, s) => s
      | (.fail st x, s) => engHaltAt e st 0 3 x s
      | (.ok bs, s) => engAdmit e bs (updEng e (fun x => { x with desc := some bs }) s))

/-- Run the effect of a fetched descriptor of an operation. -/
def runDesc (e op : Nat) (f : List Byte → State → State) (s : State) : State :=
  if s.engActive e 1 && (s.eng e).checked && !(s.eng e).acted && dOp (s.engDesc e) == op then
    f (s.engDesc e) s
  else s

/-- The effect is done; the chain goes on at NEXT. -/
def engDone (e status detail : Nat) (s : State) : State := engActed e status detail (dsc (s.engDesc e) 24 8) s

/-- Bytes written, counted. -/
def countBytes (e n : Nat) (s : State) : State := bump (engR R.TRM_CNT_BYTES R.HST_CNT_BYTES e) n s

/-- R279: a host access fails. -/
def hostFail (e detail dir addr : Nat) (s : State) : State :=
  engFail e St.busError detail dir addr (bump R.HP0_CNT_CPL_ERR 1 s)

/-- R245: destination bytes whose reads succeeded can have been written before a halt: each piece freely. -/
def spill (e dst : Nat) (ps : List (Nat × List Byte)) (s : State) : State :=
  if spaceOf dst == .drift then s
  else ps.foldl (fun s p =>
    let (b, s) := freshBool s
    if !b then s
    else match engWrite e (dst + p.1) p.2 .dataWrite s with
    | (.ok _, s) => countBytes e p.2.length s
    | _ => s) s

/-- R242: DETAIL of a failed access at a byte of a descriptor's range: only an operation with a LEN has an offset. -/
def lenDetail (d : List Byte) (off : Nat) : Nat := if [0x01, 0x02, 0x03, 0x10].contains (dOp d) then off else 0

/-- What an engine has of a range: its bytes, or the state to answer with. -/
inductive Got where
  | go (bs : List Byte) (s : State)
  | stop (s : State)

/-- R247, R279: bring in a range of a side of a descriptor; `lost` is what a failure leaves behind, given the bytes before
it, and `det` the DETAIL of a failure at a byte of the range. -/
def engFetch (e side : Nat) (host : Bool) (r : HostRead) (a n : Nat) (det : Nat → Nat) (lost : List Byte → State → State)
    (s0 : State) : Got :=
  let d := s0.engDesc e
  if host then
    if !s0.engHostOk d then .stop (hostFail e 0 1 a s0)
    else match r with
    | .data bs => if bs.length < n then .stop s0 else .go (bs.take n) (hostReads (dFunction d) a n s0)
    | .error k =>
      if k ≥ n then .stop s0
      else
        let (bs, s) := freshBytes k (hostReads (dFunction d) a n s0)
        .stop (hostFail e (det k) 1 (a + k) (lost bs s))
  else match engGather e side a n .dataRead s0 with
  | (.ok bs, s) => .go bs s
  | (.wait, s) => .stop s
  | (.fail st x, s) =>
    let have_ := if spaceOf a == .drift then mapGet (s0.eng e).bufs side []
      else match (engRead e a (x - a) .dataRead s).1 with
      | .ok bs => bs
      | _ => []
    .stop (engFail e st (det (x - a)) 1 x (lost have_ s))

/-- R247, R248: put bytes at the destination, then go on; `det` is the DETAIL of a failure at a byte of them. -/
def engStore (e : Nat) (host : Bool) (a : Nat) (bs : List Byte) (det : Nat → Nat) (s : State) (k : State → State) : State :=
  let d := s.engDesc e
  if host then
    if !s.engHostOk d then hostFail e (det 0) 2 a s
    else k (countBytes e bs.length (hostStream (dFunction d) a bs s))
  else match engScatter e a bs .dataWrite s with
  | (.ok _, s) => k (countBytes e bs.length s)
  | (.wait, s) => s
  | (.fail st x, t) =>
    engFail e st (det (x - a)) 2 x (spill e a ((piecesOf bs.length).map fun p => (p.1, (bs.drop p.1).take p.2)) t)

/-! ### COPY, CFILL and COMPARE -/

/-- R249: where byte `k` of a unit comes from. -/
def swapFrom (sw k : Nat) : Nat :=
  match sw with
  | 1 => 1 - k
  | 2 => 3 - k
  | 3 => 7 - k
  | 4 => k ^^^ 2
  | 5 => 6 - 2 * (k / 2) + k % 2
  | _ => k

/-- R249: SWAP applied to each unit of source bytes. -/
def swapBytes (sw : Nat) (bs : List Byte) : List Byte :=
  if sw = 0 then bs
  else (chunksOf (swapUnit sw) bs).flatMap fun c => (List.range c.length).map fun k => c.getD (swapFrom sw k) 0

/-- R245: the pieces of a COPY whose source reads succeed though another failed. -/
def State.goodPieces (s : State) (e : Nat) (d : List Byte) (host : Bool) (have_ : List Byte) : List (Nat × List Byte) :=
  let n := dLen d
  let a := s.dSrc e d
  if host || spaceOf a == .drift then
    (piecesOf (have_.length / swapUnit (dSwap d) * swapUnit (dSwap d))).map fun p =>
      (p.1, swapBytes (dSwap d) ((have_.drop p.1).take p.2))
  else (piecesOf n).filterMap fun p =>
    match (engRead e (a + p.1) p.2 .dataRead s).1 with
    | .ok bs => some (p.1, swapBytes (dSwap d) bs)
    | _ => none

/-- R247: COPY. -/
def execEngCopy (e : Fin 384) (host : HostRead) (s : State) : Host.Outcome State Fault Refusal :=
  .next (runDesc e 1 (fun d s0 =>
    let n := dLen d
    let dst := s0.dDst e d
    if n = 0 then engDone e St.ok 0 s0
    else
      let lost (bs : List Byte) (s : State) : State :=
        if dstHost d then s else spill e dst (s.goodPieces e d (srcHost d) bs) s
      match engFetch e 0 (srcHost d) host (s0.dSrc e d) n id lost s0 with
      | .stop s => s
      | .go bs s => engStore e (dstHost d) dst (swapBytes (dSwap d) bs) id s (engDone e St.ok 0)) s)

/-- R247: the bytes of a CFILL: byte j is byte (j mod 8) of PATTERN. -/
def patternBytes (p n : Nat) : List Byte := (List.range n).map fun j => BitVec.ofNat 8 (p >>> (8 * (j % 8)))

/-- R247: CFILL. -/
def execEngCfill (e : Fin 384) (s : State) : Host.Outcome State Fault Refusal :=
  .next (runDesc e 2 (fun d s0 =>
    if dLen d = 0 then engDone e St.ok 0 s0
    else engStore e (dstHost d) (s0.dDst e d) (patternBytes (dsc d 48 8) (dLen d)) id s0 (engDone e St.ok 0)) s)

/-- The first place at which two byte strings differ. -/
def firstDiff (a b : List Byte) : Option Nat := (a.zip b).findIdx? fun p => p.1 != p.2

/-- R247: COMPARE. -/
def execEngCompare (e : Fin 384) (src dst : HostRead) (s : State) : Host.Outcome State Fault Refusal :=
  .next (runDesc e 3 (fun d s0 =>
    let n := dLen d
    if n = 0 then engDone e St.ok 0 s0
    else match engFetch e 0 (srcHost d) src (s0.dSrc e d) n id (fun _ s => s) s0 with
    | .stop s => s
    | .go a s1 =>
      match engFetch e 1 (dstHost d) dst (s1.dDst e d) n id (fun _ s => s) s1 with
      | .stop s => s
      | .go b s => match firstDiff (swapBytes (dSwap d) a) b with
        | some k => engDone e St.compareMismatch k s
        | none => engDone e St.ok 0 s) s)

/-! ### CODEC, PROOF and ENCODE -/

/-- R140, R253: bytes from the base of an index of `n` entries to its frame area. -/
def areaOffset (n : Nat) : Nat := (8 * n + 31) / 32 * 32

/-- R242, R253: the offset within LEN of a byte of a frame side: that of the page whose index word or frame holds it. -/
def frameDetail (idx : List Nat) (o : Nat) : Nat :=
  let holds (i : Nat) : Bool :=
    let en := indexEntry (idx.getD i 0)
    let lo := areaOffset idx.length + 32 * en.offset
    decide (lo ≤ o) && decide (o < lo + max 64 en.length)
  if o < 8 * idx.length then 4096 * (o / 8) else 4096 * ((List.range idx.length).find? holds).getD 0

/-- Put an index and its frame area at a base: `stage` 1 once the index is put. -/
def putFrames (e base : Nat) (idx : List Nat) (area : List Byte) (s : State) (k : State → State) : State :=
  let d := s.engDesc e
  let det (o : Nat) : Nat := lenDetail d (frameDetail idx o)
  let rest (s : State) : State :=
    engStore e (dstHost d) (base + areaOffset idx.length) area (fun o => det (areaOffset idx.length + o)) s k
  if (s.eng e).stage = 1 then rest s
  else engStore e (dstHost d) base (idx.flatMap (leBytes 8)) det s fun s =>
    rest (updEng e (fun x => { x with stage := 1, pos := 0 }) s)

/-- R141, R147, R253: the index words and frame area of pages. -/
def encodePages (pages : List (List Byte)) : List Nat × List Byte :=
  pages.foldl (fun (p : List Nat × List Byte) page =>
    let f := encodePage page 0
    let area := p.2 ++ List.replicate ((32 - p.2.length % 32) % 32) 0
    (p.1 ++ [indexWord { codec := (frameHdr f).codec, zero := false, valid := true, length := f.length,
                         offset := area.length / 32 }], area ++ f)) ([], [])

/-- R245: what a pass that failed can have written of an index and a frame area. -/
def spillFrames (e base n : Nat) (idx area : List Byte) (s : State) : State :=
  let cut (bs : List Byte) := (piecesOf bs.length).map fun p => (p.1, (bs.drop p.1).take p.2)
  spill e (base + areaOffset n) (cut area) (spill e base (cut idx) s)

/-- R253: CODEC with DIR 0. -/
def codecEncode (e : Nat) (src : HostRead) (d : List Byte) (s0 : State) : State :=
  let lost (bs : List Byte) (s : State) : State :=
    let (idx, area) := encodePages (chunksOf 4096 (bs.take (bs.length / 4096 * 4096)))
    if dstHost d then s else spillFrames e (s.dDst e d) (dLen d / 4096) (idx.flatMap (leBytes 8)) area s
  match engFetch e 0 (srcHost d) src (s0.dSrc e d) (dLen d) id lost s0 with
  | .stop s => s
  | .go bs s =>
    let (idx, area) := encodePages (chunksOf 4096 bs)
    putFrames e (s0.dDst e d) idx area s (engDone e St.ok ((area.length + 31) / 32))

/-- R151: bytes from a frame's start to the end of its slice; a frame outside T0 has none. -/
def frameRoom (a : Nat) : Nat := if spaceOf a == .t0 then sliceSize - a % sliceSize else 2 ^ 32

/-- A frame side: part memory, or what host reads brought of it and whether the next byte failed. -/
inductive FrameSide where
  | part
  | host (bs : List Byte) (cut : Bool)

/-- R253, R279: read bytes of a frame side that begins at `base`. -/
def sideRead (e key : Nat) (side : FrameSide) (base off n : Nat) (s : State) : EAns (List Byte) × State :=
  match side with
  | .part => engGather e key (base + off) n .dataRead s
  | .host bs cut =>
    if off + n ≤ bs.length then (.ok (sliceBytes bs off n), s)
    else if cut then (.fail St.busError (base + bs.length), s)
    else (.wait, s)

/-- What the decoding of a frame gives: its page, not yet, a damaged frame, or a failed read. -/
inductive PageDecode where
  | page (bs : List Byte)
  | wait
  | damaged
  | fail (status addr : Nat)

/-- R153, R253: read and decode page `i` of a frame side at `base`. -/
def decodePage (e : Nat) (side : FrameSide) (base pages i : Nat) (idx : List Byte) (s : State) : PageDecode × State :=
  let en := indexEntry (leAt idx (8 * i) 8)
  let off := areaOffset pages + 32 * en.offset
  let a := base + off
  let host : Bool := match side with | .part => false | .host _ _ => true
  let hard := s.ms.failed.contains (.engine e)
  if !en.valid then (.damaged, s)
  else match sideRead e (2 + i) side base off (max 64 en.length) s with
  | (.wait, s) => (.wait, s)
  | (.fail st x, s) =>
    if st = St.objectLost ∧ !hard ∧ !host ∧ spaceOf a != .drift then (.damaged, s) else (.fail st x, s)
  | (.ok bs, s) =>
    if (frameDamage .bdz bs (if host then 2 ^ 32 else frameRoom a) (some en) false).isSome then (.damaged, s)
    else (.page (bdzDecode (frameHdr bs) (sliceBytes bs 64 (frameHdr bs).length)), s)

/-- R253: decode the pages in order; the first that does not decode ends the pass. -/
def decodePages (e : Nat) (side : FrameSide) (base pages : Nat) (idx : List Byte) :
    Nat → Nat → List Byte → State → List Byte × Option (Nat × PageDecode) × State
  | 0, _, acc, s => (acc, none, s)
  | k + 1, i, acc, s =>
    match decodePage e side base pages i idx s with
    | (.page bs, s) => decodePages e side base pages idx k (i + 1) (acc ++ bs) s
    | (r, s) => (acc, some (i, r), s)

/-- R253: CODEC with DIR 1, its frame side brought in as far as it is. -/
def codecDecode (e : Nat) (side : FrameSide) (d : List Byte) (s0 : State) : State :=
  let n := dLen d / 4096
  let base := s0.dSrc e d
  let dst := s0.dDst e d
  let fail (st det a : Nat) (s : State) : State := match side with
    | .part => engFail e st det 1 a s
    | .host _ _ => if st = St.damagedBlock then engFail e st det 1 a s else hostFail e det 1 a s
  match sideRead e 0 side base 0 (8 * n) s0 with
  | (.wait, s) => s
  | (.fail st x, s) => fail st (4096 * ((x - base) / 8)) x s
  | (.ok idx, s) =>
    let (out, bad, s) := decodePages e side base n idx n 0 [] s
    let left (s : State) : State :=
      if dstHost d then s else spill e dst ((chunksOf 4096 out).zipIdx.map fun p => (4096 * p.2, p.1)) s
    match bad with
    | none => engStore e (dstHost d) dst out id s (engDone e St.ok 0)
    | some (i, r) => match r with
      | .page _ => s
      | .wait => s
      | .damaged =>
        fail St.damagedBlock (4096 * i) (base + areaOffset n + 32 * (indexEntry (leAt idx (8 * i) 8)).offset) (left s)
      | .fail st x => fail st (4096 * i) x (left s)

/-- R253: CODEC with DIR 1: its frame side is part memory, or host memory. -/
def codecFrom (e : Nat) (src : HostRead) (d : List Byte) (s : State) : State :=
  if !srcHost d then codecDecode e .part d s
  else if !s.engHostOk d then hostFail e 0 1 (s.dSrc e d) s
  else match src with
  | .data bs => codecDecode e (.host bs false) d (hostReads (dFunction d) (s.dSrc e d) bs.length s)
  | .error k =>
    let (bs, s) := freshBytes k (hostReads (dFunction d) (s.dSrc e d) (k + 1) s)
    codecDecode e (.host bs true) d s

/-- R136, R253: CODEC. -/
def execEngCodec (e : Fin 384) (src : HostRead) (s : State) : Host.Outcome State Fault Refusal :=
  .next (runDesc e 0x10 (fun d s =>
    if dLen d = 0 then engDone e St.ok 0 s
    else if dsc d 44 1 = 0 then codecEncode e src d s else codecFrom e src d s) s)

/-- R254: TILES and the element format of a descriptor's pass block. -/
def passRun (e : Nat) (k : List Byte → Nat → Fmt → State → State) (s : State) : State :=
  let b := ((s.eng e).block).getD []
  k b (leAt b 0 4) (if bitAt (leAt b 4 1) 0 then .int4 else .int8) s

/-- R81: the tiles of a tensor's bytes. -/
def tilesOf (el : Fmt) (bs : List Byte) : List (List (List Int)) := (chunksOf (rawTileBytes el) bs).map (expandRaw el)

/-- Write a short range of part memory, piece by piece where it is drift memory. -/
def engPoke (e : Nat) : Nat → Nat → List Byte → State → EAns Unit × State
  | 0, _, _, s => (.ok (), s)
  | k + 1, a, bs, s =>
    if bs.isEmpty then (.ok (), s)
    else
      let m := if spaceOf a == .drift then driftPiece a bs.length else bs.length
      match engWrite e a (bs.take m) .other s with
      | (.ok _, s) => engPoke e k (a + m) (bs.drop m) s
      | r => r

/-- R254: a pass has put its result; its report is kept until it is written, in `stage` 2. -/
def keepReport (e : Nat) (report : List Byte) (s : State) : State :=
  updEng e (fun x => { x with stage := 2, pos := 0, bufs := mapPut [] 4 report }) s

/-- R254: write the report, once the last frame's write has its response. -/
def passReport (e : Nat) (d : List Byte) (s : State) : State :=
  let report := mapGet (s.eng e).bufs 4 []
  if s.engWritesOut e then s
  else match (s.eng e).failed with
  | some st => engFail e st.1 0 2 st.2 s
  | none => match engPoke e 32 (dsc d 48 8 + 32) report s with
    | (.ok _, s) => engDone e St.ok 0 s
    | (.wait, _) => s
    | (.fail st x, t) => engFail e st 0 2 x t

/-- R156: the element format, whether the starter has 4 096 entries, and SAMPLE_SHIFT of a pass block. -/
def passParam (b : List Byte) : Fmt × Bool × Nat :=
  let p := leAt b 4 1
  (if bitAt p 0 then .int4 else .int8, bitAt p 1, bitsOf p 7 5)

/-- R157: PROOF. -/
def execEngProof (e : Fin 384) (src : HostRead) (s : State) : Host.Outcome State Fault Refusal :=
  .next (runDesc e 0x11 (fun d s => passRun e (fun b n el s =>
    if (s.eng e).stage = 2 then passReport e d s
    else match engFetch e 0 (srcHost d) src (s.dSrc e d) (n * rawTileBytes el) (lenDetail d) (fun _ s => s) s with
    | .stop s => s
    | .go bs s =>
      let (_, wide, shift) := passParam b
      let vs := tensorVectors (tilesOf el bs)
      let k := starterEntries wide
      let sample := everyNth (2 ^ shift) vs
      let starter := proofPass el vs k (leAt b 5 1 % 16 + 1) shift
      let report := leBytes 4 sample.length ++ leBytes 4 (min sample.eraseDups.length (k - 1))
      engStore e (dstHost d) (s.dDst e d) (starter.flatMap (packElems el)) (lenDetail d) s fun s =>
        passReport e d (keepReport e report s)) s) s)

/-- R158: ENCODE. -/
def execEngEncode (e : Fin 384) (src : HostRead) (s : State) : Host.Outcome State Fault Refusal :=
  .next (runDesc e 0x12 (fun d s => passRun e (fun b n el s =>
    let (_, wide, _) := passParam b
    let dst := s.dDst e d
    if (s.eng e).stage = 2 then passReport e d s
    else match engGather e 3 (leAt b 16 8) (starterEntries wide * vecBytes el) .other s with
    | (.wait, s) => s
    | (.fail st x, t) => engFail e st 0 1 x t
    | (.ok sb, s) =>
      let enc (bs : List Byte) := encodeTensor wide el (starterOf el sb) (leAt b 6 2) (leAt b 8 4) (tilesOf el bs)
      let lost (bs : List Byte) (s : State) : State :=
        let (area, idx, _) := enc (bs.take (bs.length / rawTileBytes el * rawTileBytes el))
        if dstHost d then s else spillFrames e dst n (idx.flatMap (leBytes 8)) area s
      match engFetch e 0 (srcHost d) src (s.dSrc e d) (n * rawTileBytes el) (lenDetail d) lost s with
      | .stop s => s
      | .go bs s =>
        let (area, idx, r) := enc bs
        let report := leBytes 4 r.zero ++ leBytes 4 r.raw ++ leBytes 4 r.vq ++ leBytes 4 r.escapes ++ leBytes 8 r.framed
        putFrames e dst idx area s fun s => passReport e d (keepReport e report s)) s) s)

/-! ### WAIT -/

/-- An engine as a writer. -/
def engWho (e : Nat) : Who := if e < 320 then .tram (Fin.ofNat 320 e) else .hoist (Fin.ofNat 64 (e - 320))

/-- R251: whether the word meets the condition. -/
def waitHolds (d : List Byte) (w : Nat) : Bool :=
  let v := dsc d 48 8
  let x := w &&& dsc d 16 8
  match dsc d 44 1 with
  | 0 => x == v
  | 1 => x != v
  | 2 => decide (v ≤ x)
  | _ => decide (x < v)

/-- R251: the time limit of a WAIT has passed. -/
def State.waitOver (s : State) (e : Nat) (d : List Byte) : Bool :=
  match (s.eng e).waitAt with
  | some t => dsc d 46 2 != 0 && decide (t + 4096 * dsc d 46 2 ≤ s.nclk)
  | none => false

/-- R251: read the word of a WAIT. No hoist reads control space (R245). -/
def waitRead (e a : Nat) (s : State) : EAns (List Byte) × State :=
  if spaceOf a == .control then
    if 320 ≤ e ∨ (s.engUser e ∧ !s.rgnOk (s.engOwner e) a 8 2) then (.fail St.busError a, s)
    else
      let (v, s) := ctlRead (engWho e) (spaceOff a) 8 s
      (.ok (leBytes 8 v), s)
  else engRead e a 8 .other s

/-- R251: the condition holds: the WAIT is over. -/
def waitDone (e : Nat) (s : State) : State := engDone e St.ok 0 (setEngState e 1 s)

/-- R251, R115: subtract VALUE from a word of drift memory that read `w`, in one access. -/
def waitAmo (e a w v : Nat) (s : State) : State :=
  match s.driftCheck true a 8 with
  | some err => engFail e (errStatus err) 0 2 a s
  | none =>
    if s.driftStalls a 8 then s
    else match fabSend (.engine e) 4 2 a 16 (leBytes 8 (w - v) ++ leBytes 8 w) s with
    | none => s
    | some (_, t) =>
      let t := (writeRange (.engine e) true a (leBytes 8 (amoNew 2 (leNat (memGets t.mem a 8)) (w - v) w)) t).2
      updEng e (fun x => { x with stage := 1, bufs := mapPut x.bufs 0 (leBytes 8 w) }) t

/-- R251: the condition holds on a word and ACT is 1. -/
def waitTake (e : Nat) (d : List Byte) (w : Nat) (s : State) : State :=
  let a := dsc d 8 8
  let v := dsc d 48 8
  match s.engRefusedAt e a 8 6 .other with
  | some x => engFail e St.busError 0 2 x s
  | none =>
    if spaceOf a == .drift then waitAmo e a w v s
    else match engWrite e a (leBytes 8 (w - v)) .other s with
    | (.ok _, s) => waitDone e s
    | (.wait, _) => s
    | (.fail st x, t) => engFail e st 0 2 x t

/-- R251: the answer to the atomic access on drift memory: another word is read again. -/
def waitAnswer (e : Nat) (s : State) : State :=
  let x := s.eng e
  let clear (s : State) : State := updEng e (fun x => { x with stage := 0, reply := none, failed := none, bufs := [] }) s
  match x.failed, x.reply with
  | some st, _ => engFail e st.1 0 2 st.2 (clear s)
  | none, some bs => if bs.take 8 = (mapGet x.bufs 0 []) then waitDone e (clear s) else clear s
  | none, none => s

/-- R251: one read of a WAIT. -/
def waitPoll (e : Nat) (d : List Byte) (s : State) : State :=
  if (s.eng e).stage = 1 then waitAnswer e s
  else if s.waitOver e d then engHalt e St.engWaitTimeout 0 s
  else match waitRead e (dsc d 8 8) s with
  | (.wait, s) => s
  | (.fail st x, t) => engFail e st 0 1 x t
  | (.ok bs, s) =>
    if !waitHolds d (leNat bs) then s
    else if dsc d 45 1 = 0 then waitDone e s
    else waitTake e d (leNat bs) s

/-- R251: WAIT: its first read. -/
def execEngWait (e : Fin 384) (s : State) : Host.Outcome State Fault Refusal :=
  .next (runDesc e 0x30 (fun d s =>
    let now := s.nclk
    waitPoll e d (setEngState e 2 (updEng e (fun x => { x with waitAt := some now }) s))) s)

/-- R251: WAIT_POLL. -/
def execWaitPoll (e : Fin 384) (s : State) : Host.Outcome State Fault Refusal :=
  .next (if s.engActive e 2 then waitPoll e (s.engDesc e) s else s)

/-- R251: WAIT_TIMEOUT. -/
def execWaitTimeout (e : Fin 384) (s : State) : Host.Outcome State Fault Refusal :=
  .next (if s.engActive e 2 && s.waitOver e (s.engDesc e) &&
      !s.fabBusy (.engine e) (fun _ => true) then engHalt e St.engWaitTimeout 0 s else s)

/-! ### LOOP and STEP -/

/-- A number of 64 bits less another, modulo 2^64. -/
def sub64 (a b : Nat) : Nat := (a + 2 ^ 64 - b % 2 ^ 64) % 2 ^ 64

/-- Set SOFF, DOFF, the loop state and LOOPS of an engine. -/
def putLoops (e soff doff : Nat) (l : List (Nat × Nat)) (s : State) : State :=
  let s := setReg (engR R.TRM_SOFF R.HST_SOFF e) soff (setReg (engR R.TRM_DOFF R.HST_DOFF e) doff s)
  setFld (engStat e) F.TRM_STAT_LOOPS l.length (updEng e (fun x => { x with loops := l }) s)

/-- R252: LOOP. -/
def execEngLoop (e : Fin 384) (s : State) : Host.Outcome State Fault Refusal :=
  .next (runDesc e 0x31 (fun d s =>
    let a := s.reg (engCur e)
    let iter := dLen d
    let left := (mapFind (s.eng e).loops a).getD (iter - 1)
    let soff := s.reg (engR R.TRM_SOFF R.HST_SOFF e)
    let doff := s.reg (engR R.TRM_DOFF R.HST_DOFF e)
    if left > 0 then
      let s := putLoops e ((soff + dsc d 16 8) % 2 ^ 64) ((doff + dsc d 48 8) % 2 ^ 64) (mapPut (s.eng e).loops a (left - 1)) s
      engIdleWork e (setReg (engCur e) (dsc d 8 8) s)
    else
      let s := putLoops e (sub64 soff (dsc d 16 8 * (iter - 1))) (sub64 doff (dsc d 48 8 * (iter - 1)))
        (mapErase (s.eng e).loops a) s
      engDone e St.ok 0 s) s)

/-- R256: STEP. -/
def execHstStep (e : Fin 384) (s : State) : Host.Outcome State Fault Refusal :=
  .next (runDesc e 0x41 (fun d s =>
    let off := sextNat 32 (dLen d)
    engDone e St.ok 0 (setReg (R.HST_STEP_MARK (e.val - 320)) (((s.nclk : Int) + off).emod (2 ^ 64)).toNat s)) s)

/-! ### LFILL (R190, R256) -/

/-- R188: the slot of a layer descriptor. -/
def layerSlot (b : List Byte) (mark : Nat) : HSlot :=
  { policy := leAt b 1 1, releases := leAt b 2 2, deadline := leAt b 4 4, primary := leAt b 8 8, idxOff := leAt b 16 8,
    areaOff := leAt b 24 8, tiles := leAt b 32 4, areaLen := leAt b 36 4, standby := leAt b 40 8, sbyIdx := leAt b 48 8,
    sbyArea := leAt b 56 8, mark, missed := false, reading := false, absent := false, halted := false }

/-- R170: an operation names a handle that no operation can use: it is counted, and a malformed entry recorded (R449). -/
def staleHandle (h : Nat) (s : State) : State :=
  let i := handleIndex h
  let s := countStale s
  if s.handleShape h && objMalformed (s.objBytes i) then
    blockEventOpen R.T1C_OBJ_CAP.off s else s

/-- R188, R190: a reserved value in a layer descriptor. -/
def layerReserved (b : List Byte) (d : HSlot) : Bool :=
  leAt b 0 1 / 16 != 1 || decide (d.policy > 1) || d.releases == 0 || d.tiles == 0 || decide (d.tiles > 65536)

/-- R190: the standby's T0 copy, index and frame area lie within the crew's slice. -/
def State.standbyFits (s : State) (h : Nat) (d : HSlot) : Bool :=
  let o := s.obj (handleIndex d.standby)
  !o.holds 0 || s.standbyInSlice h o d.sbyIdx d.sbyArea d.tiles

/-- R190: the checks of a layer descriptor, past its handles. -/
def State.layerFits (s : State) (h slot : Nat) (d : HSlot) : Bool :=
  let len := 4096 * s.objLen (s.obj (handleIndex d.primary))
  decide (d.idxOff + 8 * d.tiles ≤ len) && decide (d.areaOff + d.areaLen ≤ len) &&
  decide (areaOffset d.tiles + d.areaLen ≤ s.fld (R.HST_SLOT_CFG h slot) F.HST_SLOT_CFG_SIZE) &&
  (d.standby == 0 || s.standbyFits h d)

/-- R244, check 4: a PRIV = 0 owner's layer descriptor names another tenant's object. -/
def State.layerForeign (s : State) (e : Nat) (d : HSlot) : Bool :=
  s.engUser e && (bitsOf d.primary 63 56 != s.engTenant e || (d.standby != 0 && bitsOf d.standby 63 56 != s.engTenant e))

/-- R190, R193: a fill that has been given its slot: missed deadlines and losses act before anything is read. -/
def fillBegin (h slot : Nat) (s : State) : State :=
  let s := missDeadline h slot s
  match mapFind s.slots (h * 16 + slot) with
  | none => s
  | some d =>
    if s.slotState h slot ≠ slotFilling then s
    else if (s.obj (handleIndex d.primary)).state = objLost then slotLoss h slot s
    else
      let s := fillResident h slot s
      match mapFind s.slots (h * 16 + slot) with
      | none => s
      | some d =>
        if d.reading ∨ d.absent then s
        else
          let sl := mapPut s.slots (h * 16 + slot) { d with absent := true }
          tenantEvent 0x0502 5 h (s.engTenant (320 + h)) h slot (s.slotLayer h slot) 0 { s with slots := sl }

/-- R190, R256: a new fill takes the next layer number and its slot. -/
def fillNew (h slot : Nat) (d : HSlot) (s : State) : State :=
  let n := s.reg (R.HST_LAYER_NEXT h)
  let s := setReg (R.HST_LAYER_NEXT h) ((n + 1) % 65536) s
  let s := setReg (R.HST_SLOT_STAT h slot) (n * 2 ^ 48 + slotFilling) s
  let sl := mapPut s.slots (h * 16 + slot) d
  fillBegin h slot { s with slots := sl }

/-- R190: a halted fill runs again from its first byte under its layer number; one that has ended meanwhile completes. -/
def fillAgain (h slot : Nat) (old d : HSlot) (s : State) : State :=
  let d := { d with mark := old.mark, missed := old.missed, absent := old.absent }
  if s.flag (R.HST_SLOT_STAT h slot) F.HST_SLOT_STAT_FILL_DONE then lfillOutcome h slot s
  else
    let sl := mapPut s.slots (h * 16 + slot) { d with reading := s.slotState h slot != slotFilling }
    fillBegin h slot { s with slots := sl }

/-- R190, R256: LFILL. -/
def execLfill (e : Fin 384) (s : State) : Host.Outcome State Fault Refusal :=
  .next (runDesc e 0x40 (fun d s =>
    let h := e.val - 320
    let slot := dsc d 44 1 % 16
    let old := mapFind s.slots (h * 16 + slot)
    let again : Bool := match old with | some x => x.halted | none => false
    if (s.eng e).stage = 1 ∨ (s.slotState h slot ≠ slotEmpty ∧ !again) then s
    else match engRead e (dsc d 8 8) 64 .other s with
    | (.wait, s) => s
    | (.fail st x, t) => engFail e st 0 1 x t
    | (.ok b, s) =>
      let l := layerSlot b (s.reg (R.HST_STEP_MARK h))
      if layerReserved b l then engHalt e St.badCommand 0 s
      else if !s.handleOk l.primary then engHalt e St.badCommand 0 (staleHandle l.primary s)
      else if l.standby ≠ 0 ∧ !s.handleOk l.standby then engHalt e St.badCommand 0 (staleHandle l.standby s)
      else if s.layerForeign e l then engHalt e St.badCommand 4 s
      else if !s.layerFits h slot l then engHalt e St.badCommand 0 s
      else
        let s := updEng e (fun x => { x with stage := 1 }) s
        match old with
        | some o => if again then fillAgain h slot o l s else fillNew h slot l s
        | none => fillNew h slot l s) s)

/-! ### Notifications and completion (R250) -/

/-- R250: a notification: the half one with bit 31 clear, the full one with it set. -/
def engNotify (e : Nat) (d : List Byte) (full : Bool) (s : State) : EAns Unit × State :=
  let a := dsc d 32 8
  let v := dsc d 40 4 + full.toNat * 2 ^ 31
  if spaceOf a == .control then
    if s.engUser e && !s.rgnOk (s.engOwner e) a 4 4 then (.fail St.busError a, s)
    else if s.engOwnerKind e == 3 && !s.leads then (.ok (), bump R.FMN_CNT_GATED 1 s)
    else (.ok (), ctlWrite (engWho e) (spaceOff a) 4 v s)
  else engPoke e 8 a (leBytes 4 v) s

/-- R250: a write of a notification, or of a STATUS word, has failed. -/
def tellFail (e a : Nat) (s : State) : State := engHaltAt e St.busError 0 2 a s

/-- R250, step 1: the half notification is due: its half of the destination has its responses. -/
def State.halfDue (s : State) (e : Nat) : Bool :=
  let x := s.eng e
  let d := s.engDesc e
  (dOp d == 1 || dOp d == 2) && dFlag d 0 && dLen d != 0 && !x.half && (x.acted || decide (dLen d ≤ 2 * x.pos))

/-- R250: HALF_NOTIFICATION. -/
def execHalfNotification (e : Fin 384) (s : State) : Host.Outcome State Fault Refusal :=
  .next (if s.engActive e 1 && (s.eng e).checked && s.halfDue e && (s.eng e).failed.isNone && !s.engWritesOut e then
    match engNotify e (s.engDesc e) false s with
    | (.ok _, s) => updEng e (fun x => { x with half := true }) s
    | (.wait, _) => s
    | (.fail _ a, t) => tellFail e a t
  else s)

/-- R250, R252: the engine moves past a completed descriptor. -/
def engAdvance (e : Nat) (s : State) : State :=
  let next := (s.eng e).next
  let s := engIdleWork e (bump (engR R.TRM_CNT_DESC R.HST_CNT_DESC e) 1 s)
  if next = 0 then setEngState e 0 s else setReg (engCur e) next s

/-- R250, step 4: the full notification has its response. -/
def noteAnswered (e : Nat) (d : List Byte) (s : State) : State :=
  if s.engWritesOut e then s
  else match (s.eng e).failed with
  | some _ => tellFail e (dsc d 32 8) s
  | none => engAdvance e s

/-- R250, step 3: the STATUS word has its response; the full notification is sent. -/
def statusAnswered (e : Nat) (d : List Byte) (s : State) : State :=
  if s.engWritesOut e then s
  else if !dFlag d 1 then engAdvance e s
  else match engNotify e d true s with
  | (.wait, _) => s
  | (.fail _ a, t) => tellFail e a t
  | (.ok _, t) => noteAnswered e d (updEng e (fun x => { x with told := 2 }) t)

/-- R250, step 2: every write has its response. A write that failed halts: a data write with its status, the half
notification with BUS_ERROR. -/
def writesAnswered (e : Nat) (d : List Byte) (s : State) : State :=
  let x := s.eng e
  match x.failed with
  | some (st, a) =>
    let dst := s.dDst e d
    if x.half && !(decide (dst / 64 * 64 ≤ a) && decide (a < dst + dLen d)) then tellFail e (dsc d 32 8) s
    else engHaltAt e st (lenDetail d (a - dst)) 2 a s
  | none =>
    if s.halfDue e then s
    else match putStatus e x.status x.detail s with
    | (.wait, _) => s
    | (.fail _ a, t) => tellFail e a t
    | (.ok _, t) => statusAnswered e d (updEng e (fun x => { x with told := 1 }) t)

/-- R246, R250: DESCRIPTOR_COMPLETE: a halt that waits is finished once its writes have their responses; a completed
descriptor takes steps 2 to 5, each once the writes of the one before have theirs. -/
def execDescriptorComplete (e : Fin 384) (s : State) : Host.Outcome State Fault Refusal :=
  let x := s.eng e
  let d := s.engDesc e
  .next (if !s.engRuns e || !(s.engState e == 1 || s.engState e == 2) || s.engWritesOut e then s
    else match x.halting with
    | some h => engHaltAt e h.status h.detail h.dir h.addr s
    | none =>
      if s.engState e != 1 || !x.checked || !x.acted then s
      else if x.told = 0 then writesAnswered e d s
      else if x.told = 1 then statusAnswered e d s
      else noteAnswered e d s)

/-! ### Failures and commands -/

/-- R253: the index words of a CODEC's frame side: those in memory, or those of the pages being encoded. -/
def State.codecIndex (s : State) (e : Nat) (d : List Byte) : List Nat :=
  if dsc d 44 1 = 1 then (chunksOf 8 (memGets s.mem (s.dSrc e d) (dLen d / 4096 * 8))).map leNat
  else (encodePages (chunksOf 4096 (memGets s.mem (s.dSrc e d) (dLen d)))).1

/-- R242: the byte offset within LEN of an access to an address of the descriptor's ranges, or 0. -/
def State.accessDetail (s : State) (e a : Nat) (write : Bool) : Nat :=
  let d := s.engDesc e
  let op := dOp d
  let hit (b : Nat) : Option Nat := if b ≤ a ∧ a < b + dLen d then some (a - b) else none
  let dec : Bool := op == 0x10 && dsc d 44 1 == 1
  let frames (b : Nat) : Nat := if b ≤ a then frameDetail (s.codecIndex e d) (a - b) else 0
  if !([0x01, 0x02, 0x03, 0x10].contains op) then 0
  else if write then (if op == 0x10 && !dec then frames (s.dDst e d) else (hit (s.dDst e d)).getD 0)
  else if dec then frames (s.dSrc e d)
  else ((if op == 2 then none else hit (s.dSrc e d)).orElse fun _ =>
    if op == 3 then hit (s.dDst e d) else none).getD 0

/-- R199: a read of the engine is held for repair. -/
def State.engHeld (s : State) (e : Nat) : Bool :=
  (s.ms.rcv ++ s.ms.rcvWait).any fun r => r.waiters.contains (.engine e) ||
    (decide (320 ≤ e) && r.waiters.any fun w => match w with
      | .fill h _ => h == e - 320
      | _ => false)

/-- R245: ENGINE_ACCESS_TIMEOUT. A read held for repair ends under R199, and a drift access under R206. A STATUS or
notification access, and one of a descriptor that has done its work, has DETAIL 0 (R242). -/
def execEngineAccessTimeout (e : Fin 384) (addr : BitVec 64) (write : Bool) (s : State) : Host.Outcome State Fault Refusal :=
  let a := addr.toNat
  .next (if !(s.engActive e 1 || s.engActive e 2) || s.engHeld e || spaceOf a == .drift then s
    else if (s.eng e).desc.isNone then (if write then s else engHaltAt e St.busError 0 3 a s)
    else engHaltAt e St.busError (if (s.eng e).told = 0 then s.accessDetail e a write else 0) (if write then 2 else 1) a s)

/-- R240: a write of one command bit. -/
def engOneCmd (who : Who) (e : Nat) (f : State → State) (s : State) : State :=
  if s.engMayCmd who e then f s else ignoredWrite who (engCmdOff e) s

/-- R259: GO. -/
def execEngGo (who : Who) (e : Fin 384) (s : State) : Host.Outcome State Fault Refusal :=
  .next (engOneCmd who e (engGo who e) s)
/-- R246: RESUME. -/
def execEngResume (who : Who) (e : Fin 384) (s : State) : Host.Outcome State Fault Refusal :=
  .next (engOneCmd who e (engResume who e) s)
/-- R246: SKIP. -/
def execEngSkip (who : Who) (e : Fin 384) (s : State) : Host.Outcome State Fault Refusal :=
  .next (engOneCmd who e (engSkip who e) s)
/-- R257: ABORT, as a write of CMD that sets bit 1. -/
def execEngAbort (who : Who) (e : Fin 384) (s : State) : Host.Outcome State Fault Refusal :=
  .next (engCmdWrite who e 2 s)

end Sys2Proof.Machine
end

