-- ==== Sys2Proof/Machine/ObjEngine.lean ====
section
/-! DEFINITION. The object operations of the H-die trams (R174 to R182, R200, R255, R450): each runs in stages, issued
again until its reads and writes have their answers; and the end of an abort (R257). -/

namespace Sys2Proof.Machine

/-! ### The object of an engine's descriptor -/

/-- The object's index. -/
def oIdx (d : List Byte) : Nat := handleIndex (dsc d 8 8)
/-- R255: TIER. -/
def oTier (d : List Byte) : Nat := dsc d 45 1
/-- R255: LOC. -/
def oLoc (d : List Byte) : Nat := dsc d 16 8

/-- Write an entry's STATE. -/
def setObjState (i st : Nat) (s : State) : State := putObj i { s.obj i with state := st } s

/-- Change an engine's stage, forgetting what it holds. -/
def toStage (e n : Nat) (s : State) : State :=
  let ends := s.t3.ends.filter fun x => x.owner != e
  updEng e (fun x => { x with stage := n, bufs := [], pos := 0, reply := none, failed := none })
    { s with t3 := { s.t3 with ends := ends } }

/-- R175: another engine's operation on the object, or a drain (R204), is under way. -/
def State.objBusy (s : State) (e i : Nat) : Bool :=
  s.engs.any fun p => p.1 != e && p.2.stage != 0 && !p.2.acted &&
    (match p.2.desc with
     | some d => dOp d == 0x20 && oIdx d == i
     | none => false) || s.drainBusy i

/-- What one stage of an operation does: it goes on, waits for an answer, has ended with a status, or has failed at an
address. -/
inductive ObjStep where
  | more (s : State)
  | wait (s : State)
  | done (s : State)
  | fail (status : Nat) (addr : Option Nat) (write : Bool) (s : State)

/-! ### Moving 4 KiB units -/

/-- Where units are read or written: a tier and the addresses of the units. -/
structure Place where
  tier   : Nat
  layout : Layout
deriving DecidableEq, Repr

/-- Take up a list of units. -/
def takeUnits (e : Nat) (us : List Nat) (s : State) : State :=
  updEng e (fun x => { x with bufs := us.foldl (fun m u => mapPut m u []) [], pos := 0 }) s

/-- Keep the bytes of a unit. -/
def keepUnit (e u : Nat) (bs : List Byte) (s : State) : State :=
  updEng e (fun x => { x with bufs := mapPut x.bufs u bs }) s

/-- The first unit not yet held whole. -/
def State.unread (s : State) (e : Nat) : Option (Nat × List Byte) := (s.held e).find? fun p => p.2.length < 4096

/-- R166: read the units of a T0, T1 or T2 place. -/
def loadPart (e : Nat) (p : Place) (s : State) : ObjStep :=
  (s.held e).foldl (fun r u =>
    match r with
    | .more s =>
      if u.2.length ≥ 4096 then .more s
      else
        let a := p.layout.units.getD u.1 0
        match readRange (.engine e) a 4096 s with
        | (.ok bs, s) => .more (keepUnit e u.1 bs s)
        | (.held, s) => .wait s
        | (.err x, t) => .fail (errStatus x) (some (s.readFailsAt false (.engine e) a 4096)) false t
    | r => r) (.more s)

/-- R338: read the units of a TD place, by drift reads of 512 bytes. -/
def loadDrift (e : Nat) (p : Place) (s : State) : ObjStep :=
  match s.unread e with
  | none => .more s
  | some (u, have_) =>
    match engDriftRead e (p.layout.units.getD u 0 + have_.length) 512 s with
    | (.ok bs, s) => .wait (keepUnit e u (have_ ++ bs) s)
    | (.wait, s) => .wait s
    | (.fail st a, s) => .fail st (some a) false s

/-- R195: the unit of recovery of a chunk: the stripe of a protected home, else the chunk. -/
def chunkKey (ly : Layout) (c : Nat) : UnitKey := if ly.rows.isEmpty then .t3Chunk c else .t3Stripe (c / 4 * 4)

/-- R195: the H-die that serves a chunk. -/
def chunkDie (c : Nat) : Nat := chunkPort c / 2

/-- R187: the chunks to read so that one chunk is known: itself, or the rest of its stripe where its SSD is out. -/
def State.chunkReads (s : State) (ly : Layout) (c : Nat) : List Nat :=
  if s.ssdUp (chunkPort c) || ly.rows.isEmpty then [c]
  else ((List.range 4).map fun i => c / 4 * 4 + i).filter (· != c)

/-- R187: read chunks of the deep lode: each by its SSD; what fails goes to recovery, and a chunk whose SSD is out is rebuilt
from its stripe. -/
def loadChunks (e : Nat) (ly : Layout) (cs : List Nat) (s : State) : ObjStep :=
  if s.t3.cmds.any fun c => c.owner == e then .wait s
  else match cs.find? fun c => (s.rcvOf (chunkKey ly c)).isSome with
  | some c => .wait (rcvAttach (chunkDie c) (chunkKey ly c) (.engine e) s)
  | none =>
    let got (c : Nat) : Bool := s.t3.ends.any fun x => x.owner == e && x.chunk == c && !x.write && x.ok
    let left := (cs.flatMap (s.chunkReads ly)).eraseDups.filter fun c => !got c
    if left.isEmpty then .more s
    else match left.find? s.chunkBad with
    | some c => .wait (rcvAttach (chunkDie c) (chunkKey ly c) (.engine e) s)
    | none =>
      let s := (cs.filter fun c => !s.ssdUp (chunkPort c)).foldl
        (fun s c => bump (R.T2C_RCV_CNT_DEGRADED_READ (chunkDie c)) 1 s) s
      .wait (left.foldl (fun s c => nvmeSubmit e c false [] s) s)

/-- Read the units of a T3 place. -/
def loadDeep (e : Nat) (p : Place) (s : State) : ObjStep :=
  let us := (s.held e).filter fun u => u.2.length < 4096
  if us.isEmpty then .more s
  else if us.any fun u => s.poolDeep (p.layout.units.getD u.1 0) 4096 then .fail St.busError none false s
  else match loadChunks e p.layout (us.map fun u => p.layout.units.getD u.1 0 / chunkSize).eraseDups s with
  | .more s => .more (us.foldl (fun s u => keepUnit e u.1 (memGets s.t3.cells (p.layout.units.getD u.1 0) 4096) s) s)
  | r => r

/-- Read every unit taken up, from its place. -/
def loadUnits (e : Nat) (p : Place) (s : State) : ObjStep :=
  if (s.unread e).isNone then .more s
  else if s.ms.failed.contains (.engine e) then .fail St.objectLost none false (clearFailed (.engine e) s)
  else if p.tier = 3 then loadDeep e p s
  else if p.tier = tierTD then loadDrift e p s
  else loadPart e p s

/-- R259: the bytes of the units held have been written. -/
def countUnits (e : Nat) (s : State) : State :=
  if e < 384 then countBytes e ((s.held e).map fun u => u.2.length).sum s else s

/-- Write the units held to a T0, T1 or T2 place. -/
def storePart (e : Nat) (p : Place) (mark : Bool) (s : State) : ObjStep :=
  let r : ObjStep := (s.held e).foldl (fun r u =>
    match r with
    | .more s =>
      let a := p.layout.units.getD u.1 0
      match writeRange (.engine e) mark a u.2 s with
      | (.ok, s) => .more s
      | (.stall, s) => .wait s
      | (.err x, s) => .fail (errStatus x) (some a) true s
    | r => r) (.more s)
  match r with
  | .more s => .more (countUnits e s)
  | r => r

/-- R338: write the units held to a TD place, 512 bytes at a time; `pos` counts the pieces sent. -/
def storeDrift (e : Nat) (p : Place) (mark : Bool) (s : State) : ObjStep :=
  let x := s.eng e
  match x.failed with
  | some st => .fail st.1 (some st.2) true (updEng e (fun x => { x with failed := none }) s)
  | none =>
    match x.bufs[x.pos / 8]? with
    | none => if s.fabBusy (.engine e) (fun _ => true) then .wait s else .more (countUnits e s)
    | some (u, bs) =>
      let k := x.pos % 8 * 512
      match driftPut (.engine e) mark (p.layout.units.getD u 0 + k) ((bs.drop k).take 512) s with
      | (.ok, _, s) => .wait (updEng e (fun x => { x with pos := x.pos + 1 }) s)
      | (.stall, _, s) => .wait s
      | (.err err, _, s) => .fail (errStatus err) (some (p.layout.units.getD u 0 + k)) true s

/-- R187: one write to the deep lode: by its SSD, or, where that is out and the stripe keeps the bytes, by its parity. -/
def deepWrite (e a : Nat) (bs : List Byte) (s : State) : State :=
  if s.ssdUp (chunkPort (a / chunkSize)) then nvmeSubmitAt e (a / chunkSize) (a % chunkSize) true bs s
  else
    let cells := memPuts s.t3.cells a bs
    { s with t3 := { s.t3 with cells := cells } }

/-- R186: write the parity of the 4 KiB units at one place of a stripe's chunks. -/
def deepParity (e : Nat) (cells : List Host.Cell) (row st off : Nat) (s : State) : State :=
  let d := (List.range 3).map fun k => memGets cells (row + (st + 1 + k) % 4 * chunkSize + off) 4096
  deepWrite e (row + st % 4 * chunkSize + off) (parityP 4096 d) s

/-- R185: the parity units of a T3 home that some units' writes change, as (row, stripe, offset). -/
def parityOf (ly : Layout) (as : List Nat) : List (Nat × Nat × Nat) :=
  (as.filterMap fun a =>
    (ly.rows.zipIdx.find? fun r => r.1 ≤ a && a < r.1 + 4 * chunkSize).map fun r => (r.1, r.2, a % chunkSize)).eraseDups

/-- Submit the writes of the units held to a T3 home, with their parity. -/
def submitDeep (e : Nat) (p : Place) (s : State) : State :=
  let us := (s.held e).map fun u => (p.layout.units.getD u.1 0, u.2)
  let cells := us.foldl (fun m u => memPuts m u.1 u.2) s.t3.cells
  let s := us.foldl (fun s u => deepWrite e u.1 u.2 s) s
  (parityOf p.layout (us.map (·.1))).foldl (fun s r => deepParity e cells r.1 r.2.1 r.2.2 s) s

/-- R168: whether writes to the deep lode have all their completions, and whether one failed. -/
def awaitDeep (e : Nat) (s : State) : ObjStep :=
  if s.t3.cmds.any fun c => c.owner == e then .wait s
  else if s.t3.ends.any fun x => x.owner == e && x.write && !x.ok then .fail St.busError none true s
  else .more s

/-- R187: the SSDs of a chunk's stripe that are out. -/
def State.stripeOut (s : State) : Nat := ((List.range 4).filter fun p => !s.ssdUp p).length

/-- R187: a unit on an SSD that is out can be kept only by the parity of a stripe that no other member is missing from. -/
def State.deepLost (s : State) (ly : Layout) (off : Nat) : Bool :=
  !s.ssdUp (chunkPort (off / chunkSize)) && (ly.rows.isEmpty || decide (1 < s.stripeOut))

/-- Write the units held to a T3 home. A unit that cannot be kept cannot be written; the pool's extents are refused
(R292). -/
def storeDeep (e : Nat) (p : Place) (s : State) : ObjStep :=
  let us := (s.held e).map fun u => p.layout.units.getD u.1 0
  if (s.eng e).pos = 1 then
    match awaitDeep e s with
    | .more s => .more (countUnits e s)
    | r => r
  else if us.any fun u => s.poolDeep u 4096 || s.deepLost p.layout u then .fail St.busError none true s
  else
    let s := submitDeep e p s
    if s.t3.cmds.any fun c => c.owner == e then .wait (updEng e (fun x => { x with pos := 1 }) s)
    else .more (countUnits e s)

/-- Write every unit held to its place. -/
def storeUnits (e : Nat) (p : Place) (mark : Bool) (s : State) : ObjStep :=
  if p.tier = 3 then storeDeep e p s
  else if p.tier = tierTD then storeDrift e p mark s
  else storePart e p mark s

/-- Move the units taken up from a place to another, then go on. -/
def moveUnits (e : Nat) (src dst : Place) (mark : Bool) (k : State → ObjStep) (s : State) : ObjStep :=
  match loadUnits e src s with
  | .more s => match storeUnits e dst mark s with
    | .more s => k s
    | r => r
  | r => r

/-! ### Parity of whole rows (R184 to R186) -/

/-- Write P and Q of a stripe row of T2. -/
def fixStripe (s : State) (r : Nat × Nat) : State :=
  writeParity false r.1 r.2 0 4096 s

/-- Submit the parity of every row of a T3 home. -/
def submitRows (e : Nat) (rows : List Nat) (s : State) : State :=
  rows.zipIdx.foldl (fun s r => (List.range 32).foldl (fun s k => deepParity e s.t3.cells r.1 r.2 (4096 * k) s) s) s

/-- Build the parity of every row of a home, then go on; `pos` 2 once it is submitted. -/
def buildParity (e : Nat) (p : Place) (k : State → ObjStep) (s : State) : ObjStep :=
  if p.layout.rows.isEmpty then k s
  else if p.tier = 2 then k (p.layout.rows.zipIdx.foldl fixStripe s)
  else if (s.eng e).pos = 2 then
    match awaitDeep e s with
    | .more s => k s
    | r => r
  else
    let s := updEng e (fun x => { x with pos := 2 }) (submitRows e p.layout.rows s)
    if s.t3.cmds.any fun c => c.owner == e then .wait s else k s

/-! ### Write-back (R180 to R182) -/

/-- R180, R182: clear the dirty bits of a copy's units, and take up this object's units of the same extents. -/
def takeDirty (e i tier : Nat) (s : State) : State :=
  let o := s.obj i
  let us := (s.objIn o tier).units
  let dirty := (s.dirtyUnits o tier).map fun u => us.getD u 0
  takeUnits e (s.dirtyUnits o tier) (dirty.foldl cleanUnit s)

/-- R174: the copies of an object that a write-back of everything visits, fastest first. -/
def ObjEntry.copies (o : ObjEntry) : List Nat := [1, 2, tierTD].filter fun t => o.holds t && t != o.home

/-- The stage in which the units of a tier are written back: `base` with the tier. -/
def wbStage (base tier : Nat) : Nat := base + 10 + tier

/-- R182: write back every dirty unit of some copies, one batch at a time: `base` is the stage in which none is under way. -/
def writeBack (e i base : Nat) (tiers : List Nat) (k : State → ObjStep) (s : State) : ObjStep :=
  let o := s.obj i
  let st := (s.eng e).stage
  if st = base then
    match tiers.find? fun t => !(s.dirtyUnits o t).isEmpty with
    | none => k s
    | some t => .more (takeDirty e i t (toStage e (wbStage base t) s))
  else
    let t := st - base - 10
    let low := ((o.below t).head?).getD o.home
    moveUnits e ⟨t, s.objIn o t⟩ ⟨low, s.objIn o low⟩ true (fun s => .more (toStage e base s)) s

/-! ### The end of an operation -/

/-- R174, R178: an operation that fails or is cut off leaves the object as it was, and its charge is released. -/
def objUndo (e : Nat) (d : List Byte) (s : State) : State :=
  let i := oIdx d
  let o := s.obj i
  let st := (s.eng e).stage
  let live (s : State) : State := if (s.obj i).state = objMoving then setObjState i objLive s else s
  let again (base : Nat) (s : State) : State := if st ≥ base + 10 ∧ st < base + 15 then remark e i (st - base - 10) s else s
  let s := match dsc d 44 1 with
    | 0 =>
      let home := oTier d
      let stored := mapErase s.ms.stored i
      let s := dropCharge o.tenant home (chargeOf home o.prot o.size) o.phys s
      putObj i { o with state := objFree, resident := 0 } { s with ms := { s.ms with stored := stored } }
    | 1 =>
      let s := dropCharge o.tenant (oTier d) (chargeOf (oTier d) false o.size) (s.objLen o) s
      live (putObj i (o.setLoc (oTier d) (s.eng e).detail) s)
    | 2 => live (again 100 s)
    | 3 => live (again 100 s)
    | 4 =>
      let p := s.homeLayout (oTier d) o.prot (oLoc d) (s.objLen o)
      live (again 300 (again 100 (dropCharge o.tenant (oTier d) (chargeOf (oTier d) o.prot o.size) (physOf (oTier d) p) s)))
    | 6 => if o.state = objRefilling then setObjState i objLost s else s
    | _ => s
  let cmds := s.t3.cmds.map fun c => if c.owner = e then { c with owner := orphanOwner } else c
  toStage e 0 { s with t3 := { s.t3 with cmds := cmds } }

/-- R178, R257: writes of the engine have no response yet. -/
def State.writesOut (s : State) (e : Nat) : Bool :=
  s.engWritesOut e || s.t3.cmds.any fun c => c.owner == e && c.write

/-- Run the stages of an operation until it waits, ends or fails. -/
def objPump (e : Nat) (d : List Byte) (step : State → ObjStep) : Nat → State → State
  | 0, s => s
  | k + 1, s =>
    match step s with
    | .more s => objPump e d step k s
    | .wait s => s
    | .done s => engDone e St.ok 0 (toStage e 0 s)
    | .fail st a write t =>
      -- R178: the writes that are under way retire before the charge is released
      if s.writesOut e then s
      else
      let s := objUndo e d t
      match a with
      | some a => engHaltAt e st 0 (if write then 2 else 1) a s
      | none => let (x, s) := freshWord s; engHaltAt e st 0 (if write then 2 else 1) x.toNat s

/-- An operation refused before it has changed anything. -/
def objRefuse (e status : Nat) (s : State) : State := engHalt e status 0 s

/-- R170, R174, R175: run an operation of an OBJECT descriptor: `start` is its first stage, past the handle's checks. -/
def runObj (e op : Nat) (start : List Byte → ObjEntry → State → State) (step : List Byte → State → ObjStep)
    (s : State) : State :=
  runDesc e 0x20 (fun d s =>
    let i := oIdx d
    if dsc d 44 1 ≠ op ∨ s.objBusy e i then s
    else if s.engOwnerKind e == 3 && !s.leads then engDone e St.ok 0 (bump R.FMN_CNT_GATED 1 s)
    else if (s.eng e).stage ≠ 0 then objPump e d (step d) 100 s
    else
      let s := touchObj (dsc d 8 8) s
      if !s.handleOk (dsc d 8 8) then objRefuse e St.badCommand (staleHandle (dsc d 8 8) s)
      else
      let o := s.obj i
      if o.state = objLost ∧ op < 5 then objRefuse e St.objectLost s
      else
        let s := start d o s
        if s.engState e = 1 ∧ (s.eng e).stage ≠ 0 then objPump e d (step d) 100 s else s) s

/-- The object is done with: LIVE, unless it has been lost meanwhile. -/
def objEnd (i : Nat) (s : State) (k : State → State) : ObjStep :=
  if (s.obj i).state = objLost then .fail St.objectLost none false s
  else .done (k (setObjState i objLive s))

/-! ### CREATE -/

/-- R255: whether CREATE makes the object protected. -/
def createProt (cls home : Nat) : Bool :=
  bitAt cls 3 || (cls % 8 == 1 && (home == 2 || home == 3) && !bitAt cls 5)

/-- R174: a protected home needs T2 with twelve channels in service, or T3. -/
def State.protBad (s : State) (home : Nat) (prot : Bool) : Bool :=
  prot && (home == 1 || (home == 2 && decide (((List.range 12).filter fun c => s.memState (16 + c) == 4).length < 12)))

/-- R255, R170: CREATE can be performed on the handle's entry: it is FREE, and of the handle's EPOCH. -/
def State.createOk (s : State) (h : Nat) : Bool :=
  s.handleShape h && (let i := handleIndex h
    !objMalformed (s.objBytes i) && (s.obj i).state == objFree && (s.obj i).epoch == bitsOf h 55 48)

/-- R174: the entry that a CREATE makes. -/
def createEntry (d : List Byte) (phys len : Nat) : ObjEntry :=
  let h := dsc d 8 8
  let cls := dsc d 46 1
  let home := oTier d
  { state := objMoving, version := 1, epoch := bitsOf h 55 48, tenant := bitsOf h 63 56, cls := cls % 8,
    prot := createProt cls home, pinned := bitAt cls 4, home, resident := 0, size := dLen d, phys,
    locs := (List.replicate 5 0).set home (oLoc d), standby := dsc d 48 8, len := some len }

/-- R174: CREATE past its checks: the charge is taken, and the entry reads MOVING. -/
def createStart (e : Nat) (d : List Byte) (s : State) : State :=
  let home := oTier d
  let prot := createProt (dsc d 46 1) home
  let len := s.storedLen home prot (oLoc d) (dLen d)
  let ly := s.homeLayout home prot (oLoc d) len
  let t := bitsOf (dsc d 8 8) 63 56
  let n := chargeOf home prot (dLen d)
  if home = 0 ∨ home > 3 ∨ s.protBad home prot ∨ !s.homeLocOk home prot (oLoc d) (dLen d) then objRefuse e St.badCommand s
  else if !s.chargeFits t home n then objRefuse e St.quota s
  else
    let i := oIdx d
    let stored := mapPut s.ms.stored i len
    let s := takeCharge t home n (physOf home ly) { s with ms := { s.ms with stored := stored } }
    toStage e 1 (putObj i (createEntry d (physOf home ly) len) s)

/-- R174: the units of the rows of a protected home: every data unit, those past L too. -/
def rowUnits (tier : Nat) (ly : Layout) : Layout := { ly with units := protUnits tier ly.rows }

/-- R174: CREATE reads the chunks of a protected T3 home; a read that fails ends it. -/
def createChunks (e : Nat) (ly : Layout) (s : State) : ObjStep :=
  let cs := (ly.units.map (· / chunkSize)).eraseDups
  let got (c : Nat) : Bool := s.t3.ends.any fun x => x.owner == e && x.chunk == c && !x.write && x.ok
  if s.t3.cmds.any fun c => c.owner == e then .wait s
  else if (s.t3.ends.any fun x => x.owner == e && !x.ok) || cs.any (fun c => !s.ssdUp (chunkPort c)) then
    .fail St.busError none false s
  else
    let left := cs.filter fun c => !got c
    if left.isEmpty then .more s else .wait (left.foldl (fun s c => nvmeSubmit e c false [] s) s)

/-- R174, R185: CREATE: a protected home's data units are read, and its parity written, before the entry reads LIVE. -/
def createStep (e : Nat) (d : List Byte) (s : State) : ObjStep :=
  let i := oIdx d
  let o := s.obj i
  let home := oTier d
  let ly := rowUnits home (s.homeLayout home o.prot (oLoc d) (s.objLen o))
  let p : Place := ⟨home, ly⟩
  let finish (s : State) : ObjStep := .done (putObj i { s.obj i with state := objLive, resident := 2 ^ home } s)
  let broken (r : ObjStep) : ObjStep := match r with
    | .fail _ a w s => .fail St.busError a w s
    | r => r
  if !o.prot then finish s
  else if (s.eng e).stage = 1 then .more (takeUnits e (List.range ly.units.length) (toStage e 2 s))
  else if (s.eng e).stage = 2 then
    match if home = 3 then createChunks e ly s else loadUnits e p s with
    | .more s => .more (toStage e 3 s)
    | r => broken r
  else broken (buildParity e p finish s)

/-- R174, R255: CREATE. -/
def execObjCreate (e : Fin 384) (s : State) : Host.Outcome State Fault Refusal :=
  .next (runDesc e 0x20 (fun d s =>
    if dsc d 44 1 ≠ 0 ∨ s.objBusy e (oIdx d) then s
    else if s.engOwnerKind e == 3 && !s.leads then engDone e St.ok 0 (bump R.FMN_CNT_GATED 1 s)
    else if (s.eng e).stage ≠ 0 then objPump e d (createStep e d) 100 s
    else
      let s := touchObj (dsc d 8 8) s
      if !s.createOk (dsc d 8 8) then objRefuse e St.badCommand (staleHandle (dsc d 8 8) s)
      else
      let s := createStart e d s
      if s.engState e = 1 then objPump e d (createStep e d) 100 s else s) s)

/-! ### COPY -/

/-- R174: COPY past the handle's checks. The previous location word is kept until the copy is complete. -/
def copyStart (e : Nat) (d : List Byte) (o : ObjEntry) (s : State) : State :=
  let t := oTier d
  let n := s.objLen o
  if !(tierRank t < tierRank o.home) || (t == tierTD && o.home != 3) || o.holds t || !s.copyLocOk t (oLoc d) n then
    objRefuse e St.badCommand s
  else if !s.chargeFits o.tenant t (chargeOf t false o.size) then objRefuse e St.quota s
  else
    let s := takeCharge o.tenant t (chargeOf t false o.size) n s
    let s := putObj (oIdx d) { o.setLoc t (oLoc d) with state := objMoving } s
    let s := takeUnits e (List.range n) (toStage e 1 s)
    updEng e (fun x => { x with detail := o.loc t }) s

/-- R174, R180: COPY: the copy is filled from the nearest lower one, and is clean. -/
def copyStep (e : Nat) (d : List Byte) (s : State) : ObjStep :=
  let i := oIdx d
  let o := s.obj i
  let t := oTier d
  let low := ((o.below t).head?).getD o.home
  let ly := s.copyLayout t (oLoc d) (s.objLen o)
  moveUnits e ⟨low, s.objIn o low⟩ ⟨t, ly⟩ false
    (fun s => objEnd i s fun s => putObj i ((s.obj i).setResident t true) (ly.units.foldl cleanUnit s)) s

/-- R174: OBJECT_COPY. -/
def execObjCopy (e : Fin 384) (s : State) : Host.Outcome State Fault Refusal :=
  .next (runObj e 1 (copyStart e) (copyStep e) s)

/-! ### DROP and FLUSH -/

/-- R174: DROP past the handle's checks. -/
def dropStart (e : Nat) (d : List Byte) (o : ObjEntry) (s : State) : State :=
  let t := oTier d
  if t = o.home ∨ o.pinned ∨ !o.holds t then objRefuse e St.badCommand s
  else toStage e 100 (setObjState (oIdx d) objMoving s)

/-- R174, R181: DROP: the copy is written back, freed, and its charge released. -/
def dropStep (e : Nat) (d : List Byte) (s : State) : ObjStep :=
  let i := oIdx d
  writeBack e i 100 (if oTier d = 0 then [] else [oTier d]) (fun s =>
    if s.layoutBusy (oTier d) (s.objIn (s.obj i) (oTier d)) then .wait s else objEnd i s (dropCopy i (oTier d))) s

/-- R174: DROP. -/
def execObjDrop (e : Fin 384) (s : State) : Host.Outcome State Fault Refusal :=
  .next (runObj e 2 (dropStart e) (dropStep e) s)

/-- R182: FLUSH: complete when no unit of any copy is dirty. -/
def flushStep (e : Nat) (d : List Byte) (s : State) : ObjStep :=
  let i := oIdx d
  writeBack e i 100 (s.obj i).copies (fun s => objEnd i s id) s

/-- R174: FLUSH. -/
def execObjFlush (e : Fin 384) (s : State) : Host.Outcome State Fault Refusal :=
  .next (runObj e 3 (fun d _ s => toStage e 100 (setObjState (oIdx d) objMoving s)) (flushStep e) s)

/-! ### REHOME -/

/-- R450: the location rules of the new home of a REHOME: it holds exactly the rows, or the units, of L. -/
def State.rehomeLocOk (s : State) (t : Nat) (prot : Bool) (loc len : Nat) : Bool :=
  let segs := s.homeSegs t prot loc len
  let rows := (len + (rowShape t).2.1 - 1) / (rowShape t).2.1
  s.homeLocOk t prot loc len && (segs.map (·.2)).sum == (if prot then rows * (rowShape t).2.2 else len)

/-- R174: REHOME past the handle's checks. -/
def rehomeStart (e : Nat) (d : List Byte) (o : ObjEntry) (s : State) : State :=
  let t := oTier d
  let n := s.objLen o
  let ly := s.homeLayout t o.prot (oLoc d) n
  if t = 0 ∨ t > 3 ∨ s.protBad t o.prot ∨ !s.rehomeLocOk t o.prot (oLoc d) n then objRefuse e St.badCommand s
  else if !s.chargeFits o.tenant t (chargeOf t o.prot o.size) then objRefuse e St.quota s
  else
    let stored := mapPut s.ms.stored (oIdx d) n
    let s := takeCharge o.tenant t (chargeOf t o.prot o.size) (physOf t ly) { s with ms := { s.ms with stored := stored } }
    toStage e 100 (setObjState (oIdx d) objMoving s)

/-- R174: the copies that a REHOME drops: at or below the new home, and TD where the new home is not T3. -/
def rehomeDrops (o : ObjEntry) (t : Nat) : List Nat :=
  ([0, 1, 2, tierTD]).filter fun c => o.holds c && c != o.home &&
    (decide (tierRank t ≤ tierRank c) || (c == tierTD && t != 3))

/-- R174: the end of a REHOME: HOME and the charges are switched, and the old home is freed. -/
def rehomeEnd (d : List Byte) (s : State) : State :=
  let i := oIdx d
  let o := s.obj i
  let t := oTier d
  let phys := physOf t (s.homeLayout t o.prot (oLoc d) (s.objLen o))
  let n : ObjEntry := { (((o.setResident o.home false).setResident t true).setLoc t (oLoc d)) with home := t, phys }
  dropCharge o.tenant o.home (chargeOf o.home o.prot o.size) o.phys (putObj i n s)

/-- R174: REHOME: everything is written back, the new home is built, the copies at or below it are written back and dropped,
and the home is switched. -/
def rehomeStep (e : Nat) (d : List Byte) (s : State) : ObjStep :=
  let i := oIdx d
  let o := s.obj i
  let t := oTier d
  let st := (s.eng e).stage
  let p : Place := ⟨t, s.homeLayout t o.prot (oLoc d) (s.objLen o)⟩
  if st < 200 then
    writeBack e i 100 o.copies (fun s => .more (takeUnits e (List.range (s.objLen o)) (toStage e 200 s))) s
  else if st = 200 then moveUnits e ⟨o.home, s.objHome o⟩ p false (fun s => .more (toStage e 201 s)) s
  else if st = 201 then buildParity e p (fun s => .more (toStage e 300 s)) s
  else match rehomeDrops o t with
    | [] => if s.layoutBusy o.home (s.objHome o) then .wait s else objEnd i s (rehomeEnd d)
    | c :: _ => writeBack e i 300 (if c = 0 then [] else [c]) (fun s =>
        if s.layoutBusy c (s.objIn o c) then .wait s else .more (toStage e 300 (dropCopy i c s))) s

/-- R174: REHOME. -/
def execObjRehome (e : Fin 384) (s : State) : Host.Outcome State Fault Refusal :=
  .next (runObj e 4 (rehomeStart e) (rehomeStep e) s)

/-! ### FREE and REFILL -/

/-- Release the charges of an object's copies. -/
def dropCopies (o : ObjEntry) (n : Nat) (s : State) : State :=
  (([0, 1, 2, tierTD]).filter fun t => o.holds t && t != o.home).foldl
    (fun s t => dropCharge o.tenant t (chargeOf t false o.size) n s) s

/-- R178: a write to a copy of the object, or to its home, has not retired. -/
def State.objWrites (s : State) (o : ObjEntry) : Bool :=
  ([0, 1, 2, 3, tierTD]).any fun t => o.holds t && s.layoutBusy t (s.objIn o t)

/-- R174: FREE: every write to what the object holds has retired. -/
def freeObj (d : List Byte) (s : State) : State :=
  let i := oIdx d
  let o := s.obj i
  let s := dropCopies o (s.objLen o) s
  let s := dropCharge o.tenant o.home (chargeOf o.home o.prot o.size) o.phys s
  let stored := mapErase s.ms.stored i
  putObj i { o with state := objFree, resident := 0, epoch := (o.epoch + 1) % 256 }
    { s with ms := { s.ms with stored := stored } }

/-- R174, R178: FREE. -/
def execObjFree (e : Fin 384) (s : State) : Host.Outcome State Fault Refusal :=
  .next (runObj e 5 (fun _ _ s => toStage e 1 s)
    (fun d s => if s.objWrites (s.obj (oIdx d)) then .wait s else .done (freeObj d s)) s)

/-- R200: REFILL past the handle's checks. -/
def refillStart (e : Nat) (d : List Byte) (o : ObjEntry) (s : State) : State :=
  let n := s.objLen o
  if o.state ≠ objLost ∨ !s.copyLocOk (oTier d) (oLoc d) n then objRefuse e St.badCommand s
  else takeUnits e (List.range n) (toStage e 1 (setObjState (oIdx d) objRefilling s))

/-- R200: the end of a REFILL: every copy is cleared, and the object is LIVE. -/
def refillEnd (i : Nat) (s : State) : State :=
  let o := s.obj i
  putObj i { o with state := objLive, resident := 2 ^ o.home } (dropCopies o (s.objLen o) s)

/-- R200: REFILL: the whole home is written from the location given, with its parity. -/
def refillStep (e : Nat) (d : List Byte) (s : State) : ObjStep :=
  let i := oIdx d
  let o := s.obj i
  let p : Place := ⟨o.home, s.objHome o⟩
  let broken (r : ObjStep) : ObjStep := match r with
    | .fail _ a w s => .fail St.objectLost a w s
    | r => r
  let finish (s : State) : ObjStep :=
    if (s.obj i).state = objLost then .fail St.objectLost none false s
    else if s.objWrites (s.obj i) then .wait s
    else .done (refillEnd i s)
  if (s.eng e).stage = 1 then
    broken (moveUnits e ⟨oTier d, s.copyLayout (oTier d) (oLoc d) (s.objLen o)⟩ p false (fun s => .more (toStage e 2 s)) s)
  else broken (buildParity e p finish s)

/-- R200: REFILL. -/
def execObjRefill (e : Fin 384) (s : State) : Host.Outcome State Fault Refusal :=
  .next (runObj e 6 (refillStart e) (refillStep e) s)

/-! ### The end of an abort -/

/-- R257: steps 2 to 4: the writes already issued have their responses; the status is written, and the engine is idle. An
object operation that is cut off is undone. -/
def execEngAbortDone (e : Fin 384) (s : State) : Host.Outcome State Fault Refusal :=
  .next (if s.engState e != 4 || s.writesOut e then s
    else
      let d := s.engDesc e
      let st := ((s.eng e).abort).getD St.aborted
      match putStatus e st 0 s with
      | (.wait, _) => s
      | (_, s) =>
      let s := if dOp d = 0x20 ∧ (s.eng e).stage ≠ 0 then objUndo e d s else s
      let s := cutFill e d s
      engToIdle e (bump (engR R.TRM_CNT_DESC R.HST_CNT_DESC e) 1 (bump (engR R.TRM_CNT_ABORT R.HST_CNT_ABORT e) 1 s)))

end Sys2Proof.Machine
end

