-- ==== Sys2Proof/Machine/Drain.lean ====
section
/-! DEFINITION. The drain of a revoked lease at the borrower (R204, step 2): each dirty extent bound to a TD copy is read
over the fabric and written back to the object's home (R182, R168), and the copy is dropped. -/

namespace Sys2Proof.Machine

/-- R204: the drain takes up the dirty units of an object's TD copy. -/
def drainTake (i o : Nat) (s : State) : State :=
  let e := drainEng i
  takeDirty e o tierTD (updEng e (fun x => { x with next := o }) (toStage e 114 s))

/-- R204: one step of the write-back of an object: a unit that cannot be written back stays dirty. -/
def drainMove (i o : Nat) (s : State) : State :=
  let e := drainEng i
  let ent := s.obj o
  match moveUnits e ⟨tierTD, s.objIn ent tierTD⟩ ⟨ent.home, s.objHome ent⟩ true (fun s => .done (toStage e 0 s)) s with
  | .more s => s
  | .wait s => s
  | .done s => s
  | .fail _ _ _ t => if s.writesOut e then s else toStage e 0 (remark e o tierTD t)

/-- R204: the objects of the lease in the order in which the drain takes them up: those past the last one first. -/
def State.drainOrder (s : State) (i : Nat) : List Nat :=
  let os := s.leaseObjects (s.leasePeer i)
  let last := (s.eng (drainEng i)).next
  os.filter (last < ·) ++ os.filter (· ≤ last)

/-- R204: the next object of the lease that no operation is working on: clean copies are dropped without transfer, a dirty
one is taken up. -/
def drainNext (i : Nat) (s : State) : State :=
  (s.drainOrder i).foldl (fun s o =>
    if (s.draining i).isSome || s.objBusy (drainEng i) o then s
    else if (s.dirtyUnits (s.obj o) tierTD).isEmpty then
      (if s.layoutBusy tierTD (s.objIn (s.obj o) tierTD) then s else dropCopy o tierTD s)
    else drainTake i o s) s

/-- R204: the drain goes on as far as it can: what is under way, then the next objects. -/
def drainStep (i : Nat) (s : State) : State :=
  match s.draining i with
  | some o =>
    let s := drainMove i o s
    if (s.draining i).isSome then s else drainNext i s
  | none =>
    let s := drainNext i s
    match s.draining i with
    | some o => drainMove i o s
    | none => s

/-- R204: step 3 at the borrower: once no TD copy is left on the lease, DRAIN_DONE goes out. -/
def execLeaseDrainDone (i : Fin 64) (s : State) : Host.Outcome State Fault Refusal :=
  .next (if s.leaseState i = 3 ∧ (mapFind (s.lease i).msgs 7).isNone then
      let s := drainStep i s
      if (s.draining i).isNone ∧ (s.leaseObjects (s.leasePeer i)).isEmpty then leaseSend i 7 s else s
    else s)

end Sys2Proof.Machine
end

