-- ==== Sys2Proof/Machine/KncAlu.lean ====
section
/-! DEFINITION. The meanings of the Idvoan-K instructions that reach neither part addresses nor queues: scalar,
immediate, scratch, vector, predicate, lookup and branch instructions (R111 to R123). -/

namespace Sys2Proof.Machine

/-! ### Shared forms -/

/-- R111: rd from ra and rb. -/
def scalar2 (c rd ra rb : Nat) (f : Nat → Nat → Nat) (s : State) : State :=
  issue c ⟨[ra, rb], [rd]⟩ (fun s => .done (setG c rd (f (s.g c ra) (s.g c rb)) s)) s

/-- R111, R113: rd from ra. -/
def scalar1 (c rd ra : Nat) (f : Nat → Nat) (s : State) : State :=
  issue c ⟨[ra], [rd]⟩ (fun s => .done (setG c rd (f (s.g c ra)) s)) s

/-- R121: RQ8, RQ16 and RQ32. -/
def rqScalar (c rd ra rb : Nat) (f : Fmt) (s : State) : State :=
  issue c ⟨[ra, rb], [rd]⟩ (fun s =>
    let r := scaleOf (s.g c rb)
    if r.reserved then .excFree Cause.operand s
    else
      let (y, sat) := requantise (sextNat 32 (s.g c ra)) r f
      .done (setG c rd (w64 y) (bump (R.KNC_CNT_RQ_SAT (coreOf c)) sat.toNat s))) s

/-- R114: a scratch load. -/
def scrLoad (c rd ra : Nat) (imm : BitVec 16) (n : Nat) (s : State) : State :=
  issue c ⟨[ra], [rd]⟩ (fun s =>
    let a := addrI (s.g c ra) imm
    if a % n ≠ 0 then .exc Cause.misalign a s
    else if !s.scrIn c a n then .exc Cause.address a s
    else match scrRead c (s.scrAddr c a) n s with
    | (some bs, s) => .done (setG c rd (leNat bs) s)
    | (none, s) => .exc Cause.data a s) s

/-- R114: a scratch store. -/
def scrStore (c rs ra : Nat) (imm : BitVec 16) (n : Nat) (s : State) : State :=
  issue c ⟨[ra, rs], []⟩ (fun s =>
    let a := addrI (s.g c ra) imm
    if a % n ≠ 0 then .exc Cause.misalign a s
    else if !s.scrIn c a n then .exc Cause.address a s
    else .done (scrWrite (s.scrAddr c a) (leBytes n (s.g c rs)) s)) s

/-- R117: VLS. -/
def scrLoadV (c v ga pg : Nat) (disp : BitVec 14) (s : State) : State :=
  issue c ⟨[ga, 32 + v], [32 + v]⟩ (fun s =>
    let a := addrV (s.g c ga) disp
    if a % 64 ≠ 0 then .exc Cause.misalign a s
    else if !s.scrIn c a 64 then .exc Cause.address a s
    else match scrRead c (s.scrAddr c a) 64 s with
    | (some bs, s) => .done (setV c v (maskBytes (s.p c pg) (s.v c v) bs) s)
    | (none, s) => .exc Cause.data a s) s

/-- R117: VSS. -/
def scrStoreV (c v ga pg : Nat) (disp : BitVec 14) (s : State) : State :=
  issue c ⟨[ga, 32 + v], []⟩ (fun s =>
    let a := addrV (s.g c ga) disp
    if a % 64 ≠ 0 then .exc Cause.misalign a s
    else if !s.scrIn c a 64 then .exc Cause.address a s
    else .done ((activeRuns (s.p c pg) (s.v c v)).foldl (fun s r => scrWrite (s.scrAddr c a + r.1) r.2 s) s)) s

/-- R117: vd is read where its inactive lanes keep their value. -/
def keepsVd (zm : Bool) (vd : Nat) : List Nat := if zm then [] else [32 + vd]

/-- R117, R118: vd from va and vb, lane by lane. -/
def vec2 (c vd va vb pg es : Nat) (zm : Bool) (f : Nat → Nat → Nat) (s : State) : State :=
  issue c ⟨[32 + va, 32 + vb] ++ keepsVd zm vd, [32 + vd]⟩ (fun s =>
    let r := ((lanesOf es (s.v c va)).zip (lanesOf es (s.v c vb))).map fun x => f x.1 x.2
    .done (setV c vd (packLanes es (mergeLanes es (s.p c pg) zm (lanesOf es (s.v c vd)) r)) s)) s

/-- R117, R118: vd from the lanes computed of va. -/
def vec1 (c vd va pg es : Nat) (zm : Bool) (f : List Byte → List Nat) (s : State) : State :=
  issue c ⟨(32 + va) :: keepsVd zm vd, [32 + vd]⟩ (fun s =>
    .done (setV c vd (packLanes es (mergeLanes es (s.p c pg) zm (lanesOf es (s.v c vd)) (f (s.v c va)))) s)) s

/-- R118, R37: VDOT4. -/
def vdot (c vd va vb pg : Nat) (zm : Bool) (s : State) : State :=
  issue c ⟨[32 + va, 32 + vb, 32 + vd], [32 + vd]⟩ (fun s =>
    let ds := lanesOf 2 (s.v c vd)
    let r := (ds.zip ((lanesOf 2 (s.v c va)).zip (lanesOf 2 (s.v c vb)))).map fun x =>
      satAdd32 (laneS 2 x.1) (dot4 x.2.1 x.2.2)
    let n := (r.zipIdx.filter fun x => x.1.2 && laneOn 2 (s.p c pg) x.2).length
    .done (setV c vd (packLanes 2 (mergeLanes 2 (s.p c pg) zm ds (r.map fun x => laneW 2 x.1)))
      (bump (R.KNC_CNT_ACC_SAT (coreOf c)) n s))) s

/-- R119: VCMP. -/
def vcmp (c pd va vb pg es cc : Nat) (s : State) : State :=
  issue c ⟨[32 + va, 32 + vb], []⟩ (fun s =>
    let bs := (((lanesOf es (s.v c va)).zip (lanesOf es (s.v c vb))).zipIdx).map fun x =>
      laneOn es (s.p c pg) x.2 && compareCC cc (laneS es x.1.1) (laneS es x.1.2)
    .done (setP c pd (lanePred es bs) s)) s

/-- R119: pd from pa and pb. -/
def pred2 (c pd pa pb : Nat) (f : Nat → Nat → Nat) (s : State) : State :=
  issue c ⟨[], []⟩ (fun s => .done (setP c pd (f (s.p c pa) (s.p c pb)) s)) s

/-- R120: rd from the active lanes of va. -/
def vred (c rd va pg es : Nat) (f : List (Nat × Int) → Nat) (s : State) : State :=
  issue c ⟨[32 + va], [rd]⟩ (fun s => .done (setG c rd (f (activeLanes es (s.p c pg) (s.v c va))) s)) s

/-- R120: VBCAST. -/
def vbcast (c v g pg es : Nat) (s : State) : State :=
  issue c ⟨[g, 32 + v], [32 + v]⟩ (fun s =>
    let r := List.replicate (laneCount es) (s.g c g)
    .done (setV c v (packLanes es (mergeLanes es (s.p c pg) false (lanesOf es (s.v c v)) r)) s)) s

/-- R105: a PRIV = 0 context names a table outside its LUT_MASK. -/
def State.lutDenied (s : State) (c t : Nat) : Bool :=
  !s.ctxPriv c && !bitAt (s.fld (ctxCtl c) F.KNC_CTX_CTL_LUT_MASK) t

/-- R123: the table is being copied. -/
def State.lutBusy (s : State) (k t : Nat) : Bool := decide (s.nclk < mapGet s.cores.lutBusy (4 * k + t) 0)

/-- R122: LUT and LUTN: they wait while the table is copied. -/
def lookup (c vd va t pg : Nat) (f : LutCfg → List Int → Int → Int × Bool) (s : State) : State :=
  issue c ⟨[32 + va, 32 + vd], [32 + vd]⟩ (fun s =>
    if s.lutDenied c t then .excFree Cause.priv s
    else if s.lutBusy (coreOf c) t then .hold
    else
      let k := coreOf c
      let r := (lanesOf 2 (s.v c va)).map fun x => f (s.lutCfg k t) (s.lutTab k t) (laneS 2 x)
      let n := (r.zipIdx.filter fun x => x.1.2 && laneOn 2 (s.p c pg) x.2).length
      .done (setV c vd (packLanes 2 (mergeLanes 2 (s.p c pg) false (lanesOf 2 (s.v c vd)) (r.map fun x => laneW 2 x.1)))
        (bump (R.KNC_CNT_LUT_CLAMP k) n s))) s

/-- R123: LUTLD: the copy runs for 32 NCLK cycles. -/
def lutLoad (c t gs : Nat) (s : State) : State :=
  issue c ⟨[gs], []⟩ (fun s =>
    let a := s.g c gs
    let i := 4 * coreOf c + t
    if s.lutDenied c t then .excFree Cause.priv s
    else if !s.scrIn c a 2048 then .exc Cause.address a s
    else match scrRead c (s.scrAddr c a) 2048 s with
    | (none, s) => .exc Cause.data a s
    | (some bs, s) =>
      let tabs := mapPut s.cores.luts i ((chunksOf 2 bs).map fun x => sextNat 16 (leNat x))
      let busy := mapPut s.cores.lutBusy i (s.nclk + 32)
      .done { s with cores := { s.cores with luts := tabs, lutBusy := busy } }) s

/-- R121: the target format of VRQ. -/
def vrqFmt (tfmt : Nat) : Fmt := match tfmt with | 0 => .int8 | 1 => .int4 | 2 => .int16 | _ => .int32

/-- R121: VRQ: the packed results, and zeros after them. -/
def vrq (c vd va gs pg tfmt : Nat) (s : State) : State :=
  issue c ⟨[32 + va, gs], [32 + vd]⟩ (fun s =>
    let r := scaleOf (s.g c gs)
    if r.reserved then .excFree Cause.operand s
    else
      let ys := (lanesOf 2 (s.v c va)).zipIdx.map fun x =>
        if laneOn 2 (s.p c pg) x.2 then requantise (laneS 2 x.1) r (vrqFmt tfmt) else (0, false)
      let n := (ys.filter (·.2)).length
      .done (setV c vd (sliceBytes (packElems (vrqFmt tfmt) (ys.map (·.1))) 0 64)
        (bump (R.KNC_CNT_RQ_SAT (coreOf c)) n s))) s

/-- R116: a conditional branch. -/
def branch (c ra : Nat) (off : BitVec 21) (t : Nat → Bool) (s : State) : State :=
  issue c ⟨[ra], []⟩ (fun s =>
    let pc := s.reg (ctxPc c)
    if t (s.g c ra) then .jump (branchTo pc off) s else .done s) s

/-! ### Scalar register operations (R111, R112, R121) -/

/-- R111: ADD rd, ra, rb. -/
def execKKAdd (c : Fin 1024) (rd : Fin 32) (ra : Fin 32) (rb : Fin 32) (s : State) : Host.Outcome State Fault Refusal :=
  .next (scalar2 c rd ra rb (fun a b => w64 (s64 a + s64 b)) s)

/-- R111: SUB rd, ra, rb. -/
def execKKSub (c : Fin 1024) (rd : Fin 32) (ra : Fin 32) (rb : Fin 32) (s : State) : Host.Outcome State Fault Refusal :=
  .next (scalar2 c rd ra rb (fun a b => w64 (s64 a - s64 b)) s)

/-- R111: AND rd, ra, rb. -/
def execKKAnd (c : Fin 1024) (rd : Fin 32) (ra : Fin 32) (rb : Fin 32) (s : State) : Host.Outcome State Fault Refusal :=
  .next (scalar2 c rd ra rb (fun a b => a &&& b) s)

/-- R111: OR rd, ra, rb. -/
def execKKOr (c : Fin 1024) (rd : Fin 32) (ra : Fin 32) (rb : Fin 32) (s : State) : Host.Outcome State Fault Refusal :=
  .next (scalar2 c rd ra rb (fun a b => a ||| b) s)

/-- R111: XOR rd, ra, rb. -/
def execKKXor (c : Fin 1024) (rd : Fin 32) (ra : Fin 32) (rb : Fin 32) (s : State) : Host.Outcome State Fault Refusal :=
  .next (scalar2 c rd ra rb (fun a b => a ^^^ b) s)

/-- R111: SLL rd, ra, rb. -/
def execKKSll (c : Fin 1024) (rd : Fin 32) (ra : Fin 32) (rb : Fin 32) (s : State) : Host.Outcome State Fault Refusal :=
  .next (scalar2 c rd ra rb (fun a b => shiftK 0 (b % 64) a) s)

/-- R111: SRL rd, ra, rb. -/
def execKKSrl (c : Fin 1024) (rd : Fin 32) (ra : Fin 32) (rb : Fin 32) (s : State) : Host.Outcome State Fault Refusal :=
  .next (scalar2 c rd ra rb (fun a b => shiftK 1 (b % 64) a) s)

/-- R111: SRA rd, ra, rb. -/
def execKKSra (c : Fin 1024) (rd : Fin 32) (ra : Fin 32) (rb : Fin 32) (s : State) : Host.Outcome State Fault Refusal :=
  .next (scalar2 c rd ra rb (fun a b => shiftK 2 (b % 64) a) s)

/-- R111: SLT rd, ra, rb. -/
def execKKSlt (c : Fin 1024) (rd : Fin 32) (ra : Fin 32) (rb : Fin 32) (s : State) : Host.Outcome State Fault Refusal :=
  .next (scalar2 c rd ra rb (fun a b => (decide (s64 a < s64 b)).toNat) s)

/-- R111: SLTU rd, ra, rb. -/
def execKKSltu (c : Fin 1024) (rd : Fin 32) (ra : Fin 32) (rb : Fin 32) (s : State) : Host.Outcome State Fault Refusal :=
  .next (scalar2 c rd ra rb (fun a b => (decide (a < b)).toNat) s)

/-- R111: MIN rd, ra, rb. -/
def execKKMin (c : Fin 1024) (rd : Fin 32) (ra : Fin 32) (rb : Fin 32) (s : State) : Host.Outcome State Fault Refusal :=
  .next (scalar2 c rd ra rb (fun a b => if s64 b < s64 a then b else a) s)

/-- R111: MAX rd, ra, rb. -/
def execKKMax (c : Fin 1024) (rd : Fin 32) (ra : Fin 32) (rb : Fin 32) (s : State) : Host.Outcome State Fault Refusal :=
  .next (scalar2 c rd ra rb (fun a b => if s64 a < s64 b then b else a) s)

/-- R111: MUL rd, ra, rb. -/
def execKKMul (c : Fin 1024) (rd : Fin 32) (ra : Fin 32) (rb : Fin 32) (s : State) : Host.Outcome State Fault Refusal :=
  .next (scalar2 c rd ra rb (fun a b => a * b % 2 ^ 64) s)

/-- R111: MULH rd, ra, rb. -/
def execKKMulh (c : Fin 1024) (rd : Fin 32) (ra : Fin 32) (rb : Fin 32) (s : State) : Host.Outcome State Fault Refusal :=
  .next (scalar2 c rd ra rb (fun a b => w64 (s64 a * s64 b / 2 ^ 64)) s)

/-- R111: MULHU rd, ra, rb. -/
def execKKMulhu (c : Fin 1024) (rd : Fin 32) (ra : Fin 32) (rb : Fin 32) (s : State) : Host.Outcome State Fault Refusal :=
  .next (scalar2 c rd ra rb (fun a b => a * b / 2 ^ 64) s)

/-- R111: DIV rd, ra, rb. -/
def execKKDiv (c : Fin 1024) (rd : Fin 32) (ra : Fin 32) (rb : Fin 32) (s : State) : Host.Outcome State Fault Refusal :=
  .next (scalar2 c rd ra rb (fun a b => divK a b) s)

/-- R111: REM rd, ra, rb. -/
def execKKRem (c : Fin 1024) (rd : Fin 32) (ra : Fin 32) (rb : Fin 32) (s : State) : Host.Outcome State Fault Refusal :=
  .next (scalar2 c rd ra rb (fun a b => remK a b) s)

/-- R111: CLZ rd, ra. -/
def execKKClz (c : Fin 1024) (rd : Fin 32) (ra : Fin 32) (s : State) : Host.Outcome State Fault Refusal :=
  .next (scalar1 c rd ra (fun a => clzBits 64 a) s)

/-- R111: POPC rd, ra. -/
def execKKPopc (c : Fin 1024) (rd : Fin 32) (ra : Fin 32) (s : State) : Host.Outcome State Fault Refusal :=
  .next (scalar1 c rd ra (fun a => popBits 64 a) s)

/-- R111: SEXTB rd, ra. -/
def execKKSextb (c : Fin 1024) (rd : Fin 32) (ra : Fin 32) (s : State) : Host.Outcome State Fault Refusal :=
  .next (scalar1 c rd ra (fun a => w64 (sextNat 8 a)) s)

/-- R111: SEXTH rd, ra. -/
def execKKSexth (c : Fin 1024) (rd : Fin 32) (ra : Fin 32) (s : State) : Host.Outcome State Fault Refusal :=
  .next (scalar1 c rd ra (fun a => w64 (sextNat 16 a)) s)

/-- R111: SEXTW rd, ra. -/
def execKKSextw (c : Fin 1024) (rd : Fin 32) (ra : Fin 32) (s : State) : Host.Outcome State Fault Refusal :=
  .next (scalar1 c rd ra (fun a => w64 (sextNat 32 a)) s)

/-- R111: ADDS rd, ra, rb. -/
def execKKAdds (c : Fin 1024) (rd : Fin 32) (ra : Fin 32) (rb : Fin 32) (s : State) : Host.Outcome State Fault Refusal :=
  .next (scalar2 c rd ra rb (fun a b => w64 (clampBits 64 (s64 a + s64 b))) s)

/-- R111: CTZ rd, ra. -/
def execKKCtz (c : Fin 1024) (rd : Fin 32) (ra : Fin 32) (s : State) : Host.Outcome State Fault Refusal :=
  .next (scalar1 c rd ra (fun a => ctzBits 64 a) s)

/-- R121: RQ8 rd, ra, rb. -/
def execKKRq8 (c : Fin 1024) (rd : Fin 32) (ra : Fin 32) (rb : Fin 32) (s : State) : Host.Outcome State Fault Refusal :=
  .next (rqScalar c rd ra rb .int8 s)

/-- R121: RQ16 rd, ra, rb. -/
def execKKRq16 (c : Fin 1024) (rd : Fin 32) (ra : Fin 32) (rb : Fin 32) (s : State) : Host.Outcome State Fault Refusal :=
  .next (rqScalar c rd ra rb .int16 s)

/-- R121: RQ32 rd, ra, rb. -/
def execKKRq32 (c : Fin 1024) (rd : Fin 32) (ra : Fin 32) (rb : Fin 32) (s : State) : Host.Outcome State Fault Refusal :=
  .next (rqScalar c rd ra rb .int32 s)

/-! ### Immediate instructions (R113) -/

/-- R113: ADDI rd, ra, imm16. -/
def execKKAddi (c : Fin 1024) (rd : Fin 32) (ra : Fin 32) (imm : BitVec 16) (s : State) : Host.Outcome State Fault Refusal :=
  .next (scalar1 c rd ra (fun a => w64 (s64 a + immS imm)) s)

/-- R113: ANDI rd, ra, imm16. -/
def execKKAndi (c : Fin 1024) (rd : Fin 32) (ra : Fin 32) (imm : BitVec 16) (s : State) : Host.Outcome State Fault Refusal :=
  .next (scalar1 c rd ra (fun a => a &&& immZ imm) s)

/-- R113: ORI rd, ra, imm16. -/
def execKKOri (c : Fin 1024) (rd : Fin 32) (ra : Fin 32) (imm : BitVec 16) (s : State) : Host.Outcome State Fault Refusal :=
  .next (scalar1 c rd ra (fun a => a ||| immZ imm) s)

/-- R113: XORI rd, ra, imm16. -/
def execKKXori (c : Fin 1024) (rd : Fin 32) (ra : Fin 32) (imm : BitVec 16) (s : State) : Host.Outcome State Fault Refusal :=
  .next (scalar1 c rd ra (fun a => a ^^^ immZ imm) s)

/-- R113: SLTI rd, ra, imm16. -/
def execKKSlti (c : Fin 1024) (rd : Fin 32) (ra : Fin 32) (imm : BitVec 16) (s : State) : Host.Outcome State Fault Refusal :=
  .next (scalar1 c rd ra (fun a => (decide (s64 a < immS imm)).toNat) s)

/-- R113: SHI rd, ra, imm16; kind 0b11 is reserved. -/
def execKKShi (c : Fin 1024) (rd : Fin 32) (ra : Fin 32) (imm : BitVec 16) (s : State) : Host.Outcome State Fault Refusal :=
  .next (if bitsOf imm.toNat 15 14 = 3 then issue c ⟨[], []⟩ (fun s => .excFree Cause.illegal s) s
    else scalar1 c rd ra (shiftK (bitsOf imm.toNat 15 14) (bitsOf imm.toNat 5 0)) s)

/-- R113: SHORI rd, ra, imm16. -/
def execKKShori (c : Fin 1024) (rd : Fin 32) (ra : Fin 32) (imm : BitVec 16) (s : State) : Host.Outcome State Fault Refusal :=
  .next (scalar1 c rd ra (fun a => a * 65536 % 2 ^ 64 ||| immZ imm) s)

/-! ### Scratch loads and stores (R107, R114, R117, R128) -/

/-- R114: scratch load of 1 byte. -/
def execKKLsb (c : Fin 1024) (rd : Fin 32) (ra : Fin 32) (imm : BitVec 16) (s : State) : Host.Outcome State Fault Refusal :=
  .next (scrLoad c rd ra imm 1 s)

/-- R114: scratch load of 2 bytes. -/
def execKKLsh (c : Fin 1024) (rd : Fin 32) (ra : Fin 32) (imm : BitVec 16) (s : State) : Host.Outcome State Fault Refusal :=
  .next (scrLoad c rd ra imm 2 s)

/-- R114: scratch load of 4 bytes. -/
def execKKLsw (c : Fin 1024) (rd : Fin 32) (ra : Fin 32) (imm : BitVec 16) (s : State) : Host.Outcome State Fault Refusal :=
  .next (scrLoad c rd ra imm 4 s)

/-- R114: scratch load of 8 bytes. -/
def execKKLsd (c : Fin 1024) (rd : Fin 32) (ra : Fin 32) (imm : BitVec 16) (s : State) : Host.Outcome State Fault Refusal :=
  .next (scrLoad c rd ra imm 8 s)

/-- R114: scratch store of 1 byte. -/
def execKKSsb (c : Fin 1024) (rs : Fin 32) (ra : Fin 32) (imm : BitVec 16) (s : State) : Host.Outcome State Fault Refusal :=
  .next (scrStore c rs ra imm 1 s)

/-- R114: scratch store of 2 bytes. -/
def execKKSsh (c : Fin 1024) (rs : Fin 32) (ra : Fin 32) (imm : BitVec 16) (s : State) : Host.Outcome State Fault Refusal :=
  .next (scrStore c rs ra imm 2 s)

/-- R114: scratch store of 4 bytes. -/
def execKKSsw (c : Fin 1024) (rs : Fin 32) (ra : Fin 32) (imm : BitVec 16) (s : State) : Host.Outcome State Fault Refusal :=
  .next (scrStore c rs ra imm 4 s)

/-- R114: scratch store of 8 bytes. -/
def execKKSsd (c : Fin 1024) (rs : Fin 32) (ra : Fin 32) (imm : BitVec 16) (s : State) : Host.Outcome State Fault Refusal :=
  .next (scrStore c rs ra imm 8 s)

/-- R117: vector load from scratch. -/
def execKKVls (c : Fin 1024) (v : Fin 16) (ga : Fin 32) (pg : Fin 8) (disp : BitVec 14) (s : State) : Host.Outcome State Fault Refusal :=
  .next (scrLoadV c v ga pg disp s)

/-- R117: vector store to scratch. -/
def execKKVss (c : Fin 1024) (v : Fin 16) (ga : Fin 32) (pg : Fin 8) (disp : BitVec 14) (s : State) : Host.Outcome State Fault Refusal :=
  .next (scrStoreV c v ga pg disp s)

/-! ### Vector arithmetic (R118) -/

/-- R118: VADD vd, va, vb under pg. -/
def execKKVadd (c : Fin 1024) (vd : Fin 16) (va : Fin 16) (vb : Fin 16) (pg : Fin 8) (es : Fin 4) (zm : Bool) (s : State) : Host.Outcome State Fault Refusal :=
  .next (vec2 c vd va vb pg es zm (fun a b => (a + b) % 2 ^ (8 * laneBytes es)) s)

/-- R118: VSUB vd, va, vb under pg. -/
def execKKVsub (c : Fin 1024) (vd : Fin 16) (va : Fin 16) (vb : Fin 16) (pg : Fin 8) (es : Fin 4) (zm : Bool) (s : State) : Host.Outcome State Fault Refusal :=
  .next (vec2 c vd va vb pg es zm (fun a b => laneW es (laneS es a - laneS es b)) s)

/-- R118: VADDS vd, va, vb under pg. -/
def execKKVadds (c : Fin 1024) (vd : Fin 16) (va : Fin 16) (vb : Fin 16) (pg : Fin 8) (es : Fin 4) (zm : Bool) (s : State) : Host.Outcome State Fault Refusal :=
  .next (vec2 c vd va vb pg es zm (fun a b => laneW es (clampBits (8 * laneBytes es) (laneS es a + laneS es b))) s)

/-- R118: VSUBS vd, va, vb under pg. -/
def execKKVsubs (c : Fin 1024) (vd : Fin 16) (va : Fin 16) (vb : Fin 16) (pg : Fin 8) (es : Fin 4) (zm : Bool) (s : State) : Host.Outcome State Fault Refusal :=
  .next (vec2 c vd va vb pg es zm (fun a b => laneW es (clampBits (8 * laneBytes es) (laneS es a - laneS es b))) s)

/-- R118: VMUL vd, va, vb under pg. -/
def execKKVmul (c : Fin 1024) (vd : Fin 16) (va : Fin 16) (vb : Fin 16) (pg : Fin 8) (es : Fin 4) (zm : Bool) (s : State) : Host.Outcome State Fault Refusal :=
  .next (vec2 c vd va vb pg es zm (fun a b => a * b % 2 ^ (8 * laneBytes es)) s)

/-- R118: VMIN vd, va, vb under pg. -/
def execKKVmin (c : Fin 1024) (vd : Fin 16) (va : Fin 16) (vb : Fin 16) (pg : Fin 8) (es : Fin 4) (zm : Bool) (s : State) : Host.Outcome State Fault Refusal :=
  .next (vec2 c vd va vb pg es zm (fun a b => if laneS es b < laneS es a then b else a) s)

/-- R118: VMAX vd, va, vb under pg. -/
def execKKVmax (c : Fin 1024) (vd : Fin 16) (va : Fin 16) (vb : Fin 16) (pg : Fin 8) (es : Fin 4) (zm : Bool) (s : State) : Host.Outcome State Fault Refusal :=
  .next (vec2 c vd va vb pg es zm (fun a b => if laneS es a < laneS es b then b else a) s)

/-- R118: VAND vd, va, vb under pg. -/
def execKKVand (c : Fin 1024) (vd : Fin 16) (va : Fin 16) (vb : Fin 16) (pg : Fin 8) (es : Fin 4) (zm : Bool) (s : State) : Host.Outcome State Fault Refusal :=
  .next (vec2 c vd va vb pg es zm (fun a b => a &&& b) s)

/-- R118: VOR vd, va, vb under pg. -/
def execKKVor (c : Fin 1024) (vd : Fin 16) (va : Fin 16) (vb : Fin 16) (pg : Fin 8) (es : Fin 4) (zm : Bool) (s : State) : Host.Outcome State Fault Refusal :=
  .next (vec2 c vd va vb pg es zm (fun a b => a ||| b) s)

/-- R118: VXOR vd, va, vb under pg. -/
def execKKVxor (c : Fin 1024) (vd : Fin 16) (va : Fin 16) (vb : Fin 16) (pg : Fin 8) (es : Fin 4) (zm : Bool) (s : State) : Host.Outcome State Fault Refusal :=
  .next (vec2 c vd va vb pg es zm (fun a b => a ^^^ b) s)

/-- R118: VSLL vd, va, vb under pg. -/
def execKKVsll (c : Fin 1024) (vd : Fin 16) (va : Fin 16) (vb : Fin 16) (pg : Fin 8) (es : Fin 4) (zm : Bool) (s : State) : Host.Outcome State Fault Refusal :=
  .next (vec2 c vd va vb pg es zm (fun a b => a * 2 ^ (b % (8 * laneBytes es)) % 2 ^ (8 * laneBytes es)) s)

/-- R118: VSRL vd, va, vb under pg. -/
def execKKVsrl (c : Fin 1024) (vd : Fin 16) (va : Fin 16) (vb : Fin 16) (pg : Fin 8) (es : Fin 4) (zm : Bool) (s : State) : Host.Outcome State Fault Refusal :=
  .next (vec2 c vd va vb pg es zm (fun a b => a / 2 ^ (b % (8 * laneBytes es))) s)

/-- R118: VSRA vd, va, vb under pg. -/
def execKKVsra (c : Fin 1024) (vd : Fin 16) (va : Fin 16) (vb : Fin 16) (pg : Fin 8) (es : Fin 4) (zm : Bool) (s : State) : Host.Outcome State Fault Refusal :=
  .next (vec2 c vd va vb pg es zm (fun a b => laneW es (laneS es a / ((2 ^ (b % (8 * laneBytes es)) : Nat) : Int))) s)

/-- R118: VCLZ vd, va under pg. -/
def execKKVclz (c : Fin 1024) (vd : Fin 16) (va : Fin 16) (pg : Fin 8) (es : Fin 4) (zm : Bool) (s : State) : Host.Outcome State Fault Refusal :=
  .next (vec1 c vd va pg es zm (fun v => (lanesOf es v).map fun a => clzBits (8 * laneBytes es) a) s)

/-- R118: VABS vd, va under pg. -/
def execKKVabs (c : Fin 1024) (vd : Fin 16) (va : Fin 16) (pg : Fin 8) (es : Fin 4) (zm : Bool) (s : State) : Host.Outcome State Fault Refusal :=
  .next (vec1 c vd va pg es zm (fun v => (lanesOf es v).map fun a => laneW es (clampBits (8 * laneBytes es) (Int.ofNat (laneS es a).natAbs))) s)

/-- R118: VMOV vd, va under pg. -/
def execKKVmov (c : Fin 1024) (vd : Fin 16) (va : Fin 16) (pg : Fin 8) (es : Fin 4) (zm : Bool) (s : State) : Host.Outcome State Fault Refusal :=
  .next (vec1 c vd va pg es zm (fun v => (lanesOf es v).map fun a => a) s)

/-- R118: VWIDL vd, va; ES 0b00 is illegal. -/
def execKKVwidl (c : Fin 1024) (vd : Fin 16) (va : Fin 16) (pg : Fin 8) (es : Fin 4) (zm : Bool) (s : State) : Host.Outcome State Fault Refusal :=
  .next (if es.val = 0 then issue c ⟨[], []⟩ (fun s => .excFree Cause.illegal s) s
    else vec1 c vd va pg es zm (widen es false) s)

/-- R118: VWIDH vd, va; ES 0b00 is illegal. -/
def execKKVwidh (c : Fin 1024) (vd : Fin 16) (va : Fin 16) (pg : Fin 8) (es : Fin 4) (zm : Bool) (s : State) : Host.Outcome State Fault Refusal :=
  .next (if es.val = 0 then issue c ⟨[], []⟩ (fun s => .excFree Cause.illegal s) s
    else vec1 c vd va pg es zm (widen es true) s)

/-- R118: VDOT4 vd, va, vb; only ES 0b10. -/
def execKKVdot4 (c : Fin 1024) (vd : Fin 16) (va : Fin 16) (vb : Fin 16) (pg : Fin 8) (es : Fin 4) (zm : Bool) (s : State) : Host.Outcome State Fault Refusal :=
  .next (if es.val ≠ 2 then issue c ⟨[], []⟩ (fun s => .excFree Cause.illegal s) s
    else vdot c vd va vb pg zm s)

/-- R118: VPFX vd, va under pg. -/
def execKKVpfx (c : Fin 1024) (vd : Fin 16) (va : Fin 16) (pg : Fin 8) (es : Fin 4) (zm : Bool) (s : State) : Host.Outcome State Fault Refusal :=
  .next (vec1 c vd va pg es zm (fun v => prefixSums es (s.p c pg) (lanesOf es v)) s)

/-! ### Predicates and reductions (R119, R120) -/

/-- R119: VCMP pd, va, vb under pg; CC 6 and 7 are reserved. -/
def execKKVcmp (c : Fin 1024) (pd : Fin 8) (va : Fin 16) (vb : Fin 16) (pg : Fin 8) (es : Fin 4) (cc : Fin 8) (s : State) : Host.Outcome State Fault Refusal :=
  .next (if cc.val ≥ 6 then issue c ⟨[], []⟩ (fun s => .excFree Cause.illegal s) s
    else vcmp c pd va vb pg es cc s)

/-- R119: PAND pd, pa, pb. -/
def execKKPand (c : Fin 1024) (pd : Fin 8) (pa : Fin 8) (pb : Fin 8) (s : State) : Host.Outcome State Fault Refusal :=
  .next (pred2 c pd pa pb (fun a b => a &&& b) s)

/-- R119: POR pd, pa, pb. -/
def execKKPor (c : Fin 1024) (pd : Fin 8) (pa : Fin 8) (pb : Fin 8) (s : State) : Host.Outcome State Fault Refusal :=
  .next (pred2 c pd pa pb (fun a b => a ||| b) s)

/-- R119: PXOR pd, pa, pb. -/
def execKKPxor (c : Fin 1024) (pd : Fin 8) (pa : Fin 8) (pb : Fin 8) (s : State) : Host.Outcome State Fault Refusal :=
  .next (pred2 c pd pa pb (fun a b => a ^^^ b) s)

/-- R119: PANDN pd, pa, pb. -/
def execKKPandn (c : Fin 1024) (pd : Fin 8) (pa : Fin 8) (pb : Fin 8) (s : State) : Host.Outcome State Fault Refusal :=
  .next (pred2 c pd pa pb (fun a b => a &&& (ones64 - b)) s)

/-- R119: PNOT pd, pa. -/
def execKKPnot (c : Fin 1024) (pd : Fin 8) (pa : Fin 8) (s : State) : Host.Outcome State Fault Refusal :=
  .next (pred2 c pd pa pa (fun a _ => ones64 - a) s)

/-- R119: PTOG g, pa. -/
def execKKPtog (c : Fin 1024) (g : Fin 32) (pa : Fin 8) (s : State) : Host.Outcome State Fault Refusal :=
  .next (issue c ⟨[], [g]⟩ (fun s => .done (setG c g (s.p c pa) s)) s)

/-- R119: GTOP pd, g. -/
def execKKGtop (c : Fin 1024) (pd : Fin 8) (g : Fin 32) (s : State) : Host.Outcome State Fault Refusal :=
  .next (issue c ⟨[g], []⟩ (fun s => .done (setP c pd (s.g c g) s)) s)

/-- R120: VRED SUM rd, va under pg. -/
def execKKVredSum (c : Fin 1024) (rd : Fin 32) (va : Fin 16) (pg : Fin 8) (es : Fin 4) (s : State) : Host.Outcome State Fault Refusal :=
  .next (vred c rd va pg es (fun ls => w64 (clampBits 64 (ls.map (·.2)).sum)) s)

/-- R120: VRED MAX rd, va under pg. -/
def execKKVredMax (c : Fin 1024) (rd : Fin 32) (va : Fin 16) (pg : Fin 8) (es : Fin 4) (s : State) : Host.Outcome State Fault Refusal :=
  .next (vred c rd va pg es (fun ls => w64 ((ls.map (·.2)).max?.getD (-((2 ^ (8 * laneBytes es - 1) : Nat) : Int)))) s)

/-- R120: VRED MIN rd, va under pg. -/
def execKKVredMin (c : Fin 1024) (rd : Fin 32) (va : Fin 16) (pg : Fin 8) (es : Fin 4) (s : State) : Host.Outcome State Fault Refusal :=
  .next (vred c rd va pg es (fun ls => w64 ((ls.map (·.2)).min?.getD (((2 ^ (8 * laneBytes es - 1) : Nat) : Int) - 1))) s)

/-- R120: VRED ARGMAX rd, va under pg. -/
def execKKVredArgmax (c : Fin 1024) (rd : Fin 32) (va : Fin 16) (pg : Fin 8) (es : Fin 4) (s : State) : Host.Outcome State Fault Refusal :=
  .next (vred c rd va pg es (fun ls => ((argBest (fun x y => decide (x > y)) ls).map (·.1)).getD ones64) s)

/-- R120: VRED ARGMIN rd, va under pg. -/
def execKKVredArgmin (c : Fin 1024) (rd : Fin 32) (va : Fin 16) (pg : Fin 8) (es : Fin 4) (s : State) : Host.Outcome State Fault Refusal :=
  .next (vred c rd va pg es (fun ls => ((argBest (fun x y => decide (x < y)) ls).map (·.1)).getD ones64) s)

/-- R120: VRED POPC rd, va under pg. -/
def execKKVredPopc (c : Fin 1024) (rd : Fin 32) (va : Fin 16) (pg : Fin 8) (es : Fin 4) (s : State) : Host.Outcome State Fault Refusal :=
  .next (vred c rd va pg es (fun ls => ls.length) s)

/-- R120: VBCAST v, g under pg. -/
def execKKVbcast (c : Fin 1024) (v : Fin 16) (g : Fin 32) (pg : Fin 8) (es : Fin 4) (s : State) : Host.Outcome State Fault Refusal :=
  .next (vbcast c v g pg es s)

/-- R120: VEXTR g, v, LANE. -/
def execKKVextr (c : Fin 1024) (g : Fin 32) (v : Fin 16) (lane : Fin 64) (es : Fin 4) (s : State) : Host.Outcome State Fault Refusal :=
  .next (if lane.val ≥ laneCount es then issue c ⟨[], []⟩ (fun s => .excFree Cause.illegal s) s
    else issue c ⟨[32 + v], [g]⟩ (fun s => .done (setG c g (w64 (laneS es ((lanesOf es (s.v c v)).getD lane 0))) s)) s)

/-- R120: VINS v, g, LANE. -/
def execKKVins (c : Fin 1024) (v : Fin 16) (g : Fin 32) (lane : Fin 64) (es : Fin 4) (s : State) : Host.Outcome State Fault Refusal :=
  .next (if lane.val ≥ laneCount es then issue c ⟨[], []⟩ (fun s => .excFree Cause.illegal s) s
    else issue c ⟨[32 + v, g], [32 + v]⟩ (fun s => .done (setV c v
      (packLanes es ((lanesOf es (s.v c v)).set lane (s.g c g))) s)) s)

/-! ### Lookups and vector requantisation (R121 to R123) -/

/-- R122: LUT vd, va, TBL under pg. -/
def execKKLut (c : Fin 1024) (vd : Fin 16) (va : Fin 16) (tbl : Fin 4) (pg : Fin 8) (s : State) : Host.Outcome State Fault Refusal :=
  .next (lookup c vd va tbl pg lutLane s)

/-- R122: LUTN vd, va, TBL under pg. -/
def execKKLutn (c : Fin 1024) (vd : Fin 16) (va : Fin 16) (tbl : Fin 4) (pg : Fin 8) (s : State) : Host.Outcome State Fault Refusal :=
  .next (lookup c vd va tbl pg lutnLane s)

/-- R123: LUTLD TBL, gs. -/
def execKKLutld (c : Fin 1024) (tbl : Fin 4) (gs : Fin 32) (s : State) : Host.Outcome State Fault Refusal :=
  .next (lutLoad c tbl gs s)

/-- R121: VRQ vd, va, gs under pg. -/
def execKKVrq (c : Fin 1024) (vd : Fin 16) (va : Fin 16) (gs : Fin 32) (pg : Fin 8) (tfmt : Fin 4) (s : State) : Host.Outcome State Fault Refusal :=
  .next (vrq c vd va gs pg tfmt s)

/-! ### Branches (R116) -/

/-- R116: BEQZ ra, off21. -/
def execKKBeqz (c : Fin 1024) (ra : Fin 32) (off : BitVec 21) (s : State) : Host.Outcome State Fault Refusal :=
  .next (branch c ra off (fun a => s64 a == 0) s)

/-- R116: BNEZ ra, off21. -/
def execKKBnez (c : Fin 1024) (ra : Fin 32) (off : BitVec 21) (s : State) : Host.Outcome State Fault Refusal :=
  .next (branch c ra off (fun a => s64 a != 0) s)

/-- R116: BLTZ ra, off21. -/
def execKKBltz (c : Fin 1024) (ra : Fin 32) (off : BitVec 21) (s : State) : Host.Outcome State Fault Refusal :=
  .next (branch c ra off (fun a => decide (s64 a < 0)) s)

/-- R116: BGEZ ra, off21. -/
def execKKBgez (c : Fin 1024) (ra : Fin 32) (off : BitVec 21) (s : State) : Host.Outcome State Fault Refusal :=
  .next (branch c ra off (fun a => decide (s64 a ≥ 0)) s)

/-- R116: JAL rd, off21. -/
def execKKJal (c : Fin 1024) (rd : Fin 32) (off : BitVec 21) (s : State) : Host.Outcome State Fault Refusal :=
  .next (issue c ⟨[], [rd]⟩ (fun s =>
    let pc := s.reg (ctxPc c)
    .jump (branchTo pc off) (setG c rd ((pc + 4) % 2 ^ 64) s)) s)

/-- R116: JALR rd, ra, imm16. -/
def execKKJalr (c : Fin 1024) (rd : Fin 32) (ra : Fin 32) (imm : BitVec 16) (s : State) : Host.Outcome State Fault Refusal :=
  .next (issue c ⟨[ra], [rd]⟩ (fun s =>
    let pc := s.reg (ctxPc c)
    let t := addrI (s.g c ra) imm
    if t % 4 ≠ 0 then .exc Cause.misalign t s else .jump t (setG c rd ((pc + 4) % 2 ^ 64) s)) s)

/-- R116: BP pa, SENSE, off21. -/
def execKKBp (c : Fin 1024) (pa : Fin 8) (sense : Bool) (off : BitVec 21) (s : State) : Host.Outcome State Fault Refusal :=
  .next (issue c ⟨[], []⟩ (fun s =>
    let pc := s.reg (ctxPc c)
    let any := s.p c pa != 0
    if any != sense then .jump (branchTo pc off) s else .done s) s)

end Sys2Proof.Machine
end

