-- ==== Sys2Proof/Machine/KncMem.lean ====
section
/-! DEFINITION. The meanings of the Idvoan-K instructions that reach part addresses: loads, stores, AMOs and the vector
forms (R106, R114, R115, R117, R129, R131, R206). -/

namespace Sys2Proof.Machine

/-- R129: a seventeenth access waits. -/
def maxOut : Nat := 16

/-- An access of a context at its PC. -/
def newAcc (s : State) (c : Nat) (kind : AccKind) (a n : Nat) (st : AccState) : CtxAcc :=
  { kind, pc := s.reg (ctxPc c), addr := a, size := n, time := s.nclk, state := st }

/-- R129: the access is outstanding. -/
def pushAcc (c : Nat) (a : CtxAcc) (s : State) : State := updCtx c (fun x => { x with out := x.out ++ [a] }) s

/-- R129: an access waits for an earlier one of its context to the same page that is held: a load or an AMO for a store, a
store or an AMO for an AMO. -/
def State.ownHeld (s : State) (c a need : Nat) : Bool :=
  (need != 4 && s.heldByOn (.ctx c) (a / 4096 * 4096) 4096) ||
    (need != 2 && (s.kc c).out.any fun b => b.addr / 4096 == a / 4096 && b.state == .parked && match b.kind with
      | .amo _ _ _ _ => true
      | _ => false)

/-- R114, R106: what stops an access before it is performed: alignment, then the region check, then the number
outstanding and the order of R129. -/
def accGate (c a n align need : Nat) (s : State) (f : Unit → Eff) : Eff :=
  if a % align ≠ 0 then .exc Cause.misalign a s
  else if !s.ctxPriv c && !s.rgnOk c a n need then .exc Cause.address a s
  else if (s.kc c).out.length ≥ maxOut || s.ownHeld c a need then .hold
  else f ()

/-- R338: a drift read: the whole 8-byte units that hold its bytes. -/
def driftGet (c : Nat) (kind : AccKind) (a n : Nat) (s : State) : Eff :=
  match s.driftCheck false a n with
  | some _ => .done (pushAcc c (newAcc s c kind a n .failed) s)
  | none =>
    match fabSend (.ctx c) 1 0 (a / 8 * 8) ((a % 8 + n + 7) / 8 * 8) [] s with
    | none => .hold
    | some (i, t) => .done (pushAcc c (newAcc s c kind a n (.remote i)) t)

/-- R114, R117: a load of `n` bytes. -/
def gload (c a n align : Nat) (kind : AccKind) (s : State) : Eff :=
  accGate c a n align 2 s fun _ =>
    match spaceOf a with
    | .control =>
      let (v, t) := ctlRead (.ctx (Fin.ofNat 1024 c)) (spaceOff a) n s
      .done (pushAcc c (newAcc s c kind a n (.ready (leBytes n v))) t)
    | .drift => driftGet c kind a n s
    | .reserved => .exc Cause.address a s
    | _ =>
      if !s.reachable a n then .exc Cause.address a s
      else match readRange (.ctx c) a n s with
        | (.ok bs, t) => .done (pushAcc c (newAcc s c kind a n (.ready bs)) t)
        | (.held, t) => .done (pushAcc c (newAcc s c kind a n .parked) t)
        | (.err _, t) => .done (pushAcc c (newAcc s c kind a n .failed) t)

/-- Store the runs of active bytes of an access; whether it stalled. -/
def storeRuns (c a : Nat) (runs : List (Nat × List Byte)) (s : State) : Bool × State :=
  runs.foldl (fun (p : Bool × State) r =>
    match writeRange (.ctx c) true (a + r.1) r.2 p.2 with
    | (.stall, t) => (true, t)
    | (_, t) => (p.1, t)) (false, s)

/-- R332: the payload of a masked write of the active bytes of one aligned line. -/
def maskPayload (runs : List (Nat × List Byte)) : List Byte :=
  let mask := (runs.map fun r => (2 ^ r.2.length - 1) * 2 ^ r.1).sum
  let line := (List.range 64).map fun i =>
    match runs.find? fun r => r.1 ≤ i && i < r.1 + r.2.length with
    | some r => r.2.getD (i - r.1) 0
    | none => 0
  leBytes 8 mask ++ line

/-- R338: a drift store: WR for one run of whole units, else WRMASK on its line; the dirty bit is set as it is sent. -/
def driftStore (c a n : Nat) (runs : List (Nat × List Byte)) (s : State) : Eff :=
  match s.driftCheck true a n with
  | some _ => .done (pushAcc c (newAcc s c .store a n .failed) s)
  | none =>
    if s.driftStalls a n then .hold
    else
      let line := a / 64 * 64
      let sent := match runs with
        | [r] => if (a + r.1) % 8 = 0 ∧ r.2.length % 8 = 0 then fabSend (.ctx c) 2 0 (a + r.1) r.2.length r.2 s
                 else fabSend (.ctx c) 3 0 line 72 (maskPayload [(a % 64 + r.1, r.2)]) s
        | _ => fabSend (.ctx c) 3 0 line 72 (maskPayload runs) s
      match sent with
      | none => .hold
      | some (i, t) => .done (pushAcc c (newAcc s c .store a n (.remote i)) (storeRuns c a runs t).2)

/-- R114, R117: a store of the runs of active bytes within `n` bytes. -/
def gstore (c a n align : Nat) (runs : List (Nat × List Byte)) (s : State) : Eff :=
  accGate c a n align 4 s fun _ =>
    match spaceOf a with
    | .control =>
      let t := ctlWrite (.ctx (Fin.ofNat 1024 c)) (spaceOff a) n (leNat ((runs.map (·.2)).flatten)) s
      .done (pushAcc c (newAcc s c .store a n (.ready [])) t)
    | .drift => if runs.isEmpty then .done s else driftStore c a n runs s
    | .reserved => .exc Cause.address a s
    | _ =>
      if !s.reachable a n then .exc Cause.address a s
      else if runs.isEmpty then .done s
      else match storeRuns c a runs s with
        | (true, _) => .hold
        | (false, t) => .done (pushAcc c (newAcc s c .store a n (.ready [])) t)

/-- R115: an AMO at a part address. -/
def gamo (c fn rd a rb cmp : Nat) (s : State) : Eff :=
  let kind := AccKind.amo fn rd rb cmp
  accGate c a 8 8 6 s fun _ =>
    match spaceOf a with
    | .control => .exc Cause.address a s
    | .reserved => .exc Cause.address a s
    | .drift =>
      (match s.driftCheck true a 8 with
      | some _ => .done (pushAcc c (newAcc s c kind a 8 .failed) s)
      | none =>
        if s.driftStalls a 8 then .hold
        else
          let payload := leBytes 8 rb ++ (if fn = 2 then leBytes 8 cmp else [])
          match fabSend (.ctx c) 4 fn a payload.length payload s with
          | none => .hold
          | some (i, t) =>
            let new := leBytes 8 (amoNew fn (leNat (memGets t.mem a 8)) rb cmp)
            .done (pushAcc c (newAcc s c kind a 8 (.remote i)) (writeRange (.ctx c) true a new t).2))
    | _ =>
      if !s.reachable a 8 then .exc Cause.address a s
      else match memAmo (.ctx c) fn a rb cmp s with
        | (.ok bs, t) => .done (pushAcc c (newAcc s c kind a 8 (.ready bs)) t)
        | (.held, t) => .done (pushAcc c (newAcc s c kind a 8 .parked) t)
        | (.err _, t) => .done (pushAcc c (newAcc s c kind a 8 .failed) t)

/-- R115: an AMO in scratch. -/
def samo (c fn rd a rb cmp : Nat) (s : State) : Eff :=
  if a % 8 ≠ 0 then .exc Cause.misalign a s
  else if !s.scrIn c a 8 then .exc Cause.address a s
  else match scrRead c (s.scrAddr c a) 8 s with
    | (none, t) => .exc Cause.data a t
    | (some bs, t) =>
      .done (setG c rd (leNat bs) (scrWrite (t.scrAddr c a) (leBytes 8 (amoNew fn (leNat bs) rb cmp)) t))

/-- R114: a part-address load of `n` bytes. -/
def loadG (c rd ra : Nat) (imm : BitVec 16) (n : Nat) (s : State) : State :=
  issue c ⟨[ra], [rd]⟩ (fun s => gload c (addrI (s.g c ra) imm) n n (.load rd) s) s

/-- R114: a part-address store of `n` bytes. -/
def storeG (c rs ra : Nat) (imm : BitVec 16) (n : Nat) (s : State) : State :=
  issue c ⟨[ra, rs], []⟩ (fun s => gstore c (addrI (s.g c ra) imm) n n [(0, leBytes n (s.g c rs))] s) s

/-- R115: an AMO. -/
def amoG (c rd ra rb fn : Nat) (scr : Bool) (s : State) : State :=
  issue c ⟨if fn = 2 then [ra, rb, rd] else [ra, rb], [rd]⟩ (fun s =>
    if scr then samo c fn rd (s.g c ra) (s.g c rb) (s.g c rd) s
    else gamo c fn rd (s.g c ra) (s.g c rb) (s.g c rd) s) s

/-- R114: LGB. -/
def execKLgb (c : Fin 1024) (rd : Fin 32) (ra : Fin 32) (imm : BitVec 16) (s : State) : Host.Outcome State Fault Refusal :=
  .next (loadG c rd ra imm 1 s)
/-- R114: LGH. -/
def execKLgh (c : Fin 1024) (rd : Fin 32) (ra : Fin 32) (imm : BitVec 16) (s : State) : Host.Outcome State Fault Refusal :=
  .next (loadG c rd ra imm 2 s)
/-- R114: LGW. -/
def execKLgw (c : Fin 1024) (rd : Fin 32) (ra : Fin 32) (imm : BitVec 16) (s : State) : Host.Outcome State Fault Refusal :=
  .next (loadG c rd ra imm 4 s)
/-- R114: LGD. -/
def execKLgd (c : Fin 1024) (rd : Fin 32) (ra : Fin 32) (imm : BitVec 16) (s : State) : Host.Outcome State Fault Refusal :=
  .next (loadG c rd ra imm 8 s)
/-- R114: SGB. -/
def execKSgb (c : Fin 1024) (rs : Fin 32) (ra : Fin 32) (imm : BitVec 16) (s : State) : Host.Outcome State Fault Refusal :=
  .next (storeG c rs ra imm 1 s)
/-- R114: SGH. -/
def execKSgh (c : Fin 1024) (rs : Fin 32) (ra : Fin 32) (imm : BitVec 16) (s : State) : Host.Outcome State Fault Refusal :=
  .next (storeG c rs ra imm 2 s)
/-- R114: SGW. -/
def execKSgw (c : Fin 1024) (rs : Fin 32) (ra : Fin 32) (imm : BitVec 16) (s : State) : Host.Outcome State Fault Refusal :=
  .next (storeG c rs ra imm 4 s)
/-- R114: SGD. -/
def execKSgd (c : Fin 1024) (rs : Fin 32) (ra : Fin 32) (imm : BitVec 16) (s : State) : Host.Outcome State Fault Refusal :=
  .next (storeG c rs ra imm 8 s)

/-- R115: AMOADD. -/
def execKAmoadd (c : Fin 1024) (rd : Fin 32) (ra : Fin 32) (rb : Fin 32) (scr : Bool) (s : State) : Host.Outcome State Fault Refusal :=
  .next (amoG c rd ra rb 0 scr s)
/-- R115: AMOSWAP. -/
def execKAmoswap (c : Fin 1024) (rd : Fin 32) (ra : Fin 32) (rb : Fin 32) (scr : Bool) (s : State) : Host.Outcome State Fault Refusal :=
  .next (amoG c rd ra rb 1 scr s)
/-- R115: AMOCAS. -/
def execKAmocas (c : Fin 1024) (rd : Fin 32) (ra : Fin 32) (rb : Fin 32) (scr : Bool) (s : State) : Host.Outcome State Fault Refusal :=
  .next (amoG c rd ra rb 2 scr s)
/-- R115: AMOMAX. -/
def execKAmomax (c : Fin 1024) (rd : Fin 32) (ra : Fin 32) (rb : Fin 32) (scr : Bool) (s : State) : Host.Outcome State Fault Refusal :=
  .next (amoG c rd ra rb 3 scr s)
/-- R115: AMOMIN. -/
def execKAmomin (c : Fin 1024) (rd : Fin 32) (ra : Fin 32) (rb : Fin 32) (scr : Bool) (s : State) : Host.Outcome State Fault Refusal :=
  .next (amoG c rd ra rb 4 scr s)
/-- R115: AMOAND. -/
def execKAmoand (c : Fin 1024) (rd : Fin 32) (ra : Fin 32) (rb : Fin 32) (scr : Bool) (s : State) : Host.Outcome State Fault Refusal :=
  .next (amoG c rd ra rb 5 scr s)
/-- R115: AMOOR. -/
def execKAmoor (c : Fin 1024) (rd : Fin 32) (ra : Fin 32) (rb : Fin 32) (scr : Bool) (s : State) : Host.Outcome State Fault Refusal :=
  .next (amoG c rd ra rb 6 scr s)

/-- R117: VLG reads all 64 bytes and writes the active ones. -/
def execKVlg (c : Fin 1024) (v : Fin 16) (ga : Fin 32) (pg : Fin 8) (disp : BitVec 14) (s : State) : Host.Outcome State Fault Refusal :=
  .next (issue c ⟨[ga, 32 + v], [32 + v]⟩
    (fun s => gload c (addrV (s.g c ga) disp) 64 64 (.vload v (s.p c pg)) s) s)
/-- R117: VSG writes the active bytes. -/
def execKVsg (c : Fin 1024) (v : Fin 16) (ga : Fin 32) (pg : Fin 8) (disp : BitVec 14) (s : State) : Host.Outcome State Fault Refusal :=
  .next (issue c ⟨[ga, 32 + v], []⟩
    (fun s => gstore c (addrV (s.g c ga) disp) 64 64 (activeRuns (s.p c pg) (s.v c v)) s) s)

end Sys2Proof.Machine
end

