-- ==== Sys2Proof/Machine/KncWords.lean ====
section
/-! DEFINITION. The instruction words of Idvoan-K (R109, R110): the command that a 32-bit word spells for a context. The
formats are named as R109 names them; a reserved value of a defined field spells no instruction. -/

namespace Sys2Proof.Machine

/-- A field of a word as a number of `n` values. -/
def wordFin (n w hi lo : Nat) [NeZero n] : Fin n := Fin.ofNat n (bitsOf w hi lo)
/-- A field of a word as bits. -/
def wordBits (n w lo : Nat) : BitVec n := BitVec.ofNat n (w / 2 ^ lo)

/-- R111: MAJ 0x01, format R. -/
def wordScalar (c : Fin 1024) (w : Nat) : Option Instr :=
  let rd := wordFin 32 w 25 21
  let ra := wordFin 32 w 20 16
  let rb := wordFin 32 w 15 11
  if bitAt w 10 then none
  else match bitsOf w 5 0 with
  | 0x00 => some (.kAdd c rd ra rb)
  | 0x01 => some (.kSub c rd ra rb)
  | 0x02 => some (.kAnd c rd ra rb)
  | 0x03 => some (.kOr c rd ra rb)
  | 0x04 => some (.kXor c rd ra rb)
  | 0x05 => some (.kSll c rd ra rb)
  | 0x06 => some (.kSrl c rd ra rb)
  | 0x07 => some (.kSra c rd ra rb)
  | 0x08 => some (.kSlt c rd ra rb)
  | 0x09 => some (.kSltu c rd ra rb)
  | 0x0A => some (.kMin c rd ra rb)
  | 0x0B => some (.kMax c rd ra rb)
  | 0x0C => some (.kMul c rd ra rb)
  | 0x0D => some (.kMulh c rd ra rb)
  | 0x0E => some (.kMulhu c rd ra rb)
  | 0x0F => some (.kDiv c rd ra rb)
  | 0x10 => some (.kRem c rd ra rb)
  | 0x11 => some (.kClz c rd ra)
  | 0x12 => some (.kPopc c rd ra)
  | 0x13 => some (.kSextb c rd ra)
  | 0x14 => some (.kSexth c rd ra)
  | 0x15 => some (.kSextw c rd ra)
  | 0x16 => some (.kAdds c rd ra rb)
  | 0x17 => some (.kCtz c rd ra)
  | 0x18 => some (.kRq8 c rd ra rb)
  | 0x19 => some (.kRq16 c rd ra rb)
  | 0x1A => some (.kRq32 c rd ra rb)
  | _ => none

/-- R113, R114: format I: MAJ 0x02 to 0x08, 0x10 to 0x1F and 0x35. -/
def wordImm (c : Fin 1024) (maj w : Nat) : Option Instr :=
  let rd := wordFin 32 w 25 21
  let ra := wordFin 32 w 20 16
  let imm := wordBits 16 w 0
  match maj with
  | 0x02 => some (.kAddi c rd ra imm)
  | 0x03 => some (.kAndi c rd ra imm)
  | 0x04 => some (.kOri c rd ra imm)
  | 0x05 => some (.kXori c rd ra imm)
  | 0x06 => some (.kSlti c rd ra imm)
  | 0x07 => if bitsOf w 15 14 = 3 then none else some (.kShi c rd ra imm)
  | 0x08 => some (.kShori c rd ra imm)
  | 0x10 => some (.kLsb c rd ra imm)
  | 0x11 => some (.kLsh c rd ra imm)
  | 0x12 => some (.kLsw c rd ra imm)
  | 0x13 => some (.kLsd c rd ra imm)
  | 0x14 => some (.kSsb c rd ra imm)
  | 0x15 => some (.kSsh c rd ra imm)
  | 0x16 => some (.kSsw c rd ra imm)
  | 0x17 => some (.kSsd c rd ra imm)
  | 0x18 => some (.kLgb c rd ra imm)
  | 0x19 => some (.kLgh c rd ra imm)
  | 0x1A => some (.kLgw c rd ra imm)
  | 0x1B => some (.kLgd c rd ra imm)
  | 0x1C => some (.kSgb c rd ra imm)
  | 0x1D => some (.kSgh c rd ra imm)
  | 0x1E => some (.kSgw c rd ra imm)
  | 0x1F => some (.kSgd c rd ra imm)
  | 0x35 => some (.kJalr c rd ra imm)
  | _ => none

/-- R115: MAJ 0x20, format R. -/
def wordAmo (c : Fin 1024) (w : Nat) : Option Instr :=
  let rd := wordFin 32 w 25 21
  let ra := wordFin 32 w 20 16
  let rb := wordFin 32 w 15 11
  let scr := bitAt w 10
  match bitsOf w 5 0 with
  | 0 => some (.kAmoadd c rd ra rb scr)
  | 1 => some (.kAmoswap c rd ra rb scr)
  | 2 => some (.kAmocas c rd ra rb scr)
  | 3 => some (.kAmomax c rd ra rb scr)
  | 4 => some (.kAmomin c rd ra rb scr)
  | 5 => some (.kAmoand c rd ra rb scr)
  | 6 => some (.kAmoor c rd ra rb scr)
  | _ => none

/-- R117: MAJ 0x24 to 0x27, format VM. -/
def wordVecMem (c : Fin 1024) (maj w : Nat) : Option Instr :=
  let v := wordFin 16 w 25 22
  let ga := wordFin 32 w 21 17
  let pg := wordFin 8 w 16 14
  let disp := wordBits 14 w 0
  match maj with
  | 0x24 => some (.kVls c v ga pg disp)
  | 0x25 => some (.kVss c v ga pg disp)
  | 0x26 => some (.kVlg c v ga pg disp)
  | 0x27 => some (.kVsg c v ga pg disp)
  | _ => none

/-- R118: MAJ 0x28, format V. -/
def wordVec (c : Fin 1024) (w : Nat) : Option Instr :=
  let vd := wordFin 16 w 25 22
  let va := wordFin 16 w 21 18
  let vb := wordFin 16 w 17 14
  let pg := wordFin 8 w 13 11
  let es := wordFin 4 w 10 9
  let zm := bitAt w 8
  match bitsOf w 5 0 with
  | 0x00 => some (.kVadd c vd va vb pg es zm)
  | 0x01 => some (.kVsub c vd va vb pg es zm)
  | 0x02 => some (.kVadds c vd va vb pg es zm)
  | 0x03 => some (.kVsubs c vd va vb pg es zm)
  | 0x04 => some (.kVmul c vd va vb pg es zm)
  | 0x05 => some (.kVmin c vd va vb pg es zm)
  | 0x06 => some (.kVmax c vd va vb pg es zm)
  | 0x07 => some (.kVand c vd va vb pg es zm)
  | 0x08 => some (.kVor c vd va vb pg es zm)
  | 0x09 => some (.kVxor c vd va vb pg es zm)
  | 0x0A => some (.kVsll c vd va vb pg es zm)
  | 0x0B => some (.kVsrl c vd va vb pg es zm)
  | 0x0C => some (.kVsra c vd va vb pg es zm)
  | 0x0D => some (.kVclz c vd va pg es zm)
  | 0x0E => some (.kVabs c vd va pg es zm)
  | 0x0F => some (.kVmov c vd va pg es zm)
  | 0x10 => if es = 0 then none else some (.kVwidl c vd va pg es zm)
  | 0x11 => if es = 0 then none else some (.kVwidh c vd va pg es zm)
  | 0x12 => if es = 2 then some (.kVdot4 c vd va vb pg es zm) else none
  | 0x13 => some (.kVpfx c vd va pg es zm)
  | _ => none

/-- R119: MAJ 0x29, format VC. -/
def wordCmp (c : Fin 1024) (w : Nat) : Option Instr :=
  if 6 ≤ bitsOf w 8 6 then none
  else some (.kVcmp c (wordFin 8 w 25 23) (wordFin 16 w 21 18) (wordFin 16 w 17 14) (wordFin 8 w 13 11) (wordFin 4 w 10 9)
    (wordFin 8 w 8 6))

/-- R120: MAJ 0x2A, format VR. -/
def wordRed (c : Fin 1024) (w : Nat) : Option Instr :=
  let rd := wordFin 32 w 25 21
  let va := wordFin 16 w 20 17
  let pg := wordFin 8 w 16 14
  let es := wordFin 4 w 13 12
  match bitsOf w 2 0 with
  | 0 => some (.kVredSum c rd va pg es)
  | 1 => some (.kVredMax c rd va pg es)
  | 2 => some (.kVredMin c rd va pg es)
  | 3 => some (.kVredArgmax c rd va pg es)
  | 4 => some (.kVredArgmin c rd va pg es)
  | 5 => some (.kVredPopc c rd va pg es)
  | _ => none

/-- R120: MAJ 0x2B, format VG. -/
def wordLane (c : Fin 1024) (w : Nat) : Option Instr :=
  let v := wordFin 16 w 25 22
  let g := wordFin 32 w 21 17
  let lane := wordFin 64 w 16 11
  let es := wordFin 4 w 10 9
  let far := laneCount es ≤ lane.val
  match bitsOf w 5 0 with
  | 0 => some (.kVbcast c v g (wordFin 8 w 8 6) es)
  | 1 => if far then none else some (.kVextr c g v lane es)
  | 2 => if far then none else some (.kVins c v g lane es)
  | _ => none

/-- R119: MAJ 0x2C, format P. -/
def wordPred (c : Fin 1024) (w : Nat) : Option Instr :=
  let pd := wordFin 8 w 25 23
  let pa := wordFin 8 w 22 20
  let pb := wordFin 8 w 19 17
  let g := wordFin 32 w 12 8
  match bitsOf w 2 0 with
  | 0 => some (.kPand c pd pa pb)
  | 1 => some (.kPor c pd pa pb)
  | 2 => some (.kPxor c pd pa pb)
  | 3 => some (.kPandn c pd pa pb)
  | 4 => some (.kPnot c pd pa)
  | 5 => some (.kPtog c g pa)
  | 6 => some (.kGtop c pd g)
  | _ => none

/-- R122, R123: MAJ 0x2D, format L. -/
def wordLut (c : Fin 1024) (w : Nat) : Option Instr :=
  let vd := wordFin 16 w 25 22
  let va := wordFin 16 w 21 18
  let tbl := wordFin 4 w 17 16
  let pg := wordFin 8 w 15 13
  match bitsOf w 2 0 with
  | 0 => some (.kLut c vd va tbl pg)
  | 1 => some (.kLutn c vd va tbl pg)
  | 2 => some (.kLutld c tbl (wordFin 32 w 12 8))
  | _ => none

/-- R121: MAJ 0x2E, format VQ. -/
def wordVrq (c : Fin 1024) (w : Nat) : Instr :=
  .kVrq c (wordFin 16 w 25 22) (wordFin 16 w 21 18) (wordFin 32 w 17 13) (wordFin 8 w 12 10) (wordFin 4 w 9 8)

/-- R116: MAJ 0x30 to 0x34 and 0x36, formats B and BP. -/
def wordBranch (c : Fin 1024) (maj w : Nat) : Option Instr :=
  let r := wordFin 32 w 25 21
  let off := wordBits 21 w 0
  match maj with
  | 0x30 => some (.kBeqz c r off)
  | 0x31 => some (.kBnez c r off)
  | 0x32 => some (.kBltz c r off)
  | 0x33 => some (.kBgez c r off)
  | 0x34 => some (.kJal c r off)
  | 0x36 => some (.kBp c (wordFin 8 w 25 23) (bitAt w 22) off)
  | _ => none

/-- R124: MAJ 0x39, format T. -/
def wordTile (c : Fin 1024) (w : Nat) : Option Instr :=
  let rd := wordFin 32 w 25 21
  let mxp := wordFin 4 w 14 13
  let q := wordFin 4 w 12 11
  if mxp = 3 then none
  else match bitsOf w 2 0 with
  | 0 => some (.kTqpush c rd (wordFin 16 w 20 17) (wordFin 4 w 16 15) mxp q (bitAt w 10))
  | 1 => some (.kTqstat c rd mxp q)
  | 2 => some (.kTqcancel c rd mxp q)
  | 3 => some (.kTqdepth c rd mxp q)
  | _ => none

/-- R126, R127: MAJ 0x3A, format S. -/
def wordSystem (c : Fin 1024) (w : Nat) : Option Instr :=
  let rd := wordFin 32 w 25 21
  let ra := wordFin 32 w 20 16
  let sel := wordBits 12 w 4
  let v := wordFin 16 w 15 12
  match bitsOf w 3 0 with
  | 0 => some (.kCsrr c rd sel)
  | 1 => some (.kCsrw c ra sel)
  | 2 => some (.kWaitev c rd ra)
  | 3 => some (.kYield c)
  | 4 => some (.kStop c ra)
  | 5 => some (.kBrk c)
  | 6 => some (.kRng c rd)
  | 7 => some (.kIntk c rd v)
  | 8 => some (.kCmpl c rd ra v)
  | _ => none

/-- R109, R110: the instruction that a word spells for a context; none for a reserved encoding. -/
def kneaderWord (c : Fin 1024) (w : Nat) : Option Instr :=
  let maj := bitsOf w 31 26
  match maj with
  | 0x01 => wordScalar c w
  | 0x20 => wordAmo c w
  | 0x28 => wordVec c w
  | 0x29 => wordCmp c w
  | 0x2A => wordRed c w
  | 0x2B => wordLane c w
  | 0x2C => wordPred c w
  | 0x2D => wordLut c w
  | 0x2E => some (wordVrq c w)
  | 0x38 => some (.kFence c (wordBits 4 w 0) (bitAt w 4))
  | 0x39 => wordTile c w
  | 0x3A => wordSystem c w
  | _ => ((wordImm c maj w).orElse fun _ => wordVecMem c maj w).orElse fun _ => wordBranch c maj w

end Sys2Proof.Machine
end

