-- ==== Sys2Proof/Machine/KncSys.lean ====
section
/-! DEFINITION. The meanings of the fence, tile-queue, intake and system instructions of Idvoan-K (R124 to R127, R130,
R132), of a reserved encoding (R110), and of the writes of a context's and a core's control registers (R104, R133, R135). -/

namespace Sys2Proof.Machine

/-! ### Held errors and fences -/

/-- R131: FENCE, WAITEV and STOP take the first held error. -/
def withErrs (c : Nat) (s : State) (f : Unit → Eff) : Eff :=
  match (s.kc c).errs with
  | e :: _ => .away (takeErr c e s)
  | [] => f ()

/-- R129: the access counts as a load. -/
def CtxAcc.isLoad (a : CtxAcc) : Bool :=
  match a.kind with
  | .store => false
  | _ => true
/-- R129: the access counts as a store. -/
def CtxAcc.isStore (a : CtxAcc) : Bool :=
  match a.kind with
  | .store => true
  | .amo _ _ _ _ => true
  | _ => false

/-- R130: an outstanding access of a selected prior class, where a later class is selected. -/
def State.fenceWaits (s : State) (c mask : Nat) : Bool :=
  (bitAt mask 2 || bitAt mask 3) &&
    (s.kc c).out.any fun a => (bitAt mask 0 && a.isLoad) || (bitAt mask 1 && a.isStore)

/-- R130: FENCE. IF discards an instruction cache that the model does not hold. -/
def execKFence (c : Fin 1024) (mask : BitVec 4) (_ifl : Bool) (s : State) : Host.Outcome State Fault Refusal :=
  .next (issue c ⟨[], []⟩ (fun s => withErrs c s fun _ =>
    if s.fenceWaits c mask.toNat then .hold else .done s) s)

/-! ### Tile queues (R124, R125) -/

/-- R124: the MXE at a position of the context's crew. -/
def tqMxe (c mxp : Nat) : Nat := 3 * ctxCrew c + mxp

/-- R124: the checks that every tile-queue instruction makes. -/
def tqGate (c mxp q : Nat) (s : State) (f : Nat → Eff) : Eff :=
  let m := tqMxe c mxp
  if mxp = 3 then .excFree Cause.illegal s
  else if !s.qBound m q || s.fld (R.MXE_QCTL m q) F.MXE_QCTL_OWNER_CTX != c then .excFree Cause.queue s
  else f m

/-- R125: an earlier store of the context to its crew's slice has not been written. -/
def State.sliceOwed (s : State) (c : Nat) : Bool :=
  (s.kc c).out.any fun a => a.isStore && spaceOf a.addr == .t0 && spaceOff a.addr / sliceSize == ctxCrew c &&
    (a.state == .parked || s.heldByOn (.ctx c) a.addr a.size)

/-- R78: places of a queue. -/
def queuePlaces : Nat := 64

/-- R77, R78: a queue accepts a push: a place is free, and it does not read cancelling. -/
def State.accepts (s : State) (m q : Nat) : Bool := decide ((s.mq m q).depth < queuePlaces) && s.qState m q != 5

/-- R124: push a command. -/
def tqPush (m q : Nat) (cmd : BitVec 128) (s : State) : State :=
  updQ m q (fun y => { y with waiting := y.waiting ++ [cmd] }) s

/-- R124: bytes 16 × QTR to 16 × QTR + 15 of a vector register. -/
def State.tqCommand (s : State) (c v qtr : Nat) : BitVec 128 := BitVec.ofNat 128 (leAt (s.v c v) (16 * qtr) 16)

/-- R124, R125: TQPUSH. -/
def execKTqpush (c : Fin 1024) (rd : Fin 32) (v : Fin 16) (qtr mxp q : Fin 4) (nb : Bool) (s : State) :
    Host.Outcome State Fault Refusal :=
  .next (issue c ⟨[32 + v], [rd]⟩ (fun s => tqGate c mxp q s fun m =>
    if s.sliceOwed c then .hold
    else
      let cmd := s.tqCommand c v qtr
      if s.accepts m q then .done (setG c rd 1 (tqPush m q cmd s))
      else if nb then .done (setG c rd 0 s)
      else .away (setCtxState c 3 (updCtx c (fun x => { x with wait := .push rd m q cmd }) s))) s)

/-- R103, R125, R127: a waiting instruction of a context completes with a value for rd. -/
def wake (c rd v : Nat) (s : State) : State :=
  let s := setCtxState c 2 (updCtx c (fun x => { x with wait := .none }) s)
  retire c (s.reg (ctxPc c) + 4) (setG c rd v s)

/-- R125: a waiting TQPUSH resumes: a place is free, or the queue is cancelled or no longer the context's, and then
nothing is pushed. -/
def execKTqpushResume (c : Fin 1024) (s : State) : Host.Outcome State Fault Refusal :=
  .next (if s.ctxState c ≠ 3 ∨ !s.computeOpen ∨ !s.crewUp (ctxCrew c) then s
    else match (s.kc c).wait with
    | .push rd m q cmd =>
      let gone := !s.qBound m q || s.fld (R.MXE_QCTL m q) F.MXE_QCTL_OWNER_CTX != c.val || (s.mq m q).closing != .none
      if gone then wake c rd 0 s
      else if s.accepts m q then wake c rd 1 (tqPush m q cmd s)
      else s
    | _ => s)

/-- R124: TQSTAT takes the oldest status entry. -/
def execKTqstat (c : Fin 1024) (rd : Fin 32) (mxp q : Fin 4) (s : State) : Host.Outcome State Fault Refusal :=
  .next (issue c ⟨[], [rd]⟩ (fun s => tqGate c mxp q s fun m =>
    match (s.mq m q).entries with
    | [] => .done (setG c rd ones64 s)
    | e :: rest => .done (setG c rd e.toNat (updQ m q (fun y => { y with entries := rest }) s))) s)

/-- R124, R70: TQCANCEL. -/
def execKTqcancel (c : Fin 1024) (rd : Fin 32) (mxp q : Fin 4) (s : State) : Host.Outcome State Fault Refusal :=
  .next (issue c ⟨[], [rd]⟩ (fun s => tqGate c mxp q s fun m =>
    if s.qState m q = 0 then .done (setG c rd 0 s)
    else .done (setG c rd 1 (startCancel m q St.aborted s))) s)

/-- R124: TQDEPTH. -/
def execKTqdepth (c : Fin 1024) (rd : Fin 32) (mxp q : Fin 4) (s : State) : Host.Outcome State Fault Refusal :=
  .next (issue c ⟨[], [rd]⟩ (fun s => tqGate c mxp q s fun m => .done (setG c rd (s.mq m q).depth s)) s)

/-! ### CSRs (R127) -/

/-- R127: SEL of LUTCFGt. -/
def lutSel (sel : Nat) : Option Nat := if 0x10 ≤ sel ∧ sel ≤ 0x13 then some (sel - 0x10) else none

/-- R127: CSRR. -/
def execKCsrr (c : Fin 1024) (rd : Fin 32) (sel : BitVec 12) (s : State) : Host.Outcome State Fault Refusal :=
  .next (issue c ⟨[], [rd]⟩ (fun s =>
    let give (v : Nat) : Eff := .done (setG c rd (v % 2 ^ 64) s)
    match sel.toNat with
    | 0 => give c
    | 1 => give (s.ctxTenant c)
    | 2 => give s.nclk
    | 3 => give (s.kc c).instret
    | 4 => give (s.kc c).timer
    | 5 => give (s.kc c).rng.toNat
    | n => match lutSel n with
      | some t => if s.lutDenied c t then .excFree Cause.priv s else give (s.reg (R.KNC_LUTCFG (coreOf c) t))
      | none => .excFree Cause.illegal s) s)

/-- R122: a value that LUTCFGt does not take. -/
def lutCfgBad (v : Nat) : Bool := decide (bitsOf v 36 32 > 24) || bitsOf v 38 37 == 3

/-- R122: the fields of LUTCFGt. -/
def lutCfgBits (v : Nat) : Nat := bitsOf v 43 40 * 2 ^ 40 + bitsOf v 38 0

/-- R127, R105: CSRW. -/
def execKCsrw (c : Fin 1024) (ra : Fin 32) (sel : BitVec 12) (s : State) : Host.Outcome State Fault Refusal :=
  .next (issue c ⟨[ra], []⟩ (fun s =>
    let v := s.g c ra
    match sel.toNat with
    | 4 => .done (updCtx c (fun x => { x with timer := v }) s)
    | 5 => .done (updCtx c (fun x => { x with rng := BitVec.ofNat 64 (if v = 0 then 1 else v) }) s)
    | n => match lutSel n with
      | some t =>
        if s.lutDenied c t then .excFree Cause.priv s
        else if lutCfgBad v then .excFree Cause.operand s
        else .done (setReg (R.KNC_LUTCFG (coreOf c) t) (lutCfgBits v) s)
      | none => .excFree Cause.illegal s) s)

/-! ### Waiting (R127) -/

/-- R126: completions a context may have offered and not yet sent. -/
def unsentMax : Nat := 16

/-- R127: the pending events of a context. -/
def State.ctxPending (s : State) (c : Nat) : Nat :=
  let x := s.kc c
  let qs := s.ownedQueues c
  (!x.intake.isEmpty).toNat + (qs.any fun i => !(s.mq (i / 4) (i % 4)).entries.isEmpty).toNat * 2 +
    (qs.any fun i => decide ((s.mq (i / 4) (i % 4)).depth < queuePlaces)).toNat * 4 + x.supEvt.toNat * 8 +
    (decide (x.timer ≤ s.nclk)).toNat * 16 + (decide (x.unsent.length < unsentMax)).toNat * 32

/-- R127: bit 3 clears when it is reported. -/
def reported (c hit : Nat) (s : State) : State :=
  if bitAt hit 3 then updCtx c (fun x => { x with supEvt := false }) s else s

/-- R127: WAITEV. -/
def execKWaitev (c : Fin 1024) (rd ra : Fin 32) (s : State) : Host.Outcome State Fault Refusal :=
  .next (issue c ⟨[ra], [rd]⟩ (fun s => withErrs c s fun _ =>
    let mask := s.g c ra
    let hit := s.ctxPending c &&& mask
    if mask = 0 then .done (setG c rd 0 s)
    else if hit ≠ 0 then .done (setG c rd hit (reported c hit s))
    else .away (setCtxState c 3 (updCtx c (fun x => { x with wait := .event rd mask }) s))) s)

/-- R127: a waiting WAITEV sees a selected event. -/
def execKWaitevWake (c : Fin 1024) (s : State) : Host.Outcome State Fault Refusal :=
  .next (if s.ctxState c ≠ 3 ∨ !s.computeOpen ∨ !s.crewUp (ctxCrew c) then s
    else match (s.kc c).wait with
    | .event rd mask =>
      let hit := s.ctxPending c &&& mask
      if hit = 0 then s else wake c rd hit (reported c hit s)
    | _ => s)

/-- R127: YIELD gives up the issue cycle, and nothing else. -/
def execKYield (c : Fin 1024) (s : State) : Host.Outcome State Fault Refusal := .next (issue c ⟨[], []⟩ (fun s => .done s) s)

/-- R127, R131: STOP waits for the accesses before it, whose errors are taken at it. -/
def execKStop (c : Fin 1024) (ra : Fin 32) (s : State) : Host.Outcome State Fault Refusal :=
  .next (issue c ⟨[ra], []⟩ (fun s => withErrs c s fun _ =>
    if !(s.kc c).out.isEmpty then .hold
    else .away (stopCtx c 1 Cause.stopped (s.reg (ctxPc c)) (s.g c ra) s)) s)

/-- R127: BRK raises a BREAK exception. -/
def execKBrk (c : Fin 1024) (s : State) : Host.Outcome State Fault Refusal :=
  .next (issue c ⟨[], []⟩ (fun s => .excFree Cause.brk s) s)

/-- R127: RNG. -/
def execKRng (c : Fin 1024) (rd : Fin 32) (s : State) : Host.Outcome State Fault Refusal :=
  .next (issue c ⟨[], [rd]⟩ (fun s =>
    let x := rngStep (s.kc c).rng
    .done (setG c rd x.toNat (updCtx c (fun y => { y with rng := x }) s))) s)

/-! ### Intake and completions (R126) -/

/-- R126: INTK. -/
def execKIntk (c : Fin 1024) (rd : Fin 32) (v : Fin 16) (s : State) : Host.Outcome State Fault Refusal :=
  .next (issue c ⟨[], [rd, 32 + v]⟩ (fun s =>
    match (s.kc c).intake with
    | [] => .done (setG c rd 0 s)
    | e :: rest =>
      let s := syncIntake c (updCtx c (fun x => { x with intake := rest }) s)
      .done (pushNotices (setG c rd 1 (setV c v (sliceBytes e 0 64) s)))) s)

/-- R126, R271, R272: CMPL. -/
def execKCmpl (c : Fin 1024) (rd ra : Fin 32) (v : Fin 16) (s : State) : Host.Outcome State Fault Refusal :=
  .next (issue c ⟨[ra, 32 + v], [rd]⟩ (fun s =>
    if (s.kc c).unsent.length < unsentMax then
      .done (setG c rd 1 (acceptCompletion c (bitsOf (s.g c ra) 41 0) (sliceBytes (s.v c v) 0 16) s))
    else .done (setG c rd 0 s)) s)

/-! ### Reserved encodings (R109, R110) -/

/-- R109, R110: the word is no instruction of Idvoan-K. -/
def illegalWord (w : Nat) : Bool := (kneaderWord 0 w).isNone

/-- R107, R109: the instruction that the word at a context's PC spells, where memory holds one. -/
def State.atPc (s : State) (c : Fin 1024) : Option Instr := kneaderWord c (leNat (memGets s.mem (s.reg (ctxPc c)) 4))

/-- R110: a reserved encoding stops the context before it has any effect. -/
def execIllegalInstruction (c : Fin 1024) (word : BitVec 32) (s : State) : Host.Outcome State Fault Refusal :=
  .next (if illegalWord word.toNat then issue c ⟨[], []⟩ (fun s => .excFree Cause.illegal s) s else s)

/-! ### Control registers -/

/-- R104: KNC_CTX_CTL_WRITE. -/
def execKncCtxCtlWrite (who : Who) (c : Fin 1024) (val : BitVec 64) (s : State) : Host.Outcome State Fault Refusal :=
  .next (kncCtlWrite who c val.toNat s)
/-- R132: CTX_START. -/
def execCtxStart (who : Who) (c : Fin 1024) (s : State) : Host.Outcome State Fault Refusal := .next (ctxStart who c s)
/-- R133: CTX_STOP. -/
def execCtxStop (who : Who) (c : Fin 1024) (s : State) : Host.Outcome State Fault Refusal := .next (ctxStop who c s)
/-- R135: CTX_CLEAR. -/
def execCtxClear (who : Who) (c : Fin 1024) (s : State) : Host.Outcome State Fault Refusal := .next (ctxClear who c s)
/-- R135: KNC_CNT_CLEAR. -/
def execKncCntClear (who : Who) (k : Fin 256) (s : State) : Host.Outcome State Fault Refusal :=
  .next (blockDo who (R.KNC_CNT_CLEAR k).off (kncCntClear k) s)

end Sys2Proof.Machine
end

