-- ==== Sys2Proof/Machine/Nvme.lean ====
section
/-! DEFINITION. What the SSDs of the deep lode answer (R168). -/

namespace Sys2Proof.Machine

/-- R168: a command ends, for its engine or its pool page. -/
def nvmeDone (c : NvmeCmd) (ok : Bool) (s : State) : State :=
  let s' := nvmeEnd c ok s
  if c.owner < 1024 ∨ c.owner = orphanOwner then s'
  else poolNvmeEnd c ok { s' with t3 := { s'.t3 with ends := s.t3.ends } }

/-- R168: every command that an SSD has ends in failure. -/
def nvmeFailAll (port : Nat) (s : State) : State :=
  (s.t3.cmds.filter fun c => c.port == port).foldl (fun s c => nvmeDone c false s) s

/-- R167, R168: an SSD is ready, and Identify has answered: the part creates its queues. A namespace without a usable format
is not used. -/
def ssdReady (port units : Nat) (usable volatile : Bool) (s : State) : State :=
  let d := s.ssd port
  if !d.present || d.outOfService then s
  else if usable then
    qosRefresh (updSsd port (fun d => { d with ready := true, volatile, units, queues := nvmeQueuePairs, resetAt := none }) s)
  else nvmeEvent port 0 (updSsd port (fun d => { d with ready := false, queues := 0, resetAt := none }) s)

/-- R168: an SSD posts a completion: a write on a volatile cache then takes a Flush. -/
def ssdCompletion (port id : Nat) (ok : Bool) (s : State) : State :=
  match (s.nvmeQueued port).find? fun c => c.id == id with
  | none => s
  | some c =>
    if c.write && ok && (s.ssd port).volatile && !c.flush then
      let cmds := s.t3.cmds.map fun x => if x.id = c.id then { x with flush := true } else x
      { s with t3 := { s.t3 with cmds := cmds } }
    else nvmeDone c ok s

/-- R168: an SSD's completion. -/
def execNvmeCompletion (port : Fin 4) (id : Nat) (res : NvmeResult) (s : State) : Host.Outcome State Fault Refusal :=
  .next (match res with
    | .ready units usable volatile => ssdReady port units usable volatile s
    | .io ok => ssdCompletion port id ok s)

/-- R168: the time within which a command is complete, in NCLK cycles. -/
def nvmeLimit : Nat := usCycles 8000000

/-- R168: the time within which an SSD is ready again after a reset of its controller. -/
def nvmeResetLimit : Nat := usCycles 30000000

/-- R168: a command not complete within 8 s is aborted, and the SSD's controller is reset. -/
def execNvmeCommandTimeout (port : Fin 4) (id : Nat) (s : State) : Host.Outcome State Fault Refusal :=
  .next (match s.t3.cmds.find? fun c => c.port == port.val && c.id == id with
    | none => s
    | some c =>
      if s.nclk < c.time + nvmeLimit then s
      else
        let s := nvmeFailAll port s
        let now := s.nclk
        let s := updSsd port (fun d => { d with ready := false, queues := 0, resetAt := some now }) s
        qosRefresh (nvmeEvent port 2 (nvmeEvent port 1 s)))

/-- R168, R430: the moment from which an SSD that is not ready has 30 s: its controller's reset, or compute release. -/
def State.ssdSince (s : State) (d : Ssd) : Nat := d.resetAt.getD s.mgmt.computeAt

/-- R168, R430: an SSD that has not become ready in time is taken out of service. -/
def execNvmeResetTimeout (port : Fin 4) (s : State) : Host.Outcome State Fault Refusal :=
  let d := s.ssd port
  .next (if !d.present || d.ready || d.outOfService || !s.computeOpen || decide (s.nclk < s.ssdSince d + nvmeResetLimit) then s
    else qosRefresh (nvmeEvent port 3 (updSsd port (fun d => { d with outOfService := true }) (nvmeFailAll port s))))

end Sys2Proof.Machine
end

