-- ==== Sys2Proof/Machine/Sideband.lean ====
section
/-! DEFINITION. Attestation (R407 to R409) and the MCTP control commands (R410). The manual cites DMTF SPDM 1.2 and MCTP
1.3 and restates neither: the messages' layouts are those standards' (log 71), and a byte that neither the manual nor the
layout fixes is a free value. -/

namespace Sys2Proof.Machine

/-- Send a reply: over DOE (0) or the sideband (1). -/
def reply (path : Nat) (msg : List Byte) (s : State) : State := send (.reply { path, msg }) s

/-- The SPDM connection of a transport. -/
def State.spdm (s : State) (mctp : Bool) : Spdm := if mctp then s.mgmt.mctp else s.mgmt.doe
/-- Change the SPDM connection of a transport. -/
def updSpdm (mctp : Bool) (f : Spdm → Spdm) (s : State) : State :=
  updMgmt (fun m => if mctp then { m with mctp := f m.mctp } else { m with doe := f m.doe }) s

/-- SPDM 1.2: a message's header. -/
def spdmHeader (code p1 p2 : Nat) : List Byte := leBytes 1 0x12 ++ leBytes 1 code ++ leBytes 1 p1 ++ leBytes 1 p2

/-- SPDM 1.2: an ERROR message. -/
def spdmError (code : Nat) : List Byte := spdmHeader 0x7F code 0

/-- SPDM 1.2 error codes: InvalidRequest, Busy, UnexpectedRequest, UnsupportedRequest, VersionMismatch. -/
abbrev SpdmErr.invalid : Nat := 0x01
/-- Busy. -/
abbrev SpdmErr.busy : Nat := 0x03
/-- UnexpectedRequest. -/
abbrev SpdmErr.unexpected : Nat := 0x04
/-- VersionMismatch. -/
abbrev SpdmErr.version : Nat := 0x41

/-- R409: the transport of a number. -/
def spdmPath (mctp : Bool) : Nat := if mctp then 1 else 0

/-- R407: bytes of a message over a transport. -/
def spdmTransfer (mctp : Bool) : Nat := if mctp then 1024 else 4096

/-- R409: a request reaches the part: over the sideband, or over DOE on PF0 once it answers configuration requests. -/
def State.spdmReaches (s : State) (mctp : Bool) : Bool :=
  s.mgmt.released && (mctp || (s.hp0Up && s.mgmt.cfgOpen))

/-- R396, R406, R407: a request of a code is answered by the leading foreman: Busy while none leads; nothing while the
leader is in recovery; an error where the request is malformed or out of order; else by `f`. -/
def spdmAnswer (mctp : Bool) (code need len : Nat) (req : List Byte) (f : State → List Byte × State) (s : State) : State :=
  let path := spdmPath mctp
  if !s.spdmReaches mctp then s
  else match s.leader with
    | none => reply path (spdmError SpdmErr.busy) s
    | some l =>
      if s.bootState l != 2 then s
      else if req.length < len ∨ leAt req 1 1 ≠ code then reply path (spdmError SpdmErr.invalid) s
      else if leAt req 0 1 ≠ (if code = 0x84 then 0x10 else 0x12) then reply path (spdmError SpdmErr.version) s
      else if (s.spdm mctp).stage < need then reply path (spdmError SpdmErr.unexpected) s
      else
        let (m, s) := f s
        reply path m s

/-- R407: GET_VERSION: a connection starts anew; version 1.2 only. -/
def execSpdmGetVersion (mctp : Bool) (req : List Byte) (s : State) : Host.Outcome State Fault Refusal :=
  .next (spdmAnswer mctp 0x84 0 4 req (fun s =>
    let m := leBytes 1 0x10 ++ leBytes 1 0x04 ++ leBytes 2 0 ++ leBytes 1 0 ++ leBytes 1 1 ++ leBytes 2 0x1200
    (m, updSpdm mctp (fun _ => { stage := 1, conn := req ++ m, certs := [], meas := [] }) s)) s)

/-- SPDM 1.2: the capability flags that R407 takes: certificates, challenge, and measurements with a signature. -/
def spdmFlags : Nat := 2 ^ 1 + 2 ^ 2 + 2 ^ 4

/-- R407: GET_CAPABILITIES. CTExponent is open. -/
def execSpdmGetCapabilities (mctp : Bool) (req : List Byte) (s : State) : Host.Outcome State Fault Refusal :=
  .next (spdmAnswer mctp 0xE1 1 20 req (fun s =>
    let (ct, s) := freshBytes 1 s
    let m := spdmHeader 0x61 0 0 ++ leBytes 1 0 ++ ct ++ leBytes 2 0 ++ leBytes 4 spdmFlags ++
      leBytes 4 (spdmTransfer mctp) ++ leBytes 4 (spdmTransfer mctp)
    (m, updSpdm mctp (fun x => { x with stage := 2, conn := x.conn ++ req ++ m }) s)) s)

/-- R407: NEGOTIATE_ALGORITHMS: ECDSA on P-256 with SHA-256, where the requester offers them. -/
def execSpdmNegotiate (mctp : Bool) (req : List Byte) (s : State) : Host.Outcome State Fault Refusal :=
  .next (spdmAnswer mctp 0xE3 2 32 req (fun s =>
    let asym := if bitAt (leAt req 8 4) 4 then 0x10 else 0
    let hash := if bitAt (leAt req 12 4) 0 then 1 else 0
    let m := spdmHeader 0x63 0 0 ++ leBytes 2 36 ++ leBytes 1 (leAt req 6 1 % 2) ++ leBytes 1 0 ++ leBytes 4 2 ++
      leBytes 4 asym ++ leBytes 4 hash ++ leBytes 12 0 ++ leBytes 4 0
    (m, updSpdm mctp (fun x => { x with stage := 3, conn := x.conn ++ req ++ m }) s)) s)

/-- R399, R407: GET_DIGESTS: slot 0 only; a chain whose leaf does not carry the identity key is not served. -/
def execSpdmGetDigests (mctp : Bool) (req : List Byte) (s : State) : Host.Outcome State Fault Refusal :=
  .next (spdmAnswer mctp 0x81 3 4 req (fun s =>
    let m := if s.chainOk then spdmHeader 0x01 0 1 ++ Config.sha256 s.chain else spdmError SpdmErr.unexpected
    (m, updSpdm mctp (fun x => { x with certs := x.certs ++ req ++ m }) s)) s)

/-- R399, R407: GET_CERTIFICATE: a portion of the chain of slot 0. -/
def execSpdmGetCertificate (mctp : Bool) (req : List Byte) (s : State) : Host.Outcome State Fault Refusal :=
  .next (spdmAnswer mctp 0x82 3 8 req (fun s =>
    let c := s.chain
    let off := leAt req 4 2
    if leAt req 2 1 % 16 ≠ 0 ∨ !s.chainOk ∨ c.length ≤ off then (spdmError SpdmErr.invalid, s)
    else
      let n := min (min (leAt req 6 2) (c.length - off)) (spdmTransfer mctp - 8)
      let m := spdmHeader 0x02 0 0 ++ leBytes 2 n ++ leBytes 2 (c.length - off - n) ++ sliceBytes c off n
      (m, updSpdm mctp (fun x => { x with certs := x.certs ++ req ++ m }) s)) s)

/-- R408: the digest of a component of the running image. -/
def State.compDigest (s : State) (kind : Nat) : List Byte :=
  match s.leader with
  | some f => ((((s.foreman f).comps.find? fun c => c.1 == kind).map (·.2)).getD []) |> fun d => sliceBytes d 0 32
  | none => sliceBytes [] 0 32

/-- R408: the fuse state that measurement 5 covers. -/
def State.fuseState (s : State) : List Byte :=
  (s.fuse 0).rootHash.flatten ++ leBytes 1 (s.fuse 0).usage ++ leBytes 1 s.keyRevoke ++ leBytes 1 s.svnFloor ++
    leBytes 1 (s.fuse 0).priority.toNat

/-- R408: the raw bytes of measurement 6. -/
def State.runState (s : State) : List Byte :=
  let b := R.FMN_BOOT_STAT (s.leader.getD 0)
  leBytes 1 (s.fld R.PLT_TEST_EN F.PLT_TEST_EN_ARMED) ++ leBytes 1 (s.fld b F.FMN_BOOT_STAT_SVN) ++
    leBytes 1 (s.fld b F.FMN_BOOT_STAT_SLOT) ++ leBytes 5 0

/-- R408: measurement `i`. -/
def State.measurement (s : State) (i : Nat) : List Byte :=
  match i with
  | 1 => sliceBytes Config.romDigest 0 32
  | 2 => s.compDigest 1
  | 3 => s.compDigest 2
  | 4 => s.compDigest 3
  | 5 => sliceBytes (Config.fuseDigest s.fuseState) 0 32
  | _ => s.runState

/-- SPDM 1.2: the block of a measurement, of a value type that is open but for its bit for raw bytes. -/
def measBlock (i : Nat) (s : State) : List Byte × State :=
  let v := s.measurement i
  let (w, s) := freshWord s
  let ty := w.toNat % 128 + (if i = 6 then 128 else 0)
  (leBytes 1 i ++ leBytes 1 1 ++ leBytes 2 (v.length + 3) ++ leBytes 1 ty ++ leBytes 2 v.length ++ v, s)

/-- The blocks of several measurements. -/
def measBlocks : List Nat → State → List Byte × State
  | [], s => ([], s)
  | i :: t, s =>
    let (b, s) := measBlock i s
    let (bs, s) := measBlocks t s
    (b ++ bs, s)

/-- SPDM 1.2: what a signature covers: the prefix of the version, the context, and the digest of the messages. -/
def spdmSigned (context : String) (msgs : List Byte) : List Byte :=
  let p := ascii "dmtf-spdm-v1.2.*"
  let c := ascii context
  p ++ p ++ p ++ p ++ List.replicate (36 - c.length) 0 ++ c ++ Config.sha256 msgs

/-- R407: a signature by the identity key. -/
def State.sign (s : State) (context : String) (msgs : List Byte) : List Byte :=
  sliceBytes (Config.ecdsaSign (leBytes 32 (identityKey (s.fuse 0).seed)).reverse
    (Config.sha256 (spdmSigned context msgs))) 0 64

/-- R407: CHALLENGE: slot 0. The measurement summary covers every measurement. -/
def execSpdmChallenge (mctp : Bool) (req : List Byte) (s : State) : Host.Outcome State Fault Refusal :=
  .next (spdmAnswer mctp 0x83 3 36 req (fun s =>
    if leAt req 2 1 % 16 ≠ 0 ∨ !s.chainOk then (spdmError SpdmErr.invalid, s)
    else
      let (nonce, s) := freshBytes 32 s
      let (bs, s) := measBlocks [1, 2, 3, 4, 5, 6] s
      let summary := if leAt req 3 1 = 0 then [] else Config.sha256 bs
      let m := spdmHeader 0x03 0 1 ++ Config.sha256 s.chain ++ nonce ++ summary ++ leBytes 2 0
      let x := s.spdm mctp
      let sig := s.sign "responder-challenge_auth signing" (x.conn ++ x.certs ++ req ++ m)
      (m ++ sig, updSpdm mctp (fun x => { x with certs := [] }) s)) s)

/-- R407, R408: GET_MEASUREMENTS: the number of them (0), all (0xFF) or one; with a signature where it is asked for. -/
def execSpdmGetMeasurements (mctp : Bool) (req : List Byte) (s : State) : Host.Outcome State Fault Refusal :=
  .next (spdmAnswer mctp 0xE0 3 4 req (fun s =>
    let signed := bitAt (leAt req 2 1) 0
    let i := leAt req 3 1
    if (6 < i ∧ i ≠ 0xFF) ∨ (signed ∧ req.length < 37) then (spdmError SpdmErr.invalid, s)
    else
      let is := if i = 0 then [] else if i = 0xFF then [1, 2, 3, 4, 5, 6] else [i]
      let (bs, s) := measBlocks is s
      let (nonce, s) := freshBytes 32 s
      let m := spdmHeader 0x60 (if i = 0 then 6 else 0) 0 ++ leBytes 1 is.length ++ leBytes 3 bs.length ++ bs ++ nonce ++
        leBytes 2 0
      let x := s.spdm mctp
      let msgs := x.meas ++ req ++ m
      if signed then (m ++ s.sign "responder-measurements signing" (x.conn ++ msgs), updSpdm mctp (fun x => { x with meas := [] }) s)
      else (m, updSpdm mctp (fun x => { x with meas := msgs }) s)) s)

/-! ### MCTP control commands (R410) -/

/-- R410, R406, R398: the part's endpoint answers: through the leading foreman's port, or in sideband recovery. -/
def State.endpointUp (s : State) : Bool := s.mgmt.released && (s.leader.isSome || s.recovering)

/-- MCTP 1.3: a control response: command code, completion code and data. -/
def mctpReply (cmd completion : Nat) (data : List Byte) (s : State) : State :=
  reply 1 (leBytes 1 cmd ++ leBytes 1 completion ++ data) s

/-- R410: SET_ENDPOINT_ID. The two EIDs that MCTP reserves are refused. -/
def execMctpSetEid (eid : BitVec 8) (s : State) : Host.Outcome State Fault Refusal :=
  .next (if !s.endpointUp then s
    else if eid = 0 ∨ eid = 0xFF then mctpReply 1 0x02 [] s
    else mctpReply 1 0 (leBytes 1 0 ++ [eid] ++ leBytes 1 0) (setFld R.FMN_SMB_CFG F.FMN_SMB_CFG_EID eid.toNat s))

/-- R410: GET_ENDPOINT_ID. The endpoint type and medium bytes are open. -/
def execMctpGetEid (s : State) : Host.Outcome State Fault Refusal :=
  .next (if !s.endpointUp then s
    else
      let (b, s) := freshBytes 2 s
      mctpReply 2 0 (leBytes 1 (s.fld R.FMN_SMB_CFG F.FMN_SMB_CFG_EID) ++ b) s)

/-- R410: the message types that the part supports. -/
def mctpTypes : List Nat := [0x00, 0x05, 0x7E]

/-- R410: GET_MCTP_VERSION_SUPPORT: MCTP 1.3 for the base and for control messages; the versions of the other types are
open. -/
def execMctpGetVersion (msgType : BitVec 8) (s : State) : Host.Outcome State Fault Refusal :=
  .next (if !s.endpointUp then s
    else if msgType = 0xFF ∨ msgType = 0 then mctpReply 4 0 (leBytes 1 1 ++ leBytes 1 0xF1 ++ leBytes 1 0xF3 ++ leBytes 1 0xFF ++ leBytes 1 0) s
    else if mctpTypes.contains msgType.toNat then
      let (b, s) := freshBytes 4 s
      mctpReply 4 0 (leBytes 1 1 ++ b) s
    else mctpReply 4 0x80 [] s)

/-- R410: GET_MESSAGE_TYPE_SUPPORT. -/
def execMctpGetTypes (s : State) : Host.Outcome State Fault Refusal :=
  .next (if !s.endpointUp then s
    else mctpReply 5 0 (leBytes 1 mctpTypes.length ++ mctpTypes.flatMap (leBytes 1)) s)

end Sys2Proof.Machine
end

