-- ==== Sys2Proof/Machine/Time.lean ====
section
/-! DEFINITION. What one NCLK cycle does that no command does: the clocks advance, and the counters of cycles and of
milliseconds count (R62, R193, R393, R417). A step whose queue is empty is one such cycle (log 1). -/

namespace Sys2Proof.Machine

/-! ### MCLK cycles of the engines (R62, R63) -/

/-- R62: a withheld MCLK cycle: of every 64, those past the half's DUTY. -/
def State.withheld (s : State) (m t : Nat) : Bool :=
  let h := if crewOf m < 32 then 0 else 1
  decide (s.fld (R.PWR_HALF_CTL h) F.PWR_HALF_CTL_DUTY ≤ t % 64)

/-- R62: an MMA's last stream word has not entered the array. -/
def holdsMma (y : MQueue) : Bool :=
  (y.waiting.any fun c => tOpcode c == 0x10) || (y.buffered.any fun t => t.unit == 1) ||
    y.running.any fun r => r.unit == 1 && r.reads

/-- R62 row 3: the current queue is held: at a wait, at a release (R97), or at a fifth pending semaphore signal (R90). -/
def MQueue.heldAtWait (y : MQueue) : Bool :=
  y.hold != .none || (match y.waiting with
    | c :: _ => tOpcode c == 0x30 && decide (4 ≤ y.sigs.length)
    | [] => false)

/-- The command executing on a unit that still needs cycles: on the array, the oldest. -/
def State.runOn (s : State) (m u : Nat) : Option (Nat × TRun) :=
  ((List.range 4).filterMap fun q =>
    ((s.mq m q).running.find? fun r => r.unit == u && r.reads).map fun r => (q, r)).foldl
    (fun best x => match best with
      | none => some x
      | some b => if x.2.seq < b.2.seq then some x else some b) none

/-- R63: the bank of the slice that a unit of an MXE asks for in this cycle (unit 3: a replay). -/
def State.askedBank (s : State) (m t u : Nat) : Option Nat :=
  if s.withheld m t then none
  else
    let c := if u = 3 then (s.mx m).restore.head? else (s.runOn m u).bind fun r => r.2.cycles.head?
    (c.bind UCyc.word).map (· % 16)

/-- R63: the order of requests of a crew's MXEs in a cycle: one denied 16 times in a row first, then the class (array,
load, output), then the MXE whose turn it is. -/
def reqRank (x : Mxe) (t i u : Nat) : Nat :=
  if 16 ≤ mapGet x.denied u 0 then 0 else (match u with | 1 => 1 | 2 => 3 | _ => 2) * 4 + (i + t) % 3

/-- R63: the units of a crew that the slice denies in a cycle, as MXE × 4 + unit. Requests of hoists, trams and cores come
after them and are left out (log 16). -/
def State.deniedIn (s : State) (h t : Nat) : List (Nat × Nat) :=
  let reqs := (List.range 3).flatMap fun i => (List.range 4).filterMap fun u =>
    (s.askedBank (3 * h + i) t u).map fun b => (b, reqRank (s.mx (3 * h + i)) t i u, 3 * h + i, u)
  reqs.filterMap fun r =>
    if reqs.any fun o => o.1 == r.1 && (decide (o.2.1 < r.2.1) || (o.2.1 == r.2.1 && decide (o.2.2.1 < r.2.2.1)))
    then some r.2.2 else none

/-- R62: the next multiply-accumulate of a queue as R59 sees it, where it has issued. -/
def MQueue.nextMma (y : MQueue) : Option TIss :=
  match y.running.find? fun r => r.unit == 1 && r.reads with
  | some r => some r.toTIss
  | none => y.buffered.find? fun t => t.unit == 1

/-- R62: the load that the next multiply-accumulate waits for, and whether it runs. One that has not issued waits for the
latest stationary load. -/
def MQueue.pendingLoad (y : MQueue) : Option (TIss × Option TRun) :=
  let wb := match y.nextMma with
    | some t => t.wb
    | none => y.curWb.getD 2
  let sb : Bool := match y.nextMma with
    | some t => tb t.cmd 37
    | none => false
  let before (t : TIss) : Bool := match y.nextMma with
    | some n => decide (t.seq < n.seq)
    | none => true
  let needs (t : TIss) : Bool :=
    t.unit == 0 && before t && ((tOpcode t.cmd == 0x01 && t.wb == wb) || (tOpcode t.cmd == 0x02 && sb))
  match y.running.find? fun r => needs r.toTIss with
  | some r => some (r.toTIss, some r)
  | none => (y.buffered.find? needs).map fun t => (t, none)

/-- R62 row 5: the next multiply-accumulate waits for an output-unit command on its bank. -/
def MQueue.waitsBank (y : MQueue) : Bool :=
  match y.nextMma with
  | none => false
  | some t =>
    let on (e : TIss) : Bool := e.unit == 2 && decide (e.seq < t.seq) && (namedBanks e.cmd).contains (tf t.cmd 35 34)
    y.buffered.any on || y.running.any fun r => on r.toTIss

/-- R62 rows 5 to 11: why the array of an MXE takes no word for its current queue. `den` are the units denied. -/
def State.stallCounter (s : State) (m q : Nat) (den : List Nat) : Reg :=
  let y := s.mq m q
  let full : Bool := match y.waiting with
    | c :: _ => tUnit (tOpcode c) == some 2 && decide (4 ≤ s.unitDepth m 2)
    | [] => false
  if y.waitsBank then R.MXE_CNT_BANK m
  else if full then R.MXE_CNT_OUTPUT m
  else match y.pendingLoad with
    | none => if den.contains 1 then R.MXE_CNT_T0 m else R.MXE_CNT_ORDER m
    | some (t, none) =>
      let cb (e : TIss) : Bool := tOpcode e.cmd == 0x03 && decide (e.seq < t.seq)
      if y.buffered.any cb || y.running.any (fun r => cb r.toTIss) then R.MXE_CNT_STARTER m
      else if s.refetchHeld m t then R.MXE_CNT_CREDIT m
      else R.MXE_CNT_ORDER m
    | some (_, some r) =>
      if den.contains 0 then R.MXE_CNT_T0 m
      else match r.cycles with
        | c :: _ => if c.full then R.MXE_CNT_WEIGHT m else R.MXE_CNT_CREDIT m
        | [] => R.MXE_CNT_WEIGHT m

/-- R62: the category of an MCLK cycle. -/
def State.cycleCounter (s : State) (m t : Nat) (den : List Nat) : Reg :=
  if s.withheld m t then R.MXE_CNT_THROTTLE m
  else if (s.runOn m 1).isSome && !den.contains 1 then R.MXE_CNT_BUSY m
  else if !((List.range 4).any fun q => s.qBound m q && holdsMma (s.mq m q)) then R.MXE_CNT_IDLE m
  else match (s.mx m).cur with
    | none => R.MXE_CNT_ORDER m
    | some q =>
      if (s.mq m q).heldAtWait && (List.range 4).all fun j => j == q || !s.qReady m j then R.MXE_CNT_WAIT m
      else if !(s.mx m).restore.isEmpty || !(s.mx m).replays.isEmpty then R.MXE_CNT_RESTORE m
      else s.stallCounter m q den

/-- A unit of an MXE goes one cycle on. -/
def unitCycle (m : Nat) (s : State) (u : Nat) : State :=
  if u = 3 then
    let x := s.mx m
    setMx m { x with restore := x.restore.drop 1 } s
  else match s.runOn m u with
    | none => s
    | some (q, r) =>
      updQ m q (fun y => { y with running := y.running.map fun e =>
        if e.seq = r.seq then { e with cycles := e.cycles.drop 1 } else e }) s

/-- R63: note which units the slice has denied. -/
def noteDenied (m : Nat) (den : List Nat) (s : State) : State :=
  let x := s.mx m
  let d := den.map fun u => (u, mapGet x.denied u 0 + 1)
  if d = x.denied then s else setMx m { x with denied := d } s

/-- R62: one MCLK cycle of an MXE whose crew is there, at MCLK time `t`. -/
def mxeCycle (t : Nat) (den : List (Nat × Nat)) (s : State) (m : Nat) : State :=
  let mine := (den.filter fun d => d.1 == m).map (·.2)
  let s := bump (s.cycleCounter m t mine) 1 (bump (R.MXE_CNT_CYCLES m) 1 s)
  if s.withheld m t then s
  else noteDenied m mine (((List.range 4).filter fun u => !mine.contains u).foldl (unitCycle m) s)

/-- R62, R63: one MCLK cycle of a crew. -/
def crewCycle (t : Nat) (s : State) (h : Nat) : State :=
  if s.crewUp h then
    let s := pumpCrew h s
    (List.range 3).foldl (fun s' i => mxeCycle t (s.deniedIn h t) s' (3 * h + i)) s
  else s

/-- R193: a slot that still fills past its deadline counts the cycle. -/
def fillWaitCycle (s : State) (k : Nat) : State :=
  match mapFind s.slots k with
  | some d => if d.missed && s.slotState (k / 16) (k % 16) == slotFilling then bump (R.HST_CNT_WAIT_CYC (k / 16)) 1 s else s
  | none => s

/-- R393: a foreman that runs advances its HEARTBEAT each millisecond. -/
def heartbeat (s : State) (f : Nat) : State :=
  if s.foremanUp f then
    let r := R.FMN_CLAIM f
    let t := s.nclk
    updForeman f (fun x => { x with beatAt := t })
      (setFld r F.FMN_CLAIM_HEARTBEAT ((s.fld r F.FMN_CLAIM_HEARTBEAT + 1) % 65536) s)
  else s

/-- R417: a millisecond with a duty below 64. -/
def dutyMillisecond (s : State) : State :=
  let low (f : HalfCtl → Nat) : Nat := (decide (f s.mgmt.half0 < 64) || decide (f s.mgmt.half1 < 64)).toNat
  bump R.PWR_CNT_THERMAL_MS (low HalfCtl.thermDuty) (bump R.PWR_CNT_POWER_MS (low HalfCtl.powerDuty) s)

/-- NCLK cycles in a millisecond. -/
def msCycles : Nat := 1800000

/-- One NCLK cycle. Before release no clock runs (R427); after a thermal trip those of the MXEs and hoists stand (R415). -/
def tick (s : State) : State :=
  if !s.mgmt.released then s
  else
    let t := { s with nclk := s.nclk + 1, semNow := [] }
    let n := if s.mgmt.tripped then 0 else t.mclk - s.mclk
    let t := (List.range n).foldl (fun t k => (List.range 64).foldl (crewCycle (s.mclk + k)) t) t
    let t := if s.mgmt.tripped then t else (t.slots.map fun p => p.1).foldl fillWaitCycle t
    if t.nclk % msCycles = 0 then dutyMillisecond ([0, 1].foldl heartbeat t) else t

end Sys2Proof.Machine
end

