-- ==== Sys2Proof/Machine/Dispatch.lean ====
section
/-! DEFINITION. The dispatcher: one arm for each command, each one direct call of that command's meaning. -/

namespace Sys2Proof.Machine

def exec (i : Instr) (s : State) : Host.Outcome State Fault Refusal :=
  match i with
  -- Registers, counters and seam links (spec/00, spec/01)
  | .registerWrite who off width val => Sys2Proof.Machine.execRegisterWrite who off width val s
  | .counterLowRead off => Sys2Proof.Machine.execCounterLowRead off s
  | .seamFlitReceive link dir seq crcOk => Sys2Proof.Machine.execSeamFlitReceive link dir seq crcOk s
  | .seamRetrain link => Sys2Proof.Machine.execSeamRetrain link s
  | .seamRetrainDone link found => Sys2Proof.Machine.execSeamRetrainDone link found s
  | .seamFailoverComplete link => Sys2Proof.Machine.execSeamFailoverComplete link s
  -- Matrix engines and crews (spec/03)
  | .mxeQctlWrite who m q val => Sys2Proof.Machine.execMxeQctlWrite who m q val s
  | .mxeReleaseDone m q => Sys2Proof.Machine.execMxeReleaseDone m q s
  | .mxeQueueSwitch m q => Sys2Proof.Machine.execMxeQueueSwitch m q s
  | .mxeCancelDone m q => Sys2Proof.Machine.execMxeCancelDone m q s
  | .mxeCntClearEvent who m => Sys2Proof.Machine.execMxeCntClearEvent who m s
  | .mxeCntClearCycle who m => Sys2Proof.Machine.execMxeCntClearCycle who m s
  -- Tile commands (spec/04): the command at the head of queue `q` of MXE `m`
  | .tNop m q => Sys2Proof.Machine.execTNop m q s
  | .wload m q => Sys2Proof.Machine.execWload m q s
  | .hoistRefetchDone h slot tile => Sys2Proof.Machine.execHoistRefetchDone h slot tile s
  | .tload m q => Sys2Proof.Machine.execTload m q s
  | .cbload m q => Sys2Proof.Machine.execCbload m q s
  | .mma m q => Sys2Proof.Machine.execMma m q s
  | .aclr m q => Sys2Proof.Machine.execAclr m q s
  | .amove m q => Sys2Proof.Machine.execAmove m q s
  | .requant m q => Sys2Proof.Machine.execRequant m q s
  | .tstore m q => Sys2Proof.Machine.execTstore m q s
  | .semsig m q => Sys2Proof.Machine.execSemsig m q s
  | .semsigFire m q => Sys2Proof.Machine.execSemsigFire m q s
  | .semwait m q => Sys2Proof.Machine.execSemwait m q s
  | .semwaitSatisfied m q => Sys2Proof.Machine.execSemwaitSatisfied m q s
  | .semwaitTimeout m q => Sys2Proof.Machine.execSemwaitTimeout m q s
  | .hswait m q => Sys2Proof.Machine.execHswait m q s
  | .hswaitResolve m q => Sys2Proof.Machine.execHswaitResolve m q s
  | .hswaitTimeout m q => Sys2Proof.Machine.execHswaitTimeout m q s
  | .hsrel m q => Sys2Proof.Machine.execHsrel m q s
  | .mxeCommandComplete m q unit => Sys2Proof.Machine.execMxeCommandComplete m q unit s
  | .mxeSemWrite who n ix val => Sys2Proof.Machine.execMxeSemWrite who n ix val s
  | .mxeSemAdd who n ix val => Sys2Proof.Machine.execMxeSemAdd who n ix val s
  | .reservedTileOpcode m q => Sys2Proof.Machine.execReservedTileOpcode m q s
  -- Idvoan-K scalar instructions (spec/05): the instruction at the PC of context `c` issues
  | .kAdd c rd ra rb => Sys2Proof.Machine.execKKAdd c rd ra rb s
  | .kSub c rd ra rb => Sys2Proof.Machine.execKKSub c rd ra rb s
  | .kAnd c rd ra rb => Sys2Proof.Machine.execKKAnd c rd ra rb s
  | .kOr c rd ra rb => Sys2Proof.Machine.execKKOr c rd ra rb s
  | .kXor c rd ra rb => Sys2Proof.Machine.execKKXor c rd ra rb s
  | .kSll c rd ra rb => Sys2Proof.Machine.execKKSll c rd ra rb s
  | .kSrl c rd ra rb => Sys2Proof.Machine.execKKSrl c rd ra rb s
  | .kSra c rd ra rb => Sys2Proof.Machine.execKKSra c rd ra rb s
  | .kSlt c rd ra rb => Sys2Proof.Machine.execKKSlt c rd ra rb s
  | .kSltu c rd ra rb => Sys2Proof.Machine.execKKSltu c rd ra rb s
  | .kMin c rd ra rb => Sys2Proof.Machine.execKKMin c rd ra rb s
  | .kMax c rd ra rb => Sys2Proof.Machine.execKKMax c rd ra rb s
  | .kMul c rd ra rb => Sys2Proof.Machine.execKKMul c rd ra rb s
  | .kMulh c rd ra rb => Sys2Proof.Machine.execKKMulh c rd ra rb s
  | .kMulhu c rd ra rb => Sys2Proof.Machine.execKKMulhu c rd ra rb s
  | .kDiv c rd ra rb => Sys2Proof.Machine.execKKDiv c rd ra rb s
  | .kRem c rd ra rb => Sys2Proof.Machine.execKKRem c rd ra rb s
  | .kClz c rd ra => Sys2Proof.Machine.execKKClz c rd ra s
  | .kPopc c rd ra => Sys2Proof.Machine.execKKPopc c rd ra s
  | .kSextb c rd ra => Sys2Proof.Machine.execKKSextb c rd ra s
  | .kSexth c rd ra => Sys2Proof.Machine.execKKSexth c rd ra s
  | .kSextw c rd ra => Sys2Proof.Machine.execKKSextw c rd ra s
  | .kAdds c rd ra rb => Sys2Proof.Machine.execKKAdds c rd ra rb s
  | .kCtz c rd ra => Sys2Proof.Machine.execKKCtz c rd ra s
  | .kRq8 c rd ra rb => Sys2Proof.Machine.execKKRq8 c rd ra rb s
  | .kRq16 c rd ra rb => Sys2Proof.Machine.execKKRq16 c rd ra rb s
  | .kRq32 c rd ra rb => Sys2Proof.Machine.execKKRq32 c rd ra rb s
  -- Idvoan-K immediate instructions
  | .kAddi c rd ra imm => Sys2Proof.Machine.execKKAddi c rd ra imm s
  | .kAndi c rd ra imm => Sys2Proof.Machine.execKKAndi c rd ra imm s
  | .kOri c rd ra imm => Sys2Proof.Machine.execKKOri c rd ra imm s
  | .kXori c rd ra imm => Sys2Proof.Machine.execKKXori c rd ra imm s
  | .kSlti c rd ra imm => Sys2Proof.Machine.execKKSlti c rd ra imm s
  | .kShi c rd ra imm => Sys2Proof.Machine.execKKShi c rd ra imm s
  | .kShori c rd ra imm => Sys2Proof.Machine.execKKShori c rd ra imm s
  -- Idvoan-K scratch loads and stores
  | .kLsb c rd ra imm => Sys2Proof.Machine.execKKLsb c rd ra imm s
  | .kLsh c rd ra imm => Sys2Proof.Machine.execKKLsh c rd ra imm s
  | .kLsw c rd ra imm => Sys2Proof.Machine.execKKLsw c rd ra imm s
  | .kLsd c rd ra imm => Sys2Proof.Machine.execKKLsd c rd ra imm s
  | .kSsb c rs ra imm => Sys2Proof.Machine.execKKSsb c rs ra imm s
  | .kSsh c rs ra imm => Sys2Proof.Machine.execKKSsh c rs ra imm s
  | .kSsw c rs ra imm => Sys2Proof.Machine.execKKSsw c rs ra imm s
  | .kSsd c rs ra imm => Sys2Proof.Machine.execKKSsd c rs ra imm s
  | .kVls c v ga pg disp => Sys2Proof.Machine.execKKVls c v ga pg disp s
  | .kVss c v ga pg disp => Sys2Proof.Machine.execKKVss c v ga pg disp s
  -- Idvoan-K vector arithmetic
  | .kVadd c vd va vb pg es zm => Sys2Proof.Machine.execKKVadd c vd va vb pg es zm s
  | .kVsub c vd va vb pg es zm => Sys2Proof.Machine.execKKVsub c vd va vb pg es zm s
  | .kVadds c vd va vb pg es zm => Sys2Proof.Machine.execKKVadds c vd va vb pg es zm s
  | .kVsubs c vd va vb pg es zm => Sys2Proof.Machine.execKKVsubs c vd va vb pg es zm s
  | .kVmul c vd va vb pg es zm => Sys2Proof.Machine.execKKVmul c vd va vb pg es zm s
  | .kVmin c vd va vb pg es zm => Sys2Proof.Machine.execKKVmin c vd va vb pg es zm s
  | .kVmax c vd va vb pg es zm => Sys2Proof.Machine.execKKVmax c vd va vb pg es zm s
  | .kVand c vd va vb pg es zm => Sys2Proof.Machine.execKKVand c vd va vb pg es zm s
  | .kVor c vd va vb pg es zm => Sys2Proof.Machine.execKKVor c vd va vb pg es zm s
  | .kVxor c vd va vb pg es zm => Sys2Proof.Machine.execKKVxor c vd va vb pg es zm s
  | .kVsll c vd va vb pg es zm => Sys2Proof.Machine.execKKVsll c vd va vb pg es zm s
  | .kVsrl c vd va vb pg es zm => Sys2Proof.Machine.execKKVsrl c vd va vb pg es zm s
  | .kVsra c vd va vb pg es zm => Sys2Proof.Machine.execKKVsra c vd va vb pg es zm s
  | .kVclz c vd va pg es zm => Sys2Proof.Machine.execKKVclz c vd va pg es zm s
  | .kVabs c vd va pg es zm => Sys2Proof.Machine.execKKVabs c vd va pg es zm s
  | .kVmov c vd va pg es zm => Sys2Proof.Machine.execKKVmov c vd va pg es zm s
  | .kVwidl c vd va pg es zm => Sys2Proof.Machine.execKKVwidl c vd va pg es zm s
  | .kVwidh c vd va pg es zm => Sys2Proof.Machine.execKKVwidh c vd va pg es zm s
  | .kVdot4 c vd va vb pg es zm => Sys2Proof.Machine.execKKVdot4 c vd va vb pg es zm s
  | .kVpfx c vd va pg es zm => Sys2Proof.Machine.execKKVpfx c vd va pg es zm s
  -- Idvoan-K predicates and reductions
  | .kVcmp c pd va vb pg es cc => Sys2Proof.Machine.execKKVcmp c pd va vb pg es cc s
  | .kPand c pd pa pb => Sys2Proof.Machine.execKKPand c pd pa pb s
  | .kPor c pd pa pb => Sys2Proof.Machine.execKKPor c pd pa pb s
  | .kPxor c pd pa pb => Sys2Proof.Machine.execKKPxor c pd pa pb s
  | .kPandn c pd pa pb => Sys2Proof.Machine.execKKPandn c pd pa pb s
  | .kPnot c pd pa => Sys2Proof.Machine.execKKPnot c pd pa s
  | .kPtog c g pa => Sys2Proof.Machine.execKKPtog c g pa s
  | .kGtop c pd g => Sys2Proof.Machine.execKKGtop c pd g s
  | .kVredSum c rd va pg es => Sys2Proof.Machine.execKKVredSum c rd va pg es s
  | .kVredMax c rd va pg es => Sys2Proof.Machine.execKKVredMax c rd va pg es s
  | .kVredMin c rd va pg es => Sys2Proof.Machine.execKKVredMin c rd va pg es s
  | .kVredArgmax c rd va pg es => Sys2Proof.Machine.execKKVredArgmax c rd va pg es s
  | .kVredArgmin c rd va pg es => Sys2Proof.Machine.execKKVredArgmin c rd va pg es s
  | .kVredPopc c rd va pg es => Sys2Proof.Machine.execKKVredPopc c rd va pg es s
  | .kVbcast c v g pg es => Sys2Proof.Machine.execKKVbcast c v g pg es s
  | .kVextr c g v lane es => Sys2Proof.Machine.execKKVextr c g v lane es s
  | .kVins c v g lane es => Sys2Proof.Machine.execKKVins c v g lane es s
  -- Idvoan-K lookups and vector requantisation
  | .kLut c vd va tbl pg => Sys2Proof.Machine.execKKLut c vd va tbl pg s
  | .kLutn c vd va tbl pg => Sys2Proof.Machine.execKKLutn c vd va tbl pg s
  | .kLutld c tbl gs => Sys2Proof.Machine.execKKLutld c tbl gs s
  | .kVrq c vd va gs pg tfmt => Sys2Proof.Machine.execKKVrq c vd va gs pg tfmt s
  -- Idvoan-K branches
  | .kBeqz c ra off => Sys2Proof.Machine.execKKBeqz c ra off s
  | .kBnez c ra off => Sys2Proof.Machine.execKKBnez c ra off s
  | .kBltz c ra off => Sys2Proof.Machine.execKKBltz c ra off s
  | .kBgez c ra off => Sys2Proof.Machine.execKKBgez c ra off s
  | .kJal c rd off => Sys2Proof.Machine.execKKJal c rd off s
  | .kJalr c rd ra imm => Sys2Proof.Machine.execKKJalr c rd ra imm s
  | .kBp c pa sense off => Sys2Proof.Machine.execKKBp c pa sense off s
  -- Idvoan-K part-address loads, stores and AMOs
  | .kLgb c rd ra imm => Sys2Proof.Machine.execKLgb c rd ra imm s
  | .kLgh c rd ra imm => Sys2Proof.Machine.execKLgh c rd ra imm s
  | .kLgw c rd ra imm => Sys2Proof.Machine.execKLgw c rd ra imm s
  | .kLgd c rd ra imm => Sys2Proof.Machine.execKLgd c rd ra imm s
  | .kSgb c rs ra imm => Sys2Proof.Machine.execKSgb c rs ra imm s
  | .kSgh c rs ra imm => Sys2Proof.Machine.execKSgh c rs ra imm s
  | .kSgw c rs ra imm => Sys2Proof.Machine.execKSgw c rs ra imm s
  | .kSgd c rs ra imm => Sys2Proof.Machine.execKSgd c rs ra imm s
  | .kncAccessResponse c n => Sys2Proof.Machine.execKncAccessResponse c n s
  | .kncAccessTimeout c n => Sys2Proof.Machine.execKncAccessTimeout c n s
  | .kAmoadd c rd ra rb scr => Sys2Proof.Machine.execKAmoadd c rd ra rb scr s
  | .kAmoswap c rd ra rb scr => Sys2Proof.Machine.execKAmoswap c rd ra rb scr s
  | .kAmocas c rd ra rb scr => Sys2Proof.Machine.execKAmocas c rd ra rb scr s
  | .kAmomax c rd ra rb scr => Sys2Proof.Machine.execKAmomax c rd ra rb scr s
  | .kAmomin c rd ra rb scr => Sys2Proof.Machine.execKAmomin c rd ra rb scr s
  | .kAmoand c rd ra rb scr => Sys2Proof.Machine.execKAmoand c rd ra rb scr s
  | .kAmoor c rd ra rb scr => Sys2Proof.Machine.execKAmoor c rd ra rb scr s
  | .kVlg c v ga pg disp => Sys2Proof.Machine.execKVlg c v ga pg disp s
  | .kVsg c v ga pg disp => Sys2Proof.Machine.execKVsg c v ga pg disp s
  -- Idvoan-K fences, tile queues, intake and system instructions
  | .kFence c mask ifl => Sys2Proof.Machine.execKFence c mask ifl s
  | .kTqpush c rd v qtr mxp q nb => Sys2Proof.Machine.execKTqpush c rd v qtr mxp q nb s
  | .kTqpushResume c => Sys2Proof.Machine.execKTqpushResume c s
  | .kTqstat c rd mxp q => Sys2Proof.Machine.execKTqstat c rd mxp q s
  | .kTqcancel c rd mxp q => Sys2Proof.Machine.execKTqcancel c rd mxp q s
  | .kTqdepth c rd mxp q => Sys2Proof.Machine.execKTqdepth c rd mxp q s
  | .kCsrr c rd sel => Sys2Proof.Machine.execKCsrr c rd sel s
  | .kCsrw c ra sel => Sys2Proof.Machine.execKCsrw c ra sel s
  | .kWaitev c rd ra => Sys2Proof.Machine.execKWaitev c rd ra s
  | .kWaitevWake c => Sys2Proof.Machine.execKWaitevWake c s
  | .kYield c => Sys2Proof.Machine.execKYield c s
  | .kStop c ra => Sys2Proof.Machine.execKStop c ra s
  | .kBrk c => Sys2Proof.Machine.execKBrk c s
  | .kRng c rd => Sys2Proof.Machine.execKRng c rd s
  | .kIntk c rd v => Sys2Proof.Machine.execKIntk c rd v s
  | .kCmpl c rd ra v => Sys2Proof.Machine.execKCmpl c rd ra v s
  | .illegalInstruction c word => Sys2Proof.Machine.execIllegalInstruction c word s
  -- Kneader context and core registers
  | .kncCtxCtlWrite who c val => Sys2Proof.Machine.execKncCtxCtlWrite who c val s
  | .ctxStart who c => Sys2Proof.Machine.execCtxStart who c s
  | .ctxStop who c => Sys2Proof.Machine.execCtxStop who c s
  | .ctxClear who c => Sys2Proof.Machine.execCtxClear who c s
  | .kncCntClear who k => Sys2Proof.Machine.execKncCntClear who k s
  -- Expander (spec/06)
  | .mxeXpCntClear who m => Sys2Proof.Machine.execMxeXpCntClear who m s
  -- Hoist window, recovery and leases (spec/07)
  | .fillSourceResident h slot => Sys2Proof.Machine.execFillSourceResident h slot s
  | .slotFillLanded h slot => Sys2Proof.Machine.execSlotFillLanded h slot s
  | .layerDeadlineMiss h slot => Sys2Proof.Machine.execLayerDeadlineMiss h slot s
  | .slotDiscard who h slot => Sys2Proof.Machine.execSlotDiscard who h slot s
  | .recoveryEntryAllocate hd => Sys2Proof.Machine.execRecoveryEntryAllocate hd s
  | .repairComplete hd n => Sys2Proof.Machine.execRepairComplete hd n s
  | .repairFail hd n => Sys2Proof.Machine.execRepairFail hd n s
  | .leaseOffer who ix => Sys2Proof.Machine.execLeaseOffer who ix s
  | .leaseAccept who ix => Sys2Proof.Machine.execLeaseAccept who ix s
  | .leaseReturn who ix => Sys2Proof.Machine.execLeaseReturn who ix s
  | .leaseRevoke who ix => Sys2Proof.Machine.execLeaseRevoke who ix s
  | .leaseGrow who ix units => Sys2Proof.Machine.execLeaseGrow who ix units s
  | .leaseMsgOffer msg => Sys2Proof.Machine.execLeaseMsgOffer msg s
  | .leaseMsgAccept msg => Sys2Proof.Machine.execLeaseMsgAccept msg s
  | .leaseMsgGrow msg => Sys2Proof.Machine.execLeaseMsgGrow msg s
  | .leaseMsgGrown msg => Sys2Proof.Machine.execLeaseMsgGrown msg s
  | .leaseMsgNotice msg => Sys2Proof.Machine.execLeaseMsgNotice msg s
  | .leaseMsgReturn msg => Sys2Proof.Machine.execLeaseMsgReturn msg s
  | .leaseDrainDone ix => Sys2Proof.Machine.execLeaseDrainDone ix s
  | .leaseMsgDrainDone msg => Sys2Proof.Machine.execLeaseMsgDrainDone msg s
  | .leaseMsgClosed msg => Sys2Proof.Machine.execLeaseMsgClosed msg s
  | .leaseMsgResend out ix => Sys2Proof.Machine.execLeaseMsgResend out ix s
  | .leaseHoldStart ix => Sys2Proof.Machine.execLeaseHoldStart ix s
  | .leaseHoldEnd out ix => Sys2Proof.Machine.execLeaseHoldEnd out ix s
  | .leaseUnreachable out ix => Sys2Proof.Machine.execLeaseUnreachable out ix s
  | .leaseReachableAgain out ix => Sys2Proof.Machine.execLeaseReachableAgain out ix s
  | .leaseUnreachableClose out ix => Sys2Proof.Machine.execLeaseUnreachableClose out ix s
  -- Memory controllers and SSDs (spec/08, spec/07 on T3)
  | .memRead a errs hard sev act => Sys2Proof.Machine.execMemRead a errs hard sev act s
  | .memWrite a d act => Sys2Proof.Machine.execMemWrite a d act s
  | .refresh c hot => Sys2Proof.Machine.execRefresh c hot s
  | .rdTableClear c => Sys2Proof.Machine.execRdTableClear c s
  | .laneRecentre c eye lane failed => Sys2Proof.Machine.execLaneRecentre c eye lane failed s
  | .scrubLine c => Sys2Proof.Machine.execScrubLine c s
  | .memTrainDone c res => Sys2Proof.Machine.execMemTrainDone c res s
  | .memSelftestDone c phase pass => Sys2Proof.Machine.execMemSelftestDone c phase pass s
  | .memFillDone c => Sys2Proof.Machine.execMemFillDone c s
  | .pprDone c failed => Sys2Proof.Machine.execPprDone c failed s
  | .selfRefreshEnter who c => Sys2Proof.Machine.execSelfRefreshEnter who c s
  | .selfRefreshExit who c => Sys2Proof.Machine.execSelfRefreshExit who c s
  | .selfRefreshRefillDone c => Sys2Proof.Machine.execSelfRefreshRefillDone c s
  | .rankPowerDown c rank => Sys2Proof.Machine.execRankPowerDown c rank s
  | .injectArm who c val => Sys2Proof.Machine.execInjectArm who c val s
  | .memCntClear who c => Sys2Proof.Machine.execMemCntClear who c s
  | .nvmeCompletion port id res => Sys2Proof.Machine.execNvmeCompletion port id res s
  | .nvmeCommandTimeout port id => Sys2Proof.Machine.execNvmeCommandTimeout port id s
  | .nvmeResetTimeout port => Sys2Proof.Machine.execNvmeResetTimeout port s
  -- Trams and hoists (spec/09): engines 0 to 319 are trams, 320 to 383 hoists
  | .descriptorFetch e => Sys2Proof.Machine.execDescriptorFetch e s
  | .engCopy e host => Sys2Proof.Machine.execEngCopy e host s
  | .engCfill e => Sys2Proof.Machine.execEngCfill e s
  | .engCompare e src dst => Sys2Proof.Machine.execEngCompare e src dst s
  | .engCodec e src => Sys2Proof.Machine.execEngCodec e src s
  | .engProof e src => Sys2Proof.Machine.execEngProof e src s
  | .engEncode e src => Sys2Proof.Machine.execEngEncode e src s
  | .objCreate e => Sys2Proof.Machine.execObjCreate e s
  | .objCopy e => Sys2Proof.Machine.execObjCopy e s
  | .objDrop e => Sys2Proof.Machine.execObjDrop e s
  | .objFlush e => Sys2Proof.Machine.execObjFlush e s
  | .objRehome e => Sys2Proof.Machine.execObjRehome e s
  | .objFree e => Sys2Proof.Machine.execObjFree e s
  | .objRefill e => Sys2Proof.Machine.execObjRefill e s
  | .engWait e => Sys2Proof.Machine.execEngWait e s
  | .waitPoll e => Sys2Proof.Machine.execWaitPoll e s
  | .waitTimeout e => Sys2Proof.Machine.execWaitTimeout e s
  | .engLoop e => Sys2Proof.Machine.execEngLoop e s
  | .lfill e => Sys2Proof.Machine.execLfill e s
  | .hstStep e => Sys2Proof.Machine.execHstStep e s
  | .halfNotification e => Sys2Proof.Machine.execHalfNotification e s
  | .descriptorComplete e => Sys2Proof.Machine.execDescriptorComplete e s
  | .engineAccessTimeout e addr write => Sys2Proof.Machine.execEngineAccessTimeout e addr write s
  | .engGo who e => Sys2Proof.Machine.execEngGo who e s
  | .engResume who e => Sys2Proof.Machine.execEngResume who e s
  | .engSkip who e => Sys2Proof.Machine.execEngSkip who e s
  | .engAbort who e => Sys2Proof.Machine.execEngAbort who e s
  | .engAbortDone e => Sys2Proof.Machine.execEngAbortDone e s
  -- HP0 (spec/10): function 0 is PF0, function 1 + v is VF v
  | .sqDoorbell f q skew width val => Sys2Proof.Machine.execSqDoorbell f q skew width val s
  | .cqDoorbell f q skew width val => Sys2Proof.Machine.execCqDoorbell f q skew width val s
  | .submissionFetch f q entry => Sys2Proof.Machine.execSubmissionFetch f q entry s
  | .qrouteWrite who ix val => Sys2Proof.Machine.execQrouteWrite who ix val s
  | .queueEnable who f q val => Sys2Proof.Machine.execQueueEnable who f q val s
  | .queueDisable who f q val => Sys2Proof.Machine.execQueueDisable who f q val s
  | .queueEnableRelease f q => Sys2Proof.Machine.execQueueEnableRelease f q s
  | .completionWrite src => Sys2Proof.Machine.execCompletionWrite src s
  | .msixCoalesceTimer f q => Sys2Proof.Machine.execMsixCoalesceTimer f q s
  | .irqDelayedSend v => Sys2Proof.Machine.execIrqDelayedSend v s
  | .hostAbort who f token => Sys2Proof.Machine.execHostAbort who f token s
  | .hotReset => Sys2Proof.Machine.execHotReset s
  | .functionLevelReset v => Sys2Proof.Machine.execFunctionLevelReset v s
  | .pf0FunctionReset => Sys2Proof.Machine.execPf0FunctionReset s
  | .flrChargeRelease f => Sys2Proof.Machine.execFlrChargeRelease f s
  | .busMasterEnable f w => Sys2Proof.Machine.execBusMasterEnable f w s
  | .peerWindowRequest f off rid tag ro ido op => Sys2Proof.Machine.execPeerWindowRequest f off rid tag ro ido op s
  | .windowCommit who f w val => Sys2Proof.Machine.execWindowCommit who f w val s
  | .windowCommitDone f w => Sys2Proof.Machine.execWindowCommitDone f w s
  | .hp0CntClear who => Sys2Proof.Machine.execHp0CntClear who s
  | .adminCommand status result => Sys2Proof.Machine.execAdminCommand status result s
  | .d3hot f on => Sys2Proof.Machine.execD3hot f on s
  | .pcieLinkStateChange link st speed width mode => Sys2Proof.Machine.execPcieLinkStateChange link st speed width mode s
  -- HP1 and the pool (spec/11)
  | .poolRead req => Sys2Proof.Machine.execPoolRead req s
  | .poolWrite req => Sys2Proof.Machine.execPoolWrite req s
  | .biResponse spid line data => Sys2Proof.Machine.execBiResponse spid line data s
  | .biTimeout spid line => Sys2Proof.Machine.execBiTimeout spid line s
  | .frameCacheEvict page => Sys2Proof.Machine.execFrameCacheEvict page s
  | .extentAssign who x val => Sys2Proof.Machine.execExtentAssign who x val s
  | .extentClearDone x => Sys2Proof.Machine.execExtentClearDone x s
  | .rangeOffer who e => Sys2Proof.Machine.execRangeOffer who e s
  | .dcAddResponse e accept => Sys2Proof.Machine.execDcAddResponse e accept s
  | .rangeWithdraw who e => Sys2Proof.Machine.execRangeWithdraw who e s
  | .dcRelease e byHost => Sys2Proof.Machine.execDcRelease e byHost s
  | .withdrawCutoff e => Sys2Proof.Machine.execWithdrawCutoff e s
  | .withdrawClose e => Sys2Proof.Machine.execWithdrawClose e s
  | .snapOpen spid hpa tag seq => Sys2Proof.Machine.execSnapOpen spid hpa tag seq s
  | .snapPublish spid hpa tag seq => Sys2Proof.Machine.execSnapPublish spid hpa tag seq s
  | .snapDiscard spid hpa tag seq => Sys2Proof.Machine.execSnapDiscard spid hpa tag seq s
  | .snapClose spid hpa tag seq => Sys2Proof.Machine.execSnapClose spid hpa tag seq s
  | .hp1CntClear who => Sys2Proof.Machine.execHp1CntClear who s
  | .hp1HostBucketRefill h bytes => Sys2Proof.Machine.execHp1HostBucketRefill h bytes s
  -- Plotre fabric (spec/12)
  | .portEnable who p on => Sys2Proof.Machine.execPortEnable who p on s
  | .portLightCheck p feed => Sys2Proof.Machine.execPortLightCheck p feed s
  | .portLockDone p locked => Sys2Proof.Machine.execPortLockDone p locked s
  | .portPartnerLight p rx => Sys2Proof.Machine.execPortPartnerLight p rx s
  | .portFecLock p => Sys2Proof.Machine.execPortFecLock p s
  | .exchangeRecord p rec => Sys2Proof.Machine.execExchangeRecord p rec s
  | .portRetryTimer p => Sys2Proof.Machine.execPortRetryTimer p s
  | .codewordReceive p lane errs => Sys2Proof.Machine.execCodewordReceive p lane errs s
  | .dataFlitReceive p vc seq crcOk payload => Sys2Proof.Machine.execDataFlitReceive p vc seq crcOk payload s
  | .controlFlitReceive p ack nak credits => Sys2Proof.Machine.execControlFlitReceive p ack nak credits s
  | .controlFlitSend p => Sys2Proof.Machine.execControlFlitSend p s
  | .portRetrain p lockLost => Sys2Proof.Machine.execPortRetrain p lockLost s
  | .portRetrainDone p rx rec => Sys2Proof.Machine.execPortRetrainDone p rx rec s
  | .partnerLightLoss p => Sys2Proof.Machine.execPartnerLightLoss p s
  | .feedOutOfLimits p feed => Sys2Proof.Machine.execFeedOutOfLimits p feed s
  | .packetForward port => Sys2Proof.Machine.execPacketForward port s
  | .pktRd plane => Sys2Proof.Machine.execPktRd plane s
  | .pktWr plane => Sys2Proof.Machine.execPktWr plane s
  | .pktWrmask plane => Sys2Proof.Machine.execPktWrmask plane s
  | .pktAmo plane => Sys2Proof.Machine.execPktAmo plane s
  | .pktRdReply plane => Sys2Proof.Machine.execPktRdReply plane s
  | .pktWrAck plane => Sys2Proof.Machine.execPktWrAck plane s
  | .pktAmoReply plane => Sys2Proof.Machine.execPktAmoReply plane s
  | .pktNack plane => Sys2Proof.Machine.execPktNack plane s
  | .fabricRequestTimeout plane slot => Sys2Proof.Machine.execFabricRequestTimeout plane slot s
  | .pktMgmt plane => Sys2Proof.Machine.execPktMgmt plane s
  | .collGo who c => Sys2Proof.Machine.execCollGo who c s
  | .collectiveAbort who c => Sys2Proof.Machine.execCollectiveAbort who c s
  | .pktCollUp plane => Sys2Proof.Machine.execPktCollUp plane s
  | .pktCollDown plane => Sys2Proof.Machine.execPktCollDown plane s
  | .pktCollAbort plane => Sys2Proof.Machine.execPktCollAbort plane s
  | .collTimeout c => Sys2Proof.Machine.execCollTimeout c s
  | .pltTestCtlWrite who p val => Sys2Proof.Machine.execPltTestCtlWrite who p val s
  | .pltCntClear who => Sys2Proof.Machine.execPltCntClear who s
  | .reservedPacketType plane vc => Sys2Proof.Machine.execReservedPacketType plane vc s
  -- Bandwidth regulation (spec/13)
  | .qosLevelReport occ => Sys2Proof.Machine.execQosLevelReport occ s
  | .qosGuarWrite who src r val => Sys2Proof.Machine.execQosGuarWrite who src r val s
  | .regulatedRequestIssue die src target bytes => Sys2Proof.Machine.execRegulatedRequestIssue die src target bytes s
  | .latClear who t c => Sys2Proof.Machine.execLatClear who t c s
  | .qosCntClear who => Sys2Proof.Machine.execQosCntClear who s
  -- Event recorder (spec/14)
  | .eventAccept kind inst => Sys2Proof.Machine.execEventAccept kind inst s
  | .eventBucketRefill ring k key => Sys2Proof.Machine.execEventBucketRefill ring k key s
  | .mainRingBaseSet who val => Sys2Proof.Machine.execMainRingBaseSet who val s
  | .tenantRingEnable who t => Sys2Proof.Machine.execTenantRingEnable who t s
  | .tenantRingFillDone t => Sys2Proof.Machine.execTenantRingFillDone t s
  | .evrCntClear who => Sys2Proof.Machine.execEvrCntClear who s
  -- Foremen, identity and sideband (spec/15)
  | .electionStand f => Sys2Proof.Machine.execElectionStand f s
  | .electionDecide f => Sys2Proof.Machine.execElectionDecide f s
  | .splitResolve => Sys2Proof.Machine.execSplitResolve s
  | .heartbeatTimeout f => Sys2Proof.Machine.execHeartbeatTimeout f s
  | .foremanReset f => Sys2Proof.Machine.execForemanReset f s
  | .foremanBootDone f unread => Sys2Proof.Machine.execForemanBootDone f unread s
  | .recoveryFlashWrite off data => Sys2Proof.Machine.execRecoveryFlashWrite off data s
  | .recoveryRestart => Sys2Proof.Machine.execRecoveryRestart s
  | .fuseRevoke who keys => Sys2Proof.Machine.execFuseRevoke who keys s
  | .fuseSvnRaise who target => Sys2Proof.Machine.execFuseSvnRaise who target s
  | .fuseProgDone => Sys2Proof.Machine.execFuseProgDone s
  | .spdmGetVersion mctp req => Sys2Proof.Machine.execSpdmGetVersion mctp req s
  | .spdmGetCapabilities mctp req => Sys2Proof.Machine.execSpdmGetCapabilities mctp req s
  | .spdmNegotiate mctp req => Sys2Proof.Machine.execSpdmNegotiate mctp req s
  | .spdmGetDigests mctp req => Sys2Proof.Machine.execSpdmGetDigests mctp req s
  | .spdmGetCertificate mctp req => Sys2Proof.Machine.execSpdmGetCertificate mctp req s
  | .spdmChallenge mctp req => Sys2Proof.Machine.execSpdmChallenge mctp req s
  | .spdmGetMeasurements mctp req => Sys2Proof.Machine.execSpdmGetMeasurements mctp req s
  | .mctpSetEid eid => Sys2Proof.Machine.execMctpSetEid eid s
  | .mctpGetEid => Sys2Proof.Machine.execMctpGetEid s
  | .mctpGetVersion msgType => Sys2Proof.Machine.execMctpGetVersion msgType s
  | .mctpGetTypes => Sys2Proof.Machine.execMctpGetTypes s
  | .fatalRecordCollect => Sys2Proof.Machine.execFatalRecordCollect s
  | .testModeEnable enable => Sys2Proof.Machine.execTestModeEnable enable s
  | .powerSample watts => Sys2Proof.Machine.execPowerSample watts s
  | .powerCapDivide demand0 demand1 => Sys2Proof.Machine.execPowerCapDivide demand0 demand1 s
  | .tempSample dies => Sys2Proof.Machine.execTempSample dies s
  -- Supplies, clocks, resets and start-up (spec/16)
  | .supplyFault rail beyond => Sys2Proof.Machine.execSupplyFault rail beyond s
  | .perstAssert => Sys2Proof.Machine.execPerstAssert s
  | .refclkLoss => Sys2Proof.Machine.execRefclkLoss s
  | .pllLoss die => Sys2Proof.Machine.execPllLoss die s
  | .release sris0 sris1 addrSel => Sys2Proof.Machine.execRelease sris0 sris1 addrSel s
  | .ondieFillDone => Sys2Proof.Machine.execOndieFillDone s
  | .seamTrainDone links crews stackSet => Sys2Proof.Machine.execSeamTrainDone links crews stackSet s
  | .configRetryEnd => Sys2Proof.Machine.execConfigRetryEnd s
  | .runtimeLoadDone ok => Sys2Proof.Machine.execRuntimeLoadDone ok s
  | .computeRelease => Sys2Proof.Machine.execComputeRelease s
  | .hostRelease => Sys2Proof.Machine.execHostRelease s

end Sys2Proof.Machine
end

