-- ==== Sys2Proof/Safety.lean ====
section
/-! DEFINITION. The terms that claims use: the parts of the state, the canonical form of every list of bytes the state
holds, what a change keeps, and what it is for a command to complete, to be ignored, and to have its effect. -/

namespace Sys2Proof.Machine

/-- The parts of the state besides the queue of commands: one name for each field of `State`, spelled as the field. -/
inductive Part where
  | nclk | free | ctl | locks | latch | mem | ev | seams | ms | t3 | mxes | semNow | slots | refetch
  | qos | knc | cores | hp0 | engs | pool | plt | tags | fabQ | mgmt | persist | out
deriving DecidableEq, Repr

/-- Every list of bytes that the state keeps (the memory of the part, the scratch of the cores, what the SSDs hold and the
boot flash) is in canonical form. -/
def State.bytesWf (s : State) : Bool :=
  Memory.wf s.mem && Memory.wf s.cores.scratch && Memory.wf s.t3.cells && Memory.wf s.mgmt.flash

/-- `Keeps k s t`: from `s` to `t` the queue of commands is unchanged, the byte lists stay in canonical form if they
were, and every part of the state that is not listed in `k` is unchanged, as a whole. -/
structure Keeps (k : List Part) (s t : State) : Prop where
  pending : t.pending = s.pending
  bytes : s.bytesWf = true → t.bytesWf = true
  nclk : Part.nclk ∉ k → t.nclk = s.nclk
  free : Part.free ∉ k → t.free = s.free
  ctl : Part.ctl ∉ k → t.ctl = s.ctl
  locks : Part.locks ∉ k → t.locks = s.locks
  latch : Part.latch ∉ k → t.latch = s.latch
  mem : Part.mem ∉ k → t.mem = s.mem
  ev : Part.ev ∉ k → t.ev = s.ev
  seams : Part.seams ∉ k → t.seams = s.seams
  ms : Part.ms ∉ k → t.ms = s.ms
  t3 : Part.t3 ∉ k → t.t3 = s.t3
  mxes : Part.mxes ∉ k → t.mxes = s.mxes
  semNow : Part.semNow ∉ k → t.semNow = s.semNow
  slots : Part.slots ∉ k → t.slots = s.slots
  refetch : Part.refetch ∉ k → t.refetch = s.refetch
  qos : Part.qos ∉ k → t.qos = s.qos
  knc : Part.knc ∉ k → t.knc = s.knc
  cores : Part.cores ∉ k → t.cores = s.cores
  hp0 : Part.hp0 ∉ k → t.hp0 = s.hp0
  engs : Part.engs ∉ k → t.engs = s.engs
  pool : Part.pool ∉ k → t.pool = s.pool
  plt : Part.plt ∉ k → t.plt = s.plt
  tags : Part.tags ∉ k → t.tags = s.tags
  fabQ : Part.fabQ ∉ k → t.fabQ = s.fabQ
  mgmt : Part.mgmt ∉ k → t.mgmt = s.mgmt
  persist : Part.persist ∉ k → t.persist = s.persist
  out : Part.out ∉ k → t.out = s.out

/-- Every control register but those listed reads as before. -/
def OnlyRegs (rs : List Reg) (s t : State) : Prop := ∀ r : Reg, r.off ∉ rs.map Reg.off → t.reg r = s.reg r

/-! ### Kneader instructions -/

/-- R103, R107, R131: the instruction that uses the registers `u` issues in context `c` and reads its operands: the
context runs, its fetch succeeds, and no operand is owed, held in error or of bad parity. -/
def State.issues (s : State) (c : Nat) (u : Use) : Prop :=
  s.ctxReady c u = true ∧ s.fetchFault c = none ∧ s.ctxErr c u = none ∧ u.reads.any (s.kc c).parity.contains = false

/-- A general register as 64 bits. -/
def State.gv (s : State) (c i : Nat) : BitVec 64 := BitVec.ofNat 64 (s.g c i)

/-- The register a destination field names: none for g0 (R108). -/
def destG (c rd : Nat) : List Reg := if rd = 0 then [] else [ctxG c rd]

/-- The predicate register a destination field names: none for p0 (R108). -/
def destP (c pd : Nat) : List Reg := if pd = 0 then [] else [ctxP c pd]

/-- The words of a vector register. -/
def destV (c v : Nat) : List Reg := (List.range 8).map (ctxV c v)

/-- Lane `k` of a vector, of 2 ^ `es` bytes. -/
def lane (es : Nat) (v : List Byte) (k : Nat) : Nat := leNat ((v.drop (k * 2 ^ es)).take (2 ^ es))

/-- R108: lane `k` of 2 ^ `es` bytes is active under the predicate `p`. -/
def laneActive (es p k : Nat) : Bool := p.testBit (k * 2 ^ es)

/-- R103, R127: an instruction of context `c` has completed: PC is `next`, it is counted, no control register changes
but those and `rs`, and no other context changes. -/
structure Retired (c next : Nat) (rs : List Reg) (s t : State) : Prop where
  pc      : t.reg (ctxPc c) = next % 2 ^ 64
  issued  : t.reg (R.KNC_CNT_ISSUE (coreOf c)) = min counterMax (s.reg (R.KNC_CNT_ISSUE (coreOf c)) + 1)
  instret : (t.kc c).instret = min counterMax ((s.kc c).instret + 1)
  regs    : OnlyRegs (ctxPc c :: R.KNC_CNT_ISSUE (coreOf c) :: rs) s t
  others  : ∀ d, d ≠ c → t.kc d = s.kc d

/-- What a context holds besides its registers is unchanged, but for INSTRET, held errors and register parity. -/
def CtxSame (c : Nat) (s t : State) : Prop :=
  { t.kc c with instret := 0, errs := [], parity := [] } = { s.kc c with instret := 0, errs := [], parity := [] }

/-- The common end of the instructions that touch only registers: PC moves past the instruction, only `rs` change. -/
def RegDone (c : Nat) (rs : List Reg) (s t : State) : Prop :=
  Retired c (s.reg (ctxPc c) + 4) rs s t ∧ CtxSame c s t ∧ Keeps [.ctl, .knc] s t

/-- R132: context `c` has taken an exception: it is faulted, CAUSE and EPC say why and where, and no general, predicate
or vector register and no PC has changed. -/
structure Excepted (c cause : Nat) (s t : State) : Prop where
  state : t.ctxState c = 4
  cause : t.fld (ctxStat c) F.KNC_CTX_STAT_CAUSE = cause
  epc   : t.reg (ctxEpc c) = s.reg (ctxPc c)
  pc    : t.reg (ctxPc c) = s.reg (ctxPc c)
  g     : ∀ d < 1024, ∀ i < 32, t.g d i = s.g d i
  p     : ∀ d < 1024, ∀ i < 8, t.p d i = s.p d i
  v     : ∀ d < 1024, ∀ i < 16, t.v d i = s.v d i
  keeps : Keeps [.free, .ctl, .ev, .knc] s t

/-- `Excepted`, and EXCADDR holds the address (R132). -/
def ExceptedAt (c cause addr : Nat) (s t : State) : Prop :=
  Excepted c cause s t ∧ t.reg (ctxExcaddr c) = addr

/-- R371, R383: an event of a code was counted, and nothing but the event recorder changed. -/
structure Recorded (code : Nat) (s t : State) : Prop where
  count : t.reg (R.EVR_CODE_CNT code) = min counterMax (s.reg (R.EVR_CODE_CNT code) + 1)
  regs  : ∀ r : Reg, r.off < 0x19000000 ∨ 0x1A000000 ≤ r.off → t.reg r = s.reg r
  keeps : Keeps [.ctl, .ev] s t

/-! ### Commands -/

/-- The command completes: it answers a next state, only the listed parts of the state may have changed, and that state
is as `q` says. -/
def Does (i : Instr) (s : State) (parts : List Part) (q : State → Prop) : Prop :=
  ∃ t, exec i s = .next t ∧ Keeps parts s t ∧ q t

/-- The tile commands of queue `q` of MXE `m`, each with its opcode (R73). -/
def tileRows (m : Fin 192) (q : Fin 4) : List (Instr × Nat) :=
  [(.tNop m q, 0x00), (.wload m q, 0x01), (.tload m q, 0x02), (.cbload m q, 0x03), (.mma m q, 0x10), (.aclr m q, 0x20),
   (.amove m q, 0x21), (.requant m q, 0x22), (.tstore m q, 0x23), (.semsig m q, 0x30), (.semwait m q, 0x31),
   (.hswait m q, 0x32), (.hsrel m q, 0x33)]

/-- R58, R75: the command `c` issues: it heads queue `q` of MXE `m`, the queue may issue, the buffer in front of its unit
has room, and it passes the checks. -/
def State.issuesTile (s : State) (m q op : Nat) (c : BitVec 128) : Prop :=
  s.headFor m q op = some c ∧ issueCheck s m q c = none

/-- R58, R67: MXE `m` is quiet: nothing waits in front of its units or runs on them, no release of a slot waits for what
does, and no load is being replayed. -/
def State.quiet (s : State) (m : Nat) : Prop :=
  (∀ j < 4, (s.mq m j).issued = [] ∧ (s.mq m j).running = [] ∧ (s.mq m j).hold ≠ .rel ∧ (s.mq m j).closing ≠ .failedWait) ∧
  (s.mx m).replays = [] ∧ (s.mx m).restore = []

/-- R196: no page of a range of a crew's slice is under repair. -/
def State.t0Free (s : State) (crew off n : Nat) : Prop :=
  ∀ p ∈ pagesOf (sliceBase crew + off) n, s.rcvOf (.t0Page p) = none

/-- R69: a range of a crew's slice can be read: no page of it is under repair, and no word of it is damaged. -/
def State.t0Clean (s : State) (crew off n : Nat) : Prop :=
  s.t0Free crew off n ∧ s.flippedIn (sliceBase crew + off) n = []

/-- The bytes of a range of a crew's slice. -/
def State.t0Bytes (s : State) (crew off n : Nat) : List Byte := memGets s.mem (sliceBase crew + off) n

/-- R58: the command `c` of queue `q`, which was the only one on MXE `m`, runs on its unit and will complete with a status
and a DETAIL; nothing else of the queues has changed, but what the queue remembers of its loads. -/
structure Runs (m q unit : Nat) (c : BitVec 128) (status detail : Nat) (s t : State) : Prop where
  waiting : (t.mq m q).waiting = (s.mq m q).waiting.drop 1
  issued  : (t.mq m q).issued = []
  running : ∃ r : TRun, (t.mq m q).running = [r] ∧ r.cmd = c ∧ r.unit = unit ∧ r.status = status ∧ r.detail = detail
  entries : (t.mq m q).entries = (s.mq m q).entries
  others  : ∀ j < 4, j ≠ q → t.mq m j = s.mq m j

/-- R5, R386: the command writes a register that its writer may not write: the write is ignored and an event is
recorded. A writer whose gate is shut (R395, R430) is not meant. -/
def Ignores (who : Who) (i : Instr) (s : State) : Prop :=
  s.whoOpen who = true → Does i s [.ctl, .ev] (Recorded 0x102 s)

/-- The command sets the registers `rs` to zero, and changes nothing else. -/
def Clears (i : Instr) (rs : List Reg) (s : State) : Prop :=
  Does i s [.ctl] fun t => (∀ r ∈ rs, t.reg r = 0) ∧ OnlyRegs rs s t

/-- R342: a lease message of a type goes to a part of the fabric: one packet more waits to be sent. -/
def SendsLease (msg dst : Nat) (s t : State) : Prop :=
  ∃ p, t.fabQ = s.fabQ ++ [(0, p)] ∧ p.type = 0x18 ∧ p.fnStatus = msg ∧ p.dst = dst

/-! ### Engines -/

/-- R243, R246: engine `e` is at work, and its current descriptor `d`, of operation `op`, has been fetched and checked and
has not had its effect. -/
def State.runs (s : State) (e op : Nat) (d : List Byte) : Prop :=
  s.engActive e 1 = true ∧ (s.eng e).desc = some d ∧ (s.eng e).checked = true ∧ (s.eng e).acted = false ∧ dOp d = op

/-- R250: the descriptor has had its effect, and will complete with a status and a detail. -/
def EngEnds (e status detail : Nat) (t : State) : Prop :=
  (t.eng e).acted = true ∧ (t.eng e).status = status ∧ (t.eng e).detail = detail

/-- R246: the engine has halted with a status, or will once the writes it has issued have their responses and its STATUS
write can be made. -/
def Halted (e status : Nat) (t : State) : Prop :=
  (t.engState e = 3 ∧ t.fld (engStat e) F.TRM_STAT_HALT_STATUS = status % 256) ∨
  ∃ h, (t.eng e).halting = some h ∧ h.status = status

/-- R246, R250: engine `e`, whose current descriptor has ended in `u`, goes on at NEXT, or is idle at the end of its chain. -/
def MovesOn (e : Nat) (u t : State) : Prop :=
  (t.eng e).desc = none ∧ t.mem = u.mem ∧
  if (u.eng e).next = 0 then t.engState e = 0 else t.reg (engCur e) = (u.eng e).next % 2 ^ 64

/-! ### The fabric, the foremen and the sideband -/

/-- R331, R333: packet `q`, which came by `k` and is taken from the arrivals, of which `rest` are left, is answered by a
packet of a type, a status and a payload, with the fields of its request, on the plane on which it arrived. -/
def Replied (k : Nat) (rest : List (Nat × Packet)) (q : Packet) (type fn : Nat) (payload : List Byte) (s t : State) :
    Prop :=
  ∃ r : Packet, r.type = type ∧ r.fnStatus = fn ∧ r.payload = payload ∧ r.dst = q.src ∧ r.src = s.ownCoords ∧
    r.tag = q.tag ∧ r.tagEpoch = q.tagEpoch ∧ r.epoch2 = q.epoch2 ∧
    if q.src = s.ownCoords then t.plt.inq = rest ++ [(planeOf k, r)] ∧ t.fabQ = s.fabQ
    else t.plt.inq = rest ∧ t.fabQ = s.fabQ ++ [(planeOf k, r)]

/-- The drift address of a request in flight. -/
def FabReq.target (r : FabReq) : Nat := 4 * 2 ^ 60 + r.pkt.dst * 2 ^ 45 + 8 * r.pkt.addr

/-- R392: foreman `f` stands for election. -/
def Stood (f : Nat) (s t : State) : Prop :=
  (t.foreman f).standAt = some s.nclk ∧ t.claim f F.FMN_CLAIM_CANDIDATE = 1 ∧
  t.claim f F.FMN_CLAIM_TERM = s.standTerm % 2 ^ 32 ∧ OnlyRegs [R.FMN_CLAIM f] s t

/-- R393, R394: foreman `f` has been reset: it asserts no claim, and is about to boot. -/
def ForemanOff (f : Nat) (t : State) : Prop :=
  t.foreman f = foreman0 ∧ t.bootState f = 0 ∧ t.fld (R.FMN_BOOT_STAT f) F.FMN_BOOT_STAT_SLOT = 3 ∧ t.asserts f = false

/-- R396: foreman `f` leads at a TERM: LEAD_STAT says so, what its predecessor had in hand is dropped (unless it led
before: log 119), and the PHASE of start-up has gone on. -/
def Leads (f term : Nat) (s t : State) : Prop :=
  t.reg R.FMN_LEAD_STAT = term * 2 ^ 32 + f ∧ t.mgmt.splitAt = none ∧
  (s.ledBy f = false → t.mgmt.inbound = [] ∧ t.mgmt.doe = spdmReset ∧ t.mgmt.mctp = spdmReset) ∧
  let ph := s.fld R.CLK_START_STAT F.CLK_START_STAT_PHASE
  t.fld R.CLK_START_STAT F.CLK_START_STAT_PHASE = if ph < 2 ∨ ph = 5 then (if s.bootState f = 3 then 5 else 2) else ph

/-- A message has been sent over DOE (0) or the sideband (1). -/
def Says (path : Nat) (msg : List Byte) (s t : State) : Prop := t.out = s.out ++ [.reply { path, msg }]

/-- R407: an SPDM request of a code is in order: it has the code, the length and the version, it comes when the connection
is at stage `need` at least, and a leading foreman that runs its firmware answers. -/
def State.spdmHears (s : State) (mctp : Bool) (code need len : Nat) (req : List Byte) : Prop :=
  s.spdmReaches mctp = true ∧ s.leaderRuns.isSome = true ∧ len ≤ req.length ∧ leAt req 1 1 = code ∧
  leAt req 0 1 = (if code = 0x84 then 0x10 else 0x12) ∧ need ≤ (s.spdm mctp).stage

/-- R425, R426: the part has been reset: every register and buffer is as at reset, but what R420 keeps. -/
structure FundamentallyReset (cause die rails : Nat) (s t : State) : Prop where
  cause   : t.fld R.CLK_RESET_CAUSE F.CLK_RESET_CAUSE_CAUSE = cause
  die     : t.fld R.CLK_RESET_CAUSE F.CLK_RESET_CAUSE_DIE = die
  rails   : t.fld R.CLK_RAIL_STAT F.CLK_RAIL_STAT_GOOD = rails
  regs    : ∀ r : Reg, r.off ≠ R.CLK_RESET_CAUSE.off → r.off ≠ R.CLK_RAIL_STAT.off → t.reg r = State.reset.reg r
  mem     : t.mem = State.reset.mem
  knc     : t.knc = State.reset.knc
  mxes    : t.mxes = State.reset.mxes
  engs    : t.engs = State.reset.engs
  plt     : t.plt = State.reset.plt
  hp0     : t.hp0 = State.reset.hp0
  pool    : t.pool = State.reset.pool
  qos     : t.qos = State.reset.qos
  ev      : t.ev = State.reset.ev
  flash   : t.mgmt.flash = s.mgmt.flash
  ssds    : t.t3.cells = s.t3.cells
  stuck   : t.ms.stuck = s.ms.stuck
  held    : t.mgmt.released = false
  pending : t.pending = s.pending

/-- The state with other packets waiting to be sent. -/
def withFab (l : List (Nat × Packet)) (s : State) : State :=
  { s with
    fabQ := l }

end Sys2Proof.Machine
end

