-- ==== Sys2Proof/Certificates/Slice0/Obligations.lean ====
section
/-! DEFINITION. The statements about this model, for the provers. What each rests on besides the rules it names is said in
its docstring, with the log entry. -/

open Sys2Proof Sys2Proof.Machine

/-- A step takes the command at the front of the queue and runs it with the rest of the queue. Model's choices in it:
log 1 (the queue of commands and the NCLK tick on an empty queue are the model's own; a command takes no time). -/
def Obligations.StepRunsFront : Prop :=
  ∀ (c : Instr) (s : State), step { s with pending := c :: s.pending } = exec c s

/-- R111, R112: the register instructions: each writes its result to rd, or nothing where rd is g0, and changes no
other register but PC and the count of issued instructions. -/
def Obligations.ScalarRegisterResults : Prop :=
  ∀ (c : Fin 1024) (rd ra rb : Fin 32) (s : State),
    let a := s.gv c ra
    let b := s.gv c rb
    let gives (i : Instr) (v : BitVec 64) : Prop := ∃ t, exec i s = .next t ∧
      t.g c rd = (if rd.val = 0 then 0 else v.toNat) ∧ RegDone c (destG c rd) s t
    (s.issues c ⟨[ra.val, rb.val], [rd.val]⟩ →
      gives (.kAdd c rd ra rb) (a + b) ∧
      gives (.kSub c rd ra rb) (a - b) ∧
      gives (.kAnd c rd ra rb) (a &&& b) ∧
      gives (.kOr c rd ra rb) (a ||| b) ∧
      gives (.kXor c rd ra rb) (a ^^^ b) ∧
      gives (.kSll c rd ra rb) (a <<< (b.toNat % 64)) ∧
      gives (.kSrl c rd ra rb) (a >>> (b.toNat % 64)) ∧
      gives (.kSra c rd ra rb) (a.sshiftRight (b.toNat % 64)) ∧
      gives (.kSlt c rd ra rb) (if a.slt b then 1 else 0) ∧
      gives (.kSltu c rd ra rb) (if a.ult b then 1 else 0) ∧
      gives (.kMin c rd ra rb) (if b.slt a then b else a) ∧
      gives (.kMax c rd ra rb) (if a.slt b then b else a) ∧
      gives (.kMul c rd ra rb) (a * b) ∧
      gives (.kMulh c rd ra rb) ((a.signExtend 128 * b.signExtend 128) >>> 64 |>.setWidth 64) ∧
      gives (.kMulhu c rd ra rb) ((a.setWidth 128 * b.setWidth 128) >>> 64 |>.setWidth 64) ∧
      gives (.kDiv c rd ra rb) (if b = 0 then BitVec.allOnes 64 else a.sdiv b) ∧
      gives (.kRem c rd ra rb) (if b = 0 then a else a.srem b) ∧
      gives (.kAdds c rd ra rb) (if a.saddOverflow b then (if a.msb then BitVec.intMin 64 else BitVec.intMax 64) else a + b)) ∧
    (s.issues c ⟨[ra.val], [rd.val]⟩ →
      gives (.kClz c rd ra) (BitVec.ofNat 64 ((List.range 65).findIdx fun n => n == 64 || a.getLsbD (63 - n))) ∧
      gives (.kCtz c rd ra) (BitVec.ofNat 64 ((List.range 65).findIdx fun n => n == 64 || a.getLsbD n)) ∧
      gives (.kPopc c rd ra) (BitVec.ofNat 64 ((List.range 64).countP a.getLsbD)) ∧
      gives (.kSextb c rd ra) ((a.setWidth 8).signExtend 64) ∧
      gives (.kSexth c rd ra) ((a.setWidth 16).signExtend 64) ∧
      gives (.kSextw c rd ra) ((a.setWidth 32).signExtend 64))

/-- R113, R121: the immediate instructions (kind 0b11 of SHI is reserved), and the requantising instructions of the
scalar registers and of vectors; a reserved record raises OPERAND. -/
def Obligations.ImmediateAndRequantiseResults : Prop :=
  (∀ (c : Fin 1024) (rd ra : Fin 32) (imm : BitVec 16) (s : State),
      let a := s.gv c ra
      let gives (i : Instr) (v : BitVec 64) : Prop := ∃ t, exec i s = .next t ∧
        t.g c rd = (if rd.val = 0 then 0 else v.toNat) ∧ RegDone c (destG c rd) s t
      s.issues c ⟨[ra.val], [rd.val]⟩ →
        gives (.kAddi c rd ra imm) (a + imm.signExtend 64) ∧
        gives (.kAndi c rd ra imm) (a &&& imm.setWidth 64) ∧
        gives (.kOri c rd ra imm) (a ||| imm.setWidth 64) ∧
        gives (.kXori c rd ra imm) (a ^^^ imm.setWidth 64) ∧
        gives (.kSlti c rd ra imm) (if a.slt (imm.signExtend 64) then 1 else 0) ∧
        gives (.kShori c rd ra imm) ((a <<< 16) ||| imm.setWidth 64) ∧
        (imm.toNat / 2 ^ 14 = 0 → gives (.kShi c rd ra imm) (a <<< (imm.toNat % 64))) ∧
        (imm.toNat / 2 ^ 14 = 1 → gives (.kShi c rd ra imm) (a >>> (imm.toNat % 64))) ∧
        (imm.toNat / 2 ^ 14 = 2 → gives (.kShi c rd ra imm) (a.sshiftRight (imm.toNat % 64))) ∧
        (imm.toNat / 2 ^ 14 = 3 → ∃ t, exec (.kShi c rd ra imm) s = .next t ∧ Excepted c Cause.illegal s t)) ∧
  (∀ (c : Fin 1024) (s : State),
      (∀ rd ra rb : Fin 32, s.issues c ⟨[ra.val, rb.val], [rd.val]⟩ →
        let x : Int := ((s.gv c ra).setWidth 32).toInt
        let r := scaleOf ((s.gv c rb).setWidth 32).toNat
        let gives (i : Instr) (f : Fmt) : Prop := ∃ t, exec i s = .next t ∧
          if r.rnd = 3 then Excepted c Cause.operand s t
          else
            t.g c rd = (if rd.val = 0 then 0 else (BitVec.ofInt 64 (requantise x r f).1).toNat) ∧
            t.reg (R.KNC_CNT_RQ_SAT (coreOf c)) =
              min counterMax (s.reg (R.KNC_CNT_RQ_SAT (coreOf c)) + (requantise x r f).2.toNat) ∧
            RegDone c (R.KNC_CNT_RQ_SAT (coreOf c) :: destG c rd) s t
        gives (.kRq8 c rd ra rb) .int8 ∧ gives (.kRq16 c rd ra rb) .int16 ∧ gives (.kRq32 c rd ra rb) .int32) ∧
      (∀ (vd va : Fin 16) (gs : Fin 32) (pg : Fin 8) (tfmt : Fin 4), s.issues c ⟨[32 + va.val, gs.val], [32 + vd.val]⟩ →
        let r := scaleOf ((s.gv c gs).setWidth 32).toNat
        ∃ t, exec (.kVrq c vd va gs pg tfmt) s = .next t ∧
          if r.rnd = 3 then Excepted c Cause.operand s t
          else
            let on (k : Nat) := laneActive 2 (s.p c pg) k
            let f := if tfmt.val = 0 then Fmt.int8 else if tfmt.val = 1 then Fmt.int4
              else if tfmt.val = 2 then Fmt.int16 else Fmt.int32
            let y (k : Nat) := requantise (BitVec.ofNat 32 (lane 2 (s.v c va) k)).toInt r f
            let w := if tfmt.val = 0 then 1 else if tfmt.val = 2 then 2 else 4
            let nibble (k : Nat) : Nat := if on k then (BitVec.ofInt 4 (y k).1).toNat else 0
            (tfmt.val ≠ 1 → (∀ k < 16, leNat (((t.v c vd).drop (k * w)).take w) =
                if on k then (BitVec.ofInt (8 * w) (y k).1).toNat else 0) ∧
              ∀ k < 64, 16 * w ≤ k → (t.v c vd).getD k 0 = 0) ∧
            (tfmt.val = 1 → (∀ k < 8, ((t.v c vd).getD k 0).toNat = nibble (2 * k) + 16 * nibble (2 * k + 1)) ∧
              ∀ k < 64, 8 ≤ k → (t.v c vd).getD k 0 = 0) ∧
            t.reg (R.KNC_CNT_RQ_SAT (coreOf c)) = min counterMax (s.reg (R.KNC_CNT_RQ_SAT (coreOf c)) +
              (List.range 16).countP fun k => on k && (y k).2) ∧
            RegDone c (R.KNC_CNT_RQ_SAT (coreOf c) :: destV c vd) s t))

/-- R107, R114, R117: scratch loads and stores, of general registers and of vectors: aligned and inside the scratch
they read or write their bytes, and else raise MISALIGN or ADDRESS. Model's choices in it: log 22 (order of the checks
of an access). -/
def Obligations.ScratchAccess : Prop :=
  (∀ (c : Fin 1024) (r ra : Fin 32) (imm : BitVec 16) (s : State),
      let a := (s.gv c ra + imm.signExtend 64).toNat
      let home := s.scrAddr c a
      let load (i : Instr) (n : Nat) : Prop := s.issues c ⟨[ra.val], [r.val]⟩ → ∃ t, exec i s = .next t ∧
        if a % n ≠ 0 then ExceptedAt c Cause.misalign a s t
        else if s.scrSize c < a + n then ExceptedAt c Cause.address a s t
        else s.scrBad home n = [] →
          t.g c r = (if r.val = 0 then 0 else leNat ((List.range n).map fun k => memByte s.cores.scratch (home + k))) ∧
          RegDone c (destG c r) s t
      let store (i : Instr) (n : Nat) : Prop := s.issues c ⟨[ra.val, r.val], []⟩ → ∃ t, exec i s = .next t ∧
        if a % n ≠ 0 then ExceptedAt c Cause.misalign a s t
        else if s.scrSize c < a + n then ExceptedAt c Cause.address a s t
        else
          (∀ k < n, (memByte t.cores.scratch (home + k)).toNat = (s.g c r) / 256 ^ k % 256) ∧
          (∀ x, x < home ∨ home + n ≤ x → memByte t.cores.scratch x = memByte s.cores.scratch x) ∧
          t.cores.luts = s.cores.luts ∧ Retired c (s.reg (ctxPc c) + 4) [] s t ∧ CtxSame c s t ∧
          Keeps [.ctl, .knc, .cores] s t
      load (.kLsb c r ra imm) 1 ∧ load (.kLsh c r ra imm) 2 ∧ load (.kLsw c r ra imm) 4 ∧ load (.kLsd c r ra imm) 8 ∧
      store (.kSsb c r ra imm) 1 ∧ store (.kSsh c r ra imm) 2 ∧ store (.kSsw c r ra imm) 4 ∧ store (.kSsd c r ra imm) 8) ∧
  (∀ (c : Fin 1024) (v : Fin 16) (ga : Fin 32) (pg : Fin 8) (disp : BitVec 14) (s : State),
      let a := (s.gv c ga + 64 * disp.signExtend 64).toNat
      let home := s.scrAddr c a
      (s.issues c ⟨[ga.val, 32 + v.val], [32 + v.val]⟩ → ∃ t, exec (.kVls c v ga pg disp) s = .next t ∧
        if a % 64 ≠ 0 then ExceptedAt c Cause.misalign a s t
        else if s.scrSize c < a + 64 then ExceptedAt c Cause.address a s t
        else s.scrBad home 64 = [] →
          (∀ k < 64, (t.v c v).getD k 0 =
            if (s.p c pg).testBit k then memByte s.cores.scratch (home + k) else (s.v c v).getD k 0) ∧
          RegDone c (destV c v) s t) ∧
      (s.issues c ⟨[ga.val, 32 + v.val], []⟩ → ∃ t, exec (.kVss c v ga pg disp) s = .next t ∧
        if a % 64 ≠ 0 then ExceptedAt c Cause.misalign a s t
        else if s.scrSize c < a + 64 then ExceptedAt c Cause.address a s t
        else
          (∀ k < 64, memByte t.cores.scratch (home + k) =
            if (s.p c pg).testBit k then (s.v c v).getD k 0 else memByte s.cores.scratch (home + k)) ∧
          (∀ x, x < home ∨ home + 64 ≤ x → memByte t.cores.scratch x = memByte s.cores.scratch x) ∧
          t.cores.luts = s.cores.luts ∧ Retired c (s.reg (ctxPc c) + 4) [] s t ∧ CtxSame c s t ∧
          Keeps [.ctl, .knc, .cores] s t))

/-- R117, R118: the vector arithmetic, lane by lane, and the widening moves and the four-byte product with the ES each
needs. -/
def Obligations.VectorResults : Prop :=
  (∀ (c : Fin 1024) (vd va vb : Fin 16) (pg : Fin 8) (es : Fin 4) (zm : Bool) (s : State),
      let w := 8 * 2 ^ es.val
      let a (k : Nat) : BitVec w := BitVec.ofNat w (lane es (s.v c va) k)
      let b (k : Nat) : BitVec w := BitVec.ofNat w (lane es (s.v c vb) k)
      let sat (x : Int) : BitVec w := BitVec.ofInt w (max (-(2 : Int) ^ (w - 1)) (min ((2 : Int) ^ (w - 1) - 1) x))
      let gives (i : Instr) (f : Nat → BitVec w) : Prop := ∃ t, exec i s = .next t ∧
        (∀ k < 64 / 2 ^ es.val, lane es (t.v c vd) k =
          if laneActive es (s.p c pg) k then (f k).toNat else if zm then 0 else lane es (s.v c vd) k) ∧
        RegDone c (destV c vd) s t
      (s.issues c ⟨[32 + va.val, 32 + vb.val] ++ keepsVd zm vd, [32 + vd.val]⟩ →
        gives (.kVadd c vd va vb pg es zm) (fun k => a k + b k) ∧
        gives (.kVsub c vd va vb pg es zm) (fun k => a k - b k) ∧
        gives (.kVadds c vd va vb pg es zm) (fun k => sat ((a k).toInt + (b k).toInt)) ∧
        gives (.kVsubs c vd va vb pg es zm) (fun k => sat ((a k).toInt - (b k).toInt)) ∧
        gives (.kVmul c vd va vb pg es zm) (fun k => a k * b k) ∧
        gives (.kVmin c vd va vb pg es zm) (fun k => if (b k).slt (a k) then b k else a k) ∧
        gives (.kVmax c vd va vb pg es zm) (fun k => if (a k).slt (b k) then b k else a k) ∧
        gives (.kVand c vd va vb pg es zm) (fun k => a k &&& b k) ∧
        gives (.kVor c vd va vb pg es zm) (fun k => a k ||| b k) ∧
        gives (.kVxor c vd va vb pg es zm) (fun k => a k ^^^ b k) ∧
        gives (.kVsll c vd va vb pg es zm) (fun k => a k <<< ((b k).toNat % w)) ∧
        gives (.kVsrl c vd va vb pg es zm) (fun k => a k >>> ((b k).toNat % w)) ∧
        gives (.kVsra c vd va vb pg es zm) (fun k => (a k).sshiftRight ((b k).toNat % w))) ∧
      (s.issues c ⟨(32 + va.val) :: keepsVd zm vd, [32 + vd.val]⟩ →
        gives (.kVclz c vd va pg es zm) (fun k => BitVec.ofNat w
          ((List.range (w + 1)).findIdx fun n => n == w || (a k).getLsbD (w - 1 - n))) ∧
        gives (.kVabs c vd va pg es zm) (fun k => sat (a k).toInt.natAbs) ∧
        gives (.kVmov c vd va pg es zm) (fun k => a k) ∧
        gives (.kVpfx c vd va pg es zm) (fun k => BitVec.ofNat w
          (((List.range (k + 1)).filter (laneActive es (s.p c pg))).map (lane es (s.v c va))).sum))) ∧
  (∀ (c : Fin 1024) (vd va vb : Fin 16) (pg : Fin 8) (es : Fin 4) (zm : Bool) (s : State),
      let old (k : Nat) := if zm then 0 else lane es (s.v c vd) k
      (es.val ≠ 0 → s.issues c ⟨(32 + va.val) :: keepsVd zm vd, [32 + vd.val]⟩ →
        let half (k : Nat) : BitVec (8 * 2 ^ (es.val - 1)) := BitVec.ofNat _ (lane (es.val - 1) (s.v c va) k)
        let gives (i : Instr) (from_ : Nat) : Prop := ∃ t, exec i s = .next t ∧
          (∀ k < 64 / 2 ^ es.val, lane es (t.v c vd) k = if laneActive es (s.p c pg) k
            then ((half (from_ + k)).signExtend (8 * 2 ^ es.val)).toNat else old k) ∧
          RegDone c (destV c vd) s t
        gives (.kVwidl c vd va pg es zm) 0 ∧ gives (.kVwidh c vd va pg es zm) (64 / 2 ^ es.val)) ∧
      (es.val = 2 → s.issues c ⟨[32 + va.val, 32 + vb.val, 32 + vd.val], [32 + vd.val]⟩ →
        let sum (k : Nat) : Int := (BitVec.ofNat 32 (lane 2 (s.v c vd) k)).toInt +
          ((List.range 4).map fun j => (BitVec.ofNat 8 (lane 0 (s.v c va) (4 * k + j))).toInt *
            (BitVec.ofNat 8 (lane 0 (s.v c vb) (4 * k + j))).toInt).sum
        ∃ t, exec (.kVdot4 c vd va vb pg es zm) s = .next t ∧
          (∀ k < 16, lane 2 (t.v c vd) k = if laneActive 2 (s.p c pg) k
            then (BitVec.ofInt 32 (max (-(2 : Int) ^ 31) (min ((2 : Int) ^ 31 - 1) (sum k)))).toNat else old k) ∧
          t.reg (R.KNC_CNT_ACC_SAT (coreOf c)) = min counterMax (s.reg (R.KNC_CNT_ACC_SAT (coreOf c)) +
            (List.range 16).countP fun k => laneActive 2 (s.p c pg) k && decide (sum k ≠ (BitVec.ofInt 32 (sum k)).toInt)) ∧
          RegDone c (R.KNC_CNT_ACC_SAT (coreOf c) :: destV c vd) s t) ∧
      (s.issues c ⟨[], []⟩ →
        (es.val = 0 → ∃ t, exec (.kVwidl c vd va pg es zm) s = .next t ∧ Excepted c Cause.illegal s t) ∧
        (es.val = 0 → ∃ t, exec (.kVwidh c vd va pg es zm) s = .next t ∧ Excepted c Cause.illegal s t) ∧
        (es.val ≠ 2 → ∃ t, exec (.kVdot4 c vd va vb pg es zm) s = .next t ∧ Excepted c Cause.illegal s t)))

/-- R119: VCMP sets the bits of pd for the active lanes whose signed comparison holds, and clears the others (CC 6 and
7 are reserved and raise ILLEGAL); the predicate operations write pd, or nothing where pd is p0; PTOG and GTOP move a
predicate to and from a general register. -/
def Obligations.PredicateResults : Prop :=
  ∀ (c : Fin 1024) (pd pa pb pg : Fin 8) (va vb : Fin 16) (g : Fin 32) (es : Fin 4) (cc : Fin 8) (s : State),
    let a := BitVec.ofNat 64 (s.p c pa)
    let b := BitVec.ofNat 64 (s.p c pb)
    let gives (i : Instr) (v : BitVec 64) : Prop := ∃ t, exec i s = .next t ∧
      t.p c pd = (if pd.val = 0 then 2 ^ 64 - 1 else v.toNat) ∧ RegDone c (destP c pd) s t
    (s.issues c ⟨[], []⟩ →
      gives (.kPand c pd pa pb) (a &&& b) ∧
      gives (.kPor c pd pa pb) (a ||| b) ∧
      gives (.kPxor c pd pa pb) (a ^^^ b) ∧
      gives (.kPandn c pd pa pb) (a &&& ~~~b) ∧
      gives (.kPnot c pd pa) (~~~a) ∧
      (6 ≤ cc.val → ∃ t, exec (.kVcmp c pd va vb pg es cc) s = .next t ∧ Excepted c Cause.illegal s t)) ∧
    (s.issues c ⟨[], [g.val]⟩ → ∃ t, exec (.kPtog c g pa) s = .next t ∧
      t.g c g = (if g.val = 0 then 0 else a.toNat) ∧ RegDone c (destG c g) s t) ∧
    (s.issues c ⟨[g.val], []⟩ → gives (.kGtop c pd g) (s.gv c g)) ∧
    (cc.val < 6 → s.issues c ⟨[32 + va.val, 32 + vb.val], []⟩ →
      let w := 8 * 2 ^ es.val
      let x (k : Nat) := (BitVec.ofNat w (lane es (s.v c va) k)).toInt
      let y (k : Nat) := (BitVec.ofNat w (lane es (s.v c vb) k)).toInt
      let holds (k : Nat) : Bool := match cc.val with
        | 0 => x k = y k | 1 => x k ≠ y k | 2 => x k < y k | 3 => x k ≤ y k | 4 => y k < x k | _ => y k ≤ x k
      ∃ t, exec (.kVcmp c pd va vb pg es cc) s = .next t ∧
        (pd.val ≠ 0 → ∀ j < 64, (t.p c pd).testBit j =
          (laneActive es (s.p c pg) (j / 2 ^ es.val) && holds (j / 2 ^ es.val))) ∧
        RegDone c (destP c pd) s t)

/-- R120: a reduction writes to rd the sum, the largest, the smallest, the lane of one of them, or the number of the
active lanes, and its stated value with no active lane; VBCAST, VEXTR and VINS move between lanes and a general
register, and a lane past the vector is reserved (ILLEGAL). -/
def Obligations.ReductionResults : Prop :=
  ∀ (c : Fin 1024) (rd : Fin 32) (v : Fin 16) (pg : Fin 8) (ln : Fin 64) (es : Fin 4) (s : State),
    let w := 8 * 2 ^ es.val
    let x (k : Nat) : Int := (BitVec.ofNat w (lane es (s.v c v) k)).toInt
    let on := (List.range (64 / 2 ^ es.val)).filter (laneActive es (s.p c pg))
    let put (t : State) (n : BitVec 64) : Prop := t.g c rd = (if rd.val = 0 then 0 else n.toNat)
    let gives (i : Instr) (q : State → Prop) : Prop := ∃ t, exec i s = .next t ∧ q t ∧ RegDone c (destG c rd) s t
    (s.issues c ⟨[32 + v.val], [rd.val]⟩ →
      gives (.kVredSum c rd v pg es) (fun t => put t (BitVec.ofInt 64
        (max (-(2 : Int) ^ 63) (min ((2 : Int) ^ 63 - 1) (on.map x).sum)))) ∧
      gives (.kVredMax c rd v pg es) (fun t =>
        (on = [] → put t (BitVec.ofInt 64 (-(2 : Int) ^ (w - 1)))) ∧
        (∀ k ∈ on, (∀ j ∈ on, x j ≤ x k) → put t (BitVec.ofInt 64 (x k)))) ∧
      gives (.kVredMin c rd v pg es) (fun t =>
        (on = [] → put t (BitVec.ofInt 64 ((2 : Int) ^ (w - 1) - 1))) ∧
        (∀ k ∈ on, (∀ j ∈ on, x k ≤ x j) → put t (BitVec.ofInt 64 (x k)))) ∧
      gives (.kVredArgmax c rd v pg es) (fun t =>
        (on = [] → put t (BitVec.allOnes 64)) ∧
        (∀ k ∈ on, (∀ j ∈ on, x j ≤ x k) → (∀ j ∈ on, j < k → x j < x k) → put t (BitVec.ofNat 64 k))) ∧
      gives (.kVredArgmin c rd v pg es) (fun t =>
        (on = [] → put t (BitVec.allOnes 64)) ∧
        (∀ k ∈ on, (∀ j ∈ on, x k ≤ x j) → (∀ j ∈ on, j < k → x k < x j) → put t (BitVec.ofNat 64 k))) ∧
      gives (.kVredPopc c rd v pg es) (fun t => put t (BitVec.ofNat 64 on.length)) ∧
      (ln.val < 64 / 2 ^ es.val → gives (.kVextr c rd v ln es) (fun t => put t (BitVec.ofInt 64 (x ln))))) ∧
    (s.issues c ⟨[rd.val, 32 + v.val], [32 + v.val]⟩ →
      ∃ t, exec (.kVbcast c v rd pg es) s = .next t ∧
        (∀ k < 64 / 2 ^ es.val, lane es (t.v c v) k =
          if laneActive es (s.p c pg) k then s.g c rd % 2 ^ w else lane es (s.v c v) k) ∧
        RegDone c (destV c v) s t) ∧
    (ln.val < 64 / 2 ^ es.val → s.issues c ⟨[32 + v.val, rd.val], [32 + v.val]⟩ →
      ∃ t, exec (.kVins c v rd ln es) s = .next t ∧
        (∀ k < 64 / 2 ^ es.val, lane es (t.v c v) k = if k = ln.val then s.g c rd % 2 ^ w else lane es (s.v c v) k) ∧
        RegDone c (destV c v) s t) ∧
    (64 / 2 ^ es.val ≤ ln.val → s.issues c ⟨[], []⟩ →
      (∃ t, exec (.kVextr c rd v ln es) s = .next t ∧ Excepted c Cause.illegal s t) ∧
      (∃ t, exec (.kVins c v rd ln es) s = .next t ∧ Excepted c Cause.illegal s t))

/-- R105, R122, R123: LUT and LUTN write the looked-up value of each active lane and count what was clamped, wait
while the table loads, and raise PRIV at a table of another tenant; LUTLD loads a table from scratch, which is then
busy for 32 cycles. Model's choices in it: log 22 (order of the checks of an access). -/
def Obligations.LookupResults : Prop :=
  ∀ (c : Fin 1024) (vd va : Fin 16) (tbl : Fin 4) (gs : Fin 32) (pg : Fin 8) (s : State),
    let k := coreOf c
    let cfg := s.lutCfg k tbl
    let tab := s.lutTab k tbl
    let x (j : Nat) : Int := (BitVec.ofNat 32 (lane 2 (s.v c va) j)).toInt
    let gives (i : Instr) (f : Int → Int × Bool) : Prop := ∃ t, exec i s = .next t ∧
      if s.lutDenied c tbl then Excepted c Cause.priv s t
      else if s.nclk < mapGet s.cores.lutBusy (4 * k + tbl) 0 then t = s
      else
        (∀ j < 16, lane 2 (t.v c vd) j = if laneActive 2 (s.p c pg) j
          then (BitVec.ofInt 32 (f (x j)).1).toNat else lane 2 (s.v c vd) j) ∧
        t.reg (R.KNC_CNT_LUT_CLAMP k) = min counterMax (s.reg (R.KNC_CNT_LUT_CLAMP k) +
          (List.range 16).countP fun j => laneActive 2 (s.p c pg) j && (f (x j)).2) ∧
        RegDone c (R.KNC_CNT_LUT_CLAMP k :: destV c vd) s t
    (s.issues c ⟨[32 + va.val, 32 + vd.val], [32 + vd.val]⟩ →
      gives (.kLut c vd va tbl pg) (lutLane cfg tab) ∧ gives (.kLutn c vd va tbl pg) (lutnLane cfg tab)) ∧
    (s.issues c ⟨[gs.val], []⟩ →
      let a := s.g c gs
      ∃ t, exec (.kLutld c tbl gs) s = .next t ∧
        if s.lutDenied c tbl then Excepted c Cause.priv s t
        else if s.scrSize c < a + 2048 then ExceptedAt c Cause.address a s t
        else s.scrBad (s.scrAddr c a) 2048 = [] →
          (∀ j < 1024, (t.lutTab k tbl).getD j 0 = (BitVec.ofNat 16 (leNat
            [memByte s.cores.scratch (s.scrAddr c a + 2 * j), memByte s.cores.scratch (s.scrAddr c a + 2 * j + 1)])).toInt) ∧
          mapGet t.cores.lutBusy (4 * k + tbl) 0 = s.nclk + 32 ∧
          (∀ n, n ≠ 4 * k + tbl.val → mapFind t.cores.luts n = mapFind s.cores.luts n) ∧
          t.cores.scratch = s.cores.scratch ∧
          Retired c (s.reg (ctxPc c) + 4) [] s t ∧ CtxSame c s t ∧ Keeps [.ctl, .knc, .cores] s t)

/-- R116: branches and jumps; a target that is not aligned raises MISALIGN at the jump. -/
def Obligations.BranchResults : Prop :=
  ∀ (c : Fin 1024) (rd ra : Fin 32) (pa : Fin 8) (sense : Bool) (off : BitVec 21) (imm : BitVec 16) (s : State),
    let pc := BitVec.ofNat 64 (s.reg (ctxPc c))
    let there := (pc + 4 * off.signExtend 64).toNat
    let goes (i : Instr) (taken : Bool) : Prop := ∃ t, exec i s = .next t ∧
      Retired c (if taken then there else (pc + 4).toNat) [] s t ∧ CtxSame c s t ∧ Keeps [.ctl, .knc] s t
    (s.issues c ⟨[ra.val], []⟩ →
      goes (.kBeqz c ra off) (s.gv c ra = 0) ∧
      goes (.kBnez c ra off) (s.gv c ra ≠ 0) ∧
      goes (.kBltz c ra off) ((s.gv c ra).msb) ∧
      goes (.kBgez c ra off) (!(s.gv c ra).msb)) ∧
    (s.issues c ⟨[], []⟩ → goes (.kBp c pa sense off) (if sense then s.p c pa = 0 else s.p c pa ≠ 0)) ∧
    (s.issues c ⟨[], [rd.val]⟩ → ∃ t, exec (.kJal c rd off) s = .next t ∧
      t.g c rd = (if rd.val = 0 then 0 else (pc + 4).toNat) ∧
      Retired c there (destG c rd) s t ∧ CtxSame c s t ∧ Keeps [.ctl, .knc] s t) ∧
    (s.issues c ⟨[ra.val], [rd.val]⟩ →
      let dest := (s.gv c ra + imm.signExtend 64).toNat
      ∃ t, exec (.kJalr c rd ra imm) s = .next t ∧
        if dest % 4 ≠ 0 then ExceptedAt c Cause.misalign dest s t
        else t.g c rd = (if rd.val = 0 then 0 else (pc + 4).toNat) ∧
          Retired c dest (destG c rd) s t ∧ CtxSame c s t ∧ Keeps [.ctl, .knc] s t)

/-- R106, R114, R117, R129: a load at a part address of T0, T1 or T2 becomes outstanding with what it read, and a
store is performed; one at a control address reads or writes its register; one on drift memory becomes a request of
the fabric, or fails where its lease refuses it. Each raises MISALIGN or ADDRESS (alignment, the regions of the
context, an address the part does not have), and waits while sixteen accesses are outstanding. Model's choices in it:
log 21 (accesses are performed at issue and answered later); log 22 (order of the checks of an access); log 113 (order
of the accesses of a context to one page). -/
def Obligations.PartAccesses : Prop :=
  ∀ (c : Fin 1024) (r ra : Fin 32) (v : Fin 16) (pg : Fin 8) (imm : BitVec 16) (disp : BitVec 14) (s : State),
    let s1 := bump (R.KNC_CNT_ISSUE (coreOf c)) 1 s
    let memory (a : Nat) : Prop := spaceOf a = .t0 ∨ spaceOf a = .t1 ∨ spaceOf a = .t2
    let out (kind : AccKind) (a n : Nat) (st : AccState) (u t : State) : Prop :=
      t = retire c (s.reg (ctxPc c) + 4) (pushAcc c (newAcc s1 c kind a n st) u)
    let gate (i : Instr) (a n need : Nat) (q : State → Prop) : Prop := ∃ t, exec i s = .next t ∧
      if a % n ≠ 0 then ExceptedAt c Cause.misalign a s t
      else if (!s1.ctxPriv c && !s1.rgnOk c a n need) = true then ExceptedAt c Cause.address a s t
      else if 16 ≤ (s1.kc c).out.length ∨ s1.ownHeld c a need = true then t = s
      else (spaceOf a = .reserved → ExceptedAt c Cause.address a s t) ∧
        (memory a → s1.reachable a n = false → ExceptedAt c Cause.address a s t) ∧ q t
    let load (i : Instr) (a n : Nat) (kind : AccKind) : Prop := gate i a n 2 fun t =>
      (memory a → s1.reachable a n = true →
        (∀ bs u, readRange (.ctx c) a n s1 = (.ok bs, u) → out kind a n (.ready bs) u t) ∧
        (∀ u, readRange (.ctx c) a n s1 = (.held, u) → out kind a n .parked u t) ∧
        (∀ e u, readRange (.ctx c) a n s1 = (.err e, u) → out kind a n .failed u t)) ∧
      (spaceOf a = .control → ∀ x u, ctlRead (.ctx (Fin.ofNat 1024 c)) (spaceOff a) n s1 = (x, u) →
        out kind a n (.ready (leBytes n x)) u t) ∧
      (spaceOf a = .drift → s1.driftCheck false a n ≠ none → out kind a n .failed s1 t) ∧
      (spaceOf a = .drift → s1.driftCheck false a n = none →
        match fabSend (.ctx c) 1 0 (a / 8 * 8) ((a % 8 + n + 7) / 8 * 8) [] s1 with
        | none => t = s
        | some (k, u) => out kind a n (.remote k) u t)
    let store (i : Instr) (a n : Nat) (runs : List (Nat × List Byte)) : Prop := gate i a n 4 fun t =>
      (memory a → s1.reachable a n = true →
        (runs = [] → t = retire c (s.reg (ctxPc c) + 4) s1) ∧
        (runs ≠ [] → (∀ u, storeRuns c a runs s1 = (false, u) → out .store a n (.ready []) u t) ∧
          (∀ u, storeRuns c a runs s1 = (true, u) → t = s))) ∧
      (spaceOf a = .control →
        out .store a n (.ready []) (ctlWrite (.ctx (Fin.ofNat 1024 c)) (spaceOff a) n (leNat ((runs.map (·.2)).flatten)) s1) t) ∧
      (spaceOf a = .drift → runs ≠ [] → s1.driftCheck true a n ≠ none → out .store a n .failed s1 t) ∧
      (spaceOf a = .drift → s1.driftCheck true a n = none → s1.driftStalls a n = false →
        ∀ o bs k u, runs = [(o, bs)] → (a + o) % 8 = 0 → bs.length % 8 = 0 →
          fabSend (.ctx c) 2 0 (a + o) bs.length bs s1 = some (k, u) →
          out .store a n (.remote k) (storeRuns c a runs u).2 t)
    let a := (s.gv c ra + imm.signExtend 64).toNat
    let av := (s.gv c ra + 64 * disp.signExtend 64).toNat
    (s.issues c ⟨[ra.val], [r.val]⟩ →
      load (.kLgb c r ra imm) a 1 (.load r) ∧ load (.kLgh c r ra imm) a 2 (.load r) ∧
      load (.kLgw c r ra imm) a 4 (.load r) ∧ load (.kLgd c r ra imm) a 8 (.load r)) ∧
    (s.issues c ⟨[ra.val, r.val], []⟩ →
      store (.kSgb c r ra imm) a 1 [(0, leBytes 1 (s.g c r))] ∧ store (.kSgh c r ra imm) a 2 [(0, leBytes 2 (s.g c r))] ∧
      store (.kSgw c r ra imm) a 4 [(0, leBytes 4 (s.g c r))] ∧ store (.kSgd c r ra imm) a 8 [(0, leBytes 8 (s.g c r))]) ∧
    (s.issues c ⟨[ra.val, 32 + v.val], [32 + v.val]⟩ → load (.kVlg c v ra pg disp) av 64 (.vload v (s.p c pg))) ∧
    (s.issues c ⟨[ra.val, 32 + v.val], []⟩ → store (.kVsg c v ra pg disp) av 64 (activeRuns (s.p c pg) (s.v c v)))

/-- R20, R131: the response to an outstanding access delivers its value, in the order of its page; an access in error,
or without a response for 1 ms, becomes a held error. Model's choices in it: log 15 (timers with a recorded start are
enforced, the others are trusted); log 21 (accesses are performed at issue and answered later); log 113 (order of the
accesses of a context to one page). -/
def Obligations.AccessResponses : Prop :=
  ∀ (c : Fin 1024) (n : Nat) (s : State),
    let left := (s.kc c).out.eraseIdx n
    (∃ t, exec (.kncAccessResponse c n) s = .next t ∧ Keeps [.ctl, .knc] s t ∧ (∀ d, d ≠ c.val → t.kc d = s.kc d) ∧
      ((s.kc c).out[n]? = none → t = s) ∧
      ∀ a, (s.kc c).out[n]? = some a →
        (spaceOf a.addr ≠ .drift → (∃ b ∈ (s.kc c).out.take n, b.addr / 4096 = a.addr / 4096) → t = s) ∧
        ((spaceOf a.addr = .drift ∨ ∀ b ∈ (s.kc c).out.take n, b.addr / 4096 ≠ a.addr / 4096) →
          (∀ bs, a.state = .ready bs →
            (∀ rd fn rb cmp, a.kind = .load rd ∨ a.kind = .amo fn rd rb cmp →
              t.g c rd = (if rd = 0 then 0 else leNat bs % 2 ^ 64) ∧ (t.kc c).out = left ∧ OnlyRegs (destG c rd) s t) ∧
            (∀ v mask, a.kind = .vload v mask →
              (∀ k < 64, (t.v c v).getD k 0 = if mask.testBit k then bs.getD k 0 else (s.v c v).getD k 0) ∧
              (t.kc c).out = left ∧ OnlyRegs (destV c v) s t) ∧
            (a.kind = .store → if s.heldByOn (.ctx c) a.addr a.size = true then t = s
              else (t.kc c).out = left ∧ (t.kc c).errs = (s.kc c).errs ∧ OnlyRegs [] s t)) ∧
          (a.state = .failed → (t.kc c).out = left ∧ OnlyRegs [] s t ∧
            ∃ d, (t.kc c).errs = (s.kc c).errs ++ [{ timeout := false, pc := a.pc, addr := a.addr, dest := d }]))) ∧
    (∃ t, exec (.kncAccessTimeout c n) s = .next t ∧ Keeps [.knc] s t ∧ (∀ d, d ≠ c.val → t.kc d = s.kc d) ∧
      ((s.kc c).out[n]? = none → t = s) ∧
      ∀ a, (s.kc c).out[n]? = some a →
        (s.nclk < a.time + 1800000 → t = s) ∧
        (a.time + 1800000 ≤ s.nclk → (t.kc c).out = left ∧
          ∃ d, (t.kc c).errs = (s.kc c).errs ++ [{ timeout := true, pc := a.pc, addr := a.addr, dest := d }] ∧
            (a.kind = .store → d = none) ∧ (∀ rd, a.kind = .load rd → rd ≠ 0 → d = some rd)))

/-- R115: an AMO in scratch writes its new value and gives the old one; one at a part address of T0, T1 or T2 becomes
outstanding with the old value; either raises MISALIGN or ADDRESS, and control space raises ADDRESS; one on drift
memory that its lease refuses ends in error. Model's choices in it: log 21 (accesses are performed at issue and
answered later); log 22 (order of the checks of an access); log 24 (drift AMOs and refusals); log 113 (order of the
accesses of a context to one page). -/
def Obligations.AtomicResults : Prop :=
  ∀ (c : Fin 1024) (rd ra rb : Fin 32) (s : State),
    let a := s.g c ra
    let s1 := bump (R.KNC_CNT_ISSUE (coreOf c)) 1 s
    let home := s.scrAddr c a
    let old : BitVec 64 := BitVec.ofNat 64 (leNat ((List.range 8).map fun k => memByte s.cores.scratch (home + k)))
    let b := s.gv c rb
    let issues (fn : Nat) : Prop := s.issues c ⟨if fn = 2 then [ra.val, rb.val, rd.val] else [ra.val, rb.val], [rd.val]⟩
    let scratch (i : Instr) (fn : Nat) (new : BitVec 64) : Prop := issues fn → ∃ t, exec i s = .next t ∧
      if a % 8 ≠ 0 then ExceptedAt c Cause.misalign a s t
      else if s.scrSize c < a + 8 then ExceptedAt c Cause.address a s t
      else s.scrBad home 8 = [] →
        t.g c rd = (if rd.val = 0 then 0 else old.toNat) ∧
        (∀ k < 8, (memByte t.cores.scratch (home + k)).toNat = new.toNat / 256 ^ k % 256) ∧
        (∀ x, x < home ∨ home + 8 ≤ x → memByte t.cores.scratch x = memByte s.cores.scratch x) ∧
        Retired c (s.reg (ctxPc c) + 4) (destG c rd) s t ∧ CtxSame c s t ∧ Keeps [.ctl, .knc, .cores] s t
    let part (i : Instr) (fn : Nat) : Prop := issues fn → ∃ t, exec i s = .next t ∧
      let out (st : AccState) (u : State) : Prop := t = retire c (s.reg (ctxPc c) + 4)
        (pushAcc c (newAcc s1 c (.amo fn rd b.toNat (s.g c rd)) a 8 st) u)
      if a % 8 ≠ 0 then ExceptedAt c Cause.misalign a s t
      else if (!s1.ctxPriv c && !s1.rgnOk c a 8 6) = true then ExceptedAt c Cause.address a s t
      else if 16 ≤ (s1.kc c).out.length ∨ s1.ownHeld c a 6 = true then t = s
      else
        (spaceOf a = .control ∨ spaceOf a = .reserved → ExceptedAt c Cause.address a s t) ∧
        (spaceOf a = .t0 ∨ spaceOf a = .t1 ∨ spaceOf a = .t2 →
          if s1.reachable a 8 = false then ExceptedAt c Cause.address a s t
          else (∀ bs u, memAmo (.ctx c) fn a b.toNat (s.g c rd) s1 = (.ok bs, u) → out (.ready bs) u) ∧
            (∀ u, memAmo (.ctx c) fn a b.toNat (s.g c rd) s1 = (.held, u) → out .parked u) ∧
            (∀ e u, memAmo (.ctx c) fn a b.toNat (s.g c rd) s1 = (.err e, u) → out .failed u)) ∧
        (spaceOf a = .drift → s1.driftCheck true a 8 ≠ none → out .failed s1)
    scratch (.kAmoadd c rd ra rb true) 0 (old + b) ∧ scratch (.kAmoswap c rd ra rb true) 1 b ∧
    scratch (.kAmocas c rd ra rb true) 2 (if old = s.gv c rd then b else old) ∧
    scratch (.kAmomax c rd ra rb true) 3 (if old.slt b then b else old) ∧
    scratch (.kAmomin c rd ra rb true) 4 (if b.slt old then b else old) ∧
    scratch (.kAmoand c rd ra rb true) 5 (old &&& b) ∧ scratch (.kAmoor c rd ra rb true) 6 (old ||| b) ∧
    part (.kAmoadd c rd ra rb false) 0 ∧ part (.kAmoswap c rd ra rb false) 1 ∧ part (.kAmocas c rd ra rb false) 2 ∧
    part (.kAmomax c rd ra rb false) 3 ∧ part (.kAmomin c rd ra rb false) 4 ∧ part (.kAmoand c rd ra rb false) 5 ∧
    part (.kAmoor c rd ra rb false) 6

/-- R124, R125, R70: TQPUSH puts a command into a tile queue, gives 0 or stalls where the queue is full; TQSTAT takes
the oldest status entry; TQDEPTH counts the commands and entries of the queue; TQCANCEL cancels its waiting commands;
MXP 3 raises ILLEGAL, and a queue that the context does not own raises QUEUE. A stalled push completes, waits on, or
gives 0 once its queue is gone. Model's choices in it: log 26 (FENCE, STOP, WAITEV, TQPUSH and CSRR corners). -/
def Obligations.TileQueueInstructions : Prop :=
  ∀ (c : Fin 1024) (rd : Fin 32) (v : Fin 16) (qtr mxp q : Fin 4) (nb : Bool) (s : State),
    let m := 3 * (c.val / 16) + mxp.val
    let s1 := bump (R.KNC_CNT_ISSUE (coreOf c)) 1 s
    let mine := s.qBound m q = true ∧ s.fld (R.MXE_QCTL m q) F.MXE_QCTL_OWNER_CTX = c.val
    let gate (i : Instr) (q : State → Prop) : Prop := ∃ t, exec i s = .next t ∧
      if mxp.val = 3 then Excepted c Cause.illegal s t else (¬ mine → Excepted c Cause.queue s t) ∧ (mine → q t)
    let put (t : State) (n : Nat) : Prop := t.g c rd = (if rd.val = 0 then 0 else n)
    let ends (t : State) : Prop :=
      Retired c (s.reg (ctxPc c) + 4) (destG c rd) s t ∧ CtxSame c s t ∧ Keeps [.ctl, .knc, .mxes] s t
    let cmd := BitVec.ofNat 128 (leNat (((s.v c v).drop (16 * qtr.val)).take 16))
    (s.issues c ⟨[32 + v.val], [rd.val]⟩ → gate (.kTqpush c rd v qtr mxp q nb) (fun t =>
      if s.sliceOwed c then t = s
      else if (s.mq m q).depth < 64 ∧ (s.mq m q).closing = .none then
        put t 1 ∧ (t.mq m q).waiting = (s.mq m q).waiting ++ [cmd] ∧ ends t
      else if nb then put t 0 ∧ t.mxes = s.mxes ∧ ends t
      else t.ctxState c = 3 ∧ (t.kc c).wait = .push rd m q cmd ∧ t.reg (ctxPc c) = s.reg (ctxPc c) ∧ t.mxes = s.mxes)) ∧
    (s.issues c ⟨[], [rd.val]⟩ →
      gate (.kTqstat c rd mxp q) (fun t => ends t ∧ match (s.mq m q).entries with
        | [] => put t (2 ^ 64 - 1) ∧ t.mxes = s.mxes
        | e :: rest => put t e.toNat ∧ (t.mq m q).entries = rest) ∧
      gate (.kTqdepth c rd mxp q) (fun t => ends t ∧ t.mxes = s.mxes ∧
        put t (((s.mq m q).waiting.length + (s.mq m q).buffered.length + (s.mq m q).running.length + (s.mq m q).sigs.length +
          (s.mq m q).entries.length) % 2 ^ 64)) ∧
      gate (.kTqcancel c rd mxp q) (fun t =>
        if s.qState m q = 0 then put t 0 ∧ t.mxes = s.mxes ∧ ends t
        else put t 1 ∧ t.reg (ctxPc c) = (s.reg (ctxPc c) + 4) % 2 ^ 64 ∧
          t = retire c (s.reg (ctxPc c) + 4) (setG c rd 1 (startCancel m q St.aborted s1)) ∧
          ((s.mq m q).closing = .none →
            (t.mq m q).waiting = [] ∧ (t.mq m q).sigs = [] ∧ (t.mq m q).closing = .cancel St.aborted))) ∧
    (∃ t, exec (.kTqpushResume c) s = .next t ∧ Keeps [.ctl, .knc, .mxes] s t ∧
      ∀ r m q w, s.ctxState c = 3 → s.computeOpen = true → s.crewUp (c.val / 16) = true →
        (s.kc c).wait = .push r m q w → r < 32 →
        let gone := s.qBound m q = false ∨ s.fld (R.MXE_QCTL m q) F.MXE_QCTL_OWNER_CTX ≠ c.val ∨ (s.mq m q).closing ≠ .none
        (gone → t.g c r = 0 ∧ t.ctxState c = 2 ∧ t.mxes = s.mxes ∧ t.reg (ctxPc c) = (s.reg (ctxPc c) + 4) % 2 ^ 64) ∧
        (¬ gone → (s.mq m q).depth < 64 → t.g c r = (if r = 0 then 0 else 1) ∧ t.ctxState c = 2 ∧
          (t.mq m q).waiting = (s.mq m q).waiting ++ [w] ∧ t.reg (ctxPc c) = (s.reg (ctxPc c) + 4) % 2 ^ 64) ∧
        (¬ gone → 64 ≤ (s.mq m q).depth → t = s))

/-- R127, R122, R105: CSRR reads CTX_ID, TENANT, TIME, INSTRET, TIMER, RNG_STATE and the configurations of the tables;
CSRW writes TIMER, RNG_STATE and those configurations; any other number raises ILLEGAL, a table of another tenant
PRIV, and a reserved configuration OPERAND. Model's choices in it: log 26 (FENCE, STOP, WAITEV, TQPUSH and CSRR
corners). -/
def Obligations.CsrResults : Prop :=
  ∀ (c : Fin 1024) (rd ra : Fin 32) (sel : BitVec 12) (s : State),
    let read (v : Nat) : Prop := ∃ t, exec (.kCsrr c rd sel) s = .next t ∧
      t.g c rd = (if rd.val = 0 then 0 else v % 2 ^ 64) ∧ RegDone c (destG c rd) s t
    let stops (i : Instr) (cause : Nat) : Prop := ∃ t, exec i s = .next t ∧ Excepted c cause s t
    let table := 0x10 ≤ sel.toNat ∧ sel.toNat ≤ 0x13
    let tbl := sel.toNat - 0x10
    let v := s.g c ra
    (s.issues c ⟨[], [rd.val]⟩ →
      (sel = 0 → read c) ∧ (sel = 1 → read (s.ctxTenant c)) ∧ (sel = 2 → read s.nclk) ∧
      (sel = 3 → read (s.kc c).instret) ∧ (sel = 4 → read (s.kc c).timer) ∧ (sel = 5 → read (s.kc c).rng.toNat) ∧
      (table → s.lutDenied c tbl = true → stops (.kCsrr c rd sel) Cause.priv) ∧
      (table → s.lutDenied c tbl = false → read (s.reg (R.KNC_LUTCFG (coreOf c) tbl))) ∧
      (5 < sel.toNat → ¬ table → stops (.kCsrr c rd sel) Cause.illegal)) ∧
    (s.issues c ⟨[ra.val], []⟩ →
      (sel = 4 → ∃ t, exec (.kCsrw c ra sel) s = .next t ∧ (t.kc c).timer = v ∧
        Retired c (s.reg (ctxPc c) + 4) [] s t ∧ Keeps [.ctl, .knc] s t) ∧
      (sel = 5 → ∃ t, exec (.kCsrw c ra sel) s = .next t ∧ (t.kc c).rng.toNat = (if v = 0 then 1 else v % 2 ^ 64) ∧
        Retired c (s.reg (ctxPc c) + 4) [] s t ∧ Keeps [.ctl, .knc] s t) ∧
      (table → s.lutDenied c tbl = true → stops (.kCsrw c ra sel) Cause.priv) ∧
      (table → s.lutDenied c tbl = false →
        if 24 < v / 2 ^ 32 % 32 ∨ v / 2 ^ 37 % 4 = 3 then stops (.kCsrw c ra sel) Cause.operand
        else ∃ t, exec (.kCsrw c ra sel) s = .next t ∧
          t.reg (R.KNC_LUTCFG (coreOf c) tbl) = v / 2 ^ 40 % 16 * 2 ^ 40 + v % 2 ^ 39 ∧
          RegDone c [R.KNC_LUTCFG (coreOf c) tbl] s t) ∧
      (sel.toNat < 4 ∨ (5 < sel.toNat ∧ ¬ table) → stops (.kCsrw c ra sel) Cause.illegal))

/-- R127, R130 to R132: FENCE waits for the accesses it names; YIELD only advances; BRK and an illegal word raise
their exceptions; RNG steps the generator; STOP waits for outstanding accesses and stops the context; WAITEV gives the
events that are pending or waits for one. Model's choices in it: log 26 (FENCE, STOP, WAITEV, TQPUSH and CSRR
corners). -/
def Obligations.SystemInstructions : Prop :=
  ∀ (c : Fin 1024) (rd ra : Fin 32) (mask : BitVec 4) (ifl : Bool) (word : BitVec 32) (s : State),
    let plain (i : Instr) : Prop := ∃ t, exec i s = .next t ∧ RegDone c [] s t
    let owed := (s.kc c).out.any fun a => (mask.getLsbD 0 && a.isLoad) || (mask.getLsbD 1 && a.isStore)
    (s.issues c ⟨[], []⟩ → plain (.kYield c) ∧
      (∃ t, exec (.kBrk c) s = .next t ∧ Excepted c Cause.brk s t) ∧
      (illegalWord word.toNat = true → ∃ t, exec (.illegalInstruction c word) s = .next t ∧ Excepted c Cause.illegal s t) ∧
      ((s.kc c).errs = [] → (mask.getLsbD 2 || mask.getLsbD 3) = true → owed = true →
        exec (.kFence c mask ifl) s = .next s) ∧
      ((s.kc c).errs = [] → ((mask.getLsbD 2 || mask.getLsbD 3) && owed) = false → plain (.kFence c mask ifl))) ∧
    (s.issues c ⟨[], [rd.val]⟩ → ∃ t, exec (.kRng c rd) s = .next t ∧
      let x := (s.kc c).rng
      let x := x ^^^ (x <<< 13)
      let x := x ^^^ (x >>> 7)
      let x := x ^^^ (x <<< 17)
      (t.kc c).rng = x ∧ t.g c rd = (if rd.val = 0 then 0 else x.toNat) ∧
      Retired c (s.reg (ctxPc c) + 4) (destG c rd) s t ∧ Keeps [.ctl, .knc] s t) ∧
    (s.issues c ⟨[ra.val], []⟩ → (s.kc c).errs = [] →
      ((s.kc c).out ≠ [] → exec (.kStop c ra) s = .next s) ∧
      ((s.kc c).out = [] → ∃ t, exec (.kStop c ra) s = .next t ∧ t.ctxState c = 1 ∧
        t.fld (ctxStat c) F.KNC_CTX_STAT_CAUSE = Cause.stopped ∧ t.reg (ctxEpc c) = s.reg (ctxPc c) ∧
        t.reg (ctxExcaddr c) = s.g c ra ∧ (∀ d < 1024, ∀ j < 32, t.g d j = s.g d j) ∧ Keeps [.ctl, .knc] s t)) ∧
    (s.issues c ⟨[ra.val], [rd.val]⟩ → (s.kc c).errs = [] →
      let hit := s.ctxPending c &&& s.g c ra
      ∃ t, exec (.kWaitev c rd ra) s = .next t ∧ Keeps [.ctl, .knc] s t ∧
        if s.g c ra = 0 then t.g c rd = 0 ∧ RegDone c (destG c rd) s t
        else if hit ≠ 0 then t.g c rd = (if rd.val = 0 then 0 else hit) ∧
          Retired c (s.reg (ctxPc c) + 4) (destG c rd) s t ∧ (hit.testBit 3 = true → (t.kc c).supEvt = false)
        else t.ctxState c = 3 ∧ (t.kc c).wait = .event rd (s.g c ra) ∧ t.reg (ctxPc c) = s.reg (ctxPc c)) ∧
    (∀ r m, s.ctxState c = 3 → s.computeOpen = true → s.crewUp (c.val / 16) = true → r < 32 →
      (s.kc c).wait = .event r m →
      let hit := s.ctxPending c &&& m
      ∃ t, exec (.kWaitevWake c) s = .next t ∧ Keeps [.ctl, .knc] s t ∧
        if hit = 0 then t = s
        else t.g c r = (if r = 0 then 0 else hit % 2 ^ 64) ∧ t.ctxState c = 2 ∧ (t.kc c).wait = .none ∧
          t.reg (ctxPc c) = (s.reg (ctxPc c) + 4) % 2 ^ 64 ∧ (hit.testBit 3 = true → (t.kc c).supEvt = false))

/-- R126: INTK takes the oldest entry of the intake FIFO, or gives 0; CMPL gives 0 while the path is full, and else
takes a completion whose token is in flight, and counts and drops one whose token is stale or not in flight. -/
def Obligations.IntakeAndCompletion : Prop :=
  ∀ (c : Fin 1024) (rd ra : Fin 32) (v : Fin 16) (s : State),
    (s.issues c ⟨[], [rd.val, 32 + v.val]⟩ → ∃ t, exec (.kIntk c rd v) s = .next t ∧
      ((s.kc c).intake = [] → t.g c rd = 0 ∧ RegDone c (destG c rd) s t) ∧
      (∀ e rest, (s.kc c).intake = e :: rest →
        t.g c rd = (if rd.val = 0 then 0 else 1) ∧ (∀ k < 64, (t.v c v).getD k 0 = e.getD k 0) ∧
        t.reg (ctxPc c) = (s.reg (ctxPc c) + 4) % 2 ^ 64) ∧
      (∀ e rest, (s.kc c).intake = e :: rest → s.hp0.notices = [] →
        (t.kc c).intake = rest ∧ t.fld (ctxStat c) F.KNC_CTX_STAT_INTK_DEPTH = rest.length % 256 ∧
        Retired c (s.reg (ctxPc c) + 4) (ctxStat c :: destG c rd ++ destV c v) s t ∧ Keeps [.ctl, .knc] s t)) ∧
    (s.issues c ⟨[ra.val, 32 + v.val], [rd.val]⟩ → ∃ t, exec (.kCmpl c rd ra v) s = .next t ∧
      (16 ≤ (s.kc c).unsent.length → t.g c rd = 0 ∧ RegDone c (destG c rd) s t) ∧
      ((s.kc c).unsent.length < 16 →
        t.g c rd = (if rd.val = 0 then 0 else 1) ∧ t.reg (ctxPc c) = (s.reg (ctxPc c) + 4) % 2 ^ 64 ∧
        Keeps [.ctl, .knc, .hp0] s t ∧
        let tok := s.g c ra % 2 ^ 42
        let f := 1 + tok / 2 ^ 24 / 1024
        let q := tok / 2 ^ 24 % 1024
        if tok / 2 ^ 16 % 256 ≠ s.qpStat f q F.HP0_QP_STAT_EPOCH then
          t.reg R.HP0_CNT_STALE = min counterMax (s.reg R.HP0_CNT_STALE + 1) ∧ (t.kc c).unsent = (s.kc c).unsent
        else match s.hp0.tokens.find? fun x => x.fn == f && x.value == tok with
          | none => t.reg R.HP0_CNT_CMPL_DUP = min counterMax (s.reg R.HP0_CNT_CMPL_DUP + 1) ∧
              (t.kc c).unsent = (s.kc c).unsent
          | some x => (t.kc c).unsent = (s.kc c).unsent ++ [{ tok := x, entry := (s.v c v).take 16 }]))

/-- R104, R132, R133, R135: a write of CTL binds or unbinds a context that does not run; START runs a halted one,
which faults where its fetch fails; STOP halts a running one; CLEAR zeroes the registers of a halted one; a command
that its writer may not give, or in the wrong state, is ignored. A core's counters are cleared. Model's choices in it:
log 19 (a context register read while it runs gives a free value). -/
def Obligations.ContextControl : Prop :=
  ∀ (who : Who) (c : Fin 1024) (k : Fin 256) (val : BitVec 64) (s : State),
    let ctl := ctxCtl c
    let fits := val.toNat / 2 ^ 24 % 256 + val.toNat / 2 ^ 15 % 512 ≤ 256
    let ignored (i : Instr) : Prop := s.whoOpen who = true → ∃ t, exec i s = .next t ∧ Recorded 0x102 s t
    (if s.bindWriter who = true ∧ s.ctxLive c = false ∧ fits then
      ∃ t, exec (.kncCtxCtlWrite who c val) s = .next t ∧
        t.reg ctl = val.toNat &&& 0xFFFFCF01FFFF8001 ∧
        t.ctxState c = (if val.getLsbD 0 then (if s.ctxState c = 0 then 1 else s.ctxState c) else 0) ∧
        OnlyRegs [ctl, ctxStat c] s t ∧ Keeps [.ctl] s t
     else ignored (.kncCtxCtlWrite who c val)) ∧
    (if s.bindWriter who = true ∧ s.ctxHalted c = true ∧ s.flag ctl F.KNC_CTX_CTL_VALID = true ∧ s.computeOpen = true then
      ∃ t, exec (.ctxStart who c) s = .next t ∧ Keeps [.free, .ctl, .ev, .knc] s t ∧
        match s.fetchFault c with
        | none => t.ctxState c = 2 ∧ OnlyRegs [ctxStat c] s t
        | some e => t.ctxState c = 4 ∧ t.fld (ctxStat c) F.KNC_CTX_STAT_CAUSE = e ∧
            t.reg (ctxEpc c) = s.reg (ctxPc c) ∧ t.reg (ctxExcaddr c) = s.reg (ctxPc c)
     else ignored (.ctxStart who c)) ∧
    (if s.bindWriter who = true then
      ∃ t, exec (.ctxStop who c) s = .next t ∧ Keeps [.free, .ctl, .knc] s t ∧
        if s.ctxLive c then t.ctxState c = 1 ∧ t.fld (ctxStat c) F.KNC_CTX_STAT_CAUSE = Cause.halted ∧
          t.reg (ctxEpc c) = s.reg (ctxPc c) ∧ (∀ d < 1024, ∀ j < 32, t.g d j = s.g d j)
        else t = s
     else ignored (.ctxStop who c)) ∧
    (if s.bindWriter who = true ∧ s.ctxHalted c = true then
      ∃ t, exec (.ctxClear who c) s = .next t ∧ (∀ j < 32, t.g c j = 0) ∧ (∀ j < 8, 0 < j → t.p c j = 0) ∧
        (∀ j < 16, ∀ b ∈ t.v c j, b = 0) ∧ (t.kc c).rng = 1 ∧ (t.kc c).timer = 0 ∧
        t.ctxState c = s.ctxState c ∧ t.reg (ctxPc c) = s.reg (ctxPc c) ∧ Keeps [.ctl, .knc] s t
     else ignored (.ctxClear who c)) ∧
    (if s.blockWriter who = true then
      let cnt := [R.KNC_CNT_ISSUE k, R.KNC_CNT_RQ_SAT k, R.KNC_CNT_ACC_SAT k, R.KNC_CNT_LUT_CLAMP k,
        R.KNC_CNT_ECC_CORR k, R.KNC_CNT_ECC_UNCORR k]
      ∃ t, exec (.kncCntClear who k) s = .next t ∧ (∀ r ∈ cnt, t.reg r = 0) ∧ OnlyRegs cnt s t ∧ Keeps [.ctl] s t
     else ignored (.kncCntClear who k))

/-- R58, R72 to R77, R81 to R88: a tile command whose queue may not issue, or whose unit is busy, has no effect; one
that fails a check completes with BAD_COMMAND and the number of the check, and leaves its queue; a wait that fails
cancels its queue. One that passes waits for its unit, or runs on it: a load, MMA or output command that is alone on
its engine and whose sources can be read acts whole. Model's choices in it: log 5 (which additions saturate on their
own, and in what order); log 6 (a tile row issues its command; it acts whole when it starts and completes by a command
of its own); log 86 (what check 6 covers of a frame, and the order of the entries of a discard). -/
def Obligations.TileUnitCommands : Prop :=
  (∀ (m : Fin 192) (q : Fin 4) (s : State) (i : Instr) (op : Nat), (i, op) ∈ tileRows m q →
      let y := s.mq m q
      (s.headFor m q op = none → exec i s = .next s) ∧
      (∀ c k, s.headFor m q op = some c → issueCheck s m q c = some k →
        Does i s [.ctl, .ev, .mem, .ms, .mxes, .persist, .refetch, .slots] fun t =>
          let bad := statusEntry c St.badCommand k
          if op = 0x31 ∨ op = 0x32 then
            (t.mq m q).waiting = [] ∧ (t.mq m q).sigs = [] ∧ (t.mq m q).hold = .none ∧
            (t.mq m q).entries = y.entries ++ bad ::
              (y.sigs.map (·.cmd) ++ y.buffered.map (·.cmd) ++ y.waiting.drop 1).map fun d =>
                statusEntry d St.aborted (tileDetail d)
          else (t.mq m q).waiting = y.waiting.drop 1 ∧ (t.mq m q).entries = y.entries ++ [bad]) ∧
      ∀ c u, s.issuesTile m q op c → tUnit op = some u →
        Does i s [.ctl, .ev, .mem, .ms, .mxes, .persist, .refetch, .slots] fun t =>
          (t.mq m q).waiting = y.waiting.drop 1 ∧ (t.mq m q).entries = y.entries ∧
          (y.issued = [] → ∃ e : TIss, e.cmd = c ∧ e.unit = u ∧
            (e ∈ (t.mq m q).issued ∨ ∃ r ∈ (t.mq m q).running, r.toTIss = e))) ∧
  (∀ (m : Fin 192) (q : Fin 4) (c : BitVec 128) (s : State), s.quiet m →
      let parts : List Part := [.ctl, .ev, .mem, .ms, .mxes, .persist, .refetch, .slots]
      let crew := m.val / 3
      let base := sliceBase crew
      let off := bitsOf c.toNat 71 48
      let x := s.mx m
      let b1 := bitsOf c.toNat 35 34
      let b2 := bitsOf c.toNat 37 36
      let clean (b : Nat) : Prop := (x.bank b).single = 0 ∧ (x.bank b).double = false ∧ (x.bank b).poisoned = false
      let st (b : Nat) := if (x.bank b).degraded then St.degraded else St.ok
      let words := (List.range (bitsOf c.toNat 88 80)).map (bitsOf c.toNat 79 72 + ·)
      let wordsClean (ws : List Nat) : Prop := x.sb.valid = true ∧ ∀ w ∈ ws, w ∉ x.sb.single ∧ w ∉ x.sb.double
      -- R81, R96, R454: the tile and its scales, read as the load reads them
      (s.issuesTile m q 0x01 c →
        let view := if c.getLsbD 32 then mapFind (s.mq m q).views (bitsOf c.toNat 99 96) else none
        let standby : Bool := match view with
          | some v => v.standby
          | none => false
        let asked : Bool := c.getLsbD 32 && (mapGet s.refetch (crew * 16 + bitsOf c.toNat 99 96) []).any fun r =>
          r.tile == bitsOf c.toNat 119 104 && r.asked && !r.done
        let status := if standby then St.degraded else St.ok
        let wb := (s.mq m q).nextWb
        let fills (rows : List (List Int)) (scales : Option (List Nat)) (t : State) : Prop :=
          let slot := if c.getLsbD 32 then some (bitsOf c.toNat 99 96) else none
          (t.mx m).wb wb =
            { valid := true, rows, int4 := c.getLsbD 34, scales, standby, slot, single := 0, double := false } ∧
          (t.mq m q).curWb = some wb ∧ (t.mq m q).nextWb = 1 - wb ∧
          Runs m q 0 c status (if c.getLsbD 32 then bitsOf c.toNat 119 104 else 0) s t
        (∀ rows cycles s1 scales s2, asked = false → loadTile m q view c (issueUnit m q 0 c s) = (.rows rows cycles, s1) →
          loadScales m c s1 = (.inl scales, false, s2) → Does (.wload m q) s parts (fills rows scales)) ∧
        let n := if c.getLsbD 34 then 8192 else 16384
        (c.getLsbD 32 = false → c.getLsbD 33 = false → c.getLsbD 35 = false → s.t0Clean crew off n →
          Does (.wload m q) s parts fun t => t.mem = s.mem ∧
            fills (expandRaw (if c.getLsbD 34 then .int4 else .int8) (s.t0Bytes crew off n)) none t)) ∧
      -- R82
      (s.issuesTile m q 0x02 c →
        let fills (bs : List Byte) (t : State) : Prop :=
          (t.mx m).sb.valid = true ∧ (t.mx m).sb.words = putWords x.sb.words (bitsOf c.toNat 79 72) bs ∧
          (t.mx m).wb0 = x.wb0 ∧ (t.mx m).wb1 = x.wb1 ∧ Runs m q 0 c St.ok 0 s t
        (∀ rows cycles s1, loadStream m q c (issueUnit m q 0 c s) = (.rows rows cycles, s1) →
          Does (.tload m q) s parts (fills (streamBytes c rows))) ∧
        (c.getLsbD 33 = false → s.t0Clean crew off (128 * words.length) →
          Does (.tload m q) s parts fun t => t.mem = s.mem ∧ fills (s.t0Bytes crew off (128 * words.length)) t)) ∧
      -- R83
      (let sh := starterShape (c.getLsbD 32) (c.getLsbD 33)
       s.issuesTile m q 0x03 c → s.t0Clean crew off sh.1 →
        Does (.cbload m q) s parts fun t => t.mem = s.mem ∧ Runs m q 0 c St.ok 0 s t ∧ ∀ i < sh.2,
          (t.mx m).gran (bitsOf c.toNat 40 36 + i) =
            { held := true, usable := true, bytes := ((s.t0Bytes crew off sh.1).drop (2048 * i)).take 2048
              starterId := bitsOf c.toNat 87 72, int4 := c.getLsbD 33, wide := c.getLsbD 32
              single := 0, double := false }) ∧
      -- R49, R84, R85: every activation row is added into the bank, from the stream buffer or from T0
      (s.issuesTile m q 0x10 c →
        let w := x.wb ((s.mq m q).curWb.getD 0)
        let combo := bitsOf c.toNat 33 32
        let units := List.range (comboUnits combo (mmaRows c))
        let at_ (u : Nat) := off + 128 * u * mmaStride c
        let unitWords (u : Nat) := (List.range (comboWords combo)).map (bitsOf c.toNat 79 72 + u * mmaStride c + ·)
        let bytes (u : Nat) := if c.getLsbD 37 then x.sb.bytes (unitWords u) else s.t0Bytes crew (at_ u) (128 * comboWords combo)
        let k := if c.getLsbD 36 then bank0 else x.bank b1
        w.valid = true → w.single = 0 → w.double = false → (x.bank b1).single = 0 → (x.bank b1).double = false →
        (if c.getLsbD 37 then wordsClean (units.flatMap unitWords)
         else ∀ u ∈ units, s.t0Clean crew (at_ u) (128 * comboWords combo)) →
        Does (.mma m q) s parts fun t => t.mem = s.mem ∧
          (t.mx m).bank b1 = { (units.flatMap fun u => unitRows c u (bytes u)).foldl
            (fun k r => (addRow combo w.scales (columnsOf w.rows) k r.1 r.2).1) k with
            degraded := k.degraded || w.standby } ∧
          (∀ b, b ≠ b1 → (t.mx m).bank b = x.bank b) ∧
          Runs m q 1 c (if k.degraded || w.standby then St.degraded else St.ok) 0 s t) ∧
      -- R55, R86
      (s.issuesTile m q 0x20 c → Does (.aclr m q) s parts fun t => t.mem = s.mem ∧
        (t.mx m).bank b1 = bank0 ∧ (∀ b, b ≠ b1 → (t.mx m).bank b = x.bank b) ∧ Runs m q 2 c St.ok 0 s t) ∧
      (s.issuesTile m q 0x21 c →
        let form := bitsOf c.toNat 33 32
        let out := bankBytes (x.bank b1) ++ if c.getLsbD 38 then flagPlane (x.bank b1) else []
        (form = 0 → clean b1 → Does (.amove m q) s parts fun t => Runs m q 2 c (st b1) 0 s t ∧ t.mem = s.mem ∧
          (t.mx m).bank b2 = x.bank b1 ∧ ∀ b, b ≠ b2 → (t.mx m).bank b = x.bank b) ∧
        (form = 1 → clean b1 → s.t0Free crew off out.length → Does (.amove m q) s parts fun t =>
          Runs m q 2 c (st b1) 0 s t ∧ t.mem = memPuts s.mem (base + off) out ∧ ∀ b, (t.mx m).bank b = x.bank b) ∧
        let n := if form = 2 then 65536 else 512
        (2 ≤ form → s.t0Clean crew off n → Does (.amove m q) s parts fun t => t.mem = s.mem ∧ Runs m q 2 c St.ok 0 s t ∧
          (t.mx m).bank b2 = { bank0 with rows := (List.range 128).map fun j => (j, unpackElems .int32
            (sliceBytes (s.t0Bytes crew off n) (if form = 2 then 512 * j else 0) 512) 128) })) ∧
      -- R41, R42, R57, R87
      (s.issuesTile m q 0x22 c →
        let at_ := bitsOf c.toNat 95 72
        let held : Bool := match x.table with
          | some p => p.1 == at_
          | none => false
        let table := match x.table with
          | some p => if p.1 = at_ then p.2 else (chunksOf 4 (s.t0Bytes crew at_ 512)).map leNat
          | none => (chunksOf 4 (s.t0Bytes crew at_ 512)).map leNat
        let row (j : Nat) := (requantOut (requantFmt c) table ((x.bank b1).row j) ((x.bank b1).rowFlags j)).1
        let rowAt (j : Nat) := off + j * requantPitch c
        let rows := List.range (bitsOf c.toNat 42 36 + 1)
        clean b1 → (held = false → s.t0Clean crew at_ 512) → (∀ r ∈ table, (scaleOf r).reserved = false) →
        (∀ j ∈ rows, s.t0Free crew (rowAt j) (row j).length) →
        Does (.requant m q) s parts fun t => Runs m q 2 c (st b1) 0 s t ∧ (∀ b, (t.mx m).bank b = x.bank b) ∧
          t.mem = rows.foldl (fun mem j => memPuts mem (base + rowAt j) (row j)) s.mem) ∧
      -- R88
      (s.issuesTile m q 0x23 c → wordsClean words → s.t0Free crew off (128 * words.length) →
        Does (.tstore m q) s parts fun t => Runs m q 2 c St.ok 0 s t ∧ (t.mx m).sb = x.sb ∧
          t.mem = memPuts s.mem (base + off) (x.sb.bytes words)))

/-- R90 to R98, R78: the commands without a unit. NOP completes at issue; SEMSIG joins the pending signals with what
it covers; SEMWAIT and HSWAIT hold their queue until their count, their slot or their limit; HSREL holds it until the
queue is done with the slot, and completes at once on an engine with nothing to do. Model's choices in it: log 6 (a
tile row issues its command; it acts whole when it starts and completes by a command of its own). -/
def Obligations.TileControlCommands : Prop :=
  ∀ (m : Fin 192) (q : Fin 4) (c : BitVec 128) (s : State),
    let parts : List Part := [.ctl, .ev, .mem, .ms, .mxes, .persist, .refetch, .slots]
    let y := s.mq m q
    let limit : Option Nat := if c.toNat / 2 ^ 64 % 2 ^ 16 = 0 then none else some (s.mclk + 4096 * (c.toNat / 2 ^ 64 % 2 ^ 16))
    let ok := if c.getLsbD 12 then [statusEntry c St.ok 0] else []
    (s.issuesTile m q 0x00 c → Does (.tNop m q) s parts fun t =>
      (t.mq m q).waiting = y.waiting.drop 1 ∧ (t.mq m q).entries = y.entries ++ ok) ∧
    (s.issuesTile m q 0x30 c → Does (.semsig m q) s parts fun t =>
      if 4 ≤ y.sigs.length then (t.mq m q).waiting = y.waiting ∧ (t.mq m q).sigs = y.sigs
      else (t.mq m q).waiting = y.waiting.drop 1 ∧
        (t.mq m q).sigs = y.sigs ++ [{ cmd := c, cov := y.hist.filter fun h => c.getLsbD (32 + h.unit) }] ∧
        (t.mq m q).hist = y.hist.filter fun h => !c.getLsbD (32 + h.unit)) ∧
    (s.issuesTile m q 0x31 c → Does (.semwait m q) s parts fun t =>
      (t.mq m q).hold = .sem limit ∧ (t.mq m q).waiting = y.waiting) ∧
    (s.issuesTile m q 0x32 c → Does (.hswait m q) s parts fun t =>
      (t.mq m q).hold = .slot limit ∧ (t.mq m q).waiting = y.waiting) ∧
    (s.issuesTile m q 0x33 c → Does (.hsrel m q) s parts fun t =>
      let k := bitsOf c.toNat 35 32
      let r := R.HST_SLOT_STAT (m.val / 3) k
      let n := s.fld r F.HST_SLOT_STAT_RELEASED + 1
      let stt := s.slotState (m.val / 3) k
      let done : Prop := (t.mq m q).hold = .none ∧ (t.mq m q).waiting = y.waiting.drop 1 ∧
        (t.mq m q).entries = y.entries ++ ok ∧ (t.mq m q).views = mapErase y.views k
      (done ∨ (t.mq m q).hold = .rel ∧ (t.mq m q).waiting = y.waiting ∧ (t.mq m q).views = y.views) ∧
      (s.quiet m → done ∧
        ∀ d, mapFind s.slots (m.val / 3 * 16 + k) = some d → (stt = 2 ∨ stt = 3) →
          s.slotLayer (m.val / 3) k = bitsOf c.toNat 63 48 →
          if n < d.releases ∨ (stt = 3 ∧ s.flag r F.HST_SLOT_STAT_FILL_DONE = false)
          then t.fld r F.HST_SLOT_STAT_RELEASED = n % 2 ^ 16 ∧ t.slotState (m.val / 3) k = stt
          else t.slotState (m.val / 3) k = 0)) ∧
    Does (.reservedTileOpcode m q) s parts fun t =>
      ∀ w rest, y.waiting = w :: rest → s.canIssue m q = true → tOpcodes.contains (tOpcode w) = false →
        (t.mq m q).waiting = rest ∧
        (t.mq m q).entries = y.entries ++ [statusEntry w St.badCommand (if bitsOf w.toNat 11 8 = 1 then 2 else 1)]

/-- R77, R78, R90 to R94: the oldest pending signal fires when what it covers is done, and adds to its semaphore,
saturating; one that covers a failure, or whose semaphore no route reaches or another tenant owns, completes with
ABORTED. A wait ends when its count or its slot is there, or at its limit with WAIT_TIMEOUT; one that fails cancels
its queue; an executing command completes with its status. Model's choices in it: log 6 (a tile row issues its
command; it acts whole when it starts and completes by a command of its own); log 15 (timers with a recorded start are
enforced, the others are trusted); log 17 (what counts as one NCLK cycle, and the order of semaphore accesses within
it); log 86 (what check 6 covers of a frame, and the order of the entries of a discard). -/
def Obligations.TileCompletions : Prop :=
  (∀ (m : Fin 192) (q : Fin 4) (s : State), Does (.semsigFire m q) s [.ctl, .ev, .mxes, .semNow] fun t =>
      let y := s.mq m q
      (y.sigs = [] → t = s) ∧
      ∀ g rest, y.sigs = g :: rest →
        let n := bitsOf g.cmd.toNat 60 55
        let r := semReg n (bitsOf g.cmd.toNat 54 48)
        let v := bitsOf g.cmd.toNat 79 64
        let sum := s.fld r F.MXE_SEM_COUNT + v
        let failed : Bool := (g.cov.any fun h => h.status != some St.ok && h.status != some St.degraded) ||
          (s.seamRoute (m.val / 48) (n / 16) false).isNone || s.fld r F.MXE_SEM_TENANT != s.qTenant m q
        let st := if failed then St.aborted else if 0xFFFFFFFF < sum then St.semOverflow else St.ok
        if s.mgmt.tripped = true ∨ (∃ h ∈ g.cov, h.status = none) then t = s
        else (t.mq m q).sigs = rest ∧ (t.mq m q).waiting = y.waiting ∧ (t.mq m q).running = y.running ∧
          (t.mq m q).entries = y.entries ++ (if g.cmd.getLsbD 12 ∨ st ≠ St.ok then [statusEntry g.cmd st 0] else []) ∧
          t.fld r F.MXE_SEM_COUNT = (if failed then s.fld r F.MXE_SEM_COUNT else min 0xFFFFFFFF sum) ∧
          t.fld r F.MXE_SEM_TENANT = s.fld r F.MXE_SEM_TENANT) ∧
  (∀ (m : Fin 192) (q : Fin 4) (unit : Fin 3) (s : State),
      let parts : List Part := [.ctl, .ev, .mem, .ms, .mxes, .persist, .refetch, .slots]
      let y := s.mq m q
      let crew := m.val / 3
      let ok (c : BitVec 128) := if c.getLsbD 12 then [statusEntry c St.ok 0] else []
      let cancels (c : BitVec 128) (st : Nat) (t : State) : Prop :=
        (t.mq m q).hold = .none ∧ (t.mq m q).waiting = [] ∧ (t.mq m q).sigs = [] ∧
        (t.mq m q).entries = y.entries ++ statusEntry c st 0 ::
          (y.sigs.map (·.cmd) ++ y.buffered.map (·.cmd) ++ y.waiting.drop 1).map fun d =>
            statusEntry d St.aborted (tileDetail d)
      (Does (.semwaitSatisfied m q) s [.ctl, .mxes, .semNow] fun t => ∀ c d, s.heldSem m q = some (c, d) →
        let i := bitsOf c.toNat 54 48
        let r := semReg crew i
        let n := s.fld r F.MXE_SEM_COUNT
        let need := bitsOf c.toNat 127 96
        (∀ p ∈ s.waitOrder.takeWhile (· != m.val % 3 * 4 + q.val), ∀ w, s.heldSem (3 * crew + p / 4) (p % 4) = some w →
          bitsOf w.1.toNat 54 48 ≠ i) →
        if n < need then t.mq m q = y ∧ t.fld r F.MXE_SEM_COUNT = n
        else (t.mq m q).hold = .none ∧ (t.mq m q).waiting = y.waiting.drop 1 ∧ (t.mq m q).entries = y.entries ++ ok c ∧
          t.fld r F.MXE_SEM_COUNT = if c.getLsbD 32 then n - need else n) ∧
      (Does (.semwaitTimeout m q) s parts fun t => ∀ c d, s.heldSem m q = some (c, some d) →
        if s.mclk < d then t = s else cancels c St.waitTimeout t) ∧
      (Does (.hswaitTimeout m q) s parts fun t => ∀ c d, s.heldSlot m q = some (c, some d) →
        if s.mclk < d then t = s else cancels c St.waitTimeout t) ∧
      (Does (.hswaitResolve m q) s parts fun t => ∀ c d, s.heldSlot m q = some (c, d) →
        let k := bitsOf c.toNat 35 32
        let stt := s.slotState crew k
        let layer := bitsOf c.toNat 63 48
        let ahead := (s.slotLayer crew k + 65536 - layer) % 65536
        let stays : Prop := (t.mq m q).hold = y.hold ∧ (t.mq m q).waiting = y.waiting ∧ (t.mq m q).entries = y.entries
        let binds (standby : Bool) (st : Nat) : Prop :=
          (t.mq m q).hold = .none ∧ (t.mq m q).waiting = y.waiting.drop 1 ∧
          (t.mq m q).entries = y.entries ++ (if c.getLsbD 12 ∨ standby = true then [statusEntry c st 0] else []) ∧
          mapFind (t.mq m q).views k = some (s.slotView crew k (s.mx m).seq standby)
        if stt = 0 then stays
        else if ahead = 0 then
          if stt = 2 then binds false St.ok
          else if stt = 3 then binds true St.degraded
          else if stt = 4 then cancels c St.objectLost t
          else stays
        else if ahead ≤ 32767 then cancels c St.layerPassed t else stays) ∧
      (Does (.mxeCommandComplete m q unit) s parts fun t =>
        ((∀ r ∈ y.running, r.unit ≠ unit.val) → t = s) ∧
        ∀ r, y.running.find? (fun r => r.unit == unit.val) = some r →
          if s.mgmt.tripped = true ∨ s.runsBefore m r = true ∨ s.writeHeld m r.cmd = true then t = s
          else (t.mq m q).hist = coverStatus r.seq r.status y.hist ∧
            (y.hold ≠ .rel → (t.mq m q).waiting = y.waiting ∧ (t.mq m q).entries = y.entries ++
              (if r.cmd.getLsbD 12 ∨ r.status ≠ St.ok then [statusEntry r.cmd r.status r.detail] else [])) ∧
            ((∀ j < 4, (s.mq m j).issued = []) → (s.mx m).replays = [] →
              (t.mq m q).running = y.running.filter fun e => e.seq != r.seq)))

/-- R64 to R67, R70, R89, R93, R102: a write of QCTL binds a queue, or begins the release of a bound one; a release
and a cancel end; an engine switches to a queue that is ready when its arbitration lets it; a write and an ADD of a
semaphore set or saturate its COUNT, or are refused and recorded. Model's choices in it: log 14 (source and tenant of
SEM_REFUSED); log 17 (what counts as one NCLK cycle, and the order of semaphore accesses within it); log 85 (what a
unit of ARB_WEIGHT buys, and that a first grant is no switch). -/
def Obligations.QueueAndSemaphoreRegisters : Prop :=
  ∀ (who : Who) (m : Fin 192) (q : Fin 4) (n : Fin 64) (ix : Fin 128) (val : BitVec 64) (v32 : BitVec 32) (s : State),
    let r := R.MXE_QCTL m q
    let sem := R.MXE_SEM n ix
    let y := s.mq m q
    let x := s.mx m
    let same := val.getLsbD 0 = true ∧ bitsOf val.toNat 15 6 = s.fld r F.MXE_QCTL_OWNER_CTX ∧
      bitsOf val.toNat 23 16 = s.fld r F.MXE_QCTL_TENANT
    (if s.bindWriter who = true ∧ s.qState m q = 0 ∧ s.qctlBad m q val.toNat = false ∧
        (val.getLsbD 0 = true → s.computeGate = true) then
      Does (.mxeQctlWrite who m q val) s [.ctl, .ev, .mxes] fun t =>
        if s.qBound m q = true ∧ ¬ same then (t.mq m q).closing = .release val ∧ t.reg r = s.reg r
        else t.reg r = setBits val.toNat 5 1 0 ∧ OnlyRegs [r] s t ∧ (t.mq m q).waiting = y.waiting
     else Ignores who (.mxeQctlWrite who m q val) s) ∧
    (Does (.mxeReleaseDone m q) s [.ctl, .mxes] fun t => OnlyRegs [r] s t ∧
      ∀ w, y.closing = .release w → (t.mq m q).closing = .none ∧ t.reg r = setBits w.toNat 5 1 0 ∧
        ∀ b, bitAt (s.fld r F.MXE_QCTL_BANK_MASK) b = true → (t.mx m).bank b = bank0) ∧
    (Does (.mxeCancelDone m q) s [.mxes] fun t =>
      (t.mq m q).entries = y.entries ∧ (t.mq m q).waiting = y.waiting ∧ (t.mq m q).views = y.views ∧
      ∀ b, y.closing = .cancel b →
        if y.running = [] ∧ y.issued = [] then (t.mq m q).closing = .none ∧
          ∀ b, bitAt (s.fld r F.MXE_QCTL_BANK_MASK) b = true → (t.mx m).bank b = bank0
        else t = s) ∧
    (Does (.mxeQueueSwitch m q) s [.ctl, .ev, .mem, .ms, .mxes, .persist, .refetch, .slots] fun t =>
      if x.cur ≠ some q.val ∧ s.computeOpen = true ∧ s.crewUp (m.val / 3) = true ∧ s.qReady m q = true ∧
          s.mayLeave m = true ∧ s.rrAllows m q = true ∧ x.replays = [] then
        (t.mx m).cur = some q.val ∧ (t.mx m).since = s.mclk ∧
        t.reg (R.MXE_CNT_SWITCH m) =
          if x.cur = none then s.reg (R.MXE_CNT_SWITCH m) else min counterMax (s.reg (R.MXE_CNT_SWITCH m) + 1)
      else t = s) ∧
    (s.whoOpen who = true → Does (.mxeSemWrite who n ix val) s [.ctl, .ev, .mxes, .semNow] fun t =>
      let adds := s.semNow.filter fun a => a.crew == n.val && a.index == ix.val
      if s.semRefused who n ix = true ∨
          (bitsOf val.toNat 63 56 ≠ s.fld sem F.MXE_SEM_TENANT ∧ s.semOwnerWriter who = false) then Recorded 0x304 s t
      else t.fld sem F.MXE_SEM_COUNT = min 0xFFFFFFFF (val.toNat % 2 ^ 32 + (adds.map (·.val)).sum) ∧
        t.fld sem F.MXE_SEM_TENANT = bitsOf val.toNat 63 56 ∧
        (adds = [] → t.flag sem F.MXE_SEM_OVF = (s.flag sem F.MXE_SEM_OVF && !val.getLsbD 32) ∧ OnlyRegs [sem] s t ∧
          Keeps [.ctl, .semNow] s t)) ∧
    (s.whoOpen who = true → Does (.mxeSemAdd who n ix v32) s [.ctl, .ev, .semNow] fun t =>
      let sum := s.fld sem F.MXE_SEM_COUNT + v32.toNat % 2 ^ 16
      if s.semRefused who n ix = true then Recorded 0x304 s t
      else t.fld sem F.MXE_SEM_COUNT = min 0xFFFFFFFF sum ∧
        t.flag sem F.MXE_SEM_OVF = (s.flag sem F.MXE_SEM_OVF || decide (0xFFFFFFFF < sum)))

/-- R5 to R9, R71, R162, R210, R263, R264, R289, R315, R350, R369, R388, R395, R430: what a register write does before
the register's own rule: a VF outside its page and a reserved offset have no effect, a shut gate stops the write, an
access of a wrong width or alignment and a write to a mirror are recorded; a register that the writer may set takes
the writable bits; a register of read-only fields keeps its value; a read of the lower half latches a counter. A
block's clear command sets its counters to zero and nothing else, or is ignored. Model's choices in it: log 11 (a
64-bit access to a 32-bit register is a bad access); log 18 (reserved offsets, read-only fields and locked fields
ignore writes without an event); log 73 (writes stopped at a gate are no events). -/
def Obligations.RegisterAccesses : Prop :=
  (∀ (who : Who) (off width : Nat) (val : BitVec 64) (s : State),
      let write := Instr.registerWrite who off width val
      (whoReaches who off = false → exec write s = .next s) ∧
      (whoReaches who off = true →
        (s.whoOpen who = false → gateExempt who off = false → exec write s = .next (stopWrite who s)) ∧
        (s.whoOpen who = true →
          (mirrorOf off ≠ none → Does write s [.ctl, .ev] (Recorded 0x102 s)) ∧
          (mirrorOf off = none → ctlAt off width = .bad → Does write s [.ctl, .ev] (Recorded 0x101 s)) ∧
          (mirrorOf off = none → ctlAt off width = .reserved → exec write s = .next s) ∧
          ∀ r, mirrorOf off = none → ctlAt off width = .reg r →
            ((∀ f ∈ r.desc.fields, f.acc = .ro) → exec write s = .next s) ∧
            (r.mask &&& r.desc.bits (· != .ro) = 0 → exec write s = .next s) ∧
            (r.mask &&& r.desc.bits (· != .ro) ≠ 0 → r.desc.base = (R.MXE_CTL 0).off ∧ s.blockWriter who = true ∨
              (r.desc.base = (R.QOS_QUOTA 0 0).off ∨ r.desc.base = R.EVR_MAIN_RD.off ∨ r.desc.base = R.EVR_CTL.off) ∧
                s.privWriter who = true →
              Does write s [.ctl] fun t => let g : Reg := ⟨r.off, r.desc.rst⟩
                t.reg g = s.mergeWrite r val.toNat % 2 ^ 64 ∧ OnlyRegs [g] s t))) ∧
      Does (.counterLowRead off) s [.latch] fun t =>
        match ctlAt off 4 with
        | .reg r => if r.desc.latch = true ∧ r.mask = lowHalf then
            mapFind t.latch r.off = some (BitVec.ofNat 64 (s.view r)) ∧
              ∀ o, o ≠ r.off → mapFind t.latch o = mapFind s.latch o
          else t = s
        | _ => t = s) ∧
  (∀ (who : Who) (m : Fin 192) (c : Ctrl) (s : State),
      let clears (may : Bool) (i : Instr) (rs : List Reg) : Prop := if may then Clears i rs s else Ignores who i s
      let k := ctrlNum c
      let z (a b : Nat → Reg) : Reg := ctrlReg a b k
      clears (s.blockWriter who) (.mxeCntClearEvent who m)
        [R.MXE_CNT_ACC_SAT m, R.MXE_CNT_RQ_SAT m, R.MXE_CNT_ECC_CORR m, R.MXE_CNT_ECC_UNCORR m, R.MXE_CNT_SWITCH m] ∧
      clears (s.blockWriter who) (.mxeCntClearCycle who m)
        [R.MXE_CNT_CYCLES m, R.MXE_CNT_BUSY m, R.MXE_CNT_IDLE m, R.MXE_CNT_WAIT m, R.MXE_CNT_THROTTLE m,
          R.MXE_CNT_RESTORE m, R.MXE_CNT_BANK m, R.MXE_CNT_OUTPUT m, R.MXE_CNT_STARTER m, R.MXE_CNT_T0 m,
          R.MXE_CNT_CREDIT m, R.MXE_CNT_WEIGHT m, R.MXE_CNT_ORDER m] ∧
      clears (s.blockWriter who) (.mxeXpCntClear who m)
        [R.MXE_XP_CNT_RAW m, R.MXE_XP_CNT_VQ m, R.MXE_XP_CNT_LR m, R.MXE_XP_CNT_ZERO m, R.MXE_XP_CNT_ESCAPES m,
          R.MXE_XP_CNT_LR_SAT m, R.MXE_XP_CNT_DAMAGED m, R.MXE_XP_CNT_REFETCH m, R.MXE_XP_CNT_STARTER_MISMATCH m] ∧
      clears (s.privWriter who) (.memCntClear who c)
        ([z R.T1C_CNT_CORR R.T2C_CNT_CORR, z R.T1C_CNT_UNCORR R.T2C_CNT_UNCORR, z R.T1C_CNT_REMAP R.T2C_CNT_REMAP,
          z R.T1C_CNT_REMAP_FULL R.T2C_CNT_REMAP_FULL, z R.T1C_CNT_RD_REFRESH R.T2C_CNT_RD_REFRESH,
          z R.T1C_CNT_SCRUB_PASS R.T2C_CNT_SCRUB_PASS, z R.T1C_CNT_TRACK R.T2C_CNT_TRACK] ++
          if k < 16 then [R.T1C_CNT_INLINE k, R.T1C_CNT_SEV k] else [R.T2C_CNT_PD_ENTRY (k - 16)]) ∧
      clears (s.rootWriter who) (.hp0CntClear who)
        [R.HP0_CNT_STALE, R.HP0_CNT_DB_DROP, R.HP0_CNT_CMPL_DUP, R.HP0_CNT_INTAKE_BAD, R.HP0_CNT_UR,
          R.HP0_CNT_CPL_ERR, R.HP0_CNT_POISON_TX, R.HP0_CNT_FLR] ∧
      clears (s.privWriter who) (.hp1CntClear who)
        [R.HP1_CNT_NOMATCH, R.HP1_CNT_REVOKE_DROP, R.HP1_CNT_STALE, R.HP1_CNT_POISON_TX, R.HP1_CNT_CACHE_HIT,
          R.HP1_CNT_CACHE_MISS, R.HP1_CNT_PLAIN_BYTES, R.HP1_CNT_FRAME_BYTES, R.HP1_CNT_BISNP, R.HP1_CNT_BI_TIMEOUT,
          R.HP1_CNT_PUBLISH, R.HP1_CNT_CONFLICT, R.HP1_CNT_DRAFT_FULL, R.HP1_CNT_HOLD] ∧
      clears (s.privWriter who) (.pltCntClear who)
        ([R.PLT_CNT_STALE, R.PLT_CNT_UNREACH, R.PLT_CNT_TIMEOUT, R.PLT_CNT_DETOUR, R.PLT_CNT_NOLEASE,
          R.PLT_CNT_LOST_PKT, R.PLT_CNT_COLL_FAIL] ++ (List.range 16).flatMap fun p =>
          [R.PLT_CNT_FEC_CORR p, R.PLT_CNT_FEC_UNCORR p, R.PLT_CNT_CRC p, R.PLT_CNT_REPLAY p, R.PLT_CNT_RETRAIN p,
            R.PLT_CNT_FLITS_TX p, R.PLT_CNT_FLITS_RX p, R.PLT_CNT_INJECT p]) ∧
      clears (s.privWriter who) (.qosCntClear who)
        ([R.QOS_CNT_REFUSED, R.QOS_CNT_SCALED] ++
          ((List.range 32).flatMap fun r => [R.QOS_RES_CNT_HIGH r, R.QOS_RES_CNT_CRIT r]) ++
          (List.range 256).flatMap fun t => [R.QOS_CNT_IRQ_DELAY t, R.QOS_CNT_INFLIGHT_HOLD t]) ∧
      clears (s.privWriter who) (.evrCntClear who)
        ([R.EVR_CNT_OVERRUN, R.EVR_CNT_LOST, R.EVR_CNT_SRC_DROP] ++ evCodes.map R.EVR_CODE_CNT ++
          (List.range 64).flatMap fun n => [R.EVR_T0_CNT_CORR n, R.EVR_T0_CNT_UNCORR n]))

/-- R21 to R25: the seam links. A flit that is good and in order is delivered, one that is not is replayed and
counted, a duplicate is discarded; a direction that is due retrains its link; a retrain ends at a width, or with the
link failing; and a failover ends with the link down and what was not acknowledged delivered over the new route.
Model's choices in it: log 59 (seam flits are counted, not carried); log 80 (the points of a route that R19 and R23
leave open); log 87 (how the CRC window of a seam is taken); log 88 (which dies are kept when the part falls apart).
-/
def Obligations.SeamLinks : Prop :=
  ∀ (link : Fin 8) (dir crcOk : Bool) (seq : Nat) (found : LinkWidth) (s : State),
    let v := match found with | .down => 0 | .half => 1 | .full => 2
    let live := s.seamLink link = 1 ∨ s.seamLink link = 2
    let old := s.seamDir link dir
    let d := { old.count (!crcOk) with sent := max old.sent (seq + 1) }
    let cnt := R.FMN_SEAM_RETRY_CNT link
    (Does (.seamFlitReceive link dir seq crcOk) s [.ctl, .seams] fun t =>
      if s.seamCarries link = false then t = s
      else if crcOk = false ∨ d.rxSeq < seq then
        t.seamDir link dir = { d with replays := d.replays + 1 } ∧
          t.reg cnt = min 0xFFFFFFFF (s.reg cnt + 1) ∧ OnlyRegs [cnt] s t
      else OnlyRegs [] s t ∧ t.seamDir link dir =
        if seq < d.rxSeq then d
        else { d with rxSeq := d.rxSeq + 1, acked := d.rxSeq, replays := 0, delivered := d.delivered + 1 }) ∧
    (Does (.seamRetrain link) s [.ctl, .ev] fun t =>
      if live ∧ ((s.seamDir link false).due = true ∨ (s.seamDir link true).due = true) then
        t.seamLink link = 3 ∧ (s.mgmt.seamed = true → bitAt (t.reg R.FMN_SEAM_CHANGED) link = true)
      else t = s) ∧
    (Does (.seamRetrainDone link found) s [.ctl, .ev, .seams] fun t =>
      if s.seamLink link ≠ 3 ∨ link.val ∈ s.seams.failing then t = s
      else (∀ b, (t.seamDir link b).replays = 0 ∧ (t.seamDir link b).rxSeq = (s.seamDir link b).rxSeq) ∧
        if v = 0 then t.seamLink link = 3 ∧ t.seams.failing = s.seams.failing ++ [link.val]
        else t.seamLink link = v ∧ t.seams.failing = s.seams.failing) ∧
    (Does (.seamFailoverComplete link) s [.ctl, .engs, .ev, .fabQ, .free, .hp0, .knc, .mem, .mgmt, .ms, .mxes, .out, .persist,
        .plt, .refetch, .seams, .slots, .t3, .tags] fun t =>
      let s1 := setSeam link 0 (updSeams (fun x => { x with failing := x.failing.filter (· != link.val) }) s)
      if link.val ∈ s.seams.failing then
        t.seams.failing = s.seams.failing.filter (· != link.val) ∧
        (∀ b, t.seamDir link b = if s1.hasDetour link then (s.seamDir link b).failover else s.seamDir link b) ∧
        ((s1.seamUp 6 = true ∨ s1.seamUp 7 = true) → (∀ d < 6, s1.dieUp d = true → d ∈ s1.keptDies (List.range 6)) →
          t.seamLink link = 0)
      else t = s)

/-- R154, R190 to R193: the slots of a hoist: a fill whose source is resident starts to read, and lands; a layer that
misses its deadline is counted once and degrades as its policy says; a slot is discarded; a tile is refetched. Model's
choices in it: log 15 (timers with a recorded start are enforced, the others are trusted); log 45 (a layer whose
handle has become stale is lost). -/
def Obligations.HoistSlots : Prop :=
  ∀ (who : Who) (h : Fin 64) (slot : Fin 16) (tile : Fin 65536) (s : State),
    let k := h.val * 16 + slot.val
    let r := R.HST_SLOT_STAT h slot
    let miss := R.HST_CNT_MISS h
    (Does (.fillSourceResident h slot) s [.ctl, .engs, .ev, .free, .ms, .refetch, .slots] fun t =>
      (mapFind s.slots k = none → t = s) ∧
      ∀ d, mapFind s.slots k = some d →
        if s.slotState h slot ≠ slotFilling ∨ d.reading = true then t = s
        else if s.handleOk d.primary = false then
          t.slotState h slot ≠ slotFilling ∧ t.flag r F.HST_SLOT_STAT_FILL_DONE = true
        else if fillTier (s.obj (handleIndex d.primary)) = none then t = s
        else mapFind t.slots k = some { d with reading := true } ∧ Keeps [.slots] s t) ∧
    (Does (.slotFillLanded h slot) s [.ctl, .engs, .ev, .fabQ, .free, .mem, .ms, .mxes, .persist, .refetch, .slots, .tags]
        fun t =>
      (mapFind s.slots k = none → t = s) ∧
      ∀ d, mapFind s.slots k = some d → s.nclk ≤ d.mark + d.deadline →
        (d.reading = false ∨ s.engActive (320 + h) 1 = false ∨ (s.eng (320 + h)).acted = true ∨
          (s.slotState h slot ≠ slotFilling ∧ s.slotState h slot ≠ slotStandby) → t = s) ∧
        (d.reading = true → s.engActive (320 + h) 1 = true → (s.eng (320 + h)).acted = false →
          s.slotState h slot = slotFilling → s.handleOk d.primary = true →
          ∀ tier, fillTier (s.obj (handleIndex d.primary)) = some tier →
          ∀ idx area s1 s2, fillSource h slot (s.objIn (s.obj (handleIndex d.primary)) tier) d s = (.ok (idx, area), s1) →
            putSlot h slot idx area s1 = (.ok (), s2) → s2.slotDamage h slot d = [] → s2.slotState h slot = slotFilling →
            t.slotState h slot = slotPrimary ∧ t.flag r F.HST_SLOT_STAT_FILL_DONE = true ∧ t.mem = s2.mem ∧
            t.reg (R.HST_CNT_BYTES h) = min counterMax (s2.reg (R.HST_CNT_BYTES h) + idx.length + area.length))) ∧
    (Does (.layerDeadlineMiss h slot) s [.ctl, .engs, .ev, .ms, .refetch, .slots] fun t =>
      (mapFind s.slots k = none → t = s) ∧
      ∀ d, mapFind s.slots k = some d →
        if s.slotState h slot ≠ slotFilling ∨ d.missed = true ∨ s.deadlinePassed d = false then t = s
        else t.reg miss = min counterMax (s.reg miss + 1) ∧
          (d.policy ≠ 1 → mapFind t.slots k = some { d with missed := true } ∧ OnlyRegs [miss] s t) ∧
          (d.policy = 1 → s.standbyResident h d = true → d.reading = true → t.slotState h slot = slotStandby ∧
            t.reg (R.HST_CNT_STANDBY h) = min counterMax (s.reg (R.HST_CNT_STANDBY h) + 1)) ∧
          (d.policy = 1 → s.standbyResident h d = false → t.slotState h slot = slotFilling ∧
            t.reg (R.HST_CNT_ABSENT h) = min counterMax (s.reg (R.HST_CNT_ABSENT h) + 1))) ∧
    (if s.privWriter who = true ∧ s.slotState h slot ≠ slotFilling then
      Does (.slotDiscard who h slot) s [.ctl, .engs, .ev, .mem, .ms, .mxes, .persist, .refetch, .slots] fun t =>
        -- what waited for the slot's loads restarts
        ∃ u, t = pumpCrew h u ∧ u.slotState h slot = slotEmpty ∧ OnlyRegs [r] s u ∧ mapFind u.slots k = none ∧
          u.mem = s.mem ∧ ∀ i < 12, mapFind (u.mq (3 * h + i / 4) (i % 4)).views slot = none
     else Ignores who (.slotDiscard who h slot) s) ∧
    (Does (.hoistRefetchDone h slot tile) s [.ctl, .ev, .mem, .ms, .mxes, .persist, .refetch, .slots] fun t =>
      (s.refetchOf h slot tile = none ∨ mapFind s.slots k = none → t = s) ∧
      ∀ x d, s.refetchOf h slot tile = some x → mapFind s.slots k = some d →
        if x.done = true then t = s
        else match s.refetchSource h slot d with
          | none => ∃ u, t = pumpCrew h u ∧ Keeps [.refetch] s u ∧
              ∃ y, u.refetchOf h slot tile = some y ∧ y.done = true
          | some (ly, v, idx, area) => ∀ ib s1 fb s2,
              objRead (.refetch h slot tile) ly (idx + 8 * tile.val) 8 s = (.ok ib, s1) →
              objRead (.refetch h slot tile) ly (area + 32 * (indexEntry (leNat ib)).offset) (indexEntry (leNat ib)).length s1
                = (.ok fb, s2) →
              ∃ u, t = pumpCrew h u ∧ (∃ y, u.refetchOf h slot tile = some y ∧ y.done = true) ∧
                u.mem = (putView h v (v.areaOff + 32 * (indexEntry (leNat ib)).offset) fb
                  (putView h v (v.idxOff + 8 * tile.val) ib s2)).mem)

/-- R195 to R199: the recovery units: the oldest unit that waits gets an entry where one is free; a repair rebuilds
its unit and closes its entry; a repair that could still succeed cannot fail. Model's choices in it: log 65 (order of
recovery entries); log 94 (what the limit of attached reads counts). -/
def Obligations.RecoveryUnits : Prop :=
  ∀ (hd : Fin 2) (n : Nat) (s : State),
    let mine (e : RcvEntry) : Bool := e.hdie == hd.val
    let stat := R.T2C_RCV_STAT hd
    let alone (e : RcvEntry) : Prop := e.waiters = [] ∧ e.writes = [] ∧ s.ms.credit = [] ∧ s.hp0.winWait = []
    (Does (.recoveryEntryAllocate hd) s [.ctl, .ms] fun t =>
      match takeFirst mine s.ms.rcvWait with
      | none => t = s
      | some (e, rest) =>
        if 64 ≤ (s.ms.rcv.filter mine).length then t = s
        else t.ms = { s.ms with rcv := s.ms.rcv ++ [e], rcvWait := rest } ∧ OnlyRegs [stat] s t ∧
          t.fld stat F.T2C_RCV_STAT_ACTIVE = (s.ms.rcv.filter mine).length + 1) ∧
    (Does (.repairComplete hd n) s [.ctl, .ev, .fabQ, .free, .hp0, .knc, .mem, .ms, .mxes, .out, .persist, .plt, .pool, .qos,
        .t3] fun t => (s.rcvAt hd n = none → t = s) ∧
      ∀ e, s.rcvAt hd n = some e → (s.repair e.key = none → t = s) ∧
        ∀ ps, s.repair e.key = some ps → alone e →
          let u := healUnit e.key (ps.foldl (fun s p => landBytes false p.1 p.2 s) s)
          let cnt := if isRefetch e.key then R.T2C_RCV_CNT_REFETCH hd else R.T2C_RCV_CNT_REPAIR hd
          t.mem = u.mem ∧ t.ms.rcv = u.ms.rcv.filter (fun x => x.key != e.key) ∧
          t.reg cnt = min counterMax (u.reg cnt + 1)) ∧
    (Does (.repairFail hd n) s [.ctl, .engs, .ev, .fabQ, .free, .hp0, .knc, .mem, .ms, .mxes, .out, .persist, .plt, .pool,
        .qos, .refetch, .slots, .t3] fun t => (s.rcvAt hd n = none → t = s) ∧
      ∀ e, s.rcvAt hd n = some e → (s.repair e.key ≠ none → s.farSource e.key = false → t = s) ∧
        (s.repair e.key = none ∨ s.farSource e.key = true → alone e →
          let u := (s.unitObjects e.key).foldl (loseObject hd (unitPlace e.key).1) s
          t.mem = u.mem ∧ t.ms.rcv = u.ms.rcv.filter (fun x => x.key != e.key) ∧
          t.reg (R.T2C_RCV_CNT_LOST hd) = min counterMax (u.reg (R.T2C_RCV_CNT_LOST hd) + 1)))

/-- R201, R204, R210: the commands of the lease registers, each with its state and its message; one in a wrong state,
for the part's own coordinates or of a writer without privilege is ignored. Model's choices in it: log 53 (lease
command bits); log 54 (one outstanding message per lease and kind). -/
def Obligations.LeaseCommands : Prop :=
  ∀ (who : Who) (ix : Fin 64) (units : Nat) (s : State),
    let o := 64 + ix.val
    let mine (i : Nat) : Prop := s.privWriter who = true ∧ s.leasePeer i ≠ s.ownCoords
    let move (ok : Prop) (i : Instr) (k st msg : Nat) : Prop :=
      (ok → Does i s [.ctl, .ev, .fabQ, .plt] fun t => t.leaseState k = st ∧ t.leasePeer k = s.leasePeer k ∧
        t.leaseEpoch k = s.leaseEpoch k ∧ SendsLease msg (s.leasePeer k) s t) ∧ (¬ ok → Ignores who i s)
    let n := bitsOf units 28 0
    let size := R.PLT_LOUT_SIZE ix
    let old := s.fld size F.PLT_LOUT_SIZE_UNITS
    move (mine o ∧ s.leaseState o = 0 ∧ s.openLease 64 (s.leasePeer o) = none) (.leaseOffer who ix) o 1 1 ∧
    move (mine ix ∧ s.leaseState ix = 1) (.leaseAccept who ix) ix 2 2 ∧
    move (mine ix ∧ s.leaseState ix = 2) (.leaseReturn who ix) ix 3 6 ∧
    move (mine o ∧ s.leaseState o = 2) (.leaseRevoke who ix) o 3 5 ∧
    if s.privWriter who = true ∧ (s.leaseState o = 0 ∨ old ≤ n) then
      Does (.leaseGrow who ix units) s [.ctl, .ev, .fabQ, .plt] fun t => t.reg size = n ∧ OnlyRegs [size] s t ∧
        if old < n ∧ s.leaseState o ≠ 0 then
          SendsLease 3 (s.leasePeer o) s t ∧ mapFind (t.lease o).msgs 3 = some s.nclk
        else t.fabQ = s.fabQ
    else Ignores who (.leaseGrow who ix units) s

/-- R204, R205, R342: lease messages as they arrive: one of no open lease or of a stale epoch is dropped and counted;
the others move the lease on, answer, or close it. The times of a lease: a message without an answer is sent again
after 100 µs, a lease not closed 2 ms after its notice is held and closes 100 ms later, and one unreachable for 100 ms
closes. Model's choices in it: log 15 (timers with a recorded start are enforced, the others are trusted); log 54 (one
outstanding message per lease and kind). -/
def Obligations.LeaseMessages : Prop :=
  (∀ (m : LeaseMsg) (s : State),
      let peer := m.peer.toNat
      let msgs : List (Nat × Instr × List Part) :=
        [(64, .leaseMsgAccept m, [.ctl, .plt]), (0, .leaseMsgGrow m, [.ctl, .fabQ, .plt]), (64, .leaseMsgGrown m, [.ctl, .plt]),
         (0, .leaseMsgNotice m, [.ctl, .ev, .plt]), (64, .leaseMsgReturn m, [.ctl, .plt]),
         (64, .leaseMsgDrainDone m, [.ctl, .fabQ, .mem, .ms, .plt]),
         (0, .leaseMsgClosed m, [.ctl, .engs, .ev, .mem, .ms, .mxes, .persist, .plt, .refetch, .slots, .t3])]
      let for' (lo : Nat) (i : Instr) (parts : List Part) (q : Nat → State → Prop) : Prop :=
        ∀ k, s.openLease lo peer = some k → s.leaseEpoch k = m.epoch.toNat → Does i s parts (q k)
      (∀ x ∈ msgs, (∀ k, s.openLease x.1 peer = some k → s.leaseEpoch k ≠ m.epoch.toNat) → Does x.2.1 s [.ctl, .plt] fun t =>
        OnlyRegs [R.PLT_LEASE_CNT_STALE] s t ∧
          t.reg R.PLT_LEASE_CNT_STALE = min counterMax (s.reg R.PLT_LEASE_CNT_STALE + 1)) ∧
      (Does (.leaseMsgOffer m) s [.ctl, .plt] fun t =>
        let free i := s.leaseState i == 0 && s.leasePeer i == peer
        let stale : Prop := OnlyRegs [R.PLT_LEASE_CNT_STALE] s t ∧
          t.reg R.PLT_LEASE_CNT_STALE = min counterMax (s.reg R.PLT_LEASE_CNT_STALE + 1)
        match s.openLease 0 peer, (List.range 64).find? free with
        | some k, _ => if s.leaseEpoch k = m.epoch.toNat then OnlyRegs [] s t else stale
        | none, none => OnlyRegs [] s t
        | none, some i =>
          if s.offerStale i m = true then stale
          else t.leaseState i = 1 ∧ t.leaseEpoch i = m.epoch.toNat ∧ t.reg (R.PLT_LIN_SIZE i) = m.units.toNat ∧
            OnlyRegs [leaseCtl i, R.PLT_LIN_SIZE i] s t) ∧
      (for' 64 (.leaseMsgAccept m) [.ctl, .plt] fun k t => if s.leaseState k = 1 then t.leaseState k = 2 ∧
        mapFind (t.lease k).msgs 1 = none ∧ OnlyRegs [leaseCtl k] s t else OnlyRegs [] s t) ∧
      (for' 0 (.leaseMsgGrow m) [.ctl, .fabQ, .plt] fun k t => let size := R.PLT_LIN_SIZE k
        if s.fld size F.PLT_LIN_SIZE_UNITS < m.units.toNat then t.reg size = m.units.toNat ∧
          SendsLease 4 (s.leasePeer k) s t ∧ OnlyRegs [size] s t
        else OnlyRegs [] s t ∧ t.fabQ = s.fabQ) ∧
      (for' 64 (.leaseMsgGrown m) [.ctl, .plt] fun k t => OnlyRegs [] s t ∧
        (m.units.toNat = s.fld (leaseSize k) F.PLT_LIN_SIZE_UNITS → mapFind (t.lease k).msgs 3 = none)) ∧
      (for' 0 (.leaseMsgNotice m) [.ctl, .ev, .plt] fun k t => if s.leaseState k = 2 then t.leaseState k = 3 ∧
        (t.lease k).t0 = s.nclk ∧ t.reg (R.EVR_CODE_CNT 0x506) = min counterMax (s.reg (R.EVR_CODE_CNT 0x506) + 1)
        else OnlyRegs [] s t) ∧
      (for' 64 (.leaseMsgReturn m) [.ctl, .plt] fun k t => if s.leaseState k = 2 then t.leaseState k = 3 ∧
        (t.lease k).t0 = s.nclk ∧ OnlyRegs [leaseCtl k] s t else OnlyRegs [] s t) ∧
      (for' 64 (.leaseMsgDrainDone m) [.ctl, .fabQ, .mem, .ms, .plt] fun k t =>
        if s.leaseState k = 3 ∨ s.leaseState k = 4 then t.leaseState k = 0 ∧ SendsLease 8 (s.leasePeer k) s t ∧
          t.leaseEpoch k = (s.leaseEpoch k + 1) % 256 ∧ OnlyRegs [leaseCtl k] s t
        else OnlyRegs [] s t ∧ t.fabQ = s.fabQ) ∧
      (for' 0 (.leaseMsgClosed m) [.ctl, .engs, .ev, .mem, .ms, .mxes, .persist, .plt, .refetch, .slots, .t3] fun k t =>
        if s.leaseState k = 3 then t.leaseState k = 0 ∧
          ∀ a, 4 * 2 ^ 60 + t.leasePeer k * 2 ^ 45 ≤ a → a < 4 * 2 ^ 60 + (t.leasePeer k + 1) * 2 ^ 45 → memByte t.mem a = 0
        else OnlyRegs [] s t)) ∧
  (∀ (out : Bool) (ix : Fin 64) (s : State),
      let o := 64 + ix.val
      let k := leaseNum out ix
      let ends : List Part := [.ctl, .engs, .ev, .mem, .ms, .mxes, .persist, .plt, .refetch, .slots, .t3]
      let due := (s.lease k).msgs.filter fun m => decide (m.2 + usCycles 100 ≤ s.nclk)
      (Does (.leaseMsgResend out ix) s [.fabQ, .plt] fun t =>
        (due = [] → t = s) ∧ t.fabQ.take s.fabQ.length = s.fabQ ∧
        (t.fabQ.drop s.fabQ.length).map (fun x => (x.1, x.2.type, x.2.fnStatus, x.2.dst)) =
          due.map fun m => (0, 0x18, m.1, s.leasePeer k)) ∧
      (Does (.leaseHoldStart ix) s [.ctl] fun t => OnlyRegs [R.PLT_LOUT_CTL ix] s t ∧ t.leaseState o =
        if s.leaseState o = 3 ∧ (s.lease o).t0 + usCycles 2000 ≤ s.nclk then 4 else s.leaseState o) ∧
      (Does (.leaseHoldEnd out ix) s ends fun t =>
        if (s.lease k).t0 + usCycles 102000 ≤ s.nclk ∧ s.leaseState k = (if out then 4 else 3) then t.leaseState k = 0
        else t = s) ∧
      (Does (.leaseUnreachable out ix) s [.ctl, .ev, .plt] fun t =>
        if s.leaseState k = 0 ∨ s.leaseState k = 5 then t = s
        else t.leaseState k = 5 ∧ (t.lease k).was = s.leaseState k ∧ (t.lease k).since = s.nclk ∧
          t.reg (R.EVR_CODE_CNT 0x507) = min counterMax (s.reg (R.EVR_CODE_CNT 0x507) + 1)) ∧
      (Does (.leaseReachableAgain out ix) s [.ctl] fun t =>
        if s.leaseState k = 5 ∧ s.nclk ≤ (s.lease k).since + usCycles 100000 then
          t.leaseState k = (s.lease k).was % 16 ∧ OnlyRegs [leaseCtl k] s t
        else t = s) ∧
      (Does (.leaseUnreachableClose out ix) s ends fun t =>
        if s.leaseState k = 5 ∧ (s.lease k).since + usCycles 100000 ≤ s.nclk then t.leaseState k = 0 else t = s) ∧
      (Does (.leaseDrainDone ix) s [.ctl, .engs, .ev, .fabQ, .mem, .ms, .mxes, .persist, .plt, .t3, .tags] fun t =>
        if s.leaseState ix = 3 ∧ mapFind (s.lease ix).msgs 7 = none then
          s.draining ix = none → s.leaseObjects (s.leasePeer ix) = [] →
            SendsLease 7 (s.leasePeer ix) s t ∧ mapFind (t.lease ix).msgs 7 = some s.nclk ∧ Keeps [.fabQ, .plt] s t
        else t = s))

/-- R214, R224, R233, R234, R428: how a memory controller comes into service: training, repair, the phases of its
self-test, and the fill, each only in the state it belongs to. Model's choices in it: log 62 (DRAM timing comes with
commands); log 63 (order of scrubbing and self-test); log 98 (accesses to a controller that is not yet in service
fail); log 100 (the ladder of rates of a training). -/
def Obligations.MemoryBringUp : Prop :=
  ∀ (c : Ctrl) (res : TrainResult) (failed : List Nat) (phase : Fin 6) (pass : Bool) (s : State),
    let n := ctrlNum c
    let stat := ctrlReg R.T1C_STAT R.T2C_STAT n
    let led := s.flag R.FMN_LEAD_STAT F.FMN_LEAD_STAT_NONE = false
    (Does (.memTrainDone c res) s [.ctl, .ev, .ms] fun t =>
      let away := t.memState n = 7 ∧ mapFind t.ms.modGib n = none
      let lower := match s.rateBelow n with
        | some r => if n < 16 then away else t = setFld stat F.T1C_STAT_RATE r s
        | none => away
      if s.memState n ≠ 1 ∨ mapFind s.ms.bring n ≠ none then t = s
      else match res with
        | .absent => away
        | .failed => away
        | .lower rate => if 16 ≤ n ∧ s.rateBelow n = some rate then lower else t = s
        | .trained rate eye lane repaired _ mr =>
          if s.trainFits n rate eye mr = true then mapFind t.ms.bring n = some 0 ∧ t.memState n = 1 ∧
            t.fld stat F.T1C_STAT_RATE = rate ∧ t.reg (ctrlReg R.T1C_TRAIN R.T2C_TRAIN n) =
              eye % 256 * 2 ^ 56 + lane % 65536 * 2 ^ 40 + repaired % 256 * 2 ^ 32
          else if rate ∈ s.ratesLeft n then lower else t = s) ∧
    (Does (.pprDone c failed) s [.ctl, .ev, .ms] fun t =>
      if s.memState n = 1 ∧ mapFind s.ms.bring n ≠ none ∧ led then t.memState n = 2 ∧ t.ms.bring = s.ms.bring
      else t = s) ∧
    (Does (.memSelftestDone c phase pass) s [.ctl, .ev, .ms] fun t =>
      (s.memState n ≠ 2 ∨ mapFind s.ms.bring n = none → t = s) ∧
      ∀ k, s.memState n = 2 → mapFind s.ms.bring n = some k →
        if phase.val = k + 1 ∨ (k = 5 ∧ phase.val = 5) then
          if pass = false then t.memState n = 7 ∧ mapFind t.ms.bring n = none
          else if phase.val = 5 then t.memState n = 4 ∧ mapFind t.ms.bring n = none
          else t.memState n = (if phase.val = 4 then 3 else 2) ∧ mapFind t.ms.bring n = some phase.val
        else t = s) ∧
    (Does (.memFillDone c) s [.ctl, .ev, .mem, .ms] fun t =>
      if s.memState n = 3 ∧ mapFind s.ms.bring n = some 4 then
        t.memState n = 2 ∧ mapFind t.ms.bring n = some 5 ∧
        ∀ a l, s.ctrlAddrOf a = some (n, l) → memByte t.mem a = 0
      else t = s)

/-- R217, R220, R221, R225 to R227, R231, R235, R237, R238: of a memory controller in service: a good read changes no
stored bit and a write stores its eight bytes and no others; refreshes, the clearing of the table of activates,
re-centring, power-down, self-refresh, scrubbing and the arming of an injection act in their states alone. Model's
choices in it: log 61 (ECC is modelled on flip positions); log 62 (DRAM timing comes with commands); log 63 (order of
scrubbing and self-test); log 90 (which rank an address selects); log 92 (the check-group cache, corrections of a line
and injections); log 97 (writes that nothing waits for are held by self-refresh). -/
def Obligations.MemoryService : Prop :=
  ∀ (who : Who) (c : Ctrl) (ch : Fin 12) (rank : Fin 16) (a d : BitVec 64) (errs : BitVec 80) (sev : BitVec 2) (hard hot : Bool)
    (act : Option (Nat × Nat)) (eye : BitVec 8) (wl : BitVec 16) (failed : Nat) (v32 : BitVec 32) (s : State),
    let n := ctrlNum c
    let k := 16 + ch.val
    let w := a.toNat / 8
    let lp := R.T2C_LP ch
    let pos := ctrlReg R.T1C_SCRUB_POS R.T2C_SCRUB_POS n
    let train := ctrlReg R.T1C_TRAIN R.T2C_TRAIN n
    let inj := ctrlReg R.T1C_INJ_CTL R.T2C_INJ_CTL n
    let read := match s.ctrlAddrOf a.toNat with
      | some (x, _) => s.memState x == 4
      | none => spaceOf a.toNat == .t0
    let write := match s.ctrlAddrOf a.toNat with
      | some (x, _) => !s.sleeping x
      | none => spaceOf a.toNat == .t0
    let lpOk := s.privWriter who = true ∧ (s.fld lp F.T2C_LP_PD_TIMER = 0 ∨ privChannel ch = true)
    (Does (.memRead a errs hard sev act) s [.ctl, .ev, .mem, .ms, .persist] fun t =>
      if s.mapped (8 * w) 8 = true ∧ read = true then
        errs = 0 → s.flipMask w = 0 → t.ms.flips = s.ms.flips ∧ t.mem = s.mem ∧
          ∀ x l, s.ctrlAddrOf a.toNat = some (x, l) → x < 16 → t.reg (R.T1C_CNT_SEV x) =
            if sev = 0 then s.reg (R.T1C_CNT_SEV x) else min counterMax (s.reg (R.T1C_CNT_SEV x) + 1)
      else t = s) ∧
    (Does (.memWrite a d act) s [.ctl, .ev, .mem, .ms, .mxes, .persist] fun t =>
      if s.mapped (8 * w) 8 = true ∧ write = true then
        s.reachableBy false (8 * w) 8 = true → s.asleep (8 * w) 8 = false → s.rcvOf (s.unitOf (8 * w)) = none →
        s.pageOut (8 * w / 4096) = false → (spaceOf a.toNat = .t2 → ∀ o, s.ownerOf (8 * w) = some o → o.row = none) →
          memGets t.mem (8 * w) 8 = leBytes 8 d.toNat ∧
          ∀ x, x < 8 * w ∨ 8 * w + 8 ≤ x → memByte t.mem x = memByte s.mem x
      else t = s) ∧
    (Does (.refresh c hot) s [.ms] fun t =>
      if s.memState n = 4 ∨ s.memState n = 3 ∨ s.memState n = 2 then
        mapFind t.ms.refreshed n = some (s.nclk, hot) ∧ (∀ x ∈ t.ms.pdRanks, x / 16 ≠ n)
      else t = s) ∧
    (Does (.rdTableClear c) s [.ms] fun t =>
      if s.memState n = 5 then t = s
      else ∀ x, mapFind t.ms.acts x = if x / 65536 = n then none else mapFind s.ms.acts x) ∧
    (Does (.laneRecentre c eye wl failed) s [.ctl, .ev, .ms] fun t =>
      if s.memState n ≠ 4 then t = s
      else if failed = 0 then t.fld train F.T1C_TRAIN_MIN_EYE = eye.toNat ∧
        t.fld train F.T1C_TRAIN_WORST_LANE = wl.toNat ∧ OnlyRegs [train] s t
      else t.memState n = 6) ∧
    (Does (.rankPowerDown ch rank) s [.ctl, .ms] fun t =>
      let timer := s.fld lp F.T2C_LP_PD_TIMER
      if privChannel ch = true ∧ s.memState k = 4 ∧ timer ≠ 0 ∧ rank.val < 2 ^ (Config.rankBits k % 5) ∧
          k * 16 + rank.val ∉ s.ms.pdRanks ∧ 16 * timer ≤ s.nclk - mapGet s.ms.rankUsed (k * 16 + rank.val) 0 then
        t.ms.pdRanks = (k * 16 + rank.val) :: s.ms.pdRanks ∧
        t.reg (R.T2C_CNT_PD_ENTRY ch) = min counterMax (s.reg (R.T2C_CNT_PD_ENTRY ch) + 1)
      else t = s) ∧
    (Does (.scrubLine c) s [.ctl, .ev, .mem, .ms, .persist] fun t =>
      if s.memState n ≠ 4 then t = s
      else if n < 16 then t.reg pos = (s.scrubNext n (s.reg pos)).1
      else t.reg pos = s.reg pos + 64 ∨ t.reg pos = 0) ∧
    (if lpOk then
      Does (.selfRefreshEnter who ch) s [.ctl, .ev, .ms] fun t => t.flag lp F.T2C_LP_SR_REQ = true ∧
        t.memState k = (if s.flag lp F.T2C_LP_SR_REQ = false ∧ s.memState k = 4 then 5 else s.memState k)
     else Ignores who (.selfRefreshEnter who ch) s) ∧
    (if lpOk then
      Does (.selfRefreshExit who ch) s [.ctl, .ev, .ms] fun t => t.flag lp F.T2C_LP_SR_REQ = false ∧
        t.memState k = (if s.flag lp F.T2C_LP_SR_REQ = true ∧ s.memState k = 5 then 3 else s.memState k)
     else Ignores who (.selfRefreshExit who ch) s) ∧
    (Does (.selfRefreshRefillDone ch) s [.ctl, .ev, .free, .hp0, .knc, .mem, .ms, .mxes, .out, .persist, .pool, .qos, .t3] fun t =>
      if mapFind s.ms.srMask k ≠ none ∧ s.memState k = 3 then
        let u := srRefilled ch s
        u.memState k = 4 ∧ mapFind u.ms.srMask k = none ∧ Keeps [.ctl, .ev, .mem, .ms] s u ∧
        let v := srLand ch u
        t = poolRetry (winServe (fun _ => true) ((v.knc.map (·.1)).foldl (fun s x => ctxServe x s) v))
      else t = s) ∧
    (if s.rootWriter who = true ∧ ((([bitsOf v32.toNat 6 0, bitsOf v32.toNat 13 7, bitsOf v32.toNat 20 14]).take
        (bitsOf v32.toNat 23 22)).all fun p => decide (p ≤ 79)) = true then
      Does (.injectArm who c v32) s [.ctl, .ev] fun t => OnlyRegs [inj] s t ∧ t.flag inj F.T1C_INJ_CTL_ARM = true ∧
        bitsOf (t.reg inj) 20 0 = bitsOf v32.toNat 20 0 ∧ bitsOf (t.reg inj) 26 22 = bitsOf v32.toNat 26 22
     else Ignores who (.injectArm who c v32) s)

/-- R167, R168, R430: what the SSDs of the deep lode answer: ready or not, a command's end, and the two time limits.
Model's choices in it: log 15 (timers with a recorded start are enforced, the others are trusted); log 64 (SSD
commands of an object); log 99 (which NVMe commands the part issues). -/
def Obligations.DeepLodeSsds : Prop :=
  ∀ (port : Fin 4) (id units : Nat) (usable volatile ok : Bool) (s : State),
    let parts : List Part := [.ctl, .ev, .free, .mem, .ms, .mxes, .out, .persist, .pool, .qos, .t3]
    let d := s.ssd port
    let cmd := s.t3.cmds.find? fun c => c.port == port.val && c.id == id
    (Does (.nvmeCompletion port id (.ready units usable volatile)) s parts fun t =>
      if d.present = false ∨ d.outOfService = true then t = s
      else if usable then t.ssd port = { d with ready := true, volatile, units, queues := nvmeQueuePairs, resetAt := none }
      else t.ssd port = { d with ready := false, queues := 0, resetAt := none }) ∧
    (Does (.nvmeCompletion port id (.io ok)) s parts fun t =>
      let held := (s.nvmeQueued port).find? fun c => c.id == id
      (held = none → t = s) ∧
      ∀ c, held = some c →
        if c.write = true ∧ ok = true ∧ d.volatile = true ∧ c.flush = false then
          t.t3.cmds = s.t3.cmds.map fun x => if x.id = c.id then { x with flush := true } else x
        else if 1024 ≤ c.owner ∧ c.owner ≠ orphanOwner then
          t = poolNvmeEnd c ok { nvmeEnd c ok s with t3 := { (nvmeEnd c ok s).t3 with ends := s.t3.ends } }
        else Keeps [.t3] s t ∧ t.t3.cmds = (s.t3.cmds.filter fun x => x.id != c.id) ∧
          t.t3.ends = s.t3.ends ++ [{ owner := c.owner, chunk := c.chunk, write := c.write, ok }] ∧
          t.t3.cells = if c.write && ok then memPuts s.t3.cells (c.chunk * 2 ^ 17 + c.off) c.data else s.t3.cells) ∧
    (Does (.nvmeCommandTimeout port id) s parts fun t =>
      match cmd with
      | none => t = s
      | some c => if s.nclk < c.time + nvmeLimit then t = s
        else (t.ssd port).ready = false ∧ (t.ssd port).queues = 0 ∧ (t.ssd port).resetAt = some s.nclk) ∧
    (Does (.nvmeResetTimeout port) s parts fun t =>
      if d.present = false ∨ d.ready = true ∨ d.outOfService = true ∨ s.computeOpen = false ∨
        s.nclk < s.ssdSince d + nvmeResetLimit then t = s else (t.ssd port).outOfService = true)

/-- R240, R246, R257, R259: the commands of an engine: GO starts an idle one at HEAD, RESUME and SKIP leave a halt,
ABORT stops it, and any other case is ignored; an abort ends with the engine idle. Model's choices in it: log 38
(engine counters, LEN 0 and CUR); log 42 (an aborted object operation is undone); log 72 (CUR after an abort); log 101
(RESUME goes before SKIP in one write); log 105 (when a halt takes effect). -/
def Obligations.EngineCommands : Prop :=
  ∀ (who : Who) (e : Fin 384) (s : State),
    let may := s.engMayCmd who e = true
    let st := s.engState e
    let cur := engCur e
    let stat := engStat e
    let next := dsc (s.engDesc e) 24 8
    (if may ∧ st = 0 ∧ s.engValid e = true ∧ s.engRuns e = true then
      Does (.engGo who e) s [.ctl, .engs] fun t => t.engState e = 1 ∧ (t.eng e).desc = none ∧
        t.reg cur = s.reg (engR R.TRM_HEAD R.HST_HEAD e) ∧ OnlyRegs [cur, stat] s t
     else Ignores who (.engGo who e) s) ∧
    (if may ∧ st = 3 then
      Does (.engResume who e) s [.ctl, .engs] fun t => t.engState e = 1 ∧ (t.eng e).desc = none ∧ OnlyRegs [stat] s t
     else Ignores who (.engResume who e) s) ∧
    (if may ∧ st = 3 then
      Does (.engSkip who e) s [.ctl, .engs, .ms, .refetch, .slots] fun t => (t.eng e).desc = none ∧
        if next = 0 then t.engState e = 0 else t.engState e = 1 ∧ t.reg cur = next % 2 ^ 64
     else Ignores who (.engSkip who e) s) ∧
    (if may ∧ st ≠ 4 then
      Does (.engAbort who e) s [.ctl, .engs, .ms, .refetch, .slots, .tags] fun t =>
        (st = 0 → t.engState e = 0 ∧ t.fld stat F.TRM_STAT_ABORT_RESULT = St.tooLate ∧
          let cnt := engR R.TRM_CNT_TOO_LATE R.HST_CNT_TOO_LATE e
          t.reg cnt = min counterMax (s.reg cnt + 1) ∧ OnlyRegs [stat, cnt] s t) ∧
        (st = 1 ∨ st = 2 → t.engState e = 4 ∧ (t.eng e).abort = some St.aborted ∧ OnlyRegs [stat] s t) ∧
        (st = 3 → t.engState e = 0 ∧ (t.eng e).desc = none ∧ (t.eng e).loops = [])
     else Ignores who (.engAbort who e) s) ∧
    (Does (.engAbortDone e) s [.ctl, .engs, .ev, .fabQ, .mem, .ms, .mxes, .persist, .refetch, .slots, .t3, .tags] fun t =>
      if st = 4 ∧ s.writesOut e = false ∧ (putStatus e (((s.eng e).abort).getD St.aborted) 0 s).1 ≠ .wait then
        t.engState e = 0 ∧ (t.eng e).desc = none ∧ (t.eng e).loops = [] ∧
        t.reg (engR R.TRM_SOFF R.HST_SOFF e) = 0 ∧ t.reg (engR R.TRM_DOFF R.HST_DOFF e) = 0
      else t = s)

/-- R243 to R246, R250: the way of a descriptor: it is fetched and checked, its notifications and its STATUS word are
written, and the engine goes on at NEXT; a fetch, a check or a write that fails halts it, once its writes are
answered. Model's choices in it: log 36 (descriptor accesses to control space); log 38 (engine counters, LEN 0 and
CUR); log 39 (which values the descriptor checks refuse); log 105 (when a halt takes effect). -/
def Obligations.DescriptorFlow : Prop :=
  ∀ (e : Fin 384) (addr : BitVec 64) (w : Bool) (s : State),
    let x := s.eng e
    let d := s.engDesc e
    let cur := s.reg (engCur e)
    let all : List Part := [.ctl, .engs, .ev, .fabQ, .free, .hp0, .knc, .locks, .mem, .mgmt, .ms, .mxes, .out, .persist,
      .plt, .pool, .qos, .refetch, .semNow, .slots, .t3, .tags]
    let active := s.engActive e 1 = true
    let checks (u t : State) : Prop := if u.engCheck e (u.engDesc e) = 0 then
        (t.eng e).desc = some (u.engDesc e) ∧ (t.eng e).checked = true ∧ t.mem = u.mem
      else Halted e St.badCommand t
    let pass (b : List Byte) : Prop := firstChecks e b = 0 ∧ (dOp b = 0x11 ∨ dOp b = 0x12)
    let told (u t : State) : Prop :=
      (u.engWritesOut e = true → t = u) ∧ (u.engWritesOut e = false → dFlag d 1 = false → MovesOn e u t) ∧
      (u.engWritesOut e = false → dFlag d 1 = true →
        (∀ s1, engNotify e d true u = (.wait, s1) → t = u) ∧
        (∀ st a s1, engNotify e d true u = (.fail st a, s1) → Halted e St.busError t) ∧
        ∀ s1, engNotify e d true u = (.ok (), s1) → t = noteAnswered e d (updEng e (fun x => { x with told := 2 }) s1))
    (Does (.descriptorFetch e) s [.ctl, .engs, .ev, .fabQ, .free, .mem, .ms, .mxes, .persist, .slots, .tags] fun t =>
      (¬ (active ∧ x.checked = false) → t = s) ∧
      (active → x.checked = false → x.desc ≠ none → ¬ pass d → checks s t) ∧
      (active → x.checked = false → x.desc ≠ none → pass d → ∀ b s1, engGather e 2 (dsc d 48 8) 64 .other s = (.ok b, s1) →
        checks (updEng e (fun x => { x with block := some b }) s1) t) ∧
      (active → x.checked = false → x.desc = none →
        (spaceOf cur = .drift → Halted e St.busError t) ∧
        (spaceOf cur ≠ .drift → ∀ bs s1, engRead e cur 64 .other s = (.ok bs, s1) →
          let u := updEng e (fun x => { x with desc := some bs }) s1
          (¬ pass bs → checks u t) ∧
          (pass bs → ∀ b s2, engGather e 2 (dsc bs 48 8) 64 .other u = (.ok b, s2) →
            checks (updEng e (fun x => { x with block := some b }) s2) t)) ∧
        (spaceOf cur ≠ .drift → ∀ st a s1, engRead e cur 64 .other s = (.fail st a, s1) → Halted e st t))) ∧
    (Does (.halfNotification e) s all fun t =>
      if active ∧ x.checked = true ∧ s.halfDue e = true ∧ x.failed = none ∧ s.engWritesOut e = false then
        (∀ s1, engNotify e d false s = (.ok (), s1) → (t.eng e).half = true ∧ t.mem = s1.mem ∧ t.ctl = s1.ctl) ∧
        (∀ s1, engNotify e d false s = (.wait, s1) → t = s) ∧
        (∀ st a s1, engNotify e d false s = (.fail st a, s1) → Halted e St.busError t)
      else t = s) ∧
    (Does (.descriptorComplete e) s all fun t =>
      let answered := s.engRuns e = true ∧ (s.engState e = 1 ∨ s.engState e = 2) ∧ s.engWritesOut e = false
      let ended := answered ∧ x.halting = none ∧ s.engState e = 1 ∧ x.checked = true ∧ x.acted = true
      (¬ answered → t = s) ∧ (answered → x.halting = none → ¬ ended → t = s) ∧
      (answered → ∀ h, x.halting = some h → Halted e h.status t ∧
        let u := disownFab (.engine e) (disownReads (.engine e) s)
        (u.engWritesOut e = false → (putStatus e h.status h.detail u).1 ≠ .wait → t.engState e = 3)) ∧
      (ended → x.told = 0 → x.failed ≠ none → ∃ st, Halted e st t) ∧
      (ended → x.told = 0 → x.failed = none →
        (s.halfDue e = true → t = s) ∧
        (s.halfDue e = false →
          (∀ s1, putStatus e x.status x.detail s = (.wait, s1) → t = s) ∧
          (∀ st a s1, putStatus e x.status x.detail s = (.fail st a, s1) → Halted e St.busError t) ∧
          ∀ s1, putStatus e x.status x.detail s = (.ok (), s1) → told (updEng e (fun x => { x with told := 1 }) s1) t)) ∧
      (ended → x.told = 1 → told s t) ∧
      (ended → 2 ≤ x.told → if x.failed = none then MovesOn e s t else Halted e St.busError t)) ∧
    (Does (.engineAccessTimeout e addr w) s [.ctl, .engs, .ev, .fabQ, .mem, .ms, .mxes, .persist, .slots, .tags] fun t =>
      if (s.engActive e 1 = true ∨ s.engActive e 2 = true) ∧ s.engHeld e = false ∧
          spaceOf addr.toNat ≠ .drift ∧ ¬ (x.desc = none ∧ w = true) then Halted e St.busError t
      else t = s)

/-- R190, R247 to R249, R251, R252, R256: what the descriptors of moves, waits and steps do: the bytes they read and
write, the loop that goes round or ends, the wait that holds or ends, the mark of a step, and a layer fill, which
halts with BAD_COMMAND or is counted. Model's choices in it: log 37 (overlapping COPY and several command bits at
once); log 38 (engine counters, LEN 0 and CUR); log 40 (host bytes of a descriptor come with the command). -/
def Obligations.DescriptorEffects : Prop :=
  ∀ (e : Fin 384) (h1 h2 : HostRead) (d : List Byte) (s : State),
    let src := s.dSrc e d
    let dst := s.dDst e d
    let n := dLen d
    let data : List Part := [.ctl, .engs, .ev, .fabQ, .free, .mem, .ms, .mxes, .out, .persist, .slots, .tags]
    let waits : List Part := [.ctl, .engs, .ev, .fabQ, .free, .latch, .mem, .ms, .mxes, .persist, .slots, .tags]
    let near (a : Nat) (host : Bool) : Prop := host = false ∧ spaceOf a ≠ .drift
    let soff := engR R.TRM_SOFF R.HST_SOFF e
    let doff := engR R.TRM_DOFF R.HST_DOFF e
    (s.runs e 1 d → Does (.engCopy e h1) s data fun t => (n = 0 → EngEnds e St.ok 0 t ∧ Keeps [.engs] s t) ∧
      (n ≠ 0 → near src (srcHost d) → near dst (dstHost d) → ∀ bs s1 s2, engRead e src n .dataRead s = (.ok bs, s1) →
        engWrite e dst (swapBytes (dSwap d) bs) .dataWrite s1 = (.ok (), s2) → EngEnds e St.ok 0 t ∧ t.mem = s2.mem) ∧
      (n ≠ 0 → srcHost d = true → s.engHostOk d = true → near dst (dstHost d) → ∀ bs s2, h1 = .data bs → n ≤ bs.length →
        engWrite e dst (swapBytes (dSwap d) (bs.take n)) .dataWrite (hostReads (dFunction d) src n s) = (.ok (), s2) →
        EngEnds e St.ok 0 t ∧ t.mem = s2.mem) ∧
      (n ≠ 0 → near src (srcHost d) → dstHost d = true → ∀ bs s1, engRead e src n .dataRead s = (.ok bs, s1) →
        s1.engHostOk d = true → EngEnds e St.ok 0 t ∧ t.mem = s1.mem)) ∧
    (s.runs e 2 d → Does (.engCfill e) s data fun t =>
      (n = 0 → EngEnds e St.ok 0 t ∧ Keeps [.engs] s t) ∧
      (n ≠ 0 → near dst (dstHost d) → ∀ s2, engWrite e dst (patternBytes (dsc d 48 8) n) .dataWrite s = (.ok (), s2) →
        EngEnds e St.ok 0 t ∧ t.mem = s2.mem) ∧
      (n ≠ 0 → dstHost d = true → s.engHostOk d = true → EngEnds e St.ok 0 t ∧ t.mem = s.mem)) ∧
    (s.runs e 3 d → Does (.engCompare e h1 h2) s [.ctl, .engs, .ev, .fabQ, .free, .mem, .ms, .mxes, .persist, .slots, .tags]
      fun t => (n = 0 → EngEnds e St.ok 0 t ∧ Keeps [.engs] s t) ∧
      (n ≠ 0 → near src (srcHost d) → near dst (dstHost d) → ∀ a b s1 s2, engRead e src n .dataRead s = (.ok a, s1) →
        engRead e (s1.dDst e d) n .dataRead s1 = (.ok b, s2) → t.mem = s2.mem ∧
        match firstDiff (swapBytes (dSwap d) a) b with
        | some k => EngEnds e St.compareMismatch k t
        | none => EngEnds e St.ok 0 t)) ∧
    (s.runs e 0x31 d → Does (.engLoop e) s [.ctl, .engs] fun t =>
      let a := s.reg (engCur e)
      let left := (mapFind (s.eng e).loops a).getD (n - 1)
      if 0 < left then mapFind (t.eng e).loops a = some (left - 1) ∧ (t.eng e).desc = none ∧
        t.reg (engCur e) = dsc d 8 8 ∧ t.reg soff = (s.reg soff + dsc d 16 8) % 2 ^ 64 ∧
        t.reg doff = (s.reg doff + dsc d 48 8) % 2 ^ 64
      else mapFind (t.eng e).loops a = none ∧ EngEnds e St.ok 0 t ∧
        t.reg soff = sub64 (s.reg soff) (dsc d 16 8 * (n - 1)) ∧ t.reg doff = sub64 (s.reg doff) (dsc d 48 8 * (n - 1))) ∧
    (s.runs e 0x41 d → 320 ≤ e.val → Does (.hstStep e) s [.ctl, .engs] fun t => EngEnds e St.ok 0 t ∧
      let mark := R.HST_STEP_MARK (e.val - 320)
      OnlyRegs [mark] s t ∧ (t.reg mark : Int) = ((s.nclk : Int) + sextNat 32 n).emod (2 ^ 64)) ∧
    (s.runs e 0x30 d → (s.eng e).stage = 0 → Does (.engWait e) s waits fun t =>
      let u := setEngState e 2 (updEng e (fun x => { x with waitAt := some s.nclk }) s)
      ∀ bs s1, spaceOf (dsc d 8 8) ≠ .drift → waitRead e (dsc d 8 8) u = (.ok bs, s1) →
        if waitHolds d (leNat bs) = false then (t.eng e).waitAt = some s.nclk ∧ (t.eng e).acted = false ∧ t.mem = s1.mem
        else dsc d 45 1 = 0 → EngEnds e St.ok 0 t ∧ t.engState e = 1) ∧
    (Does (.waitPoll e) s waits fun t =>
      let w := s.engDesc e
      (s.engActive e 2 = false → t = s) ∧
      (s.engActive e 2 = true → (s.eng e).stage = 0 →
        (s.waitOver e w = true → Halted e St.engWaitTimeout t) ∧
        (s.waitOver e w = false → spaceOf (dsc w 8 8) ≠ .drift → ∀ bs s1, waitRead e (dsc w 8 8) s = (.ok bs, s1) →
          if waitHolds w (leNat bs) = false then t = s1 else dsc w 45 1 = 0 → EngEnds e St.ok 0 t ∧ t.engState e = 1))) ∧
    (Does (.waitTimeout e) s [.ctl, .engs, .ev, .fabQ, .free, .mem, .ms, .mxes, .persist, .slots, .tags] fun t =>
      if s.engActive e 2 = true ∧ s.waitOver e (s.engDesc e) = true ∧
          s.fabBusy (.engine e) (fun _ => true) = false then Halted e St.engWaitTimeout t
      else t = s) ∧
    (s.runs e 0x40 d → 320 ≤ e.val → (s.eng e).stage = 0 →
      Does (.lfill e) s [.ctl, .engs, .ev, .fabQ, .free, .mem, .ms, .mxes, .persist, .refetch, .slots, .tags] fun t =>
        let h := e.val - 320
        let slot := dsc d 44 1 % 16
        ∀ b s1, spaceOf (dsc d 8 8) ≠ .drift → engRead e (dsc d 8 8) 64 .other s = (.ok b, s1) →
          s.slotState h slot = slotEmpty → mapFind s.slots (h * 16 + slot) = none →
          let l := layerSlot b (s1.reg (R.HST_STEP_MARK h))
          if layerReserved b l = true ∨ s1.handleOk l.primary = false ∨ (l.standby ≠ 0 ∧ s1.handleOk l.standby = false) ∨
              s1.layerForeign e l = true ∨ s1.layerFits h slot l = false then Halted e St.badCommand t
          else t.reg (R.HST_LAYER_NEXT h) = (s1.reg (R.HST_LAYER_NEXT h) + 1) % 65536 ∧ (t.eng e).stage = 1 ∧
            t.slotLayer h slot = s1.reg (R.HST_LAYER_NEXT h) % 65536)

/-- R170, R174, R200, R253, R254, R395: the descriptors of codec passes and of objects: one of length 0 is done at
once; a pass reads its source, writes what it makes of it, and then its report; an operation on an object waits while
another has it, of a foreman whose gate is shut is discarded, halts on a handle that names no object or on a lost one,
and is done when its last stage is. Model's choices in it: log 43 (corners of object operations); log 44 (details of
CODEC and PROOF); log 102 (the function of a pass with a host side). -/
def Obligations.CodecAndObjectDescriptors : Prop :=
  ∀ (e : Fin 384) (src : HostRead) (d : List Byte) (s : State),
    let code : List Part := [.ctl, .engs, .ev, .fabQ, .free, .mem, .ms, .mxes, .out, .persist, .slots, .tags]
    let objs : List Part := [.ctl, .engs, .ev, .fabQ, .free, .mem, .ms, .mxes, .persist, .slots, .t3, .tags]
    let h := dsc d 8 8
    let i := oIdx d
    let from_ := s.dSrc e d
    let dst := s.dDst e d
    let near := srcHost d = false ∧ dstHost d = false ∧ spaceOf from_ ≠ .drift ∧ spaceOf dst ≠ .drift
    let indexed (u : State) : State := updEng e (fun x => { x with stage := 1, pos := 0 }) u
    let b := ((s.eng e).block).getD []
    let wide := (passParam b).2.1
    let el := (passParam b).1
    let raw := leAt b 0 4 * rawTileBytes el
    let reports (u t : State) : Prop := u.engWritesOut e = false → (u.eng e).failed = none → ∀ s1,
      engPoke e 32 (dsc d 48 8 + 32) (mapGet (u.eng e).bufs 4 []) u = (.ok (), s1) → EngEnds e St.ok 0 t ∧ t.mem = s1.mem
    let gated := s.engOwnerKind e = 3 ∧ s.leads = false
    let idle (k : Nat) : Prop := s.runs e 0x20 d ∧ dsc d 44 1 = k ∧ s.objBusy e i = false
    let u := touchObj h s
    let steps (cmd : Instr) (k : Nat) (step : List Byte → State → ObjStep) : Prop := Does cmd s objs fun t =>
      (s.runs e 0x20 d → dsc d 44 1 ≠ k ∨ s.objBusy e i = true → t = s) ∧
      (idle k → gated → EngEnds e St.ok 0 t ∧ Keeps [.ctl, .engs] s t) ∧
      (idle k → ¬ gated → (s.eng e).stage = 0 → k ≠ 0 → u.handleOk h = false → Halted e St.badCommand t) ∧
      (idle k → ¬ gated → (s.eng e).stage = 0 → k = 0 → u.createOk h = false → Halted e St.badCommand t) ∧
      (idle k → ¬ gated → (s.eng e).stage = 0 → 0 < k → k < 5 → u.handleOk h = true → (u.obj i).state = objLost →
        Halted e St.objectLost t) ∧
      (idle k → ¬ gated → (s.eng e).stage ≠ 0 →
        (∀ s1, step d s = .done s1 → EngEnds e St.ok 0 t ∧ t.mem = s1.mem) ∧ (∀ s1, step d s = .wait s1 → t = s1) ∧
        (∀ st a w s1, step d s = .fail st a w s1 → if s.writesOut e = true then t = s else Halted e st t))
    (s.runs e 0x10 d → Does (.engCodec e src) s code fun t =>
      (dLen d = 0 → EngEnds e St.ok 0 t) ∧
      (dLen d ≠ 0 → dsc d 44 1 = 0 → near → (s.eng e).stage = 0 →
        ∀ bs s1 s2 s3, engRead e from_ (dLen d) .dataRead s = (.ok bs, s1) →
          let frames := encodePages (chunksOf 4096 bs)
          let idx := frames.1.flatMap (leBytes 8)
          engWrite e dst idx .dataWrite s1 = (.ok (), s2) → spaceOf (dst + areaOffset frames.1.length) ≠ .drift →
          engWrite e (dst + areaOffset frames.1.length) frames.2 .dataWrite (indexed (countBytes e idx.length s2)) =
            (.ok (), s3) → EngEnds e St.ok ((frames.2.length + 31) / 32) t ∧ t.mem = s3.mem) ∧
      (dLen d ≠ 0 → dsc d 44 1 ≠ 0 → near → ∀ idx s1 out s2 s3,
        engRead e from_ (8 * (dLen d / 4096)) .dataRead s = (.ok idx, s1) →
        decodePages e .part from_ (dLen d / 4096) idx (dLen d / 4096) 0 [] s1 = (out, none, s2) →
        engWrite e dst out .dataWrite s2 = (.ok (), s3) → EngEnds e St.ok 0 t ∧ t.mem = s3.mem)) ∧
    (s.runs e 0x11 d → Does (.engProof e src) s code fun t =>
      ((s.eng e).stage = 2 → reports s t) ∧
      ((s.eng e).stage ≠ 2 → near → ∀ bs s1 s2, engRead e from_ raw .dataRead s = (.ok bs, s1) →
        let vs := tensorVectors (tilesOf el bs)
        let sample := everyNth (2 ^ (passParam b).2.2) vs
        let out := (proofPass el vs (starterEntries wide) (leAt b 5 1 % 16 + 1) (passParam b).2.2).flatMap (packElems el)
        s1.dDst e d = dst → engWrite e dst out .dataWrite s1 = (.ok (), s2) →
        reports (keepReport e (leBytes 4 sample.length ++ leBytes 4 (min sample.eraseDups.length (starterEntries wide - 1)))
          (countBytes e out.length s2)) t)) ∧
    (s.runs e 0x12 d → Does (.engEncode e src) s code fun t =>
      ((s.eng e).stage = 2 → reports s t) ∧
      ((s.eng e).stage = 0 → near → ∀ sb bs s1 s2 s3 s4,
        engGather e 3 (leAt b 16 8) (starterEntries wide * vecBytes el) .other s = (.ok sb, s1) → s1.dSrc e d = from_ →
        engRead e from_ raw .dataRead s1 = (.ok bs, s2) →
        let (area, idx, r) := encodeTensor wide el (starterOf el sb) (leAt b 6 2) (leAt b 8 4) (tilesOf el bs)
        let words := idx.flatMap (leBytes 8)
        engWrite e dst words .dataWrite s2 = (.ok (), s3) → spaceOf (dst + areaOffset idx.length) ≠ .drift →
        engWrite e (dst + areaOffset idx.length) area .dataWrite (indexed (countBytes e words.length s3)) = (.ok (), s4) →
        reports (keepReport e (leBytes 4 r.zero ++ leBytes 4 r.raw ++ leBytes 4 r.vq ++ leBytes 4 r.escapes ++
          leBytes 8 r.framed) (countBytes e area.length s4)) t)) ∧
    steps (.objCreate e) 0 (createStep e) ∧ steps (.objCopy e) 1 (copyStep e) ∧ steps (.objDrop e) 2 (dropStep e) ∧
    steps (.objFlush e) 3 (flushStep e) ∧ steps (.objRehome e) 4 (rehomeStep e) ∧
    steps (.objRefill e) 6 (refillStep e) ∧
    (Does (.objFree e) s objs fun t =>
      (idle 5 → ¬ gated → (s.eng e).stage = 0 → u.handleOk h = false → Halted e St.badCommand t) ∧
      (idle 5 → ¬ gated → (s.eng e).stage = 0 → u.handleOk h = true →
        let v := toStage e 1 u
        v.engState e = 1 → if v.objWrites (v.obj i) = true then t = v else
          EngEnds e St.ok 0 t ∧ mapFind t.ms.stored i = none))

/-- R266, R267, R270, R275: the queue pairs of HP0: doorbells that are taken, stale or dropped; routes; a pair
enabled, held until it is quiet, or disabled. Model's choices in it: log 106 (the PCI Express configuration space);
log 107 (order of posted writes, reads and doorbells). -/
def Obligations.QueuePairs : Prop :=
  ∀ (who : Who) (f : Fin 257) (q : Fin 1024) (qn width : Nat) (skew : Fin 8) (ix : Fin 262144) (val : BitVec 64) (s : State),
    let stat := R.HP0_QP_STAT f q
    let cfg := R.HP0_QP_CFG f q
    let idx := val.toNat % 2 ^ 16
    let stale (n : Nat) : Prop := bitsOf val.toNat 23 16 ≠ s.qpStat f n F.HP0_QP_STAT_EPOCH
    let counts (c : Reg) (t : State) : Prop := OnlyRegs [c] s t ∧ t.reg c = min counterMax (s.reg c + 1)
    let badBell := width ≠ 8 ∨ skew.val ≠ 0 ∨ qpCount f ≤ qn ∨ s.qpOn f qn = false
    let started (v : Nat) (t : State) : Prop := t.qpOn f q = true ∧
      t.reg stat = (s.qpStat f q F.HP0_QP_STAT_EPOCH + 1) % 256 * 256 + 128 ∧ bitsOf (t.reg cfg) 63 4 = bitsOf v 63 4
    let writes := s.fnWriter f who = true ∧ q < qpCount f
    (Does (.sqDoorbell f qn skew width val) s [.ctl, .hp0] fun t =>
      if s.barOpen f = false then t = s
      else if badBell ∨ s.sqSize f qn ≤ idx then counts R.HP0_CNT_DB_DROP t
      else if stale qn then counts R.HP0_CNT_STALE t
      else t.qpStat f qn F.HP0_QP_STAT_SQ_TAIL = idx ∧ OnlyRegs [R.HP0_QP_STAT f qn] s t) ∧
    (Does (.cqDoorbell f qn skew width val) s [.ctl, .hp0] fun t =>
      let n := s.cqSize f qn
      let h := s.cqHead f qn
      if s.barOpen f = false then t = s
      else if badBell ∨ n ≤ idx ∨ (s.qpStat f qn F.HP0_QP_STAT_CQ_TAIL + n - h) % n < (idx + n - h) % n then
        counts R.HP0_CNT_DB_DROP t
      else if stale qn then counts R.HP0_CNT_STALE t
      else t.cqHead f qn = idx ∧ OnlyRegs [] s t) ∧
    (if s.privWriter who = true then
      Does (.qrouteWrite who ix val) s [.ctl] fun t =>
        let g := 1 + ix.val / 1024
        let n := ix.val % 1024
        t.reg (R.HP0_QROUTE ix) = val.toNat % 2 ^ 11 ∧ OnlyRegs [R.HP0_QROUTE ix, R.HP0_QP_STAT g n] s t ∧
        (t.routeOk g n = true → s.hp0.heldErr.contains (qpKey g n) = false → t.qpStat g n F.HP0_QP_STAT_HELD = 0)
     else Ignores who (.qrouteWrite who ix val) s) ∧
    (if writes ∧ (s.qpOn f q = true ∨ (bitsOf val.toNat 63 48 ≠ 0 ∧ bitsOf val.toNat 47 32 ≠ 0)) then
      Does (.queueEnable who f q val) s [.ctl, .ev, .hp0] fun t =>
        if s.qpOn f q = true then t.qpOn f q = true ∧ t.fld cfg F.HP0_QP_CFG_IEN = bitsOf val.toNat 4 4
        else if s.qpBusy f q = true then t.qpStat f q F.HP0_QP_STAT_PENDING = 1 ∧ t.qpOn f q = false ∧ OnlyRegs [cfg, stat] s t
        else started val.toNat t ∧ OnlyRegs [cfg, stat] s t
     else Ignores who (.queueEnable who f q val) s) ∧
    (if writes then
      Does (.queueDisable who f q val) s [.ctl, .ev, .hp0, .knc] fun t => t.qpOn f q = false ∧
        (s.qpOn f q = true → ∀ x ∈ t.hp0.tokens, ¬ (x.fn = f.val ∧ x.q = q.val)) ∧
        (s.qpOn f q = false → t.qpStat f q F.HP0_QP_STAT_PENDING = 0)
     else Ignores who (.queueDisable who f q val) s) ∧
    (Does (.queueEnableRelease f q) s [.ctl, .hp0] fun t =>
      if s.flag stat F.HP0_QP_STAT_PENDING = true ∧ s.qpBusy f q = false then started (s.reg cfg) t else t = s)

/-- R268 to R276, R364, R395: the way of a command: it is fetched from its queue and delivered, held or answered as
bad; a completion is written at CQ_TAIL; interrupts are coalesced and delayed; a command is aborted by its token; the
leading foreman serves the admin queues. Model's choices in it: log 46 (host memory is outside: reads come with
commands, writes leave in `out`); log 50 (interrupt coalescing and delay); log 106 (the PCI Express configuration
space); log 107 (order of posted writes, reads and doorbells); log 116 (the interrupt bucket of a function). -/
def Obligations.HostCommands : Prop :=
  ∀ (who : Who) (f : Fin 257) (q : Fin 1024) (v : Fin 256) (entry : Option (List Byte)) (token : BitVec 42)
    (status : BitVec 8) (result : BitVec 64) (s : State),
    let st := R.HP0_QP_STAT f q
    let c := s.fld (R.HP0_QROUTE (queueIndex f q)) F.HP0_QROUTE_CTX
    let head := s.fld st F.HP0_QP_STAT_SQ_HEAD
    let k := qpKey f q
    (Does (.submissionFetch f q entry) s [.ctl, .ev, .free, .hp0, .knc] fun t =>
      if s.canFetch f q = false then t = s
      else if f.val ≠ 0 ∧ s.routeOk f q = false then t.qpStat f q F.HP0_QP_STAT_HELD = 1 ∧ t.hp0 = s.hp0
      else if f.val ≠ 0 ∧ 32 ≤ (s.kc c).intake.length then t = s
      else match entry with
        | none => t.qpStat f q F.HP0_QP_STAT_HELD = 1 ∧ k ∈ t.hp0.heldErr ∧
            t.reg R.HP0_CNT_CPL_ERR = min counterMax (s.reg R.HP0_CNT_CPL_ERR + 1)
        | some e => t.qpStat f q F.HP0_QP_STAT_SQ_HEAD = (head + 1) % s.sqSize f q ∧
            if s.sqeOk e = true then t.hp0.tokens.length = s.hp0.tokens.length + 1 ∧
              if f.val = 0 then ∃ x, t.hp0.admin = s.hp0.admin ++ [x] ∧ x.drop 14 = sliceBytes e 14 50
              else ∃ x, (t.kc c).intake = (s.kc c).intake ++ [x] ∧ x.drop 14 = sliceBytes e 14 50
            else ∃ x, t.hp0.own = s.hp0.own ++ [x] ∧ x.tok.fn = f.val ∧ x.tok.q = q.val ∧ x.tok.slot = head) ∧
    (∀ src : Option (Fin 1024), Does (.completionWrite src) s [.ctl, .ev, .hp0, .knc, .out] fun t =>
      let path (u : State) := match src with | some x => (u.kc x).unsent | none => u.hp0.own
      (path s = [] → t = s) ∧ ∀ x rest, path s = x :: rest →
        if s.hostOk x.tok.fn = false ∨ s.cqRoom x.tok.fn x.tok.q = false then t = s
        else path t = rest ∧ ∃ bs more, bs.take 10 = sliceBytes x.entry 0 10 ∧
          t.out = s.out ++ .hostWrite x.tok.fn (s.reg (R.HP0_QP_CQ_BASE x.tok.fn x.tok.q) +
            16 * s.qpStat x.tok.fn x.tok.q F.HP0_QP_STAT_CQ_TAIL) bs .none :: more) ∧
    (Does (.msixCoalesceTimer f q) s [.ctl, .hp0, .out] fun t =>
      let wait := s.fld (R.HP0_QP_CFG f q) F.HP0_QP_CFG_COAL_T
      (mapFind s.hp0.coal k = none → t = s) ∧ ∀ n first, mapFind s.hp0.coal k = some (n, first) →
        if s.flag (R.HP0_QP_CFG f q) F.HP0_QP_CFG_IEN = true ∧ wait ≠ 0 ∧ first + usCycles wait ≤ s.nclk then
          mapFind t.hp0.coal k = none
        else t = s) ∧
    (Does (.irqDelayedSend v) s [.ctl, .hp0, .out] fun t =>
      let g := v.val + 1
      (mapGet s.hp0.irqWait v [] = [] ∨ s.irqToken g = false → t = s) ∧
      ∀ x rest, mapGet s.hp0.irqWait v [] = x :: rest → s.irqToken g = true →
        (mapGet t.hp0.irqWait v [] = rest ∨ mapGet t.hp0.irqWait v [] = rest.filter (· != x)) ∧
        ((s.fnCfg g).msixEn = true → s.hostOk g = false → bitAt (t.reg (msixPba g (x / 64))) (x % 64) = true ∧ t.out = s.out) ∧
        ((s.fnCfg g).msixEn = true → s.hostOk g = true → s.msixMasked g x = false →
          t.out = s.out ++ [.msix g x (s.reg (msixAddr g x)) (s.reg (msixData g x) % 2 ^ 32) .none])) ∧
    (if s.fnWriter f who = true then
      Does (.hostAbort who f token) s [.ctl, .ev, .free, .hp0, .knc] fun t =>
        let ix := bitsOf token.toNat 41 24
        let n := if f.val = 0 then ix else ix % 1024
        let ans (res : Nat) : Prop := t.reg (R.HP0_FN_ABORT_STAT f) = res * 2 ^ 56 + 2 ^ 55 + token.toNat
        if (if f.val = 0 then ix < 64 else ix / 1024 = f.val - 1) ∧
            bitsOf token.toNat 23 16 = s.qpStat f n F.HP0_QP_STAT_EPOCH then
          match s.hp0.tokens.find? fun x => x.fn == f.val && x.value == token.toNat with
          | none => ans St.tooLate ∧ t.hp0 = s.hp0
          | some x => ans St.aborted ∧ x ∉ t.hp0.tokens ∧ ∃ y, t.hp0.own = s.hp0.own ++ [y] ∧ y.tok = x
        else ans St.badCommand ∧ t.hp0 = s.hp0
     else Ignores who (.hostAbort who f token) s) ∧
    (Does (.adminCommand status result) s [.ctl, .hp0] fun t =>
      (s.flag R.FMN_LEAD_STAT F.FMN_LEAD_STAT_NONE = true ∨ s.flag R.FMN_LEAD_STAT F.FMN_LEAD_STAT_FROZEN = true ∨
        s.hp0.admin = [] → t = s) ∧
      ∀ e rest, s.flag R.FMN_LEAD_STAT F.FMN_LEAD_STAT_NONE = false →
        s.flag R.FMN_LEAD_STAT F.FMN_LEAD_STAT_FROZEN = false → s.hp0.admin = e :: rest → t.hp0.admin = rest ∧
        match s.hp0.tokens.find? fun x => x.fn == 0 && x.value == entryToken e with
        | none => t.hp0.own = s.hp0.own
        | some x => x ∉ t.hp0.tokens ∧ ∃ y, t.hp0.own = s.hp0.own ++ [y] ∧ y.tok = x ∧
            y.entry.take 8 = leBytes 8 result.toNat)

/-- R260, R264, R282 to R285, R353, R368: resets of a function, of PF0 and of the link; configuration writes; and the
state of a link. Model's choices in it: log 47 (MSI-X entries are masked at reset); log 48 (a function-level reset is
one command and its end another); log 106 (the PCI Express configuration space); log 121 (reports of unlisted
resources, and configuration requests that nothing answers). -/
def Obligations.HostResets : Prop :=
  ∀ (v : Fin 256) (f : Fin 257) (w : CfgWrite) (on mode : Bool) (st : Fin 16) (speed : Fin 7) (width : Fin 17)
    (port : Fin 4) (s : State),
    let all : List Part := [.ctl, .engs, .ev, .free, .hp0, .knc, .mem, .mgmt, .ms, .mxes, .out, .persist, .refetch, .slots,
      .tags]
    let again (t : State) : Prop := OnlyRegs [R.HP0_CNT_FLR] s t ∧
      t.reg R.HP0_CNT_FLR = min counterMax (s.reg R.HP0_CNT_FLR + 1) ∧ t.hp0 = s.hp0
    let word := speed.val * 2 ^ 20 + width.val * 2 ^ 14 + mode.toNat * 256 + st.val
    (Does (.functionLevelReset v) s [.ctl, .engs, .ev, .free, .hp0, .knc, .mem, .ms, .mxes, .persist, .refetch, .slots,
        .tags] fun t =>
      let g := v.val + 1
      if s.cfgReaches g = false then t = s
      else if g ∈ s.hp0.resetting then again t
      else g ∈ t.hp0.resetting ∧ g ∈ t.hp0.refused ∧ (∀ x ∈ t.hp0.tokens, x.fn ≠ g) ∧
        ∀ q < 1024, t.reg (R.HP0_QP_CFG g q) = 0 ∧ t.reg (R.HP0_QP_SQ_BASE g q) = 0 ∧ t.reg (R.HP0_QP_CQ_BASE g q) = 0) ∧
    (Does .pf0FunctionReset s all fun t =>
      if s.cfgReaches 0 = false then t = s
      else if 0 ∈ s.hp0.resetting then again t
      else 0 ∈ t.hp0.resetting ∧ (t.fnCfg 0).vfEn = false ∧ (∀ r ∈ t.hp0.winWait, r.held = false) ∧
        ∀ r : Reg, isWindowReg r.off = true → t.reg r = r.rst) ∧
    (Does .hotReset s all fun t =>
      if s.mgmt.released = true then t.fld R.HP0_LINK_STAT F.HP0_LINK_STAT_STATE = 1 ∧ t.hp0.cfg = [] else t = s) ∧
    (Does (.flrChargeRelease f) s [.ctl, .ev, .hp0] fun t =>
      if f.val ∈ s.hp0.resetting ∧ s.flrQuiet f = true then
        t.hp0 = { s.hp0 with resetting := s.hp0.resetting.filter (· != f.val) } ∧
        (f.val ≠ 0 → t.fld (R.QOS_TEN_STAT (f.val - 1)) F.QOS_TEN_STAT_CHARGE = 0) ∧
        t.reg (R.EVR_CODE_CNT 0x804) = min counterMax (s.reg (R.EVR_CODE_CNT 0x804) + 1)
      else t = s) ∧
    (Does (.busMasterEnable f w) s all fun t =>
      let u := updCfg f (cfgWrite f w) s
      if s.cfgReaches f = false then t = s
      else match w with
        | .command bme mse => t.fnCfg f = { s.fnCfg f with bme, mse := mse && f.val == 0 } ∧
            t.hp0.refused = if bme then s.hp0.refused.filter (· != f.val) else s.hp0.refused
        | .deviceControl val =>
          if val.getLsbD 15 = true then t = if f.val = 0 then flrPf0 u else flrVf u (f.val - 1)
          else t = u ∧ (t.fnCfg f).devCtl = val.toNat
        | w => t.fnCfg f = cfgWrite f w (s.fnCfg f) ∧ t.hp0.refused = s.hp0.refused) ∧
    (Does (.d3hot f on) s [.hp0] fun t =>
      if s.cfgReaches f = true then t.fnCfg f = { s.fnCfg f with d3 := on } ∧ ∀ g, g ≠ f.val → t.fnCfg g = s.fnCfg g
      else t = s) ∧
    (Does (.pcieLinkStateChange .hp0 st speed width mode) s (.t3 :: all) fun t =>
      if s.mgmt.released = true then t.reg R.HP0_LINK_STAT = word else t = s) ∧
    (Does (.pcieLinkStateChange .hp1 st speed width mode) s (.t3 :: all) fun t =>
      if s.mgmt.released = true then t.reg R.HP1_LINK_STAT = word ∧ t.hp0 = s.hp0 else t = s) ∧
    (Does (.pcieLinkStateChange (.nvme port) st speed width mode) s (.t3 :: all) fun t =>
      if s.mgmt.released = true then t.t3.cmds = s.t3.cmds ∧ t.t3.cells = s.t3.cells ∧
        (st.val = 2 → (t.ssd port).present = true ∧ (t.ssd port).width = width.val) ∧
        (st.val = 3 → t.ssd port = s.ssd port) ∧
        (st.val ≠ 2 → st.val ≠ 3 → (t.ssd port).width = 0 ∧ (t.ssd port).present = (s.ssd port).present)
      else t = s)

/-- R277, R286 to R288: the peer windows: a request waits for a commit or for posted writes before it, is unmatched,
or is performed; a shadow is committed, and becomes active. Model's choices in it: log 46 (host memory is outside:
reads come with commands, writes leave in `out`); log 49 (a failing window COMMIT is an ignored write); log 106 (the
PCI Express configuration space); log 107 (order of posted writes, reads and doorbells). -/
def Obligations.PeerWindows : Prop :=
  ∀ (who : Who) (f : Fin 257) (w : Fin 64) (off : BitVec 36) (rid : BitVec 16) (tag : BitVec 14) (ro ido : Bool) (op : WinOp)
    (val : BitVec 64) (s : State),
    let size := winSize f
    let o := off.toNat % (64 * size)
    let act := R.HP0_WIN_ACT_CTL f w
    let shd := R.HP0_WIN_SHD_CTL f w
    let len := match op with | .read n => n | .write bs => bs.length
    let data := match op with | .read _ => none | .write bs => some bs
    let r : WinReq := { id := s.hp0.nextWin, ro, ido, held := s.flag (R.HP0_WIN_ACT_CTL f (o / size)) F.HP0_WIN_ACT_CTL_PENDING,
                        parked := false, fn := f, off := o, rid := rid.toNat, tag := tag.toNat, len, data }
    let u := updHp0 (fun h => { h with nextWin := h.nextWin + 1, winWait := h.winWait ++ [r] }) s
    let mine (r : WinReq) : Bool := r.fn == f.val && r.off / size == w.val
    let parts : List Part := [.ctl, .ev, .hp0, .mem, .ms, .mxes, .out, .persist]
    (Does (.peerWindowRequest f off rid tag ro ido op) s parts fun t => t = winRun u ∧
      (s.hp0.winWait = [] → r.held = true ∨ u.winMayGo r = false → t = u) ∧
      (s.hp0.winWait = [] → r.held = false → u.winMayGo r = true → match u.winTarget r with
        | none => t.reg R.HP0_CNT_UR = min counterMax (s.reg R.HP0_CNT_UR + 1) ∧ t.mem = s.mem ∧ t.hp0.winWait = [] ∧
            bitAt (t.fnCfg f).aer.status 20 = true ∧
            t.out = s.out ++ if data = none then [.hostReply r.rid r.tag none false] else []
        | some a => match data with
          | none => t.mem = (readRange (.host r.id) a len u).2.mem ∧ match (readRange (.host r.id) a len u).1 with
            | .ok bs => t.out = s.out ++ [.hostReply r.rid r.tag (some bs) false] ∧ t.hp0.winWait = []
            | .held => t.out = s.out ∧ t.hp0.winWait = [{ r with parked := true }]
            | .err _ => t.out = s.out ++ [.hostReply r.rid r.tag (some []) true] ∧ t.hp0.winWait = []
          | some bs => t.out = s.out ∧ t.mem = (writeRange (.host r.id) true a bs u).2.mem ∧
              if (writeRange (.host r.id) true a bs u).1 = .stall then t.hp0.winWait = [{ r with parked := true }]
              else t.hp0.winWait = [])) ∧
    (if s.privWriter who = true ∧ s.flag act F.HP0_WIN_ACT_CTL_PENDING = false ∧
        bitsOf val.toNat 31 17 * 65536 ≤ size then
      Does (.windowCommit who f w val) s [.ctl, .ev] fun t =>
        t.reg shd = s.fld shd F.HP0_WIN_SHD_CTL_EPOCH * 2 ^ 40 + bitsOf val.toNat 31 17 * 2 ^ 17 + bitsOf val.toNat 2 0 ∧
        t.flag act F.HP0_WIN_ACT_CTL_PENDING = t.shadowOk f w ∧
        (t.shadowOk f w = true → OnlyRegs [act, shd] s t)
     else Ignores who (.windowCommit who f w val) s) ∧
    (Does (.windowCommitDone f w) s parts fun t =>
      if s.flag act F.HP0_WIN_ACT_CTL_PENDING = true ∧
          ((s.hp0.winWait ++ s.hostPosted).any fun r => mine r && !r.held) = false then
        (∀ x ∈ t.hp0.winWait, mine x = true → x.held = false) ∧
        (s.hp0.winWait = [] →
          t.reg (R.HP0_WIN_ACT_BASE f w) = s.reg (R.HP0_WIN_SHD_BASE f w) ∧
          t.reg act = setBits (s.reg shd) 47 40 ((s.fld act F.HP0_WIN_ACT_CTL_EPOCH + 1) % 256) ∧
          OnlyRegs [R.HP0_WIN_ACT_BASE f w, act, shd] s t ∧ t.mem = s.mem)
      else t = s)

/-- R290, R291, R295, R298 to R303, R306 to R308, R312, R314, R415: requests of hosts to the pool: one that no entry
lets in is refused and counted, one of a host past its bucket waits, and an accepted one is served; a host's commands
on a SNAPSHOT region act at once and leave their result; snoops end; buckets fill; a frame leaves the cache. Model's
choices in it: log 31 (damage in the pool's structures is free; snapshot commands act at once and are BUSY for a free
time); log 32 (DevLoad codes); log 51 (order of requests and snoops on a line and a page); log 109 (damaged pool
frames and their counters); log 111 (what MemInv does); log 112 (requests that wait at the link). -/
def Obligations.PoolRequests : Prop :=
  ∀ (req : PoolReq) (spid : BitVec 12) (hpa : BitVec 52) (tag : BitVec 16) (seq : BitVec 8) (line page bytes : Nat)
    (data : Option (List Byte)) (hn : Fin 4096) (s : State),
    let parts : List Part := [.ctl, .ev, .free, .mem, .ms, .mxes, .out, .persist, .pool, .qos, .t3]
    let counts (c : Reg) (t : State) : Prop := t.reg c = min counterMax (s.reg c + 1)
    let mute (q : PoolReq) : Bool := q.data.isSome || q.inv
    let refused (q : PoolReq) (t : State) : Prop := t.mem = s.mem ∧ ∃ load, t.out = s.out ++
      [.pool q.tag.toNat (if mute q then none else some (List.replicate 64 0)) (!mute q) load]
    let may (q : PoolReq) (e : Nat) : Prop := s.rangeExtsOk e = true ∧
      s.flag (R.HP1_RANGE_B e) (if q.data.isSome then F.HP1_RANGE_B_WR else F.HP1_RANGE_B_RD) = true
    let arrives (q : PoolReq) (t : State) : Prop :=
      if s.poolOpen = false then t = s
      else if s.linkFull = true ∨ s.pool.linkQ ≠ [] then t.pool.linkQ = s.pool.linkQ ++ [q] ∧ Keeps [.pool] s t
      else if s.mgmt.tripped = true then refused q t
      else match s.rangeMatch q.spid.toNat q.hpa.toNat with
        | none => refused q t ∧ counts R.HP1_CNT_NOMATCH t
        | some e =>
          if ¬ may q e then refused q t ∧ counts R.HP1_CNT_NOMATCH t
          else if s.rangeState e = 3 then refused q t ∧ counts R.HP1_CNT_REVOKE_DROP t
          else
            let p : PoolPend := { req := q, entry := e, epoch := s.rangeEpoch e, counted := false, back := false }
            let held := mapGet s.pool.hostQ q.spid.toNat []
            if s.bucketHolds q.spid.toNat = true then t.out = s.out ∧ counts R.HP1_CNT_HOLD t ∧
              if held.length < 256 then mapGet t.pool.hostQ q.spid.toNat [] = held ++ [p]
              else t.pool.sharedQ = s.pool.sharedQ ++ [p]
            else t = poolServe p s
    let snaps (cmd : Instr) (op : Nat) (ends : Snap → SnapHost → SnapHost → Prop) : Prop :=
      let q := snapWriteReq op spid hpa tag seq
      Does cmd s parts fun t => arrives q t ∧
        ∀ e, s.poolOpen = true → s.linkFull = false → s.pool.linkQ = [] → s.mgmt.tripped = false → s.rangeMatch spid.toNat hpa.toNat = some e → may q e →
          s.rangeState e ≠ 3 → s.bucketHolds spid.toNat = false →
          let pg := s.pageAt e hpa.toNat
          let r := s.extRegion (extOf pg)
          s.regionMode r = 1 → pg = s.fld (R.HP1_REGION_CFG r) F.HP1_REGION_CFG_FIRST_EXT * 65536 →
          hpa.toNat % 4096 / 64 = 0 →
          let h' := (t.snap r).host spid.toNat
          ((s.snap r).host spid.toNat).busy ≤ s.nclk → h'.seq = seq.toNat ∧ ends (s.snap r) ((s.snap r).host spid.toNat) h'
    Does (.poolRead req) s parts (arrives { req with data := none }) ∧
    Does (.poolWrite req) s parts (arrives { req with inv := false, data := some (sliceBytes (req.data.getD []) 0 64) }) ∧
    (snaps (.snapOpen spid hpa tag seq) 1 fun n h h' =>
      if h.clean = true then h'.result = St.ok ∧ h'.base = some n.latest else h'.result = St.badCommand ∧ h'.base = h.base) ∧
    (snaps (.snapPublish spid hpa tag seq) 2 fun n h h' =>
      match h.base with
      | none => h'.result = St.badCommand
      | some b =>
        if h.full = true then h'.result = St.quota
        else if h.clean = true then h'.result = St.ok ∧ h'.base = some b
        else if b ≠ n.latest then h'.result = St.publishConflict ∧ h'.draft = h.draft
        else if n.tooMany spid.toNat = true then h'.result = St.quota ∧ h'.draft = h.draft
        else h'.result = St.ok ∧ h'.base = some ((n.latest + 1) % 2 ^ 32) ∧ h'.draft = []) ∧
    (snaps (.snapDiscard spid hpa tag seq) 3 fun _ h h' => h'.result = St.ok ∧ h'.draft = [] ∧ h'.base = h.base) ∧
    (snaps (.snapClose spid hpa tag seq) 4 fun _ _ h' => h'.result = St.ok ∧ h'.draft = [] ∧ h'.base = none) ∧
    (Does (.biResponse spid line data) s parts fun t =>
      (s.poolOpen = false → t = s) ∧
      (s.poolOpen = true → (s.pool.snoops.any fun n => n.spid == spid.toNat && n.line == line) = false →
        if data.isSome then counts R.HP1_CNT_STALE t ∧ OnlyRegs [R.HP1_CNT_STALE] s t else t = s) ∧
      (s.poolOpen = true → (s.pool.snoops.any fun n => n.spid == spid.toNat && n.line == line) = true →
        s.pool.biWait = [] → (∀ n ∈ t.pool.snoops, ¬ (n.spid = spid.toNat ∧ n.line = line)) ∧
          spid.toNat ∉ t.holding line)) ∧
    (Does (.biTimeout spid line) s parts fun t =>
      ((s.pool.snoops.find? fun n => n.spid == spid.toNat && n.line == line) = none → t = s) ∧
      ∀ n, (s.pool.snoops.find? fun n => n.spid == spid.toNat && n.line == line) = some n →
        (s.nclk < n.time + usCycles 1000 → t = s) ∧
        (n.time + usCycles 1000 ≤ s.nclk → s.pool.biWait = [] → (∀ e ∈ s.ranges, s.rangeSpid e ≠ spid.toNat) →
          counts R.HP1_CNT_BI_TIMEOUT t ∧ ∀ m ∈ t.pool.snoops, ¬ (m.spid = spid.toNat ∧ m.line = line))) ∧
    (Does (.hp1HostBucketRefill hn bytes) s parts fun t =>
      mapGet s.pool.hostQ hn.val [] = [] → s.pool.linkQ = [] → Keeps [.pool] s t ∧
        mapGet t.pool.spent hn.val 0 = mapGet s.pool.spent hn.val 0 - bytes) ∧
    (Does (.frameCacheEvict page) s [.ctl, .ev, .mem, .ms, .mxes, .persist, .pool, .qos, .t3] fun t =>
      match s.frameIn page with
      | none => t = s
      | some c =>
        if c.dirty = false then t = uncache page s
        else if s.homeIsT2 page = true then match writeHome page c.frame s with
          | some u => t = uncache page u
          | none => t = s
        else if (s.t3.cmds.any fun x => x.owner == pageOwner page && x.write) = true then t = s
        else if s.ssdUp (chunkPort (s.homeT3 page).1) = false then t.frameIn page = none
        else ∃ x, t.t3.cmds = s.t3.cmds ++ [x] ∧ x.owner = pageOwner page ∧ x.write = true ∧
          x.chunk = (s.homeT3 page).1 ∧ x.off = (s.homeT3 page).2 ∧ x.data = homeBlock c.frame)

/-- R294, R296 to R298: the extents and the entries of the pool: an extent is assigned and cleared; an entry is
offered, answered, withdrawn, cut off and closed. Model's choices in it: log 15 (timers with a recorded start are
enforced, the others are trusted); log 31 (damage in the pool's structures is free; snapshot commands act at once and
are BUSY for a free time). -/
def Obligations.PoolCapacity : Prop :=
  ∀ (who : Who) (x e : Fin 65536) (val : BitVec 32) (yes : Bool) (s : State),
    let ext := R.HP1_EXT x
    let b := R.HP1_RANGE_B e
    let st := s.rangeState e
    let drawn (cause : Nat) (t : State) : Prop := t.rangeState e = 3 ∧
      mapFind t.pool.drawn e = some { t0 := s.nclk, byHost := cause == 2, cause, cut := false }
    (if s.privWriter who = true ∧ s.extBad x val.toNat = false then
      Does (.extentAssign who x val) s [.ctl, .pool] fun t =>
        t.reg ext = (val.getLsbD 16).toNat * 2 ^ 16 + bitsOf val.toNat 15 8 * 2 ^ 8 + s.extHome x * 16 + 2 ∧
        ∀ page, page / 65536 = x.val → t.dirEnt page = none ∧ t.frameIn page = none
     else Ignores who (.extentAssign who x val) s) ∧
    (Does (.extentClearDone x) s [.ctl] fun t =>
      if s.fld ext F.HP1_EXT_STATE = 2 then OnlyRegs [ext] s t ∧
        t.fld ext F.HP1_EXT_STATE = if s.flag ext F.HP1_EXT_VALID then 1 else 0
      else t = s) ∧
    (if s.privWriter who = true ∧ st = 0 ∧ s.rangeClash e = false ∧ s.rangeExtsOk e = true then
      Does (.rangeOffer who e) s [.ctl, .out] fun t => t.rangeState e = 1 ∧ OnlyRegs [b] s t ∧
        t.out = s.out ++ [.capacity (s.rangeSpid e) e 0]
     else Ignores who (.rangeOffer who e) s) ∧
    (Does (.dcAddResponse e yes) s [.ctl] fun t =>
      if st = 1 then t.rangeState e = (if yes then 2 else 0) ∧ OnlyRegs [b] s t else t = s) ∧
    (if s.privWriter who = true then
      Does (.rangeWithdraw who e) s [.ctl, .out, .pool] fun t =>
        (st = 1 → t.rangeState e = 0 ∧ OnlyRegs [b] s t) ∧ (st = 2 → drawn 0 t) ∧ (st ≠ 1 → st ≠ 2 → t = s)
     else Ignores who (.rangeWithdraw who e) s) ∧
    (Does (.dcRelease e yes) s [.ctl, .out, .pool] fun t =>
      (st = 1 → if yes then t = s else t.rangeState e = 0 ∧ OnlyRegs [b] s t) ∧
      (st = 2 → drawn (if yes then 2 else 1) t) ∧ (st ≠ 1 → st ≠ 2 → t = s)) ∧
    (Does (.withdrawCutoff e) s [.ctl, .ev, .free, .mem, .ms, .mxes, .out, .persist, .pool, .qos, .t3] fun t =>
      (mapFind s.pool.drawn e = none → t = s) ∧ ∀ d, mapFind s.pool.drawn e = some d →
        (d.cut = true ∨ s.nclk < d.t0 + usCycles 64 → t = s) ∧
        (d.cut = false → d.t0 + usCycles 64 ≤ s.nclk → s.pool.biWait = [] → s.pool.linkQ = [] →
          mapFind t.pool.drawn e = some { d with cut := true } ∧ (∀ p ∈ t.pool.parked, p.entry ≠ e.val) ∧
          ∀ p ∈ t.pool.sharedQ, p.entry ≠ e.val)) ∧
    (Does (.withdrawClose e) s [.ctl, .ev, .out, .pool] fun t =>
      (mapFind s.pool.drawn e = none → t = s) ∧ ∀ d, mapFind s.pool.drawn e = some d →
        if d.cut = false then t = s
        else t.rangeState e = 0 ∧ mapFind t.pool.drawn e = none ∧
          t.out = s.out ++ [.capacity (s.rangeSpid e) e (if d.byHost then 1 else 2)] ∧
          t.reg (R.EVR_CODE_CNT 0x902) = min counterMax (s.reg (R.EVR_CODE_CNT 0x902) + 1))

/-- R319 to R321, R327, R328, R349: bring-up of a fabric port, each step only in its turn: light of at least four
wavelengths, lock, the partner's light, FEC lock, and the exchange of two like records, which ends with the port up at
a width, or miswired, of an unknown version or too narrow; a miswired one starts again at its retry timer. Model's
choices in it: log 57 (packets at a retraining or stopping port); log 115 (retrains, receive buffers and tag epochs).
-/
def Obligations.PortBringUp : Prop :=
  ∀ (who : Who) (p : Fin 16) (on : Bool) (m : BitVec 8) (rec : ExchRecord) (s : State),
    let lam := R.PLT_PORT_LAMBDA p
    let stat := R.PLT_PORT_STAT p
    let was := bitAt (s.fld R.PLT_CTL F.PLT_CTL_PORT_EN) p
    let at' (k : Nat) : Prop := s.portMayTrain p = true ∧ (s.port p).step = k
    let quiet := ∀ c < 64, s.collState c ≠ 1
    (if s.privWriter who = true then
      Does (.portEnable who p on) s [.ctl, .ev, .fabQ, .mem, .ms, .mxes, .persist, .plt] fun t =>
        (on = true → was = false → (t.port p).step = 1) ∧ (on = was → t.plt = s.plt) ∧
        (on = true ∨ was = false → OnlyRegs [R.PLT_CTL] s t) ∧
        (quiet → bitAt (t.fld R.PLT_CTL F.PLT_CTL_PORT_EN) p = on ∧
          (on = false → was = true → s.portState p ≠ 9 → t.portState p = 0))
     else Ignores who (.portEnable who p on) s) ∧
    (Does (.portLightCheck p m) s [.ctl, .plt] fun t =>
      (¬ at' 1 → t = s) ∧
      (at' 1 → t.fld lam F.PLT_PORT_LAMBDA_FEED = m.toNat ∧ OnlyRegs [lam, stat] s t ∧
        if lambdas m.toNat < 4 then t.portState p = 1 ∧ (t.port p).step = 1
        else t.portState p = 2 ∧ (t.port p).step = 2)) ∧
    (Does (.portLockDone p m) s [.ctl, .plt] fun t =>
      (¬ at' 2 → t = s) ∧
      (at' 2 → (t.port p).step = 3 ∧ OnlyRegs [lam] s t ∧
        t.fld lam F.PLT_PORT_LAMBDA_TX_LOCK = m.toNat &&& s.fld lam F.PLT_PORT_LAMBDA_FEED)) ∧
    (Does (.portPartnerLight p m) s [.ctl, .plt] fun t =>
      (¬ (at' 3 ∧ s.portState p ≠ 5) → t = s) ∧
      (at' 3 → s.portState p ≠ 5 → t.fld lam F.PLT_PORT_LAMBDA_RX_GOOD = m.toNat ∧ OnlyRegs [lam, stat] s t ∧
        (m ≠ 0 → t.portState p = 3 ∧ (t.port p).step = 4) ∧ (m = 0 → (t.port p).step = 3))) ∧
    (Does (.portFecLock p) s [.plt] fun t =>
      (¬ at' 4 → t = s) ∧ (at' 4 → t.port p = { s.port p with step := 6, record := none })) ∧
    (Does (.exchangeRecord p rec) s [.ctl, .ev, .fabQ, .mem, .ms, .mxes, .persist, .plt] fun t =>
      (¬ at' 6 → t = s) ∧
      (at' 6 → (s.port p).record ≠ some rec → OnlyRegs [] s t ∧ t.port p = { s.port p with record := some rec }) ∧
      (at' 6 → (s.port p).record = some rec →
        let tx := s.fld lam F.PLT_PORT_LAMBDA_TX_LOCK &&& rec.good.toNat
        let rx := s.fld lam F.PLT_PORT_LAMBDA_RX_GOOD
        let known := bitAt rec.versions.toNat 1 = true
        let wired := rec.size.toNat = bitsOf (s.reg R.PLT_SYS) 46 32 ∧ rec.coords.toNat = s.neighbour p ∧
          rec.port.val = partnerPort p
        let wide := 4 ≤ lambdas tx ∧ 4 ≤ lambdas rx
        (known → wired → wide → t.portState p = 4 ∧ (t.port p).step = 0 ∧
          t.fld stat F.PLT_PORT_STAT_TX_WIDTH = widthOf tx ∧ t.fld stat F.PLT_PORT_STAT_RX_WIDTH = widthOf rx) ∧
        (quiet → ¬ known → t.portState p = 7) ∧ (quiet → known → ¬ wired → t.portState p = 6) ∧
        (quiet → known → wired → ¬ wide → t.portState p = 8))) ∧
    (Does (.portRetryTimer p) s [.plt] fun t =>
      if s.portState p = 6 ∨ s.portState p = 7 then t.port p = { s.port p with step := 1 } else t = s)

/-- R322, R324 to R326, R329, R330: a port that is up: codewords and flits in and out, credits and replays, its
retrains, and the loss of its light. Model's choices in it: log 15 (timers with a recorded start are enforced, the
others are trusted); log 57 (packets at a retraining or stopping port); log 58 (injected faults of a port are free
choices); log 115 (retrains, receive buffers and tag epochs). -/
def Obligations.PortLinks : Prop :=
  ∀ (p : Fin 16) (lane : Fin 8) (errs : Nat) (vc : Fin 4) (seq ack : BitVec 12) (ok nak lost : Bool) (payload : List Byte)
    (credits : List Nat) (m : BitVec 8) (rec : Option ExchRecord) (s : State),
    let lam := R.PLT_PORT_LAMBDA p
    let st := s.portState p
    let x := s.port p
    let up := st = 4
    let quiet := ∀ c < 64, s.collState c ≠ 1
    let counts (c : Reg) (n : Nat) (t : State) : Prop := t.reg c = min counterMax (s.reg c + n)
    let loses : List Part := [.ctl, .ev, .fabQ, .mem, .ms, .mxes, .persist, .plt]
    (Does (.codewordReceive p lane errs) s [.ctl, .out, .plt] fun t =>
      if st < 3 ∨ 5 < st then t = s
      else mapGet (t.port p).lanes lane [] = (decide (15 < errs) :: mapGet x.lanes lane []).take 64 ∧
        if errs ≤ 15 then counts (R.PLT_CNT_FEC_CORR p) errs t ∧ t.out = s.out
        else counts (R.PLT_CNT_FEC_UNCORR p) 1 t ∧ (up → (t.port p).naking = true)) ∧
    (Does (.dataFlitReceive p vc seq ok payload) s [.ctl, .fabQ, .out, .plt] fun t =>
      if ¬ up then t = s
      else if ok = false then counts (R.PLT_CNT_CRC p) 1 t ∧ (t.port p).rxSeq = x.rxSeq
      else if seq.toNat ≠ x.rxSeq then (t.port p).rxSeq = x.rxSeq ∧ (t.port p).naking = true
      else (t.port p).rxSeq = (x.rxSeq + 1) % 4096 ∧ (t.port p).naking = false ∧ t.out = s.out ∧
        counts (R.PLT_CNT_FLITS_RX p) 1 t) ∧
    (Does (.controlFlitReceive p ack nak credits) s [.ctl, .plt] fun t =>
      if ¬ up then t = s
      else
        let left := match x.retry.findIdx? fun y => y.1 == ack.toNat with
          | some i => x.retry.drop (i + 1)
          | none => x.retry
        (t.port p).retry = left ∧ (t.port p).credit = takeCredits x.credit credits ∧ counts (R.PLT_CNT_FLITS_RX p) 1 t ∧
          (nak = true → counts (R.PLT_CNT_REPLAY p) left.length t) ∧ (nak = false → OnlyRegs [R.PLT_CNT_FLITS_RX p] s t)) ∧
    (Does (.controlFlitSend p) s [.ctl, .out] fun t =>
      if ¬ up then t = s
      else counts (R.PLT_CNT_FLITS_TX p) 1 t ∧ t.out = s.out ++ [.control p ((x.rxSeq + 4095) % 4096) x.naking
        ((List.range 8).map fun k => mapGet x.credit (16 + k) 0)]) ∧
    (Does (.portRetrain p lost) s [.ctl, .ev] fun t =>
      if ¬ up ∨ (lost = false ∧ s.retrainDue p = false) then t = s else t.portState p = 5 ∧ counts (R.PLT_CNT_RETRAIN p) 1 t) ∧
    (Does (.portRetrainDone p m rec) s loses fun t =>
      (st ≠ 5 → t = s) ∧ (st = 5 → quiet → rec = none → t.portState p = 8 ∧ (t.port p).retry = []) ∧
      ∀ r, st = 5 → rec = some r →
        let good := bitAt r.versions.toNat 1 = true ∧ r.size.toNat = bitsOf (s.reg R.PLT_SYS) 46 32 ∧
          r.coords.toNat = s.neighbour p ∧ r.port.val = partnerPort p ∧ 4 ≤ lambdas m.toNat ∧
          4 ≤ lambdas (s.fld lam F.PLT_PORT_LAMBDA_TX_LOCK &&& r.good.toNat)
        (good → t.portState p = 4 ∧ (t.port p).retry = x.retry ∧ counts (R.PLT_CNT_REPLAY p) x.retry.length t ∧
          counts (R.PLT_CNT_FLITS_TX p) x.retry.length t ∧ t.fld lam F.PLT_PORT_LAMBDA_RX_GOOD = m.toNat) ∧
        (¬ good → quiet → t.portState p = 8 ∧ (t.port p).retry = [])) ∧
    (Does (.partnerLightLoss p) s loses fun t =>
      (st ≠ 3 → st ≠ 4 → st ≠ 5 → t = s) ∧
      (st = 3 ∨ st = 4 ∨ st = 5 → quiet → t.portState p = 8 ∧ (t.port p).retry = [])) ∧
    (Does (.feedOutOfLimits p m) s loses fun t =>
      let used := s.fld lam F.PLT_PORT_LAMBDA_TX_LOCK
      let left := used &&& m.toNat
      (st ≠ 4 → st ≠ 5 → OnlyRegs [lam] s t) ∧
      (st ≠ 4 → st ≠ 5 → t.fld lam F.PLT_PORT_LAMBDA_FEED = m.toNat ∧ t.fld lam F.PLT_PORT_LAMBDA_TX_LOCK = left) ∧
      (up → 4 ≤ lambdas left → s.sending p &&& m.toNat ≠ s.sending p → t.portState p = 5) ∧
      (st = 4 ∨ st = 5 → lambdas left < 4 → quiet → t.portState p = 8))

/-- R332, R338, R339, R115: the requests of remote parts at the lender: the oldest one of its type is performed where
a lease grants it, and answered; one of a stale epoch is dropped, and one that no lease grants gets a NACK. Model's
choices in it: log 24 (drift AMOs and refusals). -/
def Obligations.RemoteAccess : Prop :=
  ∀ (plane : Fin 2) (s : State),
    let serves (cmd : Instr) (type : Nat) (write : Bool) (parts : List Part)
        (done : Nat → Packet → List (Nat × Packet) → Nat → State → Prop) : Prop := Does cmd s parts fun t =>
      (s.arrival plane 0 = none → t = s) ∧
      ∀ k q rest, s.arrival plane 0 = some ((k, q), rest) →
        (q.type ≠ type ∨ q.bad = true → t = s) ∧
        (q.type = type → q.bad = false →
          (s.grant q write = .stale → t.plt.inq = rest ∧ t.fabQ = s.fabQ ∧ t.mem = s.mem ∧
            t.reg R.PLT_LEASE_CNT_STALE = min counterMax (s.reg R.PLT_LEASE_CNT_STALE + 1)) ∧
          (s.grant q write = .none → Replied k rest q 0x0B St.revoked [] s t ∧ t.mem = s.mem ∧
            t.reg R.PLT_CNT_NOLEASE = min counterMax (s.reg R.PLT_CNT_NOLEASE + 1)) ∧
          (∀ a, s.grant q write = .at_ a → s.ms.failed.contains (.remote q.src q.tag) = false → done k q rest a t))
    let ends (k : Nat) (q : Packet) (rest : List (Nat × Packet)) (type fn : Nat) (bs : List Byte) (s1 t : State) : Prop :=
      Replied k rest q type fn bs s1 t ∧ t.mem = s1.mem
    serves (.pktRd plane) 1 false [.ctl, .ev, .fabQ, .mem, .ms, .persist, .plt] (fun k q rest a t =>
      (∀ bs s1, readRange (.remote q.src q.tag) a q.span s = (.ok bs, s1) → ends k q rest 0x08 St.ok bs s1 t) ∧
      (∀ e s1, readRange (.remote q.src q.tag) a q.span s = (.err e, s1) → ends k q rest 0x0B (lenderNack e) [] s1 t)) ∧
    serves (.pktWr plane) 2 true [.ctl, .ev, .fabQ, .mem, .ms, .mxes, .persist, .plt] (fun k q rest a t =>
      (∀ s1, writeRange (.remote q.src q.tag) true a q.payload s = (.ok, s1) → ends k q rest 0x09 St.ok [] s1 t) ∧
      (∀ e s1, writeRange (.remote q.src q.tag) true a q.payload s = (.err e, s1) → ends k q rest 0x0B (lenderNack e) [] s1 t)) ∧
    serves (.pktWrmask plane) 3 true [.ctl, .ev, .fabQ, .mem, .ms, .mxes, .persist, .plt] (fun k q rest a t =>
      (s.asleep a 64 = true → t = s) ∧
      (s.asleep a 64 = false → maskRuns q = [] → ends k q rest 0x09 St.ok [] s t) ∧
      (s.asleep a 64 = false → ∀ o bs s1, maskRuns q = [(o, bs)] → writeRange (.remote q.src q.tag) true (a + o) bs s = (.ok, s1) →
        ends k q rest 0x09 St.ok [] s1 t)) ∧
    serves (.pktAmo plane) 4 true [.ctl, .ev, .fabQ, .mem, .ms, .mxes, .persist, .plt] (fun k q rest a t =>
      let r := memAmo (.remote q.src q.tag) q.fnStatus a (leAt q.payload 0 8) (leAt q.payload 8 8) s
      (∀ bs s1, r = (.ok bs, s1) → ends k q rest 0x0A St.ok bs s1 t) ∧
      (∀ e s1, r = (.err e, s1) → ends k q rest 0x0B (lenderNack e) [] s1 t))

/-- R340, R341: the replies at the borrower: one that no request waits for, or of a stale tag or lease epoch, is
counted and dropped; any other frees its tag slot and gives the requester its bytes or its failure. A request that has
had no reply for 1 ms fails, and its slot's epoch steps. Model's choices in it: log 15 (timers with a recorded start
are enforced, the others are trusted); log 55 (NACK OBJECT_LOST parks reads of objects); log 115 (retrains, receive
buffers and tag epochs). -/
def Obligations.FabricReplies : Prop :=
  ∀ (plane : Fin 2) (slot : Fin 4096) (s : State),
    let bumped (c : Reg) (t : State) : Prop := t.reg c = min counterMax (s.reg c + 1)
    let freed (i : Nat) (t : State) : Prop := t.tagSlot i = { s.tagSlot i with req := none }
    let takes (cmd : Instr) (type : Nat) (parts : List Part) (done : Nat → FabReq → Packet → State → Prop) : Prop :=
      Does cmd s parts fun t =>
        (s.arrival plane 1 = none → t = s) ∧
        ∀ k q rest, s.arrival plane 1 = some ((k, q), rest) →
          (q.type ≠ type ∨ q.bad = true → t = s) ∧
          (q.type = type → q.bad = false →
            let i := tagIndex q.tag
            ((s.tagSlot i).req = none ∨ (s.tagSlot i).epoch ≠ q.tagEpoch →
              t.plt.inq = rest ∧ t.tags = s.tags ∧ bumped R.PLT_CNT_STALE t) ∧
            (∀ r, (s.tagSlot i).req = some r → (s.tagSlot i).epoch = q.tagEpoch →
              (s.leaseOf r.target = none → t.plt.inq = rest ∧ t.tags = s.tags ∧ bumped R.PLT_LEASE_CNT_STALE t) ∧
              (∀ l, s.leaseOf r.target = some l →
                (s.fld (R.PLT_LIN_CTL l) F.PLT_LIN_CTL_EPOCH ≠ q.epoch2 →
                  t.plt.inq = rest ∧ t.tags = s.tags ∧ bumped R.PLT_LEASE_CNT_STALE t) ∧
                (s.fld (R.PLT_LIN_CTL l) F.PLT_LIN_CTL_EPOCH = q.epoch2 → t.plt.inq = rest ∧ freed i t ∧ done i r q t))))
    let gives (i : Nat) (r : FabReq) (q : Packet) (t : State) : Prop :=
      (∀ c, r.who = .ctx c → t.knc = (ctxReply c i (some q.payload) s).knc) ∧
      (∀ e, r.who = .engine e → r.pkt.type = 1 ∨ r.pkt.type = 4 → (t.eng e).reply = some q.payload)
    let okParts : List Part := [.ctl, .engs, .knc, .plt, .tags]
    takes (.pktRdReply plane) 0x08 okParts gives ∧ takes (.pktWrAck plane) 0x09 okParts gives ∧
    takes (.pktAmoReply plane) 0x0A okParts gives ∧
    takes (.pktNack plane) 0x0B [.ctl, .engs, .ev, .knc, .ms, .plt, .tags] (fun i r q t =>
      (q.fnStatus ≠ St.objectLost →
        (∀ c, r.who = .ctx c → t.knc = (ctxReply c i none s).knc) ∧
        ∀ e, r.who = .engine e →
          (t.eng e).failed = some (if q.fnStatus = St.badCommand then St.busError else q.fnStatus, r.target)) ∧
      (q.fnStatus = St.objectLost → ¬ (r.pkt.type = 1 ∧ (s.ownerOf r.target).isSome = true) → ∀ e, r.who = .engine e →
        (t.eng e).failed = some (St.objectLost, r.target))) ∧
    (Does (.fabricRequestTimeout plane slot) s [.ctl, .engs, .ev, .knc, .plt, .tags] fun t =>
      let i := plane.val * 4096 + slot.val
      ((s.tagSlot i).req = none → t = s) ∧
      (∀ r, (s.tagSlot i).req = some r →
        (s.nclk < r.time + fabTimeout → t = s) ∧
        (r.time + fabTimeout ≤ s.nclk → t.tagSlot i = { epoch := ((s.tagSlot i).epoch + 1) % 256, req := none } ∧ bumped R.PLT_CNT_TIMEOUT t ∧
          ∀ e, r.who = .engine e → (t.eng e).failed = some (St.busError, r.target))))

/-- R332 to R336, R343, R390: the packets of the fabric on their way: one that no port can take is answered or
dropped; an output port sends the oldest one of the VC and the input whose turn it is, and passes no VC over for more
than 64 slots; one with a reserved value is dropped, and one for the foremen joins the queue of the leader. Model's
choices in it: log 56 (packing of packets into flits); log 57 (packets at a retraining or stopping port); log 114 (an
output port sends packet by packet). -/
def Obligations.PacketWays : Prop :=
  ∀ (port : Fin 16) (plane : Fin 2) (vc : Fin 4) (s : State),
    let counts (c : Reg) (t : State) : Prop := t.reg c = min counterMax (s.reg c + 1)
    (Does (.packetForward port) s [.ctl, .ev, .fabQ, .free, .mem, .ms, .mxes, .out, .persist, .plt] fun t =>
      let stuck := takeFirst (fun x => (s.leaves x.1 x.2).isNone) s.fabQ
      (∀ k p rest, stuck = some ((k, p), rest) →
        (pktVc p.type = 2 → (∀ c < 64, s.collState c ≠ 1) → t.fabQ = rest ∧ t.out = s.out) ∧
        (pktVc p.type ≠ 2 → counts R.PLT_CNT_UNREACH t ∧ t.out = s.out ∧
          if pktIsRequest p.type = true then Replied k s.plt.inq p 0x0B St.unreachable [] (withFab rest s) t
          else t.fabQ = rest ∧ t.plt.inq = s.plt.inq)) ∧
      (stuck = none → s.nextVc port = none → t = s) ∧
      ∀ v i, stuck = none → s.nextVc port = some v → s.nextInput port v = some i →
        (∀ u ∈ vcOrder, (s.nextInput port u).isSome = true → vcOrder.idxOf u < vcOrder.idxOf v →
          vcPatience ≤ mapGet (s.port port).passed v 0) ∧
        ∀ k p rest o q d, takeFirst (s.isFor port v i) s.fabQ = some ((k, p), rest) → s.leaves k p = some (o, q, d) →
          o = port.val ∧ s.portState o = 4 ∧ s.portRoom o q = true ∧ t.fabQ = rest ∧ t.out = s.out ++ [.packet o q] ∧
          (d ≠ 0 → counts R.PLT_CNT_DETOUR t)) ∧
    (Does (.reservedPacketType plane vc) s [.ctl, .ev, .fabQ, .plt] fun t =>
      (s.arrival plane vc = none → t = s) ∧
      ∀ k q rest, s.arrival plane vc = some ((k, q), rest) →
        (q.bad = false → t = s) ∧
        (q.bad = true → counts (R.EVR_CODE_CNT 0xA04) t ∧
          if pktIsRequest q.type = true then Replied k rest q 0x0B St.badCommand [] s t
          else t.plt.inq = rest ∧ t.fabQ = s.fabQ)) ∧
    (Does (.pktMgmt plane) s [.ctl, .mgmt, .plt] fun t =>
      (s.arrival plane 3 = none → t = s) ∧
      ∀ k q rest, s.arrival plane 3 = some ((k, q), rest) →
        (q.type ≠ 0x1C ∨ q.bad = true → t = s) ∧
        (q.type = 0x1C → q.bad = false → t.plt.inq = rest ∧
          if s.leader = none ∨ inboundDepth ≤ s.mgmt.inbound.length then counts R.FMN_CNT_MGMT_DROP t ∧ t.mgmt = s.mgmt
          else t.mgmt.inbound = s.mgmt.inbound ++ [q.payload] ∧ OnlyRegs [] s t))

/-- R343 to R347, R351: the collectives: GO steps SEQ and starts one, or fails it at once; ABORT and the timeout fail
a running one; its packets are taken, kept for the next GO, or dropped, by their SEQ. What the parts of a tree give is
combined: sums saturate at the ends of 32 bits, and a chunk is done at the root, or goes up, once the part and each of
its children have given it; its result goes to every child and is written to DST. Model's choices in it: log 15
(timers with a recorded start are enforced, the others are trusted); log 66 (place of the status in COLL_ABORT, and
who sends it). -/
def Obligations.Collectives : Prop :=
  (∀ (who : Who) (c : Fin 64) (plane : Fin 2) (s : State),
      let stat := R.PLT_COLL_STAT c
      let ctl := R.PLT_COLL_CTL c
      let may := s.privWriter who = true
      let run := s.collState c = 1
      let silent := s.reg (R.PLT_COLL_NOTIFY c) = 0
      let seq := (s.collSeq c + 1) % 256
      let all : List Part := [.ctl, .ev, .fabQ, .mem, .ms, .mxes, .persist, .plt]
      let fails (status : Nat) (t : State) : Prop := t.collState c = 3 ∧ t.fld stat F.PLT_COLL_STAT_STATUS = status % 256 ∧
        t.reg R.PLT_CNT_COLL_FAIL = min counterMax (s.reg R.PLT_CNT_COLL_FAIL + 1) ∧ (t.coll c).chunks = []
      (if may ∧ ¬ run then
        Does (.collGo who c) s all fun t => if bitAt (s.reg ctl) 0 = false then
            t.collState c = s.collState c ∧ t.coll c = s.coll c ∧
            t.reg (R.EVR_CODE_CNT 0x102) = min counterMax (s.reg (R.EVR_CODE_CNT 0x102) + 1)
          else
          (s.collBad c = true → silent → fails St.badCommand t ∧ t.collSeq c = seq ∧ t.fabQ = s.fabQ) ∧
          (s.collBad c = false → s.treeWhole c = false → silent → fails St.unreachable t ∧ t.collSeq c = seq ∧
            t.fabQ.length = s.fabQ.length + (s.treeParts c).length) ∧
          (s.collBad c = false → s.treeWhole c = true → s.collKind c = 2 → s.isRoot c = false → (s.coll c).ahead = [] →
            t.collState c = 1 ∧ t.collSeq c = seq ∧ t.coll c = { time := s.nclk, chunks := [], done := [], ahead := [] } ∧
            OnlyRegs [ctl, stat] s t ∧ t.mem = s.mem)
       else Ignores who (.collGo who c) s) ∧
      (may → Does (.collectiveAbort who c) s all fun t =>
        (run → silent → fails St.aborted t ∧ t.fabQ.length = s.fabQ.length + (s.treeParts c).length) ∧
        (¬ run → t.collState c = s.collState c ∧ OnlyRegs [ctl] s t)) ∧
      (¬ may → Ignores who (.collectiveAbort who c) s) ∧
      (∀ cmd type, (cmd, type) ∈ [((.pktCollUp plane : Instr), 0x10), (.pktCollDown plane, 0x11), (.pktCollAbort plane, 0x12)] →
        Does cmd s all fun t =>
          (s.arrival plane 2 = none → t = s) ∧
          ∀ k q rest, s.arrival plane 2 = some ((k, q), rest) →
            (q.type ≠ type ∨ q.bad = true → t = s) ∧
            (q.type = type → q.bad = false →
              let d := bitsOf q.addr 37 32 % 64
              (q.epoch2 ≠ s.collSeq d → collSeqAhead q.epoch2 (s.collSeq d) = true →
                t.plt.inq = rest ∧ (t.coll d).ahead = (s.coll d).ahead ++ [(k, q)] ∧ OnlyRegs [] s t) ∧
              (q.epoch2 ≠ s.collSeq d → collSeqAhead q.epoch2 (s.collSeq d) = false →
                t.plt.inq = rest ∧ t.reg R.PLT_CNT_STALE = min counterMax (s.reg R.PLT_CNT_STALE + 1) ∧
                OnlyRegs [R.PLT_CNT_STALE] s t) ∧
              (q.epoch2 = s.collSeq d → s.collState d ≠ 1 → t.plt.inq = rest ∧ OnlyRegs [] s t) ∧
              (q.epoch2 = s.collSeq d → s.collState d = 1 → s.reg (R.PLT_COLL_NOTIFY d) = 0 →
                (type = 0x12 → t.collState d = 3 ∧
                  t.fld (R.PLT_COLL_STAT d) F.PLT_COLL_STAT_STATUS = q.addr % 2 ^ 32 % 256) ∧
                (type ≠ 0x12 → bitsOf q.fnStatus 1 0 ≠ s.collOp d ∨ bitsOf q.fnStatus 3 2 ≠ s.collKind d ∨
                    s.collChunks d ≤ q.addr % 2 ^ 32 →
                  t.collState d = 3 ∧ t.fld (R.PLT_COLL_STAT d) F.PLT_COLL_STAT_STATUS = St.badCommand)) ∧
              (q.epoch2 = s.collSeq d → s.collState d = 1 → bitsOf q.fnStatus 1 0 = s.collOp d →
                  bitsOf q.fnStatus 3 2 = s.collKind d → q.addr % 2 ^ 32 < s.collChunks d →
                let i := q.addr % 2 ^ 32
                let u := freeCredit k q (updPlt (fun x => { x with inq := rest }) s)
                let xs := unpackElems .int32 q.payload (s.chunkElems d i)
                let sat := bitAt q.fnStatus 4
                (type = 0x10 → t = collGive d i q.src sat xs u) ∧
                (type = 0x11 → t = if i ∈ (s.coll d).done then u else collResult d i sat xs u)))) ∧
      (Does (.collTimeout c) s all fun t =>
        let ms := s.fld R.PLT_CTL F.PLT_CTL_COLL_TIMEOUT
        if run ∧ ms ≠ 0 ∧ (s.coll c).time + 1800000 * ms ≤ s.nclk then silent → fails 0x80 t ∧ t.fabQ = s.fabQ else t = s)) ∧
  (∀ (c i who : Nat) (sat : Bool) (xs : List Int) (s : State),
      let x := mapGet (s.coll c).chunks i chunk0
      let t := collGive c i who sat xs s
      let acc := match x.acc with | none => (xs, false) | some a => collCombine (s.collOp c) a xs
      let y : CollChunk := { acc := some acc.1, sat := x.sat || sat || acc.2, gave := x.gave ++ [who] }
      let due := (s.childDims c).length + 1
      (who ∈ x.gave ∨ i ∈ (s.coll c).done → t = s) ∧
      (who ∉ x.gave → i ∉ (s.coll c).done →
        (x.gave.length + 1 < due → mapGet (t.coll c).chunks i chunk0 = y ∧ t.fabQ = s.fabQ ∧ t.mem = s.mem) ∧
        (due ≤ x.gave.length + 1 → s.isRoot c = false →
          t.fabQ = s.fabQ ++ [(0, collPacket s c 0x10 (s.collParent c) i y.sat acc.1)] ∧ t.mem = s.mem) ∧
        (due ≤ x.gave.length + 1 → s.isRoot c = true → s.childDims c = [] → s.reg (R.PLT_COLL_NOTIFY c) = 0 →
          (s.coll c).done.length + 1 < s.collChunks c → ∃ u, OnlyRegs [R.PLT_COLL_STAT c] s u ∧ Keeps [.ctl, .plt] s u ∧
            t.mem = (poke (s.reg (R.PLT_COLL_DST c) + 512 * i) (packElems .int32 acc.1) u).mem)) ∧
      (let kind := s.collKind c
       let r := collResult c i sat xs s
       s.reg (R.PLT_COLL_NOTIFY c) = 0 → i ∉ (s.coll c).done → (s.coll c).done.length + 1 < s.collChunks c →
        ∃ u, OnlyRegs [R.PLT_COLL_STAT c] s u ∧ Keeps [.ctl, .fabQ] s u ∧
          u.fabQ = s.fabQ ++ (s.collChildren c).map
            (fun d => (0, collPacket s c 0x11 d i sat (if kind = 1 then [] else xs))) ∧
          r.fabQ = (if kind ≠ 1 ∨ s.isRoot c = true then
            (poke (s.reg (R.PLT_COLL_DST c) + 512 * i) (packElems .int32 xs) u).fabQ else u.fabQ) ∧
          r.mem = (if kind ≠ 1 ∨ s.isRoot c = true then
            (poke (s.reg (R.PLT_COLL_DST c) + 512 * i) (packElems .int32 xs) u).mem else s.mem) ∧
          (r.coll c).done = setInsert (s.coll c).done i) ∧
      (∀ (a b : List Int) (k : Nat) (va vb : Int), a[k]? = some va → b[k]? = some vb →
        (collCombine 1 a b).1[k]? = some (max va vb) ∧
        (collCombine 0 a b).1[k]? = some (max (-2147483648) (min 2147483647 (va + vb)))))

/-- R348, R385, R411, R412: the test register of a port takes a write of PF0 while the part is ARMED, and setting
ENABLE is recorded; the leader, while it runs its firmware, takes an enable of the test mode or rejects it, and
reports the oldest fatal record. Model's choices in it: log 70 (SMB_ALERT_N and fatal records). -/
def Obligations.TestModeAndFatalRecords : Prop :=
  (∀ (who : Who) (p : Fin 16) (v : BitVec 64) (s : State),
      let r := R.PLT_TEST_CTL p
      if who = .pf0 ∧ s.whoOpen who = true ∧ s.flag R.PLT_TEST_EN F.PLT_TEST_EN_ARMED = true then
        Does (.pltTestCtlWrite who p v) s [.ctl, .ev] fun t =>
          t.reg r = bitsOf v.toNat 63 11 * 2 ^ 11 + bitsOf v.toNat 8 0 ∧
          if bitAt v.toNat 8 = true ∧ s.flag r F.PLT_TEST_CTL_ENABLE = false then
            t.reg (R.EVR_CODE_CNT 0xA05) = min counterMax (s.reg (R.EVR_CODE_CNT 0xA05) + 1)
          else OnlyRegs [r] s t ∧ Keeps [.ctl] s t
      else Ignores who (.pltTestCtlWrite who p v) s) ∧
  (∀ (enable : List Byte) (s : State),
      (Does (.testModeEnable enable) s [.ctl, .free] fun t =>
        if s.leaderRuns = none then t = s
        else OnlyRegs [R.PLT_TEST_EN, R.FMN_CNT_TOKEN_REJECT, R.FMN_TEST_NONCE] s t ∧
          if s.enableOk enable = true then t.flag R.PLT_TEST_EN F.PLT_TEST_EN_ARMED = true ∧
            t.reg R.FMN_CNT_TOKEN_REJECT = s.reg R.FMN_CNT_TOKEN_REJECT
          else t.reg R.PLT_TEST_EN = s.reg R.PLT_TEST_EN ∧
            t.reg R.FMN_CNT_TOKEN_REJECT = min counterMax (s.reg R.FMN_CNT_TOKEN_REJECT + 1)) ∧
      (Does .fatalRecordCollect s [.ev, .mgmt, .out] fun t =>
        (s.leaderRuns = none ∨ s.ev.fatal = [] → t = s) ∧
        ∀ e rest, s.leaderRuns ≠ none → s.ev.fatal = e :: rest →
          t.ev = { s.ev with fatal := rest } ∧ t.out = s.out ++ [.fatal e] ∧
          (t.mgmt.smbAlert = true ↔ rest ≠ [] ∨ s.flag R.FMN_LEAD_STAT F.FMN_LEAD_STAT_SPLIT = true)))

/-- R23, R355, R356, R358 to R363, R367: bandwidth: a report of a level sets the rates of the pairs that carry
traffic, a guarantee is admitted or refused, a request issues where no link of its way stands still and every bucket
of its path holds its bytes, and a monitor is zeroed. Model's choices in it: log 30 (which pairs a level report
adjusts, and the start of a bucket); log 80 (the points of a route that R19 and R23 leave open); log 121 (reports of
unlisted resources, and configuration requests that nothing answers). -/
def Obligations.Bandwidth : Prop :=
  ∀ (who : Who) (src : Fin 259) (r : Fin 32) (v : BitVec 32) (occ : List (Nat × Nat)) (die : Fin 6)
    (target : RegTarget) (bytes : Nat) (ten : Fin 256) (cls : Fin 4) (s : State),
    let b := R.QOS_BW src r
    let res := R.QOS_RES_STAT r
    let may := s.privWriter who = true
    let g := v.toNat % 65536
    let old := s.fld b F.QOS_BW_GUAR
    let peak := s.fld res F.QOS_RES_STAT_PEAK
    let ok := decide (g ≤ old) || decide (s.qosAdmitted r - old + g ≤ admitMax peak)
    let lim := s.fld b F.QOS_BW_LIMIT
    let cap := if lim = 0 ∨ peak < lim then peak else lim
    (Does (.qosLevelReport occ) s [.ctl, .qos] fun t =>
      (s.nclk < s.qos.nextReport → t = s) ∧
      (s.qos.nextReport ≤ s.nclk → t.qos = { s.qos with used := [], usedBefore := s.qos.used, nextReport := (s.nclk / 64 + 1) * 64 }) ∧
      (s.qos.nextReport ≤ s.nclk → r.val < 21 →
      let lv := s.qosLevel r (occOf occ r)
      let e := s.fld b F.QOS_BW_RATE
      t.fld res F.QOS_RES_STAT_LEVEL = lv ∧
      t.fld b F.QOS_BW_RATE = (if s.qosCarries src r = true then qosAdjust e old lim lv peak % 65536 else e) ∧
      (lv = 2 → t.reg (R.QOS_RES_CNT_HIGH r) = min counterMax (s.reg (R.QOS_RES_CNT_HIGH r) + 1)) ∧
      (lv = 3 → t.reg (R.QOS_RES_CNT_CRIT r) = min counterMax (s.reg (R.QOS_RES_CNT_CRIT r) + 1)) ∧
      t.reg (R.QOS_CNT_INFLIGHT_HOLD ten) =
        (if s.fld (R.QOS_TEN_CTL ten) F.QOS_TEN_CTL_INFLIGHT_LIMIT ≤ s.fld (R.QOS_TEN_STAT ten) F.QOS_TEN_STAT_CHARGE
         then min counterMax (s.reg (R.QOS_CNT_INFLIGHT_HOLD ten) + 1) else s.reg (R.QOS_CNT_INFLIGHT_HOLD ten)))) ∧
    (if may then
      Does (.qosGuarWrite who src r v) s [.ctl, .ev] fun t =>
        t.reg R.QOS_ADMIT_STAT = g * 2 ^ 24 + src.val * 2 ^ 15 + r.val * 2 ^ 10 + (!ok).toNat * 2 + 1 ∧
        t.fld b F.QOS_BW_LIMIT = v.toNat / 65536 ∧ t.fld b F.QOS_BW_RATE = s.fld b F.QOS_BW_RATE ∧
        (ok = true → t.fld b F.QOS_BW_GUAR = g ∧ OnlyRegs [R.QOS_ADMIT_STAT, b, res] s t ∧ t.ev = s.ev) ∧
        (ok = false → t.fld b F.QOS_BW_GUAR = old ∧
          t.reg R.QOS_CNT_REFUSED = min counterMax (s.reg R.QOS_CNT_REFUSED + 1) ∧
          t.reg (R.EVR_CODE_CNT 0xB01) = min counterMax (s.reg (R.EVR_CODE_CNT 0xB01) + 1))
     else Ignores who (.qosGuarWrite who src r v) s) ∧
    (Does (.regulatedRequestIssue die src target bytes) s [.ctl, .qos] fun t =>
      let n := (bytes + 63) / 64 * 64
      match s.qosPath die target with
      | none => t = s
      | some (links, path) =>
        ((∃ l ∈ links, s.seamStalled l = true) ∨ (∃ k ∈ path, s.qosHeld die src k < n) → t = s) ∧
        ((∀ l ∈ links, s.seamStalled l = false) → (∀ k ∈ path, k < 32 ∧ n ≤ s.qosHeld die src k) → path.Nodup →
          OnlyRegs (path.map fun k => R.QOS_BW src k) s t ∧
          (r.val ∈ path →
            mapFind t.qos.buckets (qosKey die src r) = some { bytes := s.qosHeld die src r - n, time := s.nclk } ∧
            t.fld b F.QOS_BW_RATE = (if s.qosCarries src r = true then s.fld b F.QOS_BW_RATE else cap) ∧
            t.qosCarries src r = true ∧ (src.val = 256 → r.val ∈ t.qos.used)) ∧
          (r.val ∉ path → mapFind t.qos.buckets (qosKey die src r) = mapFind s.qos.buckets (qosKey die src r)))) ∧
    (let cfg := R.QOS_LAT_CFG ten cls
     let zs := [R.QOS_LAT_MAX ten cls, R.QOS_LAT_CNT ten cls, R.QOS_LAT_MISS ten cls]
     if may then
      Does (.latClear who ten cls) s [.ctl] fun t => (∀ z ∈ zs, t.reg z = 0) ∧ t.fld cfg F.QOS_LAT_CFG_ALARMED = 0 ∧
        t.fld cfg F.QOS_LAT_CFG_ALARM_US = s.fld cfg F.QOS_LAT_CFG_ALARM_US ∧ OnlyRegs (cfg :: zs) s t
     else Ignores who (.latClear who ten cls) s)

/-- R375, R378, R379, R381, R383, R384, R387, R388: the recorder accepts the oldest record of a source while it runs;
the bucket of the code lets the record pass or counts it; before the base of the main ring is set it keeps the record,
and after it writes it to the next slot; a bucket gains a token with each of its periods that ends. The base of the
main ring is set once, in T1, and the ring is filled with zeros; a tenant's ring is filled with zeros from the time it
is enabled, and takes a copy of a record whose bucket has a token while a slot is free. Model's choices in it: log 13
(source of an event about a register); log 118 (the refill of an event bucket). -/
def Obligations.EventRecorder : Prop :=
  (∀ (kind : Fin 32) (inst : Fin 2048) (ring : Bool) (k key : Nat) (s : State),
      let src := evSource kind inst
      (Does (.eventAccept kind inst) s [.ctl, .ev, .hp0, .mem, .mgmt, .ms, .mxes, .out, .persist] fun t =>
        (s.recorderRuns = false ∨ mapGet s.ev.queues src [] = [] → t = s) ∧
        ∀ e rest, s.recorderRuns = true → mapGet s.ev.queues src [] = e :: rest → e.tenant = none → evFatal e.code = false →
          let cfg := R.EVR_CODE_CFG (e.code % 4096)
          let n := evBucketKey e.code (evKey e)
          let b := mapGet s.ev.buckets n evBucket0
          let take := bucketTake s.pclk (s.fld cfg F.EVR_CODE_CFG_RATE) (s.fld cfg F.EVR_CODE_CFG_BURST) b
          let wr := s.reg R.EVR_MAIN_WR
          let a := s.reg R.EVR_MAIN_BASE + 32 * (wr % mainSlots)
          let spent : State := updEv (fun r => { r with buckets := mapPut r.buckets n take.2 })
            (updEv (fun r => { r with queues := mapPut r.queues src rest }) s)
          (s.flag cfg F.EVR_CODE_CFG_ENABLE = false → Keeps [.ev] s t ∧ t.ev.queues = mapPut s.ev.queues src rest ∧
            t.ev.buckets = s.ev.buckets ∧ t.ev.preBase = s.ev.preBase) ∧
          (s.flag cfg F.EVR_CODE_CFG_ENABLE = true → take.1 = false → Keeps [.ev] s t ∧
            t.ev.queues = mapPut s.ev.queues src rest ∧ t.ev.preBase = s.ev.preBase) ∧
          (s.flag cfg F.EVR_CODE_CFG_ENABLE = true → take.1 = true → s.locked R.EVR_MAIN_BASE = false →
            if s.ev.preBase.length < preBaseMax then
              Keeps [.ev] s t ∧ t.ev.queues = mapPut s.ev.queues src rest ∧
              t.ev.preBase = s.ev.preBase ++ [(e, b.suppressed, false)] ∧
              mapGet t.ev.buckets n evBucket0 = { take.2 with suppressed := 0 }
            else t.reg R.EVR_CNT_LOST = min counterMax (s.reg R.EVR_CNT_LOST + 1) ∧ OnlyRegs [R.EVR_CNT_LOST] s t ∧
              t.ev.preBase = s.ev.preBase) ∧
          (s.flag cfg F.EVR_CODE_CFG_ENABLE = true → take.1 = true → s.locked R.EVR_MAIN_BASE = true →
            if s.ringOk a = false then
              t.reg R.EVR_CNT_LOST = min counterMax (s.reg R.EVR_CNT_LOST + 1) ∧ OnlyRegs [R.EVR_CNT_LOST] s t ∧ t.mem = s.mem
            else wr - s.reg R.EVR_MAIN_RD < mainSlots →
              (∀ u, writeRecord a (evBytes e (evSeq wr) b.suppressed false) spent = u →
                u.flag R.EVR_CTL F.EVR_CTL_IEN = false → t.reg R.EVR_MAIN_WR = (wr + 1) % 2 ^ 64 ∧ t.mem = u.mem))) ∧
      (Does (.eventBucketRefill ring k key) s [.ev] fun t =>
        (ring = true → ∀ b, mapFind s.ev.trBucket k = some b →
          mapGet t.ev.trBucket k evBucket0 = settleBucket s.pclk (s.fld (R.EVR_TR_CTL k) F.EVR_TR_CTL_RATE) b ∧ t.ev.buckets = s.ev.buckets) ∧
        (ring = true → mapFind s.ev.trBucket k = none → t = s) ∧
        (ring = false → ∀ b, mapFind s.ev.buckets (evBucketKey k key) = some b →
          mapGet t.ev.buckets (evBucketKey k key) evBucket0 =
            settleBucket s.pclk (s.fld (R.EVR_CODE_CFG (k % 4096)) F.EVR_CODE_CFG_RATE) b ∧ t.ev.trBucket = s.ev.trBucket) ∧
        (ring = false → mapFind s.ev.buckets (evBucketKey k key) = none → t = s)) ∧
      (∀ (now rate : Nat) (b : EvBucket), let p := gainPeriod rate
        (b.spent = 0 ∨ now < b.ends → settleBucket now rate b = b) ∧
        (0 < b.spent → b.ends ≤ now → 0 < p → ∀ n, n = min b.spent ((now - b.ends) / p + 1) →
          settleBucket now rate b = { b with spent := b.spent - n, ends := b.ends + n * p }))) ∧
  (∀ (who : Who) (v : BitVec 64) (ten : Fin 256) (s : State),
      let base := R.EVR_MAIN_BASE
      let ctl := R.EVR_TR_CTL ten
      let may := s.privWriter who = true
      let a := v.toNat / 2 ^ 26 * 2 ^ 26
      (if may ∧ s.locked base = true then Does (.mainRingBaseSet who v) s [] fun t => t = s
       else if may ∧ spaceOf v.toNat = .t1 then
        Does (.mainRingBaseSet who v) s [.ctl, .ev, .hp0, .locks, .mem, .ms, .mxes, .out, .persist] fun t =>
          s.ev.preBase = [] → t.reg base = a ∧ t.locked base = true ∧ t.mem = memZero s.mem a (2 ^ 26) ∧
            OnlyRegs [base] s t ∧ Keeps [.ctl, .ev, .locks, .mem, .ms] s t
       else Ignores who (.mainRingBaseSet who v) s) ∧
      (if may then
        Does (.tenantRingEnable who ten) s [.ctl, .ev] fun t =>
          let wr := R.EVR_TR_WR (ten.val + 1)
          let rd := R.EVR_TR_RD (ten.val + 1)
          t.flag ctl F.EVR_TR_CTL_VALID = true ∧
          if s.flag ctl F.EVR_TR_CTL_VALID = true then t.ev.filling = s.ev.filling ∧ OnlyRegs [ctl] s t
          else ten.val ∈ t.ev.filling ∧ t.reg wr = 0 ∧ t.reg rd = 0 ∧ OnlyRegs [ctl, wr, rd] s t
       else Ignores who (.tenantRingEnable who ten) s) ∧
      (Does (.tenantRingFillDone ten) s [.ev, .mem, .ms] fun t =>
        if ten.val ∈ s.ev.filling then ten.val ∉ t.ev.filling ∧
          t.mem = (let a := s.fld (R.EVR_TR_BASE ten) F.EVR_TR_BASE_ADDR * 4096
            if spaceOf a = .t1 then memZero s.mem a (32 * s.trSlots ten) else s.mem)
        else t = s) ∧
      (∀ e : EvRec,
        let wr := R.EVR_TR_WR (ten.val + 1)
        let n := s.reg wr
        let b := bucketTake s.pclk (s.fld ctl F.EVR_TR_CTL_RATE) (s.fld ctl F.EVR_TR_CTL_BURST)
          (mapGet s.ev.trBucket ten evBucket0)
        let u := updEv (fun r => { r with trBucket := mapPut r.trBucket ten b.2 }) s
        let slot := s.fld (R.EVR_TR_BASE ten) F.EVR_TR_BASE_ADDR * 4096 + 32 * (n % s.trSlots ten)
        let full := n - s.reg (R.EVR_TR_RD (ten.val + 1)) = s.trSlots ten
        let t := toTenant e ten s
        let stat := R.EVR_TR_STAT (ten.val + 1)
        (ten.val ∈ s.ev.filling → t = evSuppressTr ten s) ∧
        (ten.val ∉ s.ev.filling → b.1 = false ∨ full ∨ s.ringOk slot = false →
          t.fld stat F.EVR_TR_STAT_DROPPED = min 0xFFFFFFFF (s.fld stat F.EVR_TR_STAT_DROPPED + 1) ∧ t.mem = s.mem ∧
          t.reg wr = n ∧ OnlyRegs [stat] s t) ∧
        (ten.val ∉ s.ev.filling → b.1 = true → ¬ full → s.ringOk slot = true → s.flag ctl F.EVR_TR_CTL_IEN = false →
          t.reg wr = (n + 1) % 2 ^ 64 ∧
          t.mem = (writeRecord slot (evBytes e (evSeq n) b.2.suppressed true) u).mem)))

/-- R391 to R396: the foremen: how one stands for election and wins it, which of two claims that both assert is
cleared, how a split claim is resolved, and how one is reset. Model's choices in it: log 33 (the first TERM is 1;
heartbeat silence is trusted); log 119 (a split claim resolved for the leader moves nothing). -/
def Obligations.Leadership : Prop :=
  ∀ (f : Fin 2) (s : State),
    let o := otherForeman f
    let early (t0 : Nat) : Prop := s.nclk < t0 + usCycles 1000
    let engines : List Part := [.ctl, .engs, .ev, .free, .hp0, .mgmt, .ms, .refetch, .slots, .tags]
    let quiet := (∀ e < 384, s.engValid e = true → s.engOwnerKind e ≠ 3) ∧ ∀ k ∈ s.hp0.tokens, k.fn ≠ 0
    (Does (.electionStand f) s [.ctl, .mgmt] fun t =>
      if s.foremanUp f = true ∧ s.asserts f = false ∧ (s.foreman f).standAt = none ∧
          s.flag R.FMN_FUSE_STAT F.FMN_FUSE_STAT_MISMATCH = false ∧
          (s.asserts o = false ∨ s.claim o F.FMN_CLAIM_OUT = 1) then Stood f s t else t = s) ∧
    (Does (.electionDecide f) s engines fun t =>
      ((s.foreman f).standAt = none → t = s) ∧
      ∀ t0, (s.foreman f).standAt = some t0 →
        (early t0 → t = s) ∧
        (¬ early t0 → s.winsElection f = false → (t.foreman f).standAt = none ∧
          t.claim f F.FMN_CLAIM_CANDIDATE = 0 ∧ OnlyRegs [R.FMN_CLAIM f] s t) ∧
        (¬ early t0 → s.winsElection f = true → s.asserts o = false → quiet →
          t.asserts f = true ∧ Leads f (s.claim f F.FMN_CLAIM_TERM) s t) ∧
        (¬ early t0 → s.winsElection f = true → s.asserts o = true →
          let mine := s.claim f F.FMN_CLAIM_TERM
          let theirs := s.claim o F.FMN_CLAIM_TERM
          (mine < theirs → ForemanOff f t) ∧
          (theirs < mine → quiet → ForemanOff o t ∧ Leads f mine s t) ∧
          (mine = theirs → t.mgmt.splitAt = some s.nclk ∧ t.flag R.FMN_LEAD_STAT F.FMN_LEAD_STAT_SPLIT = true ∧
            t.flag R.FMN_LEAD_STAT F.FMN_LEAD_STAT_FROZEN = true ∧ t.mgmt.smbAlert = true ∧
            t.reg R.FMN_CNT_SPLIT = min counterMax (s.reg R.FMN_CNT_SPLIT + 1)))) ∧
    (Does .splitResolve s engines fun t =>
      (s.mgmt.splitAt = none → t = s) ∧
      ∀ t0, s.mgmt.splitAt = some t0 →
        (early t0 → t = s) ∧
        (¬ early t0 → quiet →
          let p := s.fld R.FMN_FUSE_STAT F.FMN_FUSE_STAT_PRIORITY
          ∀ k, k = (if s.claim p F.FMN_CLAIM_IMAGE_OK = 1 ∨ s.claim (otherForeman p) F.FMN_CLAIM_IMAGE_OK = 0 then p
              else otherForeman p) →
            ForemanOff (otherForeman k) t ∧ t.reg R.FMN_LEAD_STAT = (s.claim k F.FMN_CLAIM_TERM + 1) % 2 ^ 32 * 2 ^ 32 + k ∧
            t.mgmt.splitAt = none ∧ (s.ledBy k = false → t.mgmt.inbound = []))) ∧
    (Does (.heartbeatTimeout f) s [.ctl, .ev, .mgmt] fun t =>
      (s.foremanUp o = false → t = s) ∧
      (s.foremanUp o = true → s.asserts f = true →
        if (s.foreman o).standAt = none ∧ s.asserts o = false then Stood o s t else t = s) ∧
      (s.foremanUp o = true → s.asserts f = false → if s.leader = some o then ForemanOff f t else t = s)) ∧
    (Does (.foremanReset f) s [.ctl, .mgmt] fun t =>
      if s.mgmt.released = false then t = s
      else ForemanOff f t ∧ OnlyRegs [R.FMN_CLAIM f, R.FMN_BOOT_STAT f, R.FMN_LEAD_STAT] s t ∧
        (s.asserts f = true → s.fld R.FMN_LEAD_STAT F.FMN_LEAD_STAT_LEADER = f.val →
          t.flag R.FMN_LEAD_STAT F.FMN_LEAD_STAT_NONE = true))

/-- R397 to R406: a foreman that boots tries its slots in order and runs the one that passes, or recovery; the fuses
are programmed by the leader alone, within the limits the manual sets, in both copies; recovery writes the flash and
restarts. Model's choices in it: log 68 (each boot loads the identity registers); log 69 (fuses cut off in
programming); log 79 (decisions of firmware arrive as commands). -/
def Obligations.BootAndFuses : Prop :=
  ∀ (who : Who) (f : Fin 2) (unread : List Nat) (off : BitVec 26) (data : List Byte) (keys : BitVec 4) (target : BitVec 7)
    (s : State),
    let boot := R.FMN_BOOT_STAT f
    let prog := R.FMN_FUSE_PROG
    let ready := s.mgmt.released = true ∧ s.mgmt.filled = true ∧ s.mgmt.seamed = true ∧ s.dieUp (4 + f.val) = true ∧
      s.bootState f = 0
    let lead := ∃ l, who = .foreman l ∧ s.gateOpen l = true
    let busy := s.flag prog F.FMN_FUSE_PROG_BUSY = true
    let rev := s.keyRevoke ||| keys.toNat
    let svn := s.fld (R.FMN_BOOT_STAT (s.fld R.FMN_LEAD_STAT F.FMN_LEAD_STAT_LEADER)) F.FMN_BOOT_STAT_SVN
    let leaves := ∃ k < 4, s.fwKey k = true ∧ bitAt rev k = false
    (Does (.foremanBootDone f unread) s [.ctl, .ev, .free, .mgmt] fun t =>
      (¬ ready → t = s) ∧
      (ready → s.fuseMismatch = true → t.bootState 0 = 4 ∧ t.bootState 1 = 4 ∧
        t.fld R.CLK_START_STAT F.CLK_START_STAT_PHASE = 5 ∧ t.flag R.FMN_FUSE_STAT F.FMN_FUSE_STAT_MISMATCH = true) ∧
      (ready → s.fuseMismatch = false →
        let a := s.activeSlot
        let b := 1 - a
        let good (k : Nat) : Prop := s.slotReason f k (unread.contains k) = 0
        let slot (k : Nat) : Prop := t.bootState f = 2 ∧ t.fld boot F.FMN_BOOT_STAT_SLOT = k ∧
          t.claim f F.FMN_CLAIM_IMAGE_OK = 1
        (good a → (s.foreman f).avoid ≠ some a → slot a) ∧
        (¬ good a ∨ (s.foreman f).avoid = some a → good b → slot b) ∧
        (¬ good a ∨ (s.foreman f).avoid = some a → ¬ good b → t.bootState f = 3 ∧
          t.claim f F.FMN_CLAIM_IMAGE_OK = 0))) ∧
    (Does (.recoveryFlashWrite off data) s [.mgmt] fun t =>
      if s.recovering = true ∧ off.toNat + data.length ≤ persistBase then
        t.mgmt = { s.mgmt with flash := memPuts s.mgmt.flash off.toNat data }
      else t = s) ∧
    (Does .recoveryRestart s [.ctl, .mgmt] fun t =>
      if s.recovering = true then ForemanOff 0 t ∧ ForemanOff 1 t else t = s) ∧
    (if lead ∧ ¬ busy ∧ (keys = 0 ∨ leaves) then
      Does (.fuseRevoke who keys) s [.ctl] fun t =>
        if rev = s.keyRevoke then t = s
        else t.reg prog = 2 ^ 31 + keys.toNat * 256 ∧ OnlyRegs [prog] s t
     else Ignores who (.fuseRevoke who keys) s) ∧
    (if lead ∧ ¬ busy ∧ (target.toNat ≤ s.svnFloor ∨ target.toNat ≤ svn) then
      Does (.fuseSvnRaise who target) s [.ctl] fun t =>
        if target.toNat ≤ s.svnFloor then t = s
        else t.reg prog = 2 ^ 31 + target.toNat ∧ OnlyRegs [prog] s t
     else Ignores who (.fuseSvnRaise who target) s) ∧
    (Does .fuseProgDone s [.ctl, .mgmt] fun t =>
      if busy then t.reg prog = 0 ∧ OnlyRegs [prog, R.FMN_FUSE_STAT] s t ∧
        t.mgmt.fuses = s.mgmt.fuses.map (programFuses (s.fld prog F.FMN_FUSE_PROG_REVOKE)
          (s.fld prog F.FMN_FUSE_PROG_SVN_TARGET)) ∧
        t.fld R.FMN_FUSE_STAT F.FMN_FUSE_STAT_KEY_REVOKE = t.keyRevoke ∧
        t.fld R.FMN_FUSE_STAT F.FMN_FUSE_STAT_SVN_FLOOR = t.svnFloor
      else t = s)

/-- R398, R406 to R410: under the SPDM 1.2 and MCTP specifications that the manual cites, an SPDM request gets no
answer, an error, or its answer: the version, what the part can do, the algorithms, the chain and its digest, a signed
challenge, and measurements. Of the MCTP control commands an endpoint that does not answer is silent; else the EID is
set and read, and versions and message types are listed. Model's choices in it: log 7 (cryptographic functions, the
certificate chain and the ROM digest are opaque constants); log 71 (SPDM 1.2 and MCTP 1.3 layouts). -/
def Obligations.Attestation : Prop :=
  (∀ (eid msgType : BitVec 8) (s : State),
      let up := s.endpointUp = true
      let eidOf (t : State) : Nat := t.fld R.FMN_SMB_CFG F.FMN_SMB_CFG_EID
      (Does (.mctpSetEid eid) s [.ctl, .out] fun t =>
        (¬ up → t = s) ∧
        (up → eid = 0 ∨ eid = 0xFF → Says 1 [1, 2] s t ∧ OnlyRegs [] s t) ∧
        (up → eid ≠ 0 → eid ≠ 0xFF → Says 1 [1, 0, 0, eid, 0] s t ∧ eidOf t = eid.toNat ∧ OnlyRegs [R.FMN_SMB_CFG] s t)) ∧
      (Does .mctpGetEid s [.free, .out] fun t =>
        (¬ up → t = s) ∧ (up → ∃ a b, Says 1 [2, 0, BitVec.ofNat 8 (eidOf s), a, b] s t)) ∧
      (Does (.mctpGetVersion msgType) s [.free, .out] fun t =>
        (¬ up → t = s) ∧
        (up → msgType = 0xFF ∨ msgType = 0 → Says 1 [4, 0, 1, 0xF1, 0xF3, 0xFF, 0] s t) ∧
        (up → msgType = 5 ∨ msgType = 0x7E → ∃ b, b.length = 4 ∧ Says 1 ([4, 0, 1] ++ b) s t) ∧
        (up → msgType ≠ 0xFF → msgType.toNat ∉ mctpTypes → Says 1 [4, 0x80] s t)) ∧
      (Does .mctpGetTypes s [.out] fun t => (¬ up → t = s) ∧ (up → Says 1 [5, 0, 3, 0, 5, 0x7E] s t))) ∧
  (∀ (mctp : Bool) (req : List Byte) (s : State),
      let path := spdmPath mctp
      let x := s.spdm mctp
      let sent (t : State) (m : List Byte) : Prop := Says path m s t
      let asks (cmd : Instr) (code need len : Nat) (parts : List Part) (done : State → Prop) : Prop := Does cmd s parts fun t =>
        (s.spdmReaches mctp = false ∨ (∃ l, s.leader = some l ∧ s.bootState l ≠ 2) → t = s) ∧
        (s.spdmReaches mctp = true → s.leader = none → sent t (spdmError SpdmErr.busy) ∧ t.mgmt = s.mgmt) ∧
        (s.spdmReaches mctp = true → s.leaderRuns.isSome = true →
          let short := req.length < len ∨ leAt req 1 1 ≠ code
          let other := leAt req 0 1 ≠ (if code = 0x84 then 0x10 else 0x12)
          (short → sent t (spdmError SpdmErr.invalid) ∧ t.mgmt = s.mgmt) ∧
          (¬ short → other → sent t (spdmError SpdmErr.version) ∧ t.mgmt = s.mgmt) ∧
          (¬ short → ¬ other → x.stage < need → sent t (spdmError SpdmErr.unexpected) ∧ t.mgmt = s.mgmt)) ∧
        (s.spdmHears mctp code need len req → done t)
      let frees : List Part := [.free, .mgmt, .out]
      asks (.spdmGetVersion mctp req) 0x84 0 4 [.mgmt, .out] (fun t => ∃ m, sent t m ∧ leAt m 0 1 = 0x10 ∧ leAt m 1 1 = 4 ∧
        leAt m 5 1 = 1 ∧ leAt m 6 2 = 0x1200 ∧ t.spdm mctp = { stage := 1, conn := req ++ m, certs := [], meas := [] }) ∧
      asks (.spdmGetCapabilities mctp req) 0xE1 1 20 frees (fun t => ∃ m, sent t m ∧ leAt m 1 1 = 0x61 ∧
        leAt m 8 4 = spdmFlags ∧ leAt m 12 4 = spdmTransfer mctp ∧ leAt m 16 4 = spdmTransfer mctp ∧
        t.spdm mctp = { x with stage := 2, conn := x.conn ++ req ++ m }) ∧
      asks (.spdmNegotiate mctp req) 0xE3 2 32 [.mgmt, .out] (fun t => ∃ m, sent t m ∧ leAt m 1 1 = 0x63 ∧
        leAt m 12 4 = (if bitAt (leAt req 8 4) 4 = true then 0x10 else 0) ∧
        leAt m 16 4 = (if bitAt (leAt req 12 4) 0 = true then 1 else 0) ∧
        t.spdm mctp = { x with stage := 3, conn := x.conn ++ req ++ m }) ∧
      asks (.spdmGetDigests mctp req) 0x81 3 4 [.mgmt, .out] (fun t => ∃ m, sent t m ∧
        m = (if s.chainOk = true then spdmHeader 0x01 0 1 ++ Config.sha256 s.chain else spdmError SpdmErr.unexpected) ∧
        t.spdm mctp = { x with certs := x.certs ++ req ++ m }) ∧
      asks (.spdmGetCertificate mctp req) 0x82 3 8 [.mgmt, .out] (fun t =>
        let c := s.chain
        let at' := leAt req 4 2
        if leAt req 2 1 % 16 ≠ 0 ∨ s.chainOk = false ∨ c.length ≤ at' then sent t (spdmError SpdmErr.invalid) ∧ t.mgmt = s.mgmt
        else ∃ n m, n = min (min (leAt req 6 2) (c.length - at')) (spdmTransfer mctp - 8) ∧
          m = spdmHeader 0x02 0 0 ++ leBytes 2 n ++ leBytes 2 (c.length - at' - n) ++ sliceBytes c at' n ∧ sent t m ∧
          t.spdm mctp = { x with certs := x.certs ++ req ++ m }) ∧
      asks (.spdmChallenge mctp req) 0x83 3 36 frees (fun t =>
        if leAt req 2 1 % 16 ≠ 0 ∨ s.chainOk = false then sent t (spdmError SpdmErr.invalid) ∧ t.mgmt = s.mgmt
        else leAt req 3 1 = 0 → ∃ nonce m, nonce.length = 32 ∧
          m = spdmHeader 0x03 0 1 ++ Config.sha256 s.chain ++ nonce ++ leBytes 2 0 ∧
          sent t (m ++ s.sign "responder-challenge_auth signing" (x.conn ++ x.certs ++ req ++ m)) ∧
          t.spdm mctp = { x with certs := [] }) ∧
      asks (.spdmGetMeasurements mctp req) 0xE0 3 4 frees (fun t =>
        let signed := bitAt (leAt req 2 1) 0 = true
        let i := leAt req 3 1
        (6 < i ∧ i ≠ 0xFF ∨ signed ∧ req.length < 37 → sent t (spdmError SpdmErr.invalid) ∧ t.mgmt = s.mgmt) ∧
        (1 ≤ i → i ≤ 6 → ¬ signed → ∃ ty nonce m, nonce.length = 32 ∧
          m = spdmHeader 0x60 0 0 ++ leBytes 1 1 ++ leBytes 3 ((s.measurement i).length + 7) ++
            (leBytes 1 i ++ leBytes 1 1 ++ leBytes 2 ((s.measurement i).length + 3) ++ leBytes 1 ty ++
              leBytes 2 (s.measurement i).length ++ s.measurement i) ++ nonce ++ leBytes 2 0 ∧
          sent t m ∧ t.spdm mctp = { x with meas := x.meas ++ req ++ m })))

/-- R413 to R415, R417: power and temperature: a sample of the package's power sets the running average and the duty
of each half, the cap is divided between them, and a reading of the dies cuts the duty of a hot half and trips a part
that is too hot. Model's choices in it: log 4 (free values are opaque constants applied to a counter in State); log 35
(source of THROTTLE; a trip shuts the compute gate); log 120 (the rows of R414 at 105 °C). -/
def Obligations.PowerAndHeat : Prop :=
  ∀ (watts d0 d1 : Nat) (dies : List (Option Nat)) (s : State),
    let l := (watts :: s.mgmt.samples).take samplesPerMs
    let avg := l.sum / max 1 l.length
    let cap := s.fld R.PWR_CAP_CFG F.PWR_CAP_CFG_CAP_W
    let on := s.mgmt.released = true
    (Does (.powerSample watts) s [.ctl, .ev, .free, .mgmt] fun t =>
      (¬ on → t = s) ∧
      (on → t.mgmt.samples = l ∧ t.fld R.PWR_STAT F.PWR_STAT_PKG_W = min 4095 avg ∧
        ∀ h < 2, if s.halfControlled h = false then t.half h = s.half h
          else
            (5 * cap < 4 * watts → (t.half h).powerDuty = max 1 ((s.half h).powerDuty / 2)) ∧
            (4 * watts ≤ 5 * cap → cap < avg → (t.half h).powerDuty ≤ max 1 (s.half h).powerDuty) ∧
            (4 * watts ≤ 5 * cap → avg ≤ cap → (s.half h).powerDuty ≤ (t.half h).powerDuty))) ∧
    (Does (.powerCapDivide d0 d1) s [.ctl, .mgmt] fun t =>
      let c := if s.leaderRuns = none ∨ d0 + d1 = 0 then cap / 2 else cap * d0 / (d0 + d1)
      t.mgmt.half0.cap = c ∧ t.mgmt.half1.cap = cap - c ∧ OnlyRegs [R.PWR_HALF_CTL 0, R.PWR_HALF_CTL 1, R.PWR_STAT] s t) ∧
    (Does (.tempSample dies) s [.ctl, .ev, .fabQ, .free, .mem, .mgmt, .ms, .mxes, .persist, .plt] fun t =>
      (¬ on → t = s) ∧
      (on → (∃ d < 6, s.dieUp d = true ∧ (dies[d]? = some none ∨ ∃ k, dies[d]? = some (some k) ∧ 110 ≤ k)) →
        t.mgmt.tripped = true) ∧
      (on → (∀ d < 6, s.dieUp d = true → dies[d]? ≠ some none ∧ ∀ k, dies[d]? = some (some k) → k < 110) →
        t.mgmt.tripped = s.mgmt.tripped ∧ t.plt = s.plt ∧
        (∀ d < 6, ∀ k, s.dieUp d = true → dies[d]? = some (some k) →
          bitsOf (t.reg R.PWR_TEMP) (8 * d + 7) (8 * d) = min 255 k) ∧
        ∀ h < 2, ∀ d k, s.halfControlled h = true → hottest h dies = some (d, k) →
          let lim := s.fld R.PWR_THERM_CFG F.PWR_THERM_CFG_THROTTLE_C
          let x := s.half h
          let y := t.half h
          let hot := 105 ≤ k ∧ (8 < x.thermDuty ∨ x.thermHalf = false)
          (hot → y.thermDuty = min 8 x.thermDuty ∧ y.thermHalf = true) ∧
          (¬ hot → lim ≤ k → if s.nclk < x.fellAt + usCycles 1000 then y = x else y.thermDuty = max 1 (x.thermDuty - 4)) ∧
          (¬ hot → k < lim → lim ≤ k + 2 → y = x) ∧
          (¬ hot → k + 2 < lim → y.thermHalf = false ∧ y.thermDuty =
            if s.nclk < x.roseAt + usCycles 10000 then x.thermDuty else min 64 (x.thermDuty + 1))))

/-- R1, R419, R420, R422, R423, R425, R426, R442: a fundamental reset from a supply, PERST_N, the reference clock or a
PLL gives everything its reset value but what the fuses, the flash, the SSDs and stuck cells hold; a fuse that is
being programmed may be left either way; past an absolute limit the model stops. Model's choices in it: log 28 (what a
damaged buffer word does, and what outlives a reset); log 69 (fuses cut off in programming); log 76 (a supply beyond
the absolute limits is the one fault). -/
def Obligations.FundamentalResets : Prop :=
  ∀ (rail : Fin 10) (die : Fin 6) (s : State),
    let good := s.fld R.CLK_RAIL_STAT F.CLK_RAIL_STAT_GOOD
    let cmds := [((.supplyFault rail false : Instr), 0, 0, setBits good rail rail 0), (.perstAssert, 1, 0, good),
      (.refclkLoss, 2, 0, good), (.pllLoss die, 3, die.val, good)]
    let rev := s.fld R.FMN_FUSE_PROG F.FMN_FUSE_PROG_REVOKE
    (∀ cmd cause d rails, (cmd, cause, d, rails) ∈ cmds → ∃ t, exec cmd s = .next t ∧
      FundamentallyReset cause d rails s t ∧
      if s.flag R.FMN_FUSE_PROG F.FMN_FUSE_PROG_BUSY = false then t.mgmt.fuses = s.mgmt.fuses
      else ∀ f < 2, (s.fuse f).revoke ||| (t.fuse f).revoke = (t.fuse f).revoke ∧
        (t.fuse f).revoke ||| ((s.fuse f).revoke ||| rev) = (s.fuse f).revoke ||| rev ∧
        (s.fuse f).svn ||| (t.fuse f).svn = (t.fuse f).svn) ∧
    exec (.supplyFault rail true) s = .fault .beyondAbsoluteLimits

/-- R23, R419, R427, R429, R430: start-up, step by step: release, the fill of the on-die memories, the training of the
seams, the end of the retries of the configuration, the run-time component, and the two gates. Model's choices in it:
log 29 (State.reset is before release); log 34 (the run-time component is not placed in T1); log 79 (decisions of
firmware arrive as commands). -/
def Obligations.StartUp : Prop :=
  ∀ (a b ok : Bool) (sel : BitVec 2) (links : List LinkWidth) (crews : BitVec 64) (sets : BitVec 16) (s : State),
    let m := s.mgmt
    let phase (t : State) : Nat := t.fld R.CLK_START_STAT F.CLK_START_STAT_PHASE
    let stacksReady := (List.range 16).all s.memSettled = true
    (Does (.release a b sel) s [.ctl, .ev, .mgmt, .ms, .nclk] fun t =>
      if m.released = true then t = s
      else t.mgmt = { m with released := true, nvmePerst := false, ddrRst := false } ∧ t.nclk = 0 ∧
        t.reg R.CLK_RAIL_STAT = 0x3FF ∧ t.fld R.FMN_SMB_CFG F.FMN_SMB_CFG_ADDR = 0x60 + sel.toNat ∧
        t.fld R.HP0_LINK_STAT F.HP0_LINK_STAT_STATE = 1 ∧ t.fld R.HP1_LINK_STAT F.HP1_LINK_STAT_STATE = 1 ∧
        t.reg R.CLK_START_STAT = 0xFFFF * 2 ^ 16 + 0xFFF * 16 ∧ ∀ c < 28, t.memState c = 1) ∧
    (Does .ondieFillDone s [.mem, .mgmt] fun t =>
      if m.released = true ∧ m.filled = false then
        t.mem = s.mem.filter (fun c => spaceOf c.1 != .t0) ∧ t.mgmt = { m with filled := true }
      else t = s) ∧
    (Does (.seamTrainDone links crews sets) s [.ctl, .engs, .ev, .fabQ, .free, .hp0, .knc, .mem, .mgmt, .ms, .mxes, .out,
        .persist, .plt, .refetch, .slots, .t3, .tags] fun t =>
      (m.released = false ∨ m.seamed = true → t = s) ∧
      (m.released = true → m.seamed = false → links.length = 8 → (∀ w ∈ links, w ≠ .down) →
        t.mgmt = { m with seamed := true } ∧ t.mem = s.mem ∧ t.reg R.FMN_CREW_PRESENT = crews.toNat ∧
        (∀ i < 8, t.seamLink i = linkBits (links.getD i .down)) ∧
        t.fld R.FMN_TOPO_CAP F.FMN_TOPO_CAP_DIE_PRESENT = 0x3F ∧
        t.fld R.FMN_TOPO_CAP F.FMN_TOPO_CAP_STACK_PRESENT_LO = sets.toNat % 256 ∧
        t.fld R.FMN_TOPO_CAP F.FMN_TOPO_CAP_STACK_PRESENT_HI = sets.toNat / 256)) ∧
    (Does .configRetryEnd s [.mgmt] fun t =>
      if m.released = true ∧ usCycles 50000 ≤ s.nclk then t.mgmt = { m with cfgOpen := true } else t = s) ∧
    (Does (.runtimeLoadDone ok) s [.ctl, .ev, .mgmt] fun t =>
      (s.leaderRuns = none → t = s) ∧
      ∀ f, s.leaderRuns = some f →
        (m.runtime = true ∨ ¬ stacksReady → t = s) ∧
        (m.runtime = false → stacksReady → ok = true → t.mgmt = { m with runtime := true } ∧ OnlyRegs [] s t) ∧
        (m.runtime = false → stacksReady → ok = false → t.bootState f = 0 ∧ t.asserts f = false ∧
          t.foreman f = { foreman0 with avoid := some (s.fld (R.FMN_BOOT_STAT f) F.FMN_BOOT_STAT_SLOT) })) ∧
    (Does .computeRelease s [.ctl, .mgmt] fun t =>
      if phase s = 2 ∧ m.filled = true ∧ m.seamed = true ∧ m.runtime = true ∧ s.leader.isSome = true ∧ stacksReady then
        phase t = 3 ∧ t.mgmt = { m with computeAt := s.nclk } ∧ OnlyRegs [R.CLK_START_STAT] s t
      else t = s) ∧
    (Does .hostRelease s [.ctl, .ev] fun t =>
      if phase s = 3 ∧ s.leader.isSome = true ∧ (List.range 12).all (fun c => s.memSettled (16 + c)) = true then
        phase t = 4 ∧ ∀ r < 21, t.fld (R.QOS_RES_STAT r) F.QOS_RES_STAT_PEAK = s.qosPeak r % 65536
      else t = s)

/-- R62, R393, R417: on an empty queue a step is one NCLK cycle: before release nothing changes; then the clock
advances, every matrix engine of a crew in service counts its MCLK cycles (none after a thermal trip), and at each
millisecond the HEARTBEAT of every foreman that runs advances. Model's choices in it: log 1 (the queue of commands and
the NCLK tick on an empty queue are the model's own; a command takes no time); log 16 (which MCLK cycles an engine
counts in which category); log 29 (State.reset is before release). -/
def Obligations.IdleCycle : Prop :=
  ∀ s : State, s.pending = [] → ∃ t, step s = .next t ∧ t.pending = [] ∧
    if s.mgmt.released = false then t = s
    else t.nclk = s.nclk + 1 ∧
      (s.mgmt.tripped = true ∨ (∀ c < 64, s.crewUp c = false) → t.mem = s.mem ∧ t.mxes = s.mxes) ∧
      (∀ m < 192, t.reg (R.MXE_CNT_CYCLES m) =
        if s.crewUp (crewOf m) = true ∧ s.mgmt.tripped = false then min counterMax (s.reg (R.MXE_CNT_CYCLES m) + (t.mclk - s.mclk))
        else s.reg (R.MXE_CNT_CYCLES m)) ∧
      ∀ f < 2, t.claim f F.FMN_CLAIM_HEARTBEAT =
        if (s.nclk + 1) % msCycles = 0 ∧ s.foremanUp f = true then (s.claim f F.FMN_CLAIM_HEARTBEAT + 1) % 65536
        else s.claim f F.FMN_CLAIM_HEARTBEAT

/-- R104, R240, R321, R350, R351, R369, R391, R416, R417, R424: right after reset no command waits, the byte lists are
in canonical form, no context, queue, engine, port, collective, lease or memory controller is active, and the
registers named here have the reset values the manual gives them. Model's choices in it: log 3 (reset values of TIMER,
INSTRET, RNG_STATE, the lookup tables, the scratch and the internal queues); log 8 (fuses, flash, SSDs and remap lists
are blank at State.reset); log 9 (unlisted memory bytes read zero); log 29 (State.reset is before release). -/
def Obligations.ResetState : Prop :=
  let s := State.reset
  s.pending = [] ∧ s.bytesWf = true ∧ s.mem = [] ∧ s.fabQ = [] ∧ s.engs = [] ∧ s.mgmt.released = false ∧
    (∀ c < 1024, s.ctxState c = 0 ∧ s.kc c = ctx0) ∧
    (∀ m < 192, ∀ q < 4, s.qState m q = 0 ∧ s.qBound m q = false ∧ s.reg (R.MXE_QCTL m q) = 0x1000000) ∧
    (∀ e < 384, s.engState e = 0) ∧ (∀ p < 16, s.portState p = 0) ∧ (∀ c < 64, s.collState c = 0) ∧
    (∀ i < 128, s.leaseState i = 0) ∧ (∀ f < 2, s.bootState f = 0 ∧ s.asserts f = false) ∧
    (∀ c < 28, s.memState c = 0) ∧ (∀ r < 32, s.reg (R.QOS_RES_CFG r) = 0x642) ∧
    s.reg R.FMN_LEAD_STAT = 2 ∧ s.reg R.PLT_CTL = 0xA00 ∧ s.reg R.PWR_CAP_CFG = 2200 ∧ s.reg R.PWR_THERM_CFG = 100 ∧
    s.reg R.PWR_STAT = 0x400040 ∧ s.fld R.CLK_START_STAT F.CLK_START_STAT_PHASE = 0

/-- Every step takes the oldest command of the queue and no other, whatever the command does; and every command
answers a next state, but for a supply that leaves the absolute limits of R1, past which the manual says nothing.
Model's choices in it: log 1 (the queue of commands and the NCLK tick on an empty queue are the model's own; a command
takes no time); log 76 (a supply beyond the absolute limits is the one fault). -/
def Obligations.EveryStepServesTheQueue : Prop :=
  ∀ s : State,
    (∀ t, step s = .next t → t.pending = s.pending.tail) ∧
    ((∀ rail, s.pending.head? ≠ some (.supplyFault rail true)) → ∃ t, step s = .next t)

/-- Every step keeps the byte lists of the memories in canonical form: addresses rise strictly, and no byte is listed
that reads as an unlisted one does. Model's choices in it: log 9 (unlisted memory bytes read zero). -/
def Obligations.BytesStayCanonical : Prop :=
  ∀ s t : State, s.bytesWf = true → step s = .next t → t.bytesWf = true

/-- R281: PERST_N resets the whole part: every register takes its reset value but for the two that say why and on
which supplies it was reset, every epoch takes 0, and memory, contexts, engines, queues and buffers are as at reset.
-/
def Obligations.PerstResetsThePart : Prop :=
  ∀ s : State, ∃ t, exec .perstAssert s = .next t ∧
    (∀ r : Reg, r.off ≠ R.CLK_RESET_CAUSE.off → r.off ≠ R.CLK_RAIL_STAT.off → t.reg r = State.reset.reg r) ∧
    t.fld R.CLK_RESET_CAUSE F.CLK_RESET_CAUSE_CAUSE = 1 ∧
    t.mem = State.reset.mem ∧ t.cores = State.reset.cores ∧ t.knc = State.reset.knc ∧ t.mxes = State.reset.mxes ∧
    t.slots = State.reset.slots ∧ t.engs = State.reset.engs ∧ t.plt = State.reset.plt ∧ t.hp0 = State.reset.hp0 ∧
    t.pool = State.reset.pool ∧ t.qos = State.reset.qos ∧ t.ev = State.reset.ev ∧
    ∀ f < 257, (∀ q < 1024, t.qpStat f q F.HP0_QP_STAT_EPOCH = 0) ∧
      ∀ w < 64, t.fld (R.HP0_WIN_ACT_CTL f w) F.HP0_WIN_ACT_CTL_EPOCH = 0 ∧
        t.fld (R.HP0_WIN_SHD_CTL f w) F.HP0_WIN_SHD_CTL_EPOCH = 0
end

