-- ==== Sys2Proof/Laws/Keeps.lean ====
section
/-! SUPPORT. The canonical form of memory is kept by every operation on it, and the rules by which what a change keeps is
put together from what its parts keep. -/

namespace Sys2Proof.Machine

/-- Every part of `a` is among those of `b`. -/
abbrev sub (a b : List Part) : Prop := ∀ x ∈ a, x ∈ b

/-! ### The canonical form of memory -/

theorem rising_weaken {α : Type} {m : SMap α} {a b : Nat} (h : risingFrom (some b) m = true) (hab : a ≤ b) :
    risingFrom (some a) m = true := by
  cases m with
  | nil => rfl
  | cons p t =>
    obtain ⟨x, v⟩ := p
    simp only [risingFrom, Bool.and_eq_true, decide_eq_true_eq] at h ⊢
    exact ⟨by omega, h.2⟩

theorem rising_tail {α : Type} {m : SMap α} {b : Nat} (h : risingFrom (some b) m = true) : risingFrom none m = true := by
  cases m with
  | nil => rfl
  | cons p t =>
    obtain ⟨x, v⟩ := p
    simp only [risingFrom, Bool.and_eq_true] at h ⊢
    exact h.2

theorem rising_filter {α : Type} (p : Nat × α → Bool) {m : SMap α} {o : Option Nat} (h : risingFrom o m = true) :
    risingFrom o (m.filter p) = true := by
  induction m generalizing o with
  | nil => exact h
  | cons q t ih =>
    obtain ⟨x, v⟩ := q
    cases o with
    | none =>
      simp only [risingFrom] at h
      simp only [List.filter_cons]
      split
      · simpa only [risingFrom] using ih h
      · exact rising_tail (ih h)
    | some b =>
      simp only [risingFrom, Bool.and_eq_true, decide_eq_true_eq] at h
      simp only [List.filter_cons]
      split
      · simp only [risingFrom, Bool.and_eq_true, decide_eq_true_eq]
        exact ⟨h.1, ih h.2⟩
      · exact rising_weaken (ih h.2) (by omega)

theorem rising_mapPut {α : Type} {m : SMap α} {o : Option Nat} {k : Nat} {v : α} (h : risingFrom o m = true)
    (hk : ∀ b, o = some b → b < k) : risingFrom o (mapPut m k v) = true := by
  induction m generalizing o with
  | nil => cases o <;> simp_all [mapPut, risingFrom]
  | cons q t ih =>
    obtain ⟨x, w⟩ := q
    have ht : risingFrom (some x) t = true := by cases o <;> simp_all [risingFrom]
    have hb : ∀ b, o = some b → b < x := by
      intro b e; subst e
      simp only [risingFrom, Bool.and_eq_true, decide_eq_true_eq] at h
      exact h.1
    unfold mapPut
    split
    · rename_i e; subst e
      cases o <;> simp_all [risingFrom]
    · split
      · cases o <;> simp_all [risingFrom]
      · rename_i e1 e2
        have := ih ht (fun b e => by injection e with e; omega)
        cases o <;> simp_all [risingFrom]

theorem wf_filter (p : Host.Cell → Bool) {m : List Host.Cell} (h : Memory.wf m = true) : Memory.wf (m.filter p) = true := by
  simp only [Memory.wf, Bool.and_eq_true, List.all_eq_true] at h ⊢
  exact ⟨rising_filter p h.1, fun c hc => h.2 c (List.mem_filter.1 hc).1⟩

theorem mem_mapPut {α : Type} {m : SMap α} {k : Nat} {v : α} {c : Nat × α} (h : c ∈ mapPut m k v) : c = (k, v) ∨ c ∈ m := by
  induction m with
  | nil => simp_all [mapPut]
  | cons q t ih =>
    obtain ⟨x, w⟩ := q
    unfold mapPut at h
    split at h
    · simp only [List.mem_cons] at h ⊢; tauto
    · split at h
      · simp only [List.mem_cons] at h ⊢; tauto
      · simp only [List.mem_cons] at h ⊢
        rcases h with h | h
        · tauto
        · rcases ih h with h | h <;> tauto

theorem wf_memPut {m : List Host.Cell} (a : Nat) (b : Byte) (h : Memory.wf m = true) : Memory.wf (memPut m a b) = true := by
  unfold memPut
  split
  · exact wf_filter _ h
  · rename_i hb
    simp only [Memory.wf, Bool.and_eq_true, List.all_eq_true] at h ⊢
    refine ⟨rising_mapPut h.1 (by simp), fun c hc => ?_⟩
    rcases mem_mapPut hc with e | e
    · subst e; simpa using hb
    · exact h.2 c e

theorem wf_memPuts {m : List Host.Cell} (a : Nat) (bs : List Byte) (h : Memory.wf m = true) :
    Memory.wf (memPuts m a bs) = true := by
  induction bs generalizing m a with
  | nil => exact h
  | cons b t ih => exact ih _ (wf_memPut a b h)

theorem wf_memZero {m : List Host.Cell} (a n : Nat) (h : Memory.wf m = true) : Memory.wf (memZero m a n) = true :=
  wf_filter _ h

theorem wf_foldl {β : Type} {f : List Host.Cell → β → List Host.Cell} (l : List β) {m : List Host.Cell}
    (hf : ∀ m x, Memory.wf m = true → Memory.wf (f m x) = true) (h : Memory.wf m = true) : Memory.wf (l.foldl f m) = true := by
  induction l generalizing m with
  | nil => exact h
  | cons x t ih => exact ih (hf m x h)

theorem bytesWf_same {s : State} (h : s.bytesWf = true) :
    (Memory.wf s.mem && Memory.wf s.cores.scratch && Memory.wf s.t3.cells && Memory.wf s.mgmt.flash) = true := h

theorem bytesWf_parts {s : State} (h : s.bytesWf = true) :
    Memory.wf s.mem = true ∧ Memory.wf s.cores.scratch = true ∧ Memory.wf s.t3.cells = true ∧ Memory.wf s.mgmt.flash = true := by
  simp only [State.bytesWf, Bool.and_eq_true] at h
  exact ⟨h.1.1.1, h.1.1.2, h.1.2, h.2⟩

theorem bytesWf_of {a b c d : List Host.Cell} (ha : Memory.wf a = true) (hb : Memory.wf b = true) (hc : Memory.wf c = true)
    (hd : Memory.wf d = true) : (Memory.wf a && Memory.wf b && Memory.wf c && Memory.wf d) = true := by
  rw [ha, hb, hc, hd]; rfl

theorem keeps_refl (k : List Part) (s : State) : Keeps k s s := by constructor <;> simp

theorem sub_trans {a b c : List Part} (h : sub a b) (g : sub b c) : sub a c := fun x hx => g x (h x hx)

/-! ### What a result that carries a state keeps -/

def PairKeeps {α : Type} (k : List Part) (s0 : State) (p : α × State) : Prop := Keeps k s0 p.2
def TripleKeeps {α β : Type} (k : List Part) (s0 : State) (p : α × β × State) : Prop := Keeps k s0 p.2.2
def OptKeeps (k : List Part) (s0 : State) (o : Option State) : Prop := ∀ t, o = some t → Keeps k s0 t
def OptPairKeeps {α : Type} (k : List Part) (s0 : State) (o : Option (α × State)) : Prop := ∀ p, o = some p → Keeps k s0 p.2
structure EffKeeps (k : List Part) (s0 : State) (r : Eff) : Prop where
  done : ∀ t, r = .done t → Keeps k s0 t
  jump : ∀ p t, r = .jump p t → Keeps k s0 t
  exc : ∀ c a t, r = .exc c a t → Keeps k s0 t
  excFree : ∀ c t, r = .excFree c t → Keeps k s0 t
  away : ∀ t, r = .away t → Keeps k s0 t
structure GotKeeps (k : List Part) (s0 : State) (r : Got) : Prop where
  go : ∀ b t, r = .go b t → Keeps k s0 t
  stop : ∀ t, r = .stop t → Keeps k s0 t
structure ObjStepKeeps (k : List Part) (s0 : State) (r : ObjStep) : Prop where
  more : ∀ t, r = .more t → Keeps k s0 t
  wait : ∀ t, r = .wait t → Keeps k s0 t
  done : ∀ t, r = .done t → Keeps k s0 t
  fail : ∀ a b c t, r = .fail a b c t → Keeps k s0 t
structure ServedKeeps (k : List Part) (s0 : State) (r : Served) : Prop where
  reply : ∀ a b t, r = .reply a b t → Keeps k s0 t
  nack : ∀ a t, r = .nack a t → Keeps k s0 t
  later : ∀ t, r = .later t → Keeps k s0 t
structure BeginKeeps (k : List Part) (s0 : State) (r : Begin) : Prop where
  wait : ∀ t, r = .wait t → Keeps k s0 t
  go : ∀ a b c t, r = .go a b c t → Keeps k s0 t

section
variable {k : List Part} {s0 t : State} {α β : Type}
theorem keeps_pair {a : α} (h : Keeps k s0 t) : PairKeeps k s0 (a, t) := h
theorem keeps_triple {a : α} {b : β} (h : Keeps k s0 t) : TripleKeeps k s0 (a, b, t) := h
theorem keeps_some (h : Keeps k s0 t) : OptKeeps k s0 (some t) := fun _ e => by cases e; exact h
theorem keeps_none : OptKeeps k s0 none := fun _ e => by cases e
theorem keeps_someP {a : α} (h : Keeps k s0 t) : OptPairKeeps k s0 (some (a, t)) := fun _ e => by cases e; exact h
theorem keeps_noneP : OptPairKeeps (α := α) k s0 none := fun _ e => by cases e
theorem keeps_done (h : Keeps k s0 t) : EffKeeps k s0 (.done t) := by
  constructor <;> intros <;> simp_all
theorem keeps_jump {p} (h : Keeps k s0 t) : EffKeeps k s0 (.jump p t) := by
  constructor <;> intros <;> simp_all
theorem keeps_exc {c a} (h : Keeps k s0 t) : EffKeeps k s0 (.exc c a t) := by
  constructor <;> intros <;> simp_all
theorem keeps_excFree {c} (h : Keeps k s0 t) : EffKeeps k s0 (.excFree c t) := by
  constructor <;> intros <;> simp_all
theorem keeps_away (h : Keeps k s0 t) : EffKeeps k s0 (.away t) := by
  constructor <;> intros <;> simp_all
theorem keeps_go {b} (h : Keeps k s0 t) : GotKeeps k s0 (.go b t) := by
  constructor <;> intros <;> simp_all
theorem keeps_stop (h : Keeps k s0 t) : GotKeeps k s0 (.stop t) := by
  constructor <;> intros <;> simp_all
theorem keeps_more (h : Keeps k s0 t) : ObjStepKeeps k s0 (.more t) := by
  constructor <;> intros <;> simp_all
theorem keeps_wait (h : Keeps k s0 t) : ObjStepKeeps k s0 (.wait t) := by
  constructor <;> intros <;> simp_all
theorem keeps_odone (h : Keeps k s0 t) : ObjStepKeeps k s0 (.done t) := by
  constructor <;> intros <;> simp_all
theorem keeps_ofail {a b c} (h : Keeps k s0 t) : ObjStepKeeps k s0 (.fail a b c t) := by
  constructor <;> intros <;> simp_all
theorem keeps_reply {a b} (h : Keeps k s0 t) : ServedKeeps k s0 (.reply a b t) := by
  constructor <;> intros <;> simp_all
theorem keeps_nack {a} (h : Keeps k s0 t) : ServedKeeps k s0 (.nack a t) := by
  constructor <;> intros <;> simp_all
theorem keeps_later (h : Keeps k s0 t) : ServedKeeps k s0 (.later t) := by
  constructor <;> intros <;> simp_all
theorem keeps_bwait (h : Keeps k s0 t) : BeginKeeps k s0 (.wait t) := by
  constructor <;> intros <;> simp_all
theorem keeps_bgo {a b c} (h : Keeps k s0 t) : BeginKeeps k s0 (.go a b c t) := by
  constructor <;> intros <;> simp_all
theorem keeps_hold : EffKeeps k s0 .hold := by constructor <;> intros <;> simp_all
theorem snd_of {p : α × State} (h : PairKeeps k s0 p) : Keeps k s0 p.2 := h
theorem snd2_of {p : α × β × State} (h : TripleKeeps k s0 p) : Keeps k s0 p.2.2 := h
theorem of_pair {p : α × State} {a : α} (h : PairKeeps k s0 p) (e : p = (a, t)) : Keeps k s0 t := by subst e; exact h
theorem of_triple {p : α × β × State} {a : α} {b : β} (h : TripleKeeps k s0 p) (e : p = (a, b, t)) : Keeps k s0 t := by
  subst e; exact h
theorem of_some {p : Option State} (h : OptKeeps k s0 p) (e : p = some t) : Keeps k s0 t := h _ e
theorem of_someP {p : Option (α × State)} {a : α} (h : OptPairKeeps k s0 p) (e : p = some (a, t)) : Keeps k s0 t := h _ e
theorem of_done {r} (h : EffKeeps k s0 r) (e : r = .done t) : Keeps k s0 t := h.done _ e
theorem of_jump {r p} (h : EffKeeps k s0 r) (e : r = .jump p t) : Keeps k s0 t := h.jump _ _ e
theorem of_exc {r c a} (h : EffKeeps k s0 r) (e : r = .exc c a t) : Keeps k s0 t := h.exc _ _ _ e
theorem of_excFree {r c} (h : EffKeeps k s0 r) (e : r = .excFree c t) : Keeps k s0 t := h.excFree _ _ e
theorem of_away {r} (h : EffKeeps k s0 r) (e : r = .away t) : Keeps k s0 t := h.away _ e
theorem of_go {r b} (h : GotKeeps k s0 r) (e : r = .go b t) : Keeps k s0 t := h.go _ _ e
theorem of_stop {r} (h : GotKeeps k s0 r) (e : r = .stop t) : Keeps k s0 t := h.stop _ e
theorem of_more {r} (h : ObjStepKeeps k s0 r) (e : r = .more t) : Keeps k s0 t := h.more _ e
theorem of_wait {r} (h : ObjStepKeeps k s0 r) (e : r = .wait t) : Keeps k s0 t := h.wait _ e
theorem of_odone {r} (h : ObjStepKeeps k s0 r) (e : r = .done t) : Keeps k s0 t := h.done _ e
theorem of_ofail {r a b c} (h : ObjStepKeeps k s0 r) (e : r = .fail a b c t) : Keeps k s0 t := h.fail _ _ _ _ e
theorem of_reply {r a b} (h : ServedKeeps k s0 r) (e : r = .reply a b t) : Keeps k s0 t := h.reply _ _ _ e
theorem of_nack {r a} (h : ServedKeeps k s0 r) (e : r = .nack a t) : Keeps k s0 t := h.nack _ _ e
theorem of_later {r} (h : ServedKeeps k s0 r) (e : r = .later t) : Keeps k s0 t := h.later _ e
theorem of_bwait {r} (h : BeginKeeps k s0 r) (e : r = .wait t) : Keeps k s0 t := h.wait _ e
theorem of_bgo {r a b c} (h : BeginKeeps k s0 r) (e : r = .go a b c t) : Keeps k s0 t := h.go _ _ _ _ e
theorem keeps_ite {c : Prop} [Decidable c] {a b : State} (ha : Keeps k s0 a) (hb : Keeps k s0 b) : Keeps k s0 (if c then a else b) := by
  split <;> assumption
theorem pairKeeps_ite {c : Prop} [Decidable c] {a b : α × State} (ha : PairKeeps k s0 a) (hb : PairKeeps k s0 b) : PairKeeps k s0 (if c then a else b) := by
  split <;> assumption
theorem tripleKeeps_ite {c : Prop} [Decidable c] {a b : α × β × State} (ha : TripleKeeps k s0 a) (hb : TripleKeeps k s0 b) : TripleKeeps k s0 (if c then a else b) := by
  split <;> assumption
theorem optKeeps_ite {c : Prop} [Decidable c] {a b : Option State} (ha : OptKeeps k s0 a) (hb : OptKeeps k s0 b) : OptKeeps k s0 (if c then a else b) := by
  split <;> assumption
theorem optPairKeeps_ite {c : Prop} [Decidable c] {a b : Option (α × State)} (ha : OptPairKeeps k s0 a) (hb : OptPairKeeps k s0 b) : OptPairKeeps k s0 (if c then a else b) := by
  split <;> assumption
theorem effKeeps_ite {c : Prop} [Decidable c] {a b : Eff} (ha : EffKeeps k s0 a) (hb : EffKeeps k s0 b) : EffKeeps k s0 (if c then a else b) := by
  split <;> assumption
theorem gotKeeps_ite {c : Prop} [Decidable c] {a b : Got} (ha : GotKeeps k s0 a) (hb : GotKeeps k s0 b) : GotKeeps k s0 (if c then a else b) := by
  split <;> assumption
theorem objStepKeeps_ite {c : Prop} [Decidable c] {a b : ObjStep} (ha : ObjStepKeeps k s0 a) (hb : ObjStepKeeps k s0 b) : ObjStepKeeps k s0 (if c then a else b) := by
  split <;> assumption
theorem servedKeeps_ite {c : Prop} [Decidable c] {a b : Served} (ha : ServedKeeps k s0 a) (hb : ServedKeeps k s0 b) : ServedKeeps k s0 (if c then a else b) := by
  split <;> assumption
theorem beginKeeps_ite {c : Prop} [Decidable c] {a b : Begin} (ha : BeginKeeps k s0 a) (hb : BeginKeeps k s0 b) : BeginKeeps k s0 (if c then a else b) := by
  split <;> assumption
theorem tripleKeeps_foldl {γ : Type} {f : α × β × State → γ → α × β × State} (l : List γ) {p : α × β × State}
    (hf : ∀ p x, TripleKeeps k s0 p → TripleKeeps k s0 (f p x)) (h : TripleKeeps k s0 p) : TripleKeeps k s0 (l.foldl f p) := by
  induction l generalizing p with
  | nil => exact h
  | cons x t ih => exact ih (hf p x h)
theorem objStepKeeps_foldl {f : ObjStep → β → ObjStep} (l : List β) {p : ObjStep}
    (hf : ∀ p x, ObjStepKeeps k s0 p → ObjStepKeeps k s0 (f p x)) (h : ObjStepKeeps k s0 p) : ObjStepKeeps k s0 (l.foldl f p) := by
  induction l generalizing p with
  | nil => exact h
  | cons x t ih => exact ih (hf p x h)
theorem optKeeps_map {f : β → State} {o : Option β} (hf : ∀ x, Keeps k s0 (f x)) : OptKeeps k s0 (o.map f) := by
  cases o with
  | none => exact keeps_none
  | some x => exact keeps_some (hf x)
theorem optKeeps_orElse {o : Option State} {f : Unit → Option State} (ho : OptKeeps k s0 o) (hf : ∀ u, OptKeeps k s0 (f u)) :
    OptKeeps k s0 (o.orElse f) := by
  cases o with
  | none => exact hf ()
  | some x => exact ho
theorem keeps_getD {o : Option State} {t : State} (ho : OptKeeps k s0 o) (h : Keeps k s0 t) : Keeps k s0 (o.getD t) := by
  cases o with
  | none => exact h
  | some x => exact ho x rfl
theorem keeps_id {s : State} (h : Keeps k s0 s) : Keeps k s0 (id s) := h
theorem keeps_foldl {f : State → β → State} (l : List β) {s : State} (hf : ∀ s x, Keeps k s0 s → Keeps k s0 (f s x))
    (h : Keeps k s0 s) : Keeps k s0 (l.foldl f s) := by
  induction l generalizing s with
  | nil => exact h
  | cons x t ih => exact ih (hf s x h)
theorem keeps_foldlP {f : α × State → β → α × State} (l : List β) {p : α × State}
    (hf : ∀ p x, PairKeeps k s0 p → PairKeeps k s0 (f p x)) (h : PairKeeps k s0 p) : PairKeeps k s0 (l.foldl f p) := by
  induction l generalizing p with
  | nil => exact h
  | cons x t ih => exact ih (hf p x h)
end
theorem keeps_mk {k : List Part} {s0 s : State} {x_pending} {x_nclk} {x_free} {x_ctl} {x_locks} {x_latch} {x_mem} {x_ev} {x_seams} {x_ms} {x_t3} {x_mxes} {x_semNow} {x_slots} {x_refetch} {x_qos} {x_knc} {x_cores} {x_hp0} {x_engs} {x_pool} {x_plt} {x_tags} {x_fabQ} {x_mgmt} {x_persist} {x_out}
    (h : Keeps k s0 s) (e_pending : x_pending = s.pending)
    (e_nclk : x_nclk = s.nclk ∨ sub [.nclk] k)
    (e_free : x_free = s.free ∨ sub [.free] k)
    (e_ctl : x_ctl = s.ctl ∨ sub [.ctl] k)
    (e_locks : x_locks = s.locks ∨ sub [.locks] k)
    (e_latch : x_latch = s.latch ∨ sub [.latch] k)
    (e_mem : x_mem = s.mem ∨ sub [.mem] k)
    (e_ev : x_ev = s.ev ∨ sub [.ev] k)
    (e_seams : x_seams = s.seams ∨ sub [.seams] k)
    (e_ms : x_ms = s.ms ∨ sub [.ms] k)
    (e_t3 : x_t3 = s.t3 ∨ sub [.t3] k)
    (e_mxes : x_mxes = s.mxes ∨ sub [.mxes] k)
    (e_semNow : x_semNow = s.semNow ∨ sub [.semNow] k)
    (e_slots : x_slots = s.slots ∨ sub [.slots] k)
    (e_refetch : x_refetch = s.refetch ∨ sub [.refetch] k)
    (e_qos : x_qos = s.qos ∨ sub [.qos] k)
    (e_knc : x_knc = s.knc ∨ sub [.knc] k)
    (e_cores : x_cores = s.cores ∨ sub [.cores] k)
    (e_hp0 : x_hp0 = s.hp0 ∨ sub [.hp0] k)
    (e_engs : x_engs = s.engs ∨ sub [.engs] k)
    (e_pool : x_pool = s.pool ∨ sub [.pool] k)
    (e_plt : x_plt = s.plt ∨ sub [.plt] k)
    (e_tags : x_tags = s.tags ∨ sub [.tags] k)
    (e_fabQ : x_fabQ = s.fabQ ∨ sub [.fabQ] k)
    (e_mgmt : x_mgmt = s.mgmt ∨ sub [.mgmt] k)
    (e_persist : x_persist = s.persist ∨ sub [.persist] k)
    (e_out : x_out = s.out ∨ sub [.out] k)
    (w : s.bytesWf = true → (Memory.wf x_mem && Memory.wf x_cores.scratch && Memory.wf x_t3.cells && Memory.wf x_mgmt.flash) = true) :
    Keeps k s0 (State.mk x_pending x_nclk x_free x_ctl x_locks x_latch x_mem x_ev x_seams x_ms x_t3 x_mxes x_semNow x_slots x_refetch x_qos x_knc x_cores x_hp0 x_engs x_pool x_plt x_tags x_fabQ x_mgmt x_persist x_out) := by
  obtain ⟨h0, h1, h_nclk, h_free, h_ctl, h_locks, h_latch, h_mem, h_ev, h_seams, h_ms, h_t3, h_mxes, h_semNow, h_slots, h_refetch, h_qos, h_knc, h_cores, h_hp0, h_engs, h_pool, h_plt, h_tags, h_fabQ, h_mgmt, h_persist, h_out⟩ := h
  refine ⟨e_pending.trans h0, fun q => w (h1 q), ?_, ?_, ?_, ?_, ?_, ?_, ?_, ?_, ?_, ?_, ?_, ?_, ?_, ?_, ?_, ?_, ?_, ?_, ?_, ?_, ?_, ?_, ?_, ?_, ?_, ?_⟩
  · intro q; rcases e_nclk with e | e
    · exact e.trans (h_nclk q)
    · exact absurd (e _ (List.mem_singleton.2 rfl)) q
  · intro q; rcases e_free with e | e
    · exact e.trans (h_free q)
    · exact absurd (e _ (List.mem_singleton.2 rfl)) q
  · intro q; rcases e_ctl with e | e
    · exact e.trans (h_ctl q)
    · exact absurd (e _ (List.mem_singleton.2 rfl)) q
  · intro q; rcases e_locks with e | e
    · exact e.trans (h_locks q)
    · exact absurd (e _ (List.mem_singleton.2 rfl)) q
  · intro q; rcases e_latch with e | e
    · exact e.trans (h_latch q)
    · exact absurd (e _ (List.mem_singleton.2 rfl)) q
  · intro q; rcases e_mem with e | e
    · exact e.trans (h_mem q)
    · exact absurd (e _ (List.mem_singleton.2 rfl)) q
  · intro q; rcases e_ev with e | e
    · exact e.trans (h_ev q)
    · exact absurd (e _ (List.mem_singleton.2 rfl)) q
  · intro q; rcases e_seams with e | e
    · exact e.trans (h_seams q)
    · exact absurd (e _ (List.mem_singleton.2 rfl)) q
  · intro q; rcases e_ms with e | e
    · exact e.trans (h_ms q)
    · exact absurd (e _ (List.mem_singleton.2 rfl)) q
  · intro q; rcases e_t3 with e | e
    · exact e.trans (h_t3 q)
    · exact absurd (e _ (List.mem_singleton.2 rfl)) q
  · intro q; rcases e_mxes with e | e
    · exact e.trans (h_mxes q)
    · exact absurd (e _ (List.mem_singleton.2 rfl)) q
  · intro q; rcases e_semNow with e | e
    · exact e.trans (h_semNow q)
    · exact absurd (e _ (List.mem_singleton.2 rfl)) q
  · intro q; rcases e_slots with e | e
    · exact e.trans (h_slots q)
    · exact absurd (e _ (List.mem_singleton.2 rfl)) q
  · intro q; rcases e_refetch with e | e
    · exact e.trans (h_refetch q)
    · exact absurd (e _ (List.mem_singleton.2 rfl)) q
  · intro q; rcases e_qos with e | e
    · exact e.trans (h_qos q)
    · exact absurd (e _ (List.mem_singleton.2 rfl)) q
  · intro q; rcases e_knc with e | e
    · exact e.trans (h_knc q)
    · exact absurd (e _ (List.mem_singleton.2 rfl)) q
  · intro q; rcases e_cores with e | e
    · exact e.trans (h_cores q)
    · exact absurd (e _ (List.mem_singleton.2 rfl)) q
  · intro q; rcases e_hp0 with e | e
    · exact e.trans (h_hp0 q)
    · exact absurd (e _ (List.mem_singleton.2 rfl)) q
  · intro q; rcases e_engs with e | e
    · exact e.trans (h_engs q)
    · exact absurd (e _ (List.mem_singleton.2 rfl)) q
  · intro q; rcases e_pool with e | e
    · exact e.trans (h_pool q)
    · exact absurd (e _ (List.mem_singleton.2 rfl)) q
  · intro q; rcases e_plt with e | e
    · exact e.trans (h_plt q)
    · exact absurd (e _ (List.mem_singleton.2 rfl)) q
  · intro q; rcases e_tags with e | e
    · exact e.trans (h_tags q)
    · exact absurd (e _ (List.mem_singleton.2 rfl)) q
  · intro q; rcases e_fabQ with e | e
    · exact e.trans (h_fabQ q)
    · exact absurd (e _ (List.mem_singleton.2 rfl)) q
  · intro q; rcases e_mgmt with e | e
    · exact e.trans (h_mgmt q)
    · exact absurd (e _ (List.mem_singleton.2 rfl)) q
  · intro q; rcases e_persist with e | e
    · exact e.trans (h_persist q)
    · exact absurd (e _ (List.mem_singleton.2 rfl)) q
  · intro q; rcases e_out with e | e
    · exact e.trans (h_out q)
    · exact absurd (e _ (List.mem_singleton.2 rfl)) q

/-! ### One part of the state replaced -/

section
variable {k : List Part} {s0 s : State}
theorem keeps_with_nclk {x} (e : sub [.nclk] k) (h : Keeps k s0 s) : Keeps k s0 { s with nclk := x } :=
  keeps_mk h rfl (.inr e) (.inl rfl) (.inl rfl) (.inl rfl) (.inl rfl) (.inl rfl) (.inl rfl) (.inl rfl) (.inl rfl) (.inl rfl) (.inl rfl) (.inl rfl) (.inl rfl) (.inl rfl) (.inl rfl) (.inl rfl) (.inl rfl) (.inl rfl) (.inl rfl) (.inl rfl) (.inl rfl) (.inl rfl) (.inl rfl) (.inl rfl) (.inl rfl) (.inl rfl) bytesWf_same
theorem keeps_with_free {x} (e : sub [.free] k) (h : Keeps k s0 s) : Keeps k s0 { s with free := x } :=
  keeps_mk h rfl (.inl rfl) (.inr e) (.inl rfl) (.inl rfl) (.inl rfl) (.inl rfl) (.inl rfl) (.inl rfl) (.inl rfl) (.inl rfl) (.inl rfl) (.inl rfl) (.inl rfl) (.inl rfl) (.inl rfl) (.inl rfl) (.inl rfl) (.inl rfl) (.inl rfl) (.inl rfl) (.inl rfl) (.inl rfl) (.inl rfl) (.inl rfl) (.inl rfl) (.inl rfl) bytesWf_same
theorem keeps_with_ctl {x} (e : sub [.ctl] k) (h : Keeps k s0 s) : Keeps k s0 { s with ctl := x } :=
  keeps_mk h rfl (.inl rfl) (.inl rfl) (.inr e) (.inl rfl) (.inl rfl) (.inl rfl) (.inl rfl) (.inl rfl) (.inl rfl) (.inl rfl) (.inl rfl) (.inl rfl) (.inl rfl) (.inl rfl) (.inl rfl) (.inl rfl) (.inl rfl) (.inl rfl) (.inl rfl) (.inl rfl) (.inl rfl) (.inl rfl) (.inl rfl) (.inl rfl) (.inl rfl) (.inl rfl) bytesWf_same
theorem keeps_with_locks {x} (e : sub [.locks] k) (h : Keeps k s0 s) : Keeps k s0 { s with locks := x } :=
  keeps_mk h rfl (.inl rfl) (.inl rfl) (.inl rfl) (.inr e) (.inl rfl) (.inl rfl) (.inl rfl) (.inl rfl) (.inl rfl) (.inl rfl) (.inl rfl) (.inl rfl) (.inl rfl) (.inl rfl) (.inl rfl) (.inl rfl) (.inl rfl) (.inl rfl) (.inl rfl) (.inl rfl) (.inl rfl) (.inl rfl) (.inl rfl) (.inl rfl) (.inl rfl) (.inl rfl) bytesWf_same
theorem keeps_with_latch {x} (e : sub [.latch] k) (h : Keeps k s0 s) : Keeps k s0 { s with latch := x } :=
  keeps_mk h rfl (.inl rfl) (.inl rfl) (.inl rfl) (.inl rfl) (.inr e) (.inl rfl) (.inl rfl) (.inl rfl) (.inl rfl) (.inl rfl) (.inl rfl) (.inl rfl) (.inl rfl) (.inl rfl) (.inl rfl) (.inl rfl) (.inl rfl) (.inl rfl) (.inl rfl) (.inl rfl) (.inl rfl) (.inl rfl) (.inl rfl) (.inl rfl) (.inl rfl) (.inl rfl) bytesWf_same
theorem keeps_with_mem {x} (e : sub [.mem] k) (h : Keeps k s0 s) (w : Memory.wf s.mem = true → Memory.wf x = true) : Keeps k s0 { s with mem := x } :=
  keeps_mk h rfl (.inl rfl) (.inl rfl) (.inl rfl) (.inl rfl) (.inl rfl) (.inr e) (.inl rfl) (.inl rfl) (.inl rfl) (.inl rfl) (.inl rfl) (.inl rfl) (.inl rfl) (.inl rfl) (.inl rfl) (.inl rfl) (.inl rfl) (.inl rfl) (.inl rfl) (.inl rfl) (.inl rfl) (.inl rfl) (.inl rfl) (.inl rfl) (.inl rfl) (.inl rfl) (fun q => bytesWf_of (w (bytesWf_parts q).1) (bytesWf_parts q).2.1 (bytesWf_parts q).2.2.1 (bytesWf_parts q).2.2.2)
theorem keeps_with_ev {x} (e : sub [.ev] k) (h : Keeps k s0 s) : Keeps k s0 { s with ev := x } :=
  keeps_mk h rfl (.inl rfl) (.inl rfl) (.inl rfl) (.inl rfl) (.inl rfl) (.inl rfl) (.inr e) (.inl rfl) (.inl rfl) (.inl rfl) (.inl rfl) (.inl rfl) (.inl rfl) (.inl rfl) (.inl rfl) (.inl rfl) (.inl rfl) (.inl rfl) (.inl rfl) (.inl rfl) (.inl rfl) (.inl rfl) (.inl rfl) (.inl rfl) (.inl rfl) (.inl rfl) bytesWf_same
theorem keeps_with_seams {x} (e : sub [.seams] k) (h : Keeps k s0 s) : Keeps k s0 { s with seams := x } :=
  keeps_mk h rfl (.inl rfl) (.inl rfl) (.inl rfl) (.inl rfl) (.inl rfl) (.inl rfl) (.inl rfl) (.inr e) (.inl rfl) (.inl rfl) (.inl rfl) (.inl rfl) (.inl rfl) (.inl rfl) (.inl rfl) (.inl rfl) (.inl rfl) (.inl rfl) (.inl rfl) (.inl rfl) (.inl rfl) (.inl rfl) (.inl rfl) (.inl rfl) (.inl rfl) (.inl rfl) bytesWf_same
theorem keeps_with_ms {x} (e : sub [.ms] k) (h : Keeps k s0 s) : Keeps k s0 { s with ms := x } :=
  keeps_mk h rfl (.inl rfl) (.inl rfl) (.inl rfl) (.inl rfl) (.inl rfl) (.inl rfl) (.inl rfl) (.inl rfl) (.inr e) (.inl rfl) (.inl rfl) (.inl rfl) (.inl rfl) (.inl rfl) (.inl rfl) (.inl rfl) (.inl rfl) (.inl rfl) (.inl rfl) (.inl rfl) (.inl rfl) (.inl rfl) (.inl rfl) (.inl rfl) (.inl rfl) (.inl rfl) bytesWf_same
theorem keeps_with_t3 {x} (e : sub [.t3] k) (h : Keeps k s0 s) (w : Memory.wf s.t3.cells = true → Memory.wf x.cells = true) : Keeps k s0 { s with t3 := x } :=
  keeps_mk h rfl (.inl rfl) (.inl rfl) (.inl rfl) (.inl rfl) (.inl rfl) (.inl rfl) (.inl rfl) (.inl rfl) (.inl rfl) (.inr e) (.inl rfl) (.inl rfl) (.inl rfl) (.inl rfl) (.inl rfl) (.inl rfl) (.inl rfl) (.inl rfl) (.inl rfl) (.inl rfl) (.inl rfl) (.inl rfl) (.inl rfl) (.inl rfl) (.inl rfl) (.inl rfl) (fun q => bytesWf_of (bytesWf_parts q).1 (bytesWf_parts q).2.1 (w (bytesWf_parts q).2.2.1) (bytesWf_parts q).2.2.2)
theorem keeps_with_mxes {x} (e : sub [.mxes] k) (h : Keeps k s0 s) : Keeps k s0 { s with mxes := x } :=
  keeps_mk h rfl (.inl rfl) (.inl rfl) (.inl rfl) (.inl rfl) (.inl rfl) (.inl rfl) (.inl rfl) (.inl rfl) (.inl rfl) (.inl rfl) (.inr e) (.inl rfl) (.inl rfl) (.inl rfl) (.inl rfl) (.inl rfl) (.inl rfl) (.inl rfl) (.inl rfl) (.inl rfl) (.inl rfl) (.inl rfl) (.inl rfl) (.inl rfl) (.inl rfl) (.inl rfl) bytesWf_same
theorem keeps_with_semNow {x} (e : sub [.semNow] k) (h : Keeps k s0 s) : Keeps k s0 { s with semNow := x } :=
  keeps_mk h rfl (.inl rfl) (.inl rfl) (.inl rfl) (.inl rfl) (.inl rfl) (.inl rfl) (.inl rfl) (.inl rfl) (.inl rfl) (.inl rfl) (.inl rfl) (.inr e) (.inl rfl) (.inl rfl) (.inl rfl) (.inl rfl) (.inl rfl) (.inl rfl) (.inl rfl) (.inl rfl) (.inl rfl) (.inl rfl) (.inl rfl) (.inl rfl) (.inl rfl) (.inl rfl) bytesWf_same
theorem keeps_with_slots {x} (e : sub [.slots] k) (h : Keeps k s0 s) : Keeps k s0 { s with slots := x } :=
  keeps_mk h rfl (.inl rfl) (.inl rfl) (.inl rfl) (.inl rfl) (.inl rfl) (.inl rfl) (.inl rfl) (.inl rfl) (.inl rfl) (.inl rfl) (.inl rfl) (.inl rfl) (.inr e) (.inl rfl) (.inl rfl) (.inl rfl) (.inl rfl) (.inl rfl) (.inl rfl) (.inl rfl) (.inl rfl) (.inl rfl) (.inl rfl) (.inl rfl) (.inl rfl) (.inl rfl) bytesWf_same
theorem keeps_with_refetch {x} (e : sub [.refetch] k) (h : Keeps k s0 s) : Keeps k s0 { s with refetch := x } :=
  keeps_mk h rfl (.inl rfl) (.inl rfl) (.inl rfl) (.inl rfl) (.inl rfl) (.inl rfl) (.inl rfl) (.inl rfl) (.inl rfl) (.inl rfl) (.inl rfl) (.inl rfl) (.inl rfl) (.inr e) (.inl rfl) (.inl rfl) (.inl rfl) (.inl rfl) (.inl rfl) (.inl rfl) (.inl rfl) (.inl rfl) (.inl rfl) (.inl rfl) (.inl rfl) (.inl rfl) bytesWf_same
theorem keeps_with_qos {x} (e : sub [.qos] k) (h : Keeps k s0 s) : Keeps k s0 { s with qos := x } :=
  keeps_mk h rfl (.inl rfl) (.inl rfl) (.inl rfl) (.inl rfl) (.inl rfl) (.inl rfl) (.inl rfl) (.inl rfl) (.inl rfl) (.inl rfl) (.inl rfl) (.inl rfl) (.inl rfl) (.inl rfl) (.inr e) (.inl rfl) (.inl rfl) (.inl rfl) (.inl rfl) (.inl rfl) (.inl rfl) (.inl rfl) (.inl rfl) (.inl rfl) (.inl rfl) (.inl rfl) bytesWf_same
theorem keeps_with_knc {x} (e : sub [.knc] k) (h : Keeps k s0 s) : Keeps k s0 { s with knc := x } :=
  keeps_mk h rfl (.inl rfl) (.inl rfl) (.inl rfl) (.inl rfl) (.inl rfl) (.inl rfl) (.inl rfl) (.inl rfl) (.inl rfl) (.inl rfl) (.inl rfl) (.inl rfl) (.inl rfl) (.inl rfl) (.inl rfl) (.inr e) (.inl rfl) (.inl rfl) (.inl rfl) (.inl rfl) (.inl rfl) (.inl rfl) (.inl rfl) (.inl rfl) (.inl rfl) (.inl rfl) bytesWf_same
theorem keeps_with_cores {x} (e : sub [.cores] k) (h : Keeps k s0 s) (w : Memory.wf s.cores.scratch = true → Memory.wf x.scratch = true) : Keeps k s0 { s with cores := x } :=
  keeps_mk h rfl (.inl rfl) (.inl rfl) (.inl rfl) (.inl rfl) (.inl rfl) (.inl rfl) (.inl rfl) (.inl rfl) (.inl rfl) (.inl rfl) (.inl rfl) (.inl rfl) (.inl rfl) (.inl rfl) (.inl rfl) (.inl rfl) (.inr e) (.inl rfl) (.inl rfl) (.inl rfl) (.inl rfl) (.inl rfl) (.inl rfl) (.inl rfl) (.inl rfl) (.inl rfl) (fun q => bytesWf_of (bytesWf_parts q).1 (w (bytesWf_parts q).2.1) (bytesWf_parts q).2.2.1 (bytesWf_parts q).2.2.2)
theorem keeps_with_hp0 {x} (e : sub [.hp0] k) (h : Keeps k s0 s) : Keeps k s0 { s with hp0 := x } :=
  keeps_mk h rfl (.inl rfl) (.inl rfl) (.inl rfl) (.inl rfl) (.inl rfl) (.inl rfl) (.inl rfl) (.inl rfl) (.inl rfl) (.inl rfl) (.inl rfl) (.inl rfl) (.inl rfl) (.inl rfl) (.inl rfl) (.inl rfl) (.inl rfl) (.inr e) (.inl rfl) (.inl rfl) (.inl rfl) (.inl rfl) (.inl rfl) (.inl rfl) (.inl rfl) (.inl rfl) bytesWf_same
theorem keeps_with_engs {x} (e : sub [.engs] k) (h : Keeps k s0 s) : Keeps k s0 { s with engs := x } :=
  keeps_mk h rfl (.inl rfl) (.inl rfl) (.inl rfl) (.inl rfl) (.inl rfl) (.inl rfl) (.inl rfl) (.inl rfl) (.inl rfl) (.inl rfl) (.inl rfl) (.inl rfl) (.inl rfl) (.inl rfl) (.inl rfl) (.inl rfl) (.inl rfl) (.inl rfl) (.inr e) (.inl rfl) (.inl rfl) (.inl rfl) (.inl rfl) (.inl rfl) (.inl rfl) (.inl rfl) bytesWf_same
theorem keeps_with_pool {x} (e : sub [.pool] k) (h : Keeps k s0 s) : Keeps k s0 { s with pool := x } :=
  keeps_mk h rfl (.inl rfl) (.inl rfl) (.inl rfl) (.inl rfl) (.inl rfl) (.inl rfl) (.inl rfl) (.inl rfl) (.inl rfl) (.inl rfl) (.inl rfl) (.inl rfl) (.inl rfl) (.inl rfl) (.inl rfl) (.inl rfl) (.inl rfl) (.inl rfl) (.inl rfl) (.inr e) (.inl rfl) (.inl rfl) (.inl rfl) (.inl rfl) (.inl rfl) (.inl rfl) bytesWf_same
theorem keeps_with_plt {x} (e : sub [.plt] k) (h : Keeps k s0 s) : Keeps k s0 { s with plt := x } :=
  keeps_mk h rfl (.inl rfl) (.inl rfl) (.inl rfl) (.inl rfl) (.inl rfl) (.inl rfl) (.inl rfl) (.inl rfl) (.inl rfl) (.inl rfl) (.inl rfl) (.inl rfl) (.inl rfl) (.inl rfl) (.inl rfl) (.inl rfl) (.inl rfl) (.inl rfl) (.inl rfl) (.inl rfl) (.inr e) (.inl rfl) (.inl rfl) (.inl rfl) (.inl rfl) (.inl rfl) bytesWf_same
theorem keeps_with_tags {x} (e : sub [.tags] k) (h : Keeps k s0 s) : Keeps k s0 { s with tags := x } :=
  keeps_mk h rfl (.inl rfl) (.inl rfl) (.inl rfl) (.inl rfl) (.inl rfl) (.inl rfl) (.inl rfl) (.inl rfl) (.inl rfl) (.inl rfl) (.inl rfl) (.inl rfl) (.inl rfl) (.inl rfl) (.inl rfl) (.inl rfl) (.inl rfl) (.inl rfl) (.inl rfl) (.inl rfl) (.inl rfl) (.inr e) (.inl rfl) (.inl rfl) (.inl rfl) (.inl rfl) bytesWf_same
theorem keeps_with_fabQ {x} (e : sub [.fabQ] k) (h : Keeps k s0 s) : Keeps k s0 { s with fabQ := x } :=
  keeps_mk h rfl (.inl rfl) (.inl rfl) (.inl rfl) (.inl rfl) (.inl rfl) (.inl rfl) (.inl rfl) (.inl rfl) (.inl rfl) (.inl rfl) (.inl rfl) (.inl rfl) (.inl rfl) (.inl rfl) (.inl rfl) (.inl rfl) (.inl rfl) (.inl rfl) (.inl rfl) (.inl rfl) (.inl rfl) (.inl rfl) (.inr e) (.inl rfl) (.inl rfl) (.inl rfl) bytesWf_same
theorem keeps_with_mgmt {x} (e : sub [.mgmt] k) (h : Keeps k s0 s) (w : Memory.wf s.mgmt.flash = true → Memory.wf x.flash = true) : Keeps k s0 { s with mgmt := x } :=
  keeps_mk h rfl (.inl rfl) (.inl rfl) (.inl rfl) (.inl rfl) (.inl rfl) (.inl rfl) (.inl rfl) (.inl rfl) (.inl rfl) (.inl rfl) (.inl rfl) (.inl rfl) (.inl rfl) (.inl rfl) (.inl rfl) (.inl rfl) (.inl rfl) (.inl rfl) (.inl rfl) (.inl rfl) (.inl rfl) (.inl rfl) (.inl rfl) (.inr e) (.inl rfl) (.inl rfl) (fun q => bytesWf_of (bytesWf_parts q).1 (bytesWf_parts q).2.1 (bytesWf_parts q).2.2.1 (w (bytesWf_parts q).2.2.2))
theorem keeps_with_persist {x} (e : sub [.persist] k) (h : Keeps k s0 s) : Keeps k s0 { s with persist := x } :=
  keeps_mk h rfl (.inl rfl) (.inl rfl) (.inl rfl) (.inl rfl) (.inl rfl) (.inl rfl) (.inl rfl) (.inl rfl) (.inl rfl) (.inl rfl) (.inl rfl) (.inl rfl) (.inl rfl) (.inl rfl) (.inl rfl) (.inl rfl) (.inl rfl) (.inl rfl) (.inl rfl) (.inl rfl) (.inl rfl) (.inl rfl) (.inl rfl) (.inl rfl) (.inr e) (.inl rfl) bytesWf_same
theorem keeps_with_out {x} (e : sub [.out] k) (h : Keeps k s0 s) : Keeps k s0 { s with out := x } :=
  keeps_mk h rfl (.inl rfl) (.inl rfl) (.inl rfl) (.inl rfl) (.inl rfl) (.inl rfl) (.inl rfl) (.inl rfl) (.inl rfl) (.inl rfl) (.inl rfl) (.inl rfl) (.inl rfl) (.inl rfl) (.inl rfl) (.inl rfl) (.inl rfl) (.inl rfl) (.inl rfl) (.inl rfl) (.inl rfl) (.inl rfl) (.inl rfl) (.inl rfl) (.inl rfl) (.inr e) bytesWf_same
end

end Sys2Proof.Machine
end

