-- ==== Sys2Proof/Laws/Ops.lean ====
section
/-! SUPPORT. For each operation of Machine/Ops.lean, which parts of the state it may change: `kept_f` says that `f` keeps
everything but the parts listed in its first hypothesis, from any state that the states it is given were kept from. -/

namespace Sys2Proof.Machine

theorem kept_setReg {P : List Part} {base : State} {r : Reg} {v : Nat} {s : State} (hP : sub [.ctl] P) (h_s : Keeps P base s) :
    Keeps P base (setReg r v s) := by
  unfold setReg
  try dsimp only
  with_reducible repeat' first
    | assumption
    | refine keeps_ite ?_ ?_
    | split
  all_goals try (with_reducible refine keeps_with_ctl (sub_trans (by decide) hP) ?_)
  all_goals with_reducible repeat' first
    | assumption
    | refine keeps_ite ?_ ?_
    | split

theorem kept_bump {P : List Part} {base : State} {r : Reg} {n : Nat} {s : State} (hP : sub [.ctl] P) (h_s : Keeps P base s) :
    Keeps P base (bump r n s) := by
  unfold bump
  try dsimp only
  with_reducible repeat' first
    | assumption
    | refine keeps_ite ?_ ?_
    | refine kept_setReg (sub_trans (by decide) hP) ?_
    | split

theorem kept_evSuppress {P : List Part} {base : State} {e : EvRec} {s : State} (hP : sub [.ev] P) (h_s : Keeps P base s) :
    Keeps P base (evSuppress e s) := by
  unfold evSuppress
  try dsimp only
  with_reducible repeat' first
    | assumption
    | refine keeps_ite ?_ ?_
    | split
  all_goals try (with_reducible refine keeps_with_ev (sub_trans (by decide) hP) ?_)
  all_goals with_reducible repeat' first
    | assumption
    | refine keeps_ite ?_ ?_
    | split

theorem kept_evSuppressTr {P : List Part} {base : State} {t : Nat} {s : State} (hP : sub [.ev] P) (h_s : Keeps P base s) :
    Keeps P base (evSuppressTr t s) := by
  unfold evSuppressTr
  try dsimp only
  with_reducible repeat' first
    | assumption
    | refine keeps_ite ?_ ?_
    | split
  all_goals try (with_reducible refine keeps_with_ev (sub_trans (by decide) hP) ?_)
  all_goals with_reducible repeat' first
    | assumption
    | refine keeps_ite ?_ ?_
    | split

theorem kept_evDrop {P : List Part} {base : State} {e : EvRec} {s : State} (hP : sub [.ctl, .ev] P) (h_s : Keeps P base s) :
    Keeps P base (evDrop e s) := by
  unfold evDrop
  try dsimp only
  with_reducible repeat' first
    | assumption
    | refine keeps_ite ?_ ?_
    | refine kept_bump (sub_trans (by decide) hP) ?_
    | refine kept_evSuppress (sub_trans (by decide) hP) ?_
    | refine kept_evSuppressTr (sub_trans (by decide) hP) ?_
    | split

theorem kept_evEnqueue {P : List Part} {base : State} {e : EvRec} {s : State} (hP : sub [.ctl, .ev] P) (h_s : Keeps P base s) :
    Keeps P base (evEnqueue e s) := by
  unfold evEnqueue
  try dsimp only
  with_reducible repeat' first
    | assumption
    | refine keeps_ite ?_ ?_
    | refine kept_evDrop (sub_trans (by decide) hP) ?_
    | split
  all_goals try (with_reducible refine keeps_with_ev (sub_trans (by decide) hP) ?_)
  all_goals with_reducible repeat' first
    | assumption
    | refine keeps_ite ?_ ?_
    | refine kept_evDrop (sub_trans (by decide) hP) ?_
    | split

theorem kept_raise {P : List Part} {base : State} {e : EvRec} {s : State} (hP : sub [.ctl, .ev] P) (h_s : Keeps P base s) :
    Keeps P base (raise e s) := by
  unfold raise
  try dsimp only
  with_reducible repeat' first
    | assumption
    | refine keeps_ite ?_ ?_
    | refine kept_bump (sub_trans (by decide) hP) ?_
    | refine kept_evEnqueue (sub_trans (by decide) hP) ?_
    | split

theorem kept_event {P : List Part} {base : State} {code : Nat} {kind : Nat} {inst : Nat} {p0 : Nat} {p1 : Nat} {p2 : Nat} {p3 : Nat} {s : State} (hP : sub [.ctl, .ev] P) (h_s : Keeps P base s) :
    Keeps P base (event code kind inst p0 p1 p2 p3 s) := by
  unfold event
  try dsimp only
  with_reducible repeat' first
    | assumption
    | refine keeps_ite ?_ ?_
    | refine kept_raise (sub_trans (by decide) hP) ?_
    | split

theorem kept_setFld {P : List Part} {base : State} {r : Reg} {f : Fld} {v : Nat} {s : State} (hP : sub [.ctl] P) (h_s : Keeps P base s) :
    Keeps P base (setFld r f v s) := by
  unfold setFld
  try dsimp only
  with_reducible repeat' first
    | assumption
    | refine keeps_ite ?_ ?_
    | refine kept_setReg (sub_trans (by decide) hP) ?_
    | split

theorem kept_freshWord {P : List Part} {base : State} {s : State} (hP : sub [.free] P) (h_s : Keeps P base s) :
    PairKeeps P base (freshWord s) := by
  unfold freshWord
  try dsimp only
  with_reducible repeat' first
    | assumption
    | refine keeps_ite ?_ ?_
    | refine pairKeeps_ite ?_ ?_
    | refine snd_of ?_
    | refine of_pair ?_ (by assumption)
    | split
    | refine keeps_pair ?_
  all_goals try (with_reducible refine keeps_with_free (sub_trans (by decide) hP) ?_)
  all_goals with_reducible repeat' first
    | assumption
    | refine keeps_ite ?_ ?_
    | refine pairKeeps_ite ?_ ?_
    | refine snd_of ?_
    | refine of_pair ?_ (by assumption)
    | split
    | refine keeps_pair ?_

theorem kept_stopWrite {P : List Part} {base : State} {who : Who} {s : State} (hP : sub [.ctl] P) (h_s : Keeps P base s) :
    Keeps P base (stopWrite who s) := by
  unfold stopWrite
  try dsimp only
  with_reducible repeat' first
    | assumption
    | refine keeps_ite ?_ ?_
    | refine kept_bump (sub_trans (by decide) hP) ?_
    | split

theorem kept_ignoredWrite {P : List Part} {base : State} {who : Who} {off : Nat} {s : State} (hP : sub [.ctl, .ev] P) (h_s : Keeps P base s) :
    Keeps P base (ignoredWrite who off s) := by
  unfold ignoredWrite
  try dsimp only
  with_reducible repeat' first
    | assumption
    | refine keeps_ite ?_ ?_
    | refine kept_event (sub_trans (by decide) hP) ?_
    | refine kept_stopWrite (sub_trans (by decide) hP) ?_
    | split

theorem kept_zeroRegs {P : List Part} {base : State} {rs : List Reg} {s : State} (hP : sub [.ctl] P) (h_s : Keeps P base s) :
    Keeps P base (zeroRegs rs s) := by
  unfold zeroRegs
  try dsimp only
  with_reducible repeat' first
    | assumption
    | refine keeps_ite ?_ ?_
    | refine kept_setReg (sub_trans (by decide) hP) ?_
    | refine keeps_foldl _ (fun _ _ _ => ?_) ?_
    | refine keeps_foldlP _ (fun _ _ _ => ?_) ?_
    | refine tripleKeeps_foldl _ (fun _ _ _ => ?_) ?_
    | refine objStepKeeps_foldl _ (fun _ _ _ => ?_) ?_
    | split

theorem kept_tenantEvent {P : List Part} {base : State} {code : Nat} {kind : Nat} {inst : Nat} {tenant : Nat} {p0 : Nat} {p1 : Nat} {p2 : Nat} {p3 : Nat} {s : State} (hP : sub [.ctl, .ev] P) (h_s : Keeps P base s) :
    Keeps P base (tenantEvent code kind inst tenant p0 p1 p2 p3 s) := by
  unfold tenantEvent
  try dsimp only
  with_reducible repeat' first
    | assumption
    | refine keeps_ite ?_ ?_
    | refine kept_raise (sub_trans (by decide) hP) ?_
    | split

theorem kept_freshBytes {P : List Part} {base : State} {n : Nat} {s : State} (hP : sub [.free] P) (h_s : Keeps P base s) :
    PairKeeps P base (freshBytes n s) := by
  unfold freshBytes
  try dsimp only
  with_reducible repeat' first
    | assumption
    | refine keeps_ite ?_ ?_
    | refine pairKeeps_ite ?_ ?_
    | refine snd_of ?_
    | refine optKeeps_map (fun _ => ?_)
    | refine of_pair ?_ (by assumption)
    | split
    | refine keeps_pair ?_
  all_goals try (with_reducible refine keeps_with_free (sub_trans (by decide) hP) ?_)
  all_goals with_reducible repeat' first
    | assumption
    | refine keeps_ite ?_ ?_
    | refine pairKeeps_ite ?_ ?_
    | refine snd_of ?_
    | refine optKeeps_map (fun _ => ?_)
    | refine of_pair ?_ (by assumption)
    | split
    | refine keeps_pair ?_

theorem kept_freshBool {P : List Part} {base : State} {s : State} (hP : sub [.free] P) (h_s : Keeps P base s) :
    PairKeeps P base (freshBool s) := by
  unfold freshBool
  try dsimp only
  with_reducible repeat' first
    | assumption
    | refine keeps_ite ?_ ?_
    | refine pairKeeps_ite ?_ ?_
    | refine snd_of ?_
    | refine of_pair ?_ (by assumption)
    | split
    | refine keeps_pair ?_
  all_goals try (with_reducible refine keeps_with_free (sub_trans (by decide) hP) ?_)
  all_goals with_reducible repeat' first
    | assumption
    | refine keeps_ite ?_ ?_
    | refine pairKeeps_ite ?_ ?_
    | refine snd_of ?_
    | refine of_pair ?_ (by assumption)
    | split
    | refine keeps_pair ?_

theorem kept_badAccess {P : List Part} {base : State} {off : Nat} {width : Nat} {s : State} (hP : sub [.ctl, .ev] P) (h_s : Keeps P base s) :
    Keeps P base (badAccess off width s) := by
  unfold badAccess
  try dsimp only
  with_reducible repeat' first
    | assumption
    | refine keeps_ite ?_ ?_
    | refine kept_event (sub_trans (by decide) hP) ?_
    | split

theorem kept_blockEventOpen {P : List Part} {base : State} {basex : Nat} {s : State} (hP : sub [.free, .ctl, .ev] P) (h_s : Keeps P base s) :
    Keeps P base (blockEventOpen basex s) := by
  unfold blockEventOpen
  try dsimp only
  with_reducible repeat' first
    | assumption
    | refine keeps_ite ?_ ?_
    | refine pairKeeps_ite ?_ ?_
    | refine snd_of ?_
    | refine kept_event (sub_trans (by decide) hP) ?_
    | refine kept_freshWord (sub_trans (by decide) hP) ?_
    | refine of_pair ?_ (by assumption)
    | split
    | refine keeps_pair ?_

theorem kept_blockEvent {P : List Part} {base : State} {basex : Nat} {off : Nat} {val : Nat} {s : State} (hP : sub [.ctl, .ev] P) (h_s : Keeps P base s) :
    Keeps P base (blockEvent basex off val s) := by
  unfold blockEvent
  try dsimp only
  with_reducible repeat' first
    | assumption
    | refine keeps_ite ?_ ?_
    | refine kept_event (sub_trans (by decide) hP) ?_
    | split

end Sys2Proof.Machine
end

