-- ==== Sys2Proof/Laws/Objects.lean ====
section
/-! SUPPORT. For each operation of Machine/Objects.lean, which parts of the state it may change: `kept_f` says that `f` keeps
everything but the parts listed in its first hypothesis, from any state that the states it is given were kept from. -/

namespace Sys2Proof.Machine

theorem kept_lockBits {P : List Part} {base : State} {r : Reg} {mask : Nat} {s : State} (hP : sub [.locks] P) (h_s : Keeps P base s) :
    Keeps P base (lockBits r mask s) := by
  unfold lockBits
  try dsimp only
  with_reducible repeat' first
    | assumption
    | refine keeps_ite ?_ ?_
    | split
  all_goals try (with_reducible refine keeps_with_locks (sub_trans (by decide) hP) ?_)
  all_goals with_reducible repeat' first
    | assumption
    | refine keeps_ite ?_ ?_
    | split

theorem kept_dropCharge {P : List Part} {base : State} {t : Nat} {tier : Nat} {n : Nat} {p : Nat} {s : State} (hP : sub [.ctl] P) (h_s : Keeps P base s) :
    Keeps P base (dropCharge t tier n p s) := by
  unfold dropCharge
  try dsimp only
  with_reducible repeat' first
    | assumption
    | refine keeps_ite ?_ ?_
    | refine kept_setReg (sub_trans (by decide) hP) ?_
    | split

theorem kept_takeCharge {P : List Part} {base : State} {t : Nat} {tier : Nat} {n : Nat} {p : Nat} {s : State} (hP : sub [.ctl] P) (h_s : Keeps P base s) :
    Keeps P base (takeCharge t tier n p s) := by
  unfold takeCharge
  try dsimp only
  with_reducible repeat' first
    | assumption
    | refine keeps_ite ?_ ?_
    | refine kept_setReg (sub_trans (by decide) hP) ?_
    | split

end Sys2Proof.Machine
end

