-- ==== Sys2Proof/Laws/Qos.lean ====
section
/-! SUPPORT. For each operation of Machine/Qos.lean, which parts of the state it may change: `kept_f` says that `f` keeps
everything but the parts listed in its first hypothesis, from any state that the states it is given were kept from. -/

namespace Sys2Proof.Machine

theorem kept_qosScale {P : List Part} {base : State} {r : Nat} {pOld : Nat} {pNew : Nat} {s : State} (hP : sub [.ctl] P) (h_s : Keeps P base s) :
    Keeps P base (qosScale r pOld pNew s) := by
  unfold qosScale
  try dsimp only
  with_reducible repeat' first
    | assumption
    | refine keeps_ite ?_ ?_
    | refine kept_setFld (sub_trans (by decide) hP) ?_
    | refine keeps_foldl _ (fun _ _ _ => ?_) ?_
    | refine keeps_foldlP _ (fun _ _ _ => ?_) ?_
    | refine tripleKeeps_foldl _ (fun _ _ _ => ?_) ?_
    | refine objStepKeeps_foldl _ (fun _ _ _ => ?_) ?_
    | split

theorem kept_qosRefreshOne {P : List Part} {base : State} {s : State} {r : Nat} (hP : sub [.ctl, .ev] P) (h_s : Keeps P base s) :
    Keeps P base (qosRefreshOne s r) := by
  unfold qosRefreshOne
  try dsimp only
  with_reducible repeat' first
    | assumption
    | refine keeps_ite ?_ ?_
    | refine kept_bump (sub_trans (by decide) hP) ?_
    | refine kept_event (sub_trans (by decide) hP) ?_
    | refine kept_qosScale (sub_trans (by decide) hP) ?_
    | refine kept_setFld (sub_trans (by decide) hP) ?_
    | split

theorem kept_qosRefresh {P : List Part} {base : State} {s : State} (hP : sub [.ctl, .ev] P) (h_s : Keeps P base s) :
    Keeps P base (qosRefresh s) := by
  unfold qosRefresh
  try dsimp only
  with_reducible repeat' first
    | assumption
    | refine keeps_ite ?_ ?_
    | refine kept_qosRefreshOne (sub_trans (by decide) hP) ?_
    | refine keeps_foldl _ (fun _ _ _ => ?_) ?_
    | refine keeps_foldlP _ (fun _ _ _ => ?_) ?_
    | refine tripleKeeps_foldl _ (fun _ _ _ => ?_) ?_
    | refine objStepKeeps_foldl _ (fun _ _ _ => ?_) ?_
    | split

theorem kept_poolUses {P : List Part} {base : State} {s : State} {r : Nat} (hP : sub [.qos] P) (h_s : Keeps P base s) :
    Keeps P base (poolUses s r) := by
  unfold poolUses
  try dsimp only
  with_reducible repeat' first
    | assumption
    | refine keeps_ite ?_ ?_
    | split
  all_goals try (with_reducible refine keeps_with_qos (sub_trans (by decide) hP) ?_)
  all_goals with_reducible repeat' first
    | assumption
    | refine keeps_ite ?_ ?_
    | split

theorem kept_qosTake {P : List Part} {base : State} {die : Nat} {src : Nat} {n : Nat} {s : State} {r : Nat} (hP : sub [.ctl, .qos] P) (h_s : Keeps P base s) :
    Keeps P base (qosTake die src n s r) := by
  unfold qosTake
  try dsimp only
  with_reducible repeat' first
    | assumption
    | refine keeps_ite ?_ ?_
    | refine kept_poolUses (sub_trans (by decide) hP) ?_
    | refine kept_setFld (sub_trans (by decide) hP) ?_
    | split
  all_goals try (with_reducible refine keeps_with_qos (sub_trans (by decide) hP) ?_)
  all_goals with_reducible repeat' first
    | assumption
    | refine keeps_ite ?_ ?_
    | refine kept_poolUses (sub_trans (by decide) hP) ?_
    | refine kept_setFld (sub_trans (by decide) hP) ?_
    | split

theorem kept_qosGuarWrite {P : List Part} {base : State} {src : Nat} {r : Nat} {val : Nat} {s : State} (hP : sub [.ctl, .ev] P) (h_s : Keeps P base s) :
    Keeps P base (qosGuarWrite src r val s) := by
  unfold qosGuarWrite
  try dsimp only
  with_reducible repeat' first
    | assumption
    | refine keeps_ite ?_ ?_
    | refine kept_bump (sub_trans (by decide) hP) ?_
    | refine kept_event (sub_trans (by decide) hP) ?_
    | refine kept_setFld (sub_trans (by decide) hP) ?_
    | refine kept_setReg (sub_trans (by decide) hP) ?_
    | split

theorem kept_qosReport {P : List Part} {base : State} {s : State} {p : Nat × Nat} (hP : sub [.ctl] P) (h_s : Keeps P base s) :
    Keeps P base (qosReport s p) := by
  unfold qosReport
  try dsimp only
  with_reducible repeat' first
    | assumption
    | refine keeps_ite ?_ ?_
    | refine kept_bump (sub_trans (by decide) hP) ?_
    | refine kept_setFld (sub_trans (by decide) hP) ?_
    | refine keeps_foldl _ (fun _ _ _ => ?_) ?_
    | refine keeps_foldlP _ (fun _ _ _ => ?_) ?_
    | refine tripleKeeps_foldl _ (fun _ _ _ => ?_) ?_
    | refine objStepKeeps_foldl _ (fun _ _ _ => ?_) ?_
    | split

theorem kept_qosLatency {P : List Part} {base : State} {t : Nat} {cls : Nat} {l : Nat} {s : State} (hP : sub [.ctl, .ev] P) (h_s : Keeps P base s) :
    Keeps P base (qosLatency t cls l s) := by
  unfold qosLatency
  try dsimp only
  with_reducible repeat' first
    | assumption
    | refine keeps_ite ?_ ?_
    | refine kept_bump (sub_trans (by decide) hP) ?_
    | refine kept_setFld (sub_trans (by decide) hP) ?_
    | refine kept_tenantEvent (sub_trans (by decide) hP) ?_
    | split

theorem kept_qosIssue {P : List Part} {base : State} {die : Nat} {src : Nat} {t : RegTarget} {bytes : Nat} {s : State} (hP : sub [.ctl, .qos] P) (h_s : Keeps P base s) :
    OptKeeps P base (qosIssue die src t bytes s) := by
  unfold qosIssue
  try dsimp only
  with_reducible repeat' first
    | assumption
    | refine keeps_ite ?_ ?_
    | refine optKeeps_ite ?_ ?_
    | refine optPairKeeps_ite ?_ ?_
    | refine keeps_some ?_
    | refine keeps_none
    | refine keeps_someP ?_
    | refine keeps_noneP
    | refine kept_qosTake (sub_trans (by decide) hP) ?_
    | refine keeps_foldl _ (fun _ _ _ => ?_) ?_
    | refine keeps_foldlP _ (fun _ _ _ => ?_) ?_
    | refine tripleKeeps_foldl _ (fun _ _ _ => ?_) ?_
    | refine objStepKeeps_foldl _ (fun _ _ _ => ?_) ?_
    | refine of_some ?_ (by assumption)
    | refine of_someP ?_ (by assumption)
    | split

end Sys2Proof.Machine
end

