-- ==== Sys2Proof/Laws/Access.lean ====
section
/-! SUPPORT. For each operation of Machine/Access.lean, which parts of the state it may change: `kept_f` says that `f` keeps
everything but the parts listed in its first hypothesis, from any state that the states it is given were kept from. -/

namespace Sys2Proof.Machine

theorem kept_rcvHoldWrite {P : List Part} {base : State} {k : UnitKey} {x : Held} {s : State} (hP : sub [.ms] P) (h_s : Keeps P base s) :
    Keeps P base (rcvHoldWrite k x s) := by
  unfold rcvHoldWrite
  try dsimp only
  with_reducible repeat' first
    | assumption
    | refine keeps_ite ?_ ?_
    | refine optKeeps_map (fun _ => ?_)
    | split
  all_goals try (with_reducible refine keeps_with_ms (sub_trans (by decide) hP) ?_)
  all_goals with_reducible repeat' first
    | assumption
    | refine keeps_ite ?_ ?_
    | refine optKeeps_map (fun _ => ?_)
    | split
  all_goals try (with_reducible refine keeps_with_ms (sub_trans (by decide) hP) ?_)
  all_goals with_reducible repeat' first
    | assumption
    | refine keeps_ite ?_ ?_
    | refine optKeeps_map (fun _ => ?_)
    | split

theorem kept_stallRead {P : List Part} {base : State} {w : Waiter} {s : State} (hP : sub [.ms] P) (h_s : Keeps P base s) :
    Keeps P base (stallRead w s) := by
  unfold stallRead
  try dsimp only
  with_reducible repeat' first
    | assumption
    | refine keeps_ite ?_ ?_
    | split
  all_goals try (with_reducible refine keeps_with_ms (sub_trans (by decide) hP) ?_)
  all_goals with_reducible repeat' first
    | assumption
    | refine keeps_ite ?_ ?_
    | split

theorem kept_rcvAttach {P : List Part} {base : State} {hd : Nat} {k : UnitKey} {w : Waiter} {s : State} (hP : sub [.ms] P) (h_s : Keeps P base s) :
    Keeps P base (rcvAttach hd k w s) := by
  unfold rcvAttach
  try dsimp only
  with_reducible repeat' first
    | assumption
    | refine keeps_ite ?_ ?_
    | refine kept_stallRead (sub_trans (by decide) hP) ?_
    | refine optKeeps_map (fun _ => ?_)
    | split
  all_goals try (with_reducible refine keeps_with_ms (sub_trans (by decide) hP) ?_)
  all_goals with_reducible repeat' first
    | assumption
    | refine keeps_ite ?_ ?_
    | refine kept_stallRead (sub_trans (by decide) hP) ?_
    | refine optKeeps_map (fun _ => ?_)
    | split
  all_goals try (with_reducible refine keeps_with_ms (sub_trans (by decide) hP) ?_)
  all_goals with_reducible repeat' first
    | assumption
    | refine keeps_ite ?_ ?_
    | refine kept_stallRead (sub_trans (by decide) hP) ?_
    | refine optKeeps_map (fun _ => ?_)
    | split

theorem kept_setFlips {P : List Part} {base : State} {w : Nat} {m : Nat} {s : State} (hP : sub [.ms] P) (h_s : Keeps P base s) :
    Keeps P base (setFlips w m s) := by
  unfold setFlips
  try dsimp only
  with_reducible repeat' first
    | assumption
    | refine keeps_ite ?_ ?_
    | split
  all_goals try (with_reducible refine keeps_with_ms (sub_trans (by decide) hP) ?_)
  all_goals with_reducible repeat' first
    | assumption
    | refine keeps_ite ?_ ?_
    | split

theorem kept_rewriteWords {P : List Part} {base : State} {ws : List Nat} {s : State} (hP : sub [.ms] P) (h_s : Keeps P base s) :
    Keeps P base (rewriteWords ws s) := by
  unfold rewriteWords
  try dsimp only
  with_reducible repeat' first
    | assumption
    | refine keeps_ite ?_ ?_
    | refine kept_setFlips (sub_trans (by decide) hP) ?_
    | refine keeps_foldl _ (fun _ _ _ => ?_) ?_
    | refine keeps_foldlP _ (fun _ _ _ => ?_) ?_
    | refine tripleKeeps_foldl _ (fun _ _ _ => ?_) ?_
    | refine objStepKeeps_foldl _ (fun _ _ _ => ?_) ?_
    | split

theorem kept_keepCorrected {P : List Part} {base : State} {s : State} {w : Nat} (hP : sub [.mem] P) (h_s : Keeps P base s) :
    Keeps P base (keepCorrected s w) := by
  unfold keepCorrected
  try dsimp only
  with_reducible repeat' first
    | assumption
    | refine keeps_ite ?_ ?_
    | split
  all_goals try (with_reducible refine keeps_with_mem (sub_trans (by decide) hP) ?_ (fun q => by first | exact q | exact wf_memPuts _ _ q | exact wf_memZero _ _ q | exact wf_filter _ q))
  all_goals with_reducible repeat' first
    | assumption
    | refine keeps_ite ?_ ?_
    | split

theorem kept_injectOn {P : List Part} {base : State} {a : Nat} {n : Nat} {s : State} {c : Nat} (hP : sub [.ctl, .ev, .ms] P) (h_s : Keeps P base s) :
    Keeps P base (injectOn a n s c) := by
  unfold injectOn
  try dsimp only
  with_reducible repeat' first
    | assumption
    | refine keeps_ite ?_ ?_
    | refine kept_event (sub_trans (by decide) hP) ?_
    | refine kept_setFld (sub_trans (by decide) hP) ?_
    | refine kept_setFlips (sub_trans (by decide) hP) ?_
    | split

theorem kept_inject {P : List Part} {base : State} {a : Nat} {n : Nat} {s : State} (hP : sub [.ctl, .ev, .ms] P) (h_s : Keeps P base s) :
    Keeps P base (inject a n s) := by
  unfold inject
  try dsimp only
  with_reducible repeat' first
    | assumption
    | refine keeps_ite ?_ ?_
    | refine kept_injectOn (sub_trans (by decide) hP) ?_
    | refine keeps_foldl _ (fun _ _ _ => ?_) ?_
    | refine keeps_foldlP _ (fun _ _ _ => ?_) ?_
    | refine tripleKeeps_foldl _ (fun _ _ _ => ?_) ?_
    | refine objStepKeeps_foldl _ (fun _ _ _ => ?_) ?_
    | split

theorem kept_remapLine {P : List Part} {base : State} {a : Nat} {s : State} (hP : sub [.ctl, .ev, .ms, .persist] P) (h_s : Keeps P base s) :
    Keeps P base (remapLine a s) := by
  unfold remapLine
  try dsimp only
  with_reducible repeat' first
    | assumption
    | refine keeps_ite ?_ ?_
    | refine kept_bump (sub_trans (by decide) hP) ?_
    | refine kept_event (sub_trans (by decide) hP) ?_
    | refine kept_setReg (sub_trans (by decide) hP) ?_
    | split
  all_goals try (with_reducible refine keeps_mk ?_ rfl (Or.inl rfl) (Or.inl rfl) (Or.inl rfl) (Or.inl rfl) (Or.inl rfl) (Or.inl rfl) (Or.inl rfl) (Or.inl rfl) (Or.inr (sub_trans (by decide) hP)) (Or.inl rfl) (Or.inl rfl) (Or.inl rfl) (Or.inl rfl) (Or.inl rfl) (Or.inl rfl) (Or.inl rfl) (Or.inl rfl) (Or.inl rfl) (Or.inl rfl) (Or.inl rfl) (Or.inl rfl) (Or.inl rfl) (Or.inl rfl) (Or.inl rfl) (Or.inr (sub_trans (by decide) hP)) (Or.inl rfl) bytesWf_same)
  all_goals with_reducible repeat' first
    | assumption
    | refine keeps_ite ?_ ?_
    | refine kept_bump (sub_trans (by decide) hP) ?_
    | refine kept_event (sub_trans (by decide) hP) ?_
    | refine kept_setReg (sub_trans (by decide) hP) ?_
    | split
  all_goals try (with_reducible refine keeps_mk ?_ rfl (Or.inl rfl) (Or.inl rfl) (Or.inl rfl) (Or.inl rfl) (Or.inl rfl) (Or.inl rfl) (Or.inl rfl) (Or.inl rfl) (Or.inr (sub_trans (by decide) hP)) (Or.inl rfl) (Or.inl rfl) (Or.inl rfl) (Or.inl rfl) (Or.inl rfl) (Or.inl rfl) (Or.inl rfl) (Or.inl rfl) (Or.inl rfl) (Or.inl rfl) (Or.inl rfl) (Or.inl rfl) (Or.inl rfl) (Or.inl rfl) (Or.inl rfl) (Or.inr (sub_trans (by decide) hP)) (Or.inl rfl) bytesWf_same)
  all_goals with_reducible repeat' first
    | assumption
    | refine keeps_ite ?_ ?_
    | refine kept_bump (sub_trans (by decide) hP) ?_
    | refine kept_event (sub_trans (by decide) hP) ?_
    | refine kept_setReg (sub_trans (by decide) hP) ?_
    | split

theorem kept_correctWord {P : List Part} {base : State} {w : Nat} {s : State} (hP : sub [.ctl, .mem, .ev, .ms, .persist] P) (h_s : Keeps P base s) :
    Keeps P base (correctWord w s) := by
  unfold correctWord
  try dsimp only
  with_reducible repeat' first
    | assumption
    | refine keeps_ite ?_ ?_
    | refine kept_bump (sub_trans (by decide) hP) ?_
    | refine kept_inject (sub_trans (by decide) hP) ?_
    | refine kept_keepCorrected (sub_trans (by decide) hP) ?_
    | refine kept_rcvAttach (sub_trans (by decide) hP) ?_
    | refine kept_remapLine (sub_trans (by decide) hP) ?_
    | refine kept_rewriteWords (sub_trans (by decide) hP) ?_
    | refine keeps_foldl _ (fun _ _ _ => ?_) ?_
    | refine keeps_foldlP _ (fun _ _ _ => ?_) ?_
    | refine tripleKeeps_foldl _ (fun _ _ _ => ?_) ?_
    | refine objStepKeeps_foldl _ (fun _ _ _ => ?_) ?_
    | split

theorem kept_ckFlush {P : List Part} {base : State} {c : Nat} {s : State} (hP : sub [.ms] P) (h_s : Keeps P base s) :
    Keeps P base (ckFlush c s) := by
  unfold ckFlush
  try dsimp only
  with_reducible repeat' first
    | assumption
    | refine keeps_ite ?_ ?_
    | split
  all_goals try (with_reducible refine keeps_with_ms (sub_trans (by decide) hP) ?_)
  all_goals with_reducible repeat' first
    | assumption
    | refine keeps_ite ?_ ?_
    | split

theorem kept_clearStackPresent {P : List Part} {base : State} {st : Nat} {s : State} (hP : sub [.ctl] P) (h_s : Keeps P base s) :
    Keeps P base (clearStackPresent st s) := by
  unfold clearStackPresent
  try dsimp only
  with_reducible repeat' first
    | assumption
    | refine keeps_ite ?_ ?_
    | refine kept_setFld (sub_trans (by decide) hP) ?_
    | split

theorem kept_memTakeOut {P : List Part} {base : State} {c : Nat} {cause : Nat} {s : State} (hP : sub [.ctl, .ev, .ms] P) (h_s : Keeps P base s) :
    Keeps P base (memTakeOut c cause s) := by
  unfold memTakeOut
  try dsimp only
  with_reducible repeat' first
    | assumption
    | refine keeps_ite ?_ ?_
    | refine kept_ckFlush (sub_trans (by decide) hP) ?_
    | refine kept_clearStackPresent (sub_trans (by decide) hP) ?_
    | refine kept_event (sub_trans (by decide) hP) ?_
    | refine kept_qosRefresh (sub_trans (by decide) hP) ?_
    | refine kept_setFld (sub_trans (by decide) hP) ?_
    | split

theorem kept_noteUncorr {P : List Part} {base : State} {c : Nat} {line : Nat} {s : State} (hP : sub [.ctl, .ev, .ms] P) (h_s : Keeps P base s) :
    Keeps P base (noteUncorr c line s) := by
  unfold noteUncorr
  try dsimp only
  with_reducible repeat' first
    | assumption
    | refine keeps_ite ?_ ?_
    | refine kept_memTakeOut (sub_trans (by decide) hP) ?_
    | split
  all_goals try (with_reducible refine keeps_with_ms (sub_trans (by decide) hP) ?_)
  all_goals with_reducible repeat' first
    | assumption
    | refine keeps_ite ?_ ?_
    | refine kept_memTakeOut (sub_trans (by decide) hP) ?_
    | split

theorem kept_readWord {P : List Part} {base : State} {w : Nat} {s : State} (hP : sub [.ctl, .mem, .ev, .ms, .persist] P) (h_s : Keeps P base s) :
    PairKeeps P base (readWord w s) := by
  unfold readWord
  try dsimp only
  with_reducible repeat' first
    | assumption
    | refine keeps_ite ?_ ?_
    | refine pairKeeps_ite ?_ ?_
    | refine snd_of ?_
    | refine kept_bump (sub_trans (by decide) hP) ?_
    | refine kept_correctWord (sub_trans (by decide) hP) ?_
    | refine kept_event (sub_trans (by decide) hP) ?_
    | refine kept_noteUncorr (sub_trans (by decide) hP) ?_
    | refine of_pair ?_ (by assumption)
    | split
    | refine keeps_pair ?_

theorem kept_readWords {P : List Part} {base : State} {ws : List Nat} {s : State} (hP : sub [.ctl, .mem, .ev, .ms, .persist] P) (h_s : Keeps P base s) :
    TripleKeeps P base (readWords ws s) := by
  unfold readWords
  refine tripleKeeps_foldl _ (fun p w hp => ?_) h_s
  have hr : PairKeeps P base (readWord w p.2.2) := kept_readWord (sub_trans (by decide) hP) hp
  revert hr
  generalize readWord w p.2.2 = r
  obtain ⟨o, t⟩ := r
  intro hr
  rcases o with _ | _ | n <;> exact hr

theorem kept_readEdges {P : List Part} {base : State} {a : Nat} {n : Nat} {s : State} (hP : sub [.ctl, .mem, .ev, .ms, .persist] P) (h_s : Keeps P base s) :
    Keeps P base (readEdges a n s) := by
  unfold readEdges
  try dsimp only
  with_reducible repeat' first
    | assumption
    | refine keeps_ite ?_ ?_
    | refine tripleKeeps_ite ?_ ?_
    | refine snd2_of ?_
    | refine kept_readWords (sub_trans (by decide) hP) ?_
    | refine of_triple ?_ (by assumption)
    | split
    | refine keeps_triple ?_

theorem kept_rewriteFlips {P : List Part} {base : State} {a : Nat} {n : Nat} {s : State} (hP : sub [.ms] P) (h_s : Keeps P base s) :
    Keeps P base (rewriteFlips a n s) := by
  unfold rewriteFlips
  try dsimp only
  with_reducible repeat' first
    | assumption
    | refine keeps_ite ?_ ?_
    | refine keeps_foldl _ (fun _ _ _ => ?_) ?_
    | refine keeps_foldlP _ (fun _ _ _ => ?_) ?_
    | refine tripleKeeps_foldl _ (fun _ _ _ => ?_) ?_
    | refine objStepKeeps_foldl _ (fun _ _ _ => ?_) ?_
    | split
  all_goals try (with_reducible refine keeps_with_ms (sub_trans (by decide) hP) ?_)
  all_goals with_reducible repeat' first
    | assumption
    | refine keeps_ite ?_ ?_
    | refine keeps_foldl _ (fun _ _ _ => ?_) ?_
    | refine keeps_foldlP _ (fun _ _ _ => ?_) ?_
    | refine tripleKeeps_foldl _ (fun _ _ _ => ?_) ?_
    | refine objStepKeeps_foldl _ (fun _ _ _ => ?_) ?_
    | split

theorem kept_ckDrop {P : List Part} {base : State} {c : Nat} {g : Nat} {s : State} (hP : sub [.ms] P) (h_s : Keeps P base s) :
    Keeps P base (ckDrop c g s) := by
  unfold ckDrop
  try dsimp only
  with_reducible repeat' first
    | assumption
    | refine keeps_ite ?_ ?_
    | split
  all_goals try (with_reducible refine keeps_with_ms (sub_trans (by decide) hP) ?_)
  all_goals with_reducible repeat' first
    | assumption
    | refine keeps_ite ?_ ?_
    | split

theorem kept_ckTouch {P : List Part} {base : State} {c : Nat} {g : Nat} {s : State} (hP : sub [.ms] P) (h_s : Keeps P base s) :
    Keeps P base (ckTouch c g s) := by
  unfold ckTouch
  try dsimp only
  with_reducible repeat' first
    | assumption
    | refine keeps_ite ?_ ?_
    | split
  all_goals try (with_reducible refine keeps_with_ms (sub_trans (by decide) hP) ?_)
  all_goals with_reducible repeat' first
    | assumption
    | refine keeps_ite ?_ ?_
    | split

theorem kept_ckWrite {P : List Part} {base : State} {a : Nat} {n : Nat} {s : State} (hP : sub [.ms] P) (h_s : Keeps P base s) :
    Keeps P base (ckWrite a n s) := by
  unfold ckWrite
  try dsimp only
  with_reducible repeat' first
    | assumption
    | refine keeps_ite ?_ ?_
    | refine kept_ckDrop (sub_trans (by decide) hP) ?_
    | refine kept_ckTouch (sub_trans (by decide) hP) ?_
    | refine keeps_foldl _ (fun _ _ _ => ?_) ?_
    | refine keeps_foldlP _ (fun _ _ _ => ?_) ?_
    | refine tripleKeeps_foldl _ (fun _ _ _ => ?_) ?_
    | refine objStepKeeps_foldl _ (fun _ _ _ => ?_) ?_
    | split

theorem kept_touchRank {P : List Part} {base : State} {s : State} {p : Nat} (hP : sub [.ms] P) (h_s : Keeps P base s) :
    Keeps P base (touchRank s p) := by
  unfold touchRank
  try dsimp only
  with_reducible repeat' first
    | assumption
    | refine keeps_ite ?_ ?_
    | split
  all_goals try (with_reducible refine keeps_with_ms (sub_trans (by decide) hP) ?_)
  all_goals with_reducible repeat' first
    | assumption
    | refine keeps_ite ?_ ?_
    | split

theorem kept_touchRanks {P : List Part} {base : State} {a : Nat} {n : Nat} {s : State} (hP : sub [.ms] P) (h_s : Keeps P base s) :
    Keeps P base (touchRanks a n s) := by
  unfold touchRanks
  try dsimp only
  with_reducible repeat' first
    | assumption
    | refine keeps_ite ?_ ?_
    | refine kept_touchRank (sub_trans (by decide) hP) ?_
    | refine keeps_foldl _ (fun _ _ _ => ?_) ?_
    | refine keeps_foldlP _ (fun _ _ _ => ?_) ?_
    | refine tripleKeeps_foldl _ (fun _ _ _ => ?_) ?_
    | refine objStepKeeps_foldl _ (fun _ _ _ => ?_) ?_
    | split

theorem kept_dropTables {P : List Part} {base : State} {a : Nat} {n : Nat} {s : State} (hP : sub [.mxes] P) (h_s : Keeps P base s) :
    Keeps P base (dropTables a n s) := by
  unfold dropTables
  try dsimp only
  with_reducible repeat' first
    | assumption
    | refine keeps_ite ?_ ?_
    | refine optKeeps_map (fun _ => ?_)
    | split
  all_goals try (with_reducible refine keeps_with_mxes (sub_trans (by decide) hP) ?_)
  all_goals with_reducible repeat' first
    | assumption
    | refine keeps_ite ?_ ?_
    | refine optKeeps_map (fun _ => ?_)
    | split

theorem kept_markDirty {P : List Part} {base : State} {a : Nat} {n : Nat} {s : State} (hP : sub [.ctl, .ms] P) (h_s : Keeps P base s) :
    Keeps P base (markDirty a n s) := by
  unfold markDirty
  try dsimp only
  with_reducible repeat' first
    | assumption
    | refine keeps_ite ?_ ?_
    | refine kept_setFld (sub_trans (by decide) hP) ?_
    | refine keeps_foldl _ (fun _ _ _ => ?_) ?_
    | refine keeps_foldlP _ (fun _ _ _ => ?_) ?_
    | refine tripleKeeps_foldl _ (fun _ _ _ => ?_) ?_
    | refine objStepKeeps_foldl _ (fun _ _ _ => ?_) ?_
    | refine optKeeps_map (fun _ => ?_)
    | split
  all_goals try (with_reducible refine keeps_with_ms (sub_trans (by decide) hP) ?_)
  all_goals with_reducible repeat' first
    | assumption
    | refine keeps_ite ?_ ?_
    | refine kept_setFld (sub_trans (by decide) hP) ?_
    | refine keeps_foldl _ (fun _ _ _ => ?_) ?_
    | refine keeps_foldlP _ (fun _ _ _ => ?_) ?_
    | refine tripleKeeps_foldl _ (fun _ _ _ => ?_) ?_
    | refine objStepKeeps_foldl _ (fun _ _ _ => ?_) ?_
    | refine optKeeps_map (fun _ => ?_)
    | split
  all_goals try (with_reducible refine keeps_with_ms (sub_trans (by decide) hP) ?_)
  all_goals with_reducible repeat' first
    | assumption
    | refine keeps_ite ?_ ?_
    | refine kept_setFld (sub_trans (by decide) hP) ?_
    | refine keeps_foldl _ (fun _ _ _ => ?_) ?_
    | refine keeps_foldlP _ (fun _ _ _ => ?_) ?_
    | refine tripleKeeps_foldl _ (fun _ _ _ => ?_) ?_
    | refine objStepKeeps_foldl _ (fun _ _ _ => ?_) ?_
    | refine optKeeps_map (fun _ => ?_)
    | split

theorem kept_landPlain {P : List Part} {base : State} {mark : Bool} {a : Nat} {bs : List Byte} {s : State} (hP : sub [.ctl, .mem, .ev, .ms, .mxes, .persist] P) (h_s : Keeps P base s) :
    Keeps P base (landPlain mark a bs s) := by
  unfold landPlain
  try dsimp only
  with_reducible repeat' first
    | assumption
    | refine keeps_ite ?_ ?_
    | refine kept_ckWrite (sub_trans (by decide) hP) ?_
    | refine kept_dropTables (sub_trans (by decide) hP) ?_
    | refine kept_inject (sub_trans (by decide) hP) ?_
    | refine kept_markDirty (sub_trans (by decide) hP) ?_
    | refine kept_readEdges (sub_trans (by decide) hP) ?_
    | refine kept_rewriteFlips (sub_trans (by decide) hP) ?_
    | refine kept_touchRanks (sub_trans (by decide) hP) ?_
    | split
  all_goals try (with_reducible refine keeps_with_mem (sub_trans (by decide) hP) ?_ (fun q => by first | exact q | exact wf_memPuts _ _ q | exact wf_memZero _ _ q | exact wf_filter _ q))
  all_goals with_reducible repeat' first
    | assumption
    | refine keeps_ite ?_ ?_
    | refine kept_ckWrite (sub_trans (by decide) hP) ?_
    | refine kept_dropTables (sub_trans (by decide) hP) ?_
    | refine kept_inject (sub_trans (by decide) hP) ?_
    | refine kept_markDirty (sub_trans (by decide) hP) ?_
    | refine kept_readEdges (sub_trans (by decide) hP) ?_
    | refine kept_rewriteFlips (sub_trans (by decide) hP) ?_
    | refine kept_touchRanks (sub_trans (by decide) hP) ?_
    | split

theorem kept_writeParity {P : List Part} {base : State} {mark : Bool} {row : Nat} {st : Nat} {off : Nat} {n : Nat} {s : State} (hP : sub [.ctl, .mem, .ev, .ms, .mxes, .persist] P) (h_s : Keeps P base s) :
    Keeps P base (writeParity mark row st off n s) := by
  unfold writeParity
  try dsimp only
  with_reducible repeat' first
    | assumption
    | refine keeps_ite ?_ ?_
    | refine kept_landPlain (sub_trans (by decide) hP) ?_
    | split

theorem kept_landBytes {P : List Part} {base : State} {mark : Bool} {a : Nat} {bs : List Byte} {s : State} (hP : sub [.ctl, .mem, .ev, .ms, .mxes, .persist] P) (h_s : Keeps P base s) :
    Keeps P base (landBytes mark a bs s) := by
  unfold landBytes
  try dsimp only
  with_reducible repeat' first
    | assumption
    | refine keeps_ite ?_ ?_
    | refine kept_landPlain (sub_trans (by decide) hP) ?_
    | refine kept_writeParity (sub_trans (by decide) hP) ?_
    | split

theorem kept_readFirst {P : List Part} {base : State} {ps : List Nat} {off : Nat} {n : Nat} {s : State} (hP : sub [.ctl, .mem, .ev, .ms, .persist] P) (h_s : Keeps P base s) :
    Keeps P base (readFirst ps off n s) := by
  unfold readFirst
  try dsimp only
  with_reducible repeat' first
    | assumption
    | refine keeps_ite ?_ ?_
    | refine tripleKeeps_ite ?_ ?_
    | refine snd2_of ?_
    | refine kept_readWords (sub_trans (by decide) hP) ?_
    | refine keeps_foldl _ (fun _ _ _ => ?_) ?_
    | refine keeps_foldlP _ (fun _ _ _ => ?_) ?_
    | refine tripleKeeps_foldl _ (fun _ _ _ => ?_) ?_
    | refine objStepKeeps_foldl _ (fun _ _ _ => ?_) ?_
    | refine of_triple ?_ (by assumption)
    | split
    | refine keeps_triple ?_

theorem kept_writePiece {P : List Part} {base : State} {w : Waiter} {mark : Bool} {s : State} {p : Nat × List Byte} (hP : sub [.ctl, .mem, .ev, .ms, .mxes, .persist] P) (h_s : Keeps P base s) :
    Keeps P base (writePiece w mark s p) := by
  unfold writePiece
  try dsimp only
  with_reducible repeat' first
    | assumption
    | refine keeps_ite ?_ ?_
    | refine kept_bump (sub_trans (by decide) hP) ?_
    | refine kept_landBytes (sub_trans (by decide) hP) ?_
    | refine kept_rcvAttach (sub_trans (by decide) hP) ?_
    | refine kept_rcvHoldWrite (sub_trans (by decide) hP) ?_
    | refine kept_readFirst (sub_trans (by decide) hP) ?_
    | split

theorem kept_writePieces {P : List Part} {base : State} {w : Waiter} {mark : Bool} {a : Nat} {bs : List Byte} {s : State} (hP : sub [.ctl, .mem, .ev, .ms, .mxes, .persist] P) (h_s : Keeps P base s) :
    Keeps P base (writePieces w mark a bs s) := by
  unfold writePieces
  try dsimp only
  with_reducible repeat' first
    | assumption
    | refine keeps_ite ?_ ?_
    | refine kept_writePiece (sub_trans (by decide) hP) ?_
    | refine keeps_foldl _ (fun _ _ _ => ?_) ?_
    | refine keeps_foldlP _ (fun _ _ _ => ?_) ?_
    | refine tripleKeeps_foldl _ (fun _ _ _ => ?_) ?_
    | refine objStepKeeps_foldl _ (fun _ _ _ => ?_) ?_
    | split

theorem kept_writeRangeBy {P : List Part} {base : State} {pool : Bool} {w : Waiter} {mark : Bool} {a : Nat} {bs : List Byte} {s : State} (hP : sub [.ctl, .mem, .ev, .ms, .mxes, .persist] P) (h_s : Keeps P base s) :
    PairKeeps P base (writeRangeBy pool w mark a bs s) := by
  unfold writeRangeBy
  try dsimp only
  with_reducible repeat' first
    | assumption
    | refine keeps_ite ?_ ?_
    | refine pairKeeps_ite ?_ ?_
    | refine snd_of ?_
    | refine kept_writePieces (sub_trans (by decide) hP) ?_
    | refine of_pair ?_ (by assumption)
    | split
    | refine keeps_pair ?_

theorem kept_disownReads {P : List Part} {base : State} {w : Waiter} {s : State} (hP : sub [.ms] P) (h_s : Keeps P base s) :
    Keeps P base (disownReads w s) := by
  unfold disownReads
  try dsimp only
  with_reducible repeat' first
    | assumption
    | refine keeps_ite ?_ ?_
    | refine optKeeps_map (fun _ => ?_)
    | split
  all_goals try (with_reducible refine keeps_with_ms (sub_trans (by decide) hP) ?_)
  all_goals with_reducible repeat' first
    | assumption
    | refine keeps_ite ?_ ?_
    | refine optKeeps_map (fun _ => ?_)
    | split
  all_goals try (with_reducible refine keeps_with_ms (sub_trans (by decide) hP) ?_)
  all_goals with_reducible repeat' first
    | assumption
    | refine keeps_ite ?_ ?_
    | refine optKeeps_map (fun _ => ?_)
    | split

theorem kept_holdRead {P : List Part} {base : State} {w : Waiter} {a : Nat} {s : State} (hP : sub [.ms] P) (h_s : Keeps P base s) :
    PairKeeps P base (holdRead w a s) := by
  unfold holdRead
  try dsimp only
  with_reducible repeat' first
    | assumption
    | refine keeps_ite ?_ ?_
    | refine pairKeeps_ite ?_ ?_
    | refine snd_of ?_
    | refine kept_rcvAttach (sub_trans (by decide) hP) ?_
    | refine of_pair ?_ (by assumption)
    | split
    | refine keeps_pair ?_

theorem kept_takeGiven {P : List Part} {base : State} {w : Waiter} {a : Nat} {n : Nat} {s : State} (hP : sub [.ms] P) (h_s : Keeps P base s) :
    Keeps P base (takeGiven w a n s) := by
  unfold takeGiven
  try dsimp only
  with_reducible repeat' first
    | assumption
    | refine keeps_ite ?_ ?_
    | split
  all_goals try (with_reducible refine keeps_with_ms (sub_trans (by decide) hP) ?_)
  all_goals with_reducible repeat' first
    | assumption
    | refine keeps_ite ?_ ?_
    | split

theorem kept_giveBytes {P : List Part} {base : State} {w : Waiter} {a : Nat} {bs : List Byte} {s : State} (hP : sub [.ms] P) (h_s : Keeps P base s) :
    PairKeeps P base (giveBytes w a bs s) := by
  unfold giveBytes
  try dsimp only
  with_reducible repeat' first
    | assumption
    | refine keeps_ite ?_ ?_
    | refine pairKeeps_ite ?_ ?_
    | refine snd_of ?_
    | refine kept_takeGiven (sub_trans (by decide) hP) ?_
    | refine of_pair ?_ (by assumption)
    | split
    | refine keeps_pair ?_

theorem kept_restoreWords {P : List Part} {base : State} {ws : List Nat} {s : State} (hP : sub [.ctl, .ev, .ms, .persist] P) (h_s : Keeps P base s) :
    Keeps P base (restoreWords ws s) := by
  unfold restoreWords
  try dsimp only
  with_reducible repeat' first
    | assumption
    | refine keeps_ite ?_ ?_
    | refine kept_inject (sub_trans (by decide) hP) ?_
    | refine kept_remapLine (sub_trans (by decide) hP) ?_
    | refine kept_rewriteWords (sub_trans (by decide) hP) ?_
    | refine keeps_foldl _ (fun _ _ _ => ?_) ?_
    | refine keeps_foldlP _ (fun _ _ _ => ?_) ?_
    | refine tripleKeeps_foldl _ (fun _ _ _ => ?_) ?_
    | refine objStepKeeps_foldl _ (fun _ _ _ => ?_) ?_
    | refine optKeeps_map (fun _ => ?_)
    | split

theorem kept_restoreTable {P : List Part} {base : State} {ws : List Nat} {s : State} (hP : sub [.ctl, .ev, .ms, .persist] P) (h_s : Keeps P base s) :
    Keeps P base (restoreTable ws s) := by
  unfold restoreTable
  try dsimp only
  with_reducible repeat' first
    | assumption
    | refine keeps_ite ?_ ?_
    | refine kept_restoreWords (sub_trans (by decide) hP) ?_
    | split

theorem kept_readRangeBy {P : List Part} {base : State} {pool : Bool} {w : Waiter} {a : Nat} {n : Nat} {s : State} (hP : sub [.ctl, .mem, .ev, .ms, .persist] P) (h_s : Keeps P base s) :
    PairKeeps P base (readRangeBy pool w a n s) := by
  have hh : ∀ a, PairKeeps P base (holdRead w a s) := fun _ => kept_holdRead (sub_trans (by decide) hP) h_s
  have hg : ∀ a bs t, Keeps P base t → PairKeeps P base (giveBytes w a bs t) := fun _ _ _ h => kept_giveBytes (sub_trans (by decide) hP) h
  unfold readRangeBy
  dsimp only
  refine pairKeeps_ite h_s (pairKeeps_ite ?_ (pairKeeps_ite h_s (pairKeeps_ite h_s ?_)))
  · split
    · exact h_s
    · split
      · exact hh _
      · exact hg _ _ _ h_s
  split
  · exact hh _
  split
  · exact pairKeeps_ite (hg _ _ _ h_s) (pairKeeps_ite h_s (hh _))
  split
  · exact hh _
  have h0 : Keeps P base (((pagesOf a n).filter s.pageOut).foldl
      (fun s p => bump (R.T2C_RCV_CNT_DEGRADED_READ (s.hdieOf (p * 4096))) 1 s) (touchRanks a n s)) :=
    keeps_foldl _ (fun _ _ h => kept_bump (sub_trans (by decide) hP) h) (kept_touchRanks (sub_trans (by decide) hP) h_s)
  revert h0
  generalize ((pagesOf a n).filter s.pageOut).foldl
      (fun s p => bump (R.T2C_RCV_CNT_DEGRADED_READ (s.hdieOf (p * 4096))) 1 s) (touchRanks a n s) = s'
  intro h0
  generalize (List.filter (fun x => !s'.pageOut (x / 512)) (s'.flippedIn a n)) = ws
  have hr : TripleKeeps P base (readWords ws s') := kept_readWords (sub_trans (by decide) hP) h0
  revert hr
  generalize readWords ws s' = r
  obtain ⟨errs, bad, t⟩ := r
  intro hr
  dsimp only
  refine pairKeeps_ite (hg _ _ _ hr) ?_
  split
  · exact pairKeeps_ite (hg _ _ _ (kept_restoreTable (sub_trans (by decide) hP) hr))
      (pairKeeps_ite hr (kept_holdRead (sub_trans (by decide) hP) hr))
  · exact hr

theorem kept_readRange {P : List Part} {base : State} {w : Waiter} {a : Nat} {n : Nat} {s : State} (hP : sub [.ctl, .mem, .ev, .ms, .persist] P) (h_s : Keeps P base s) :
    PairKeeps P base (readRange w a n s) := by
  unfold readRange
  try dsimp only
  with_reducible repeat' first
    | assumption
    | refine keeps_ite ?_ ?_
    | refine pairKeeps_ite ?_ ?_
    | refine snd_of ?_
    | refine kept_readRangeBy (sub_trans (by decide) hP) ?_
    | refine of_pair ?_ (by assumption)
    | split
    | refine keeps_pair ?_

theorem kept_writeRange {P : List Part} {base : State} {w : Waiter} {mark : Bool} {a : Nat} {bs : List Byte} {s : State} (hP : sub [.ctl, .mem, .ev, .ms, .mxes, .persist] P) (h_s : Keeps P base s) :
    PairKeeps P base (writeRange w mark a bs s) := by
  unfold writeRange
  try dsimp only
  with_reducible repeat' first
    | assumption
    | refine keeps_ite ?_ ?_
    | refine pairKeeps_ite ?_ ?_
    | refine snd_of ?_
    | refine kept_writeRangeBy (sub_trans (by decide) hP) ?_
    | refine of_pair ?_ (by assumption)
    | split
    | refine keeps_pair ?_

theorem kept_poke {P : List Part} {base : State} {a : Nat} {bs : List Byte} {s : State} (hP : sub [.ctl, .mem, .ev, .ms, .mxes, .persist] P) (h_s : Keeps P base s) :
    Keeps P base (poke a bs s) := by
  unfold poke
  try dsimp only
  with_reducible repeat' first
    | assumption
    | refine keeps_ite ?_ ?_
    | refine pairKeeps_ite ?_ ?_
    | refine snd_of ?_
    | refine kept_writeRange (sub_trans (by decide) hP) ?_
    | refine of_pair ?_ (by assumption)
    | split
    | refine keeps_pair ?_
  all_goals try (with_reducible refine keeps_with_ms (sub_trans (by decide) hP) ?_)
  all_goals with_reducible repeat' first
    | assumption
    | refine keeps_ite ?_ ?_
    | refine pairKeeps_ite ?_ ?_
    | refine snd_of ?_
    | refine kept_writeRange (sub_trans (by decide) hP) ?_
    | refine of_pair ?_ (by assumption)
    | split
    | refine keeps_pair ?_

theorem kept_putObj {P : List Part} {base : State} {i : Nat} {e : ObjEntry} {s : State} (hP : sub [.ctl, .mem, .ev, .ms, .mxes, .persist] P) (h_s : Keeps P base s) :
    Keeps P base (putObj i e s) := by
  unfold putObj
  try dsimp only
  with_reducible repeat' first
    | assumption
    | refine keeps_ite ?_ ?_
    | refine kept_poke (sub_trans (by decide) hP) ?_
    | split

theorem kept_ckFetch {P : List Part} {base : State} {c : Nat} {g : Nat} {s : State} (hP : sub [.ms] P) (h_s : Keeps P base s) :
    Keeps P base (ckFetch c g s) := by
  unfold ckFetch
  try dsimp only
  with_reducible repeat' first
    | assumption
    | refine keeps_ite ?_ ?_
    | split
  all_goals try (with_reducible refine keeps_with_ms (sub_trans (by decide) hP) ?_)
  all_goals with_reducible repeat' first
    | assumption
    | refine keeps_ite ?_ ?_
    | split

theorem kept_markLost {P : List Part} {base : State} {hd : Nat} {i : Nat} {tier : Nat} {s : State} (hP : sub [.ctl, .mem, .ev, .ms, .mxes, .persist] P) (h_s : Keeps P base s) :
    Keeps P base (markLost hd i tier s) := by
  unfold markLost
  try dsimp only
  with_reducible repeat' first
    | assumption
    | refine keeps_ite ?_ ?_
    | refine kept_bump (sub_trans (by decide) hP) ?_
    | refine kept_putObj (sub_trans (by decide) hP) ?_
    | refine kept_tenantEvent (sub_trans (by decide) hP) ?_
    | split

theorem kept_countStale {P : List Part} {base : State} {s : State} (hP : sub [.ctl] P) (h_s : Keeps P base s) :
    Keeps P base (countStale s) := by
  unfold countStale
  try dsimp only
  with_reducible repeat' first
    | assumption
    | refine keeps_ite ?_ ?_
    | refine kept_bump (sub_trans (by decide) hP) ?_
    | split

theorem kept_touchObj {P : List Part} {base : State} {h : Nat} {s : State} (hP : sub [.ctl, .mem, .ev, .ms, .persist] P) (h_s : Keeps P base s) :
    Keeps P base (touchObj h s) := by
  unfold touchObj
  try dsimp only
  with_reducible repeat' first
    | assumption
    | refine keeps_ite ?_ ?_
    | refine pairKeeps_ite ?_ ?_
    | refine snd_of ?_
    | refine kept_readRange (sub_trans (by decide) hP) ?_
    | refine of_pair ?_ (by assumption)
    | split
    | refine keeps_pair ?_

end Sys2Proof.Machine
end

