-- ==== Sys2Proof/Laws/Remote.lean ====
section
/-! SUPPORT. For each operation of Machine/Remote.lean, which parts of the state it may change: `kept_f` says that `f` keeps
everything but the parts listed in its first hypothesis, from any state that the states it is given were kept from. -/

namespace Sys2Proof.Machine

theorem kept_disownFab {P : List Part} {base : State} {who : Waiter} {s : State} (hP : sub [.tags] P) (h_s : Keeps P base s) :
    Keeps P base (disownFab who s) := by
  unfold disownFab
  try dsimp only
  with_reducible repeat' first
    | assumption
    | refine keeps_ite ?_ ?_
    | refine optKeeps_map (fun _ => ?_)
    | split
  all_goals try (with_reducible refine keeps_with_tags (sub_trans (by decide) hP) ?_)
  all_goals with_reducible repeat' first
    | assumption
    | refine keeps_ite ?_ ?_
    | refine optKeeps_map (fun _ => ?_)
    | split
  all_goals try (with_reducible refine keeps_with_tags (sub_trans (by decide) hP) ?_)
  all_goals with_reducible repeat' first
    | assumption
    | refine keeps_ite ?_ ?_
    | refine optKeeps_map (fun _ => ?_)
    | split

theorem kept_fabSend {P : List Part} {base : State} {who : Waiter} {type : Nat} {fn : Nat} {a : Nat} {len : Nat} {payload : List Byte} {s : State} (hP : sub [.tags, .fabQ] P) (h_s : Keeps P base s) :
    OptPairKeeps P base (fabSend who type fn a len payload s) := by
  unfold fabSend
  try dsimp only
  with_reducible repeat' first
    | assumption
    | refine keeps_ite ?_ ?_
    | refine optKeeps_ite ?_ ?_
    | refine optPairKeeps_ite ?_ ?_
    | refine keeps_some ?_
    | refine keeps_none
    | refine keeps_someP ?_
    | refine keeps_noneP
    | refine of_some ?_ (by assumption)
    | refine of_someP ?_ (by assumption)
    | split
  all_goals try (with_reducible refine keeps_mk ?_ rfl (Or.inl rfl) (Or.inl rfl) (Or.inl rfl) (Or.inl rfl) (Or.inl rfl) (Or.inl rfl) (Or.inl rfl) (Or.inl rfl) (Or.inl rfl) (Or.inl rfl) (Or.inl rfl) (Or.inl rfl) (Or.inl rfl) (Or.inl rfl) (Or.inl rfl) (Or.inl rfl) (Or.inl rfl) (Or.inl rfl) (Or.inl rfl) (Or.inl rfl) (Or.inl rfl) (Or.inr (sub_trans (by decide) hP)) (Or.inr (sub_trans (by decide) hP)) (Or.inl rfl) (Or.inl rfl) (Or.inl rfl) bytesWf_same)
  all_goals with_reducible repeat' first
    | assumption
    | refine keeps_ite ?_ ?_
    | refine optKeeps_ite ?_ ?_
    | refine optPairKeeps_ite ?_ ?_
    | refine keeps_some ?_
    | refine keeps_none
    | refine keeps_someP ?_
    | refine keeps_noneP
    | refine of_some ?_ (by assumption)
    | refine of_someP ?_ (by assumption)
    | split

theorem kept_driftPut {P : List Part} {base : State} {who : Waiter} {mark : Bool} {a : Nat} {bs : List Byte} {s : State} (hP : sub [.ctl, .mem, .ev, .ms, .mxes, .tags, .fabQ, .persist] P) (h_s : Keeps P base s) :
    TripleKeeps P base (driftPut who mark a bs s) := by
  unfold driftPut
  try dsimp only
  with_reducible repeat' first
    | assumption
    | refine keeps_ite ?_ ?_
    | refine pairKeeps_ite ?_ ?_
    | refine tripleKeeps_ite ?_ ?_
    | refine optKeeps_ite ?_ ?_
    | refine optPairKeeps_ite ?_ ?_
    | refine keeps_some ?_
    | refine keeps_none
    | refine keeps_someP ?_
    | refine keeps_noneP
    | refine snd_of ?_
    | refine snd2_of ?_
    | refine kept_fabSend (sub_trans (by decide) hP) ?_
    | refine kept_writeRange (sub_trans (by decide) hP) ?_
    | refine of_pair ?_ (by assumption)
    | refine of_triple ?_ (by assumption)
    | refine of_some ?_ (by assumption)
    | refine of_someP ?_ (by assumption)
    | split
    | refine keeps_pair ?_
    | refine keeps_triple ?_

theorem kept_freeSlot {P : List Part} {base : State} {i : Nat} {s : State} (hP : sub [.tags] P) (h_s : Keeps P base s) :
    Keeps P base (freeSlot i s) := by
  unfold freeSlot
  try dsimp only
  with_reducible repeat' first
    | assumption
    | refine keeps_ite ?_ ?_
    | split
  all_goals try (with_reducible refine keeps_with_tags (sub_trans (by decide) hP) ?_)
  all_goals with_reducible repeat' first
    | assumption
    | refine keeps_ite ?_ ?_
    | split

theorem kept_stepSlot {P : List Part} {base : State} {i : Nat} {s : State} (hP : sub [.tags] P) (h_s : Keeps P base s) :
    Keeps P base (stepSlot i s) := by
  unfold stepSlot
  try dsimp only
  with_reducible repeat' first
    | assumption
    | refine keeps_ite ?_ ?_
    | split
  all_goals try (with_reducible refine keeps_with_tags (sub_trans (by decide) hP) ?_)
  all_goals with_reducible repeat' first
    | assumption
    | refine keeps_ite ?_ ?_
    | split

end Sys2Proof.Machine
end

