-- ==== Sys2Proof/Laws/TileOps.lean ====
section
/-! SUPPORT. For each operation of Machine/TileOps.lean, which parts of the state it may change: `kept_f` says that `f` keeps
everything but the parts listed in its first hypothesis, from any state that the states it is given were kept from. -/

namespace Sys2Proof.Machine

theorem kept_setMx {P : List Part} {base : State} {m : Nat} {x : Mxe} {s : State} (hP : sub [.mxes] P) (h_s : Keeps P base s) :
    Keeps P base (setMx m x s) := by
  unfold setMx
  try dsimp only
  with_reducible repeat' first
    | assumption
    | refine keeps_ite ?_ ?_
    | split
  all_goals try (with_reducible refine keeps_with_mxes (sub_trans (by decide) hP) ?_)
  all_goals with_reducible repeat' first
    | assumption
    | refine keeps_ite ?_ ?_
    | split

theorem kept_updQ {P : List Part} {base : State} {m : Nat} {q : Nat} {f : MQueue → MQueue} {s : State} (hP : sub [.mxes] P) (h_s : Keeps P base s) :
    Keeps P base (updQ m q f s) := by
  unfold updQ
  try dsimp only
  with_reducible repeat' first
    | assumption
    | refine keeps_ite ?_ ?_
    | refine kept_setMx (sub_trans (by decide) hP) ?_
    | split

theorem kept_rememberLoad {P : List Part} {base : State} {m : Nat} {q : Nat} {r : Replay} {s : State} (hP : sub [.mxes] P) (h_s : Keeps P base s) :
    Keeps P base (rememberLoad m q r s) := by
  unfold rememberLoad
  try dsimp only
  with_reducible repeat' first
    | assumption
    | refine keeps_ite ?_ ?_
    | refine kept_updQ (sub_trans (by decide) hP) ?_
    | split

theorem kept_noteLoad {P : List Part} {base : State} {m : Nat} {q : Nat} {i : Nat} {s : State} (hP : sub [.mxes] P) (h_s : Keeps P base s) :
    Keeps P base (noteLoad m q i s) := by
  unfold noteLoad
  try dsimp only
  with_reducible repeat' first
    | assumption
    | refine keeps_ite ?_ ?_
    | refine kept_setMx (sub_trans (by decide) hP) ?_
    | split

theorem kept_fillWb {P : List Part} {base : State} {m : Nat} {q : Nat} {i : Nat} {w : WBuf} {s : State} (hP : sub [.mxes] P) (h_s : Keeps P base s) :
    Keeps P base (fillWb m q i w s) := by
  unfold fillWb
  try dsimp only
  with_reducible repeat' first
    | assumption
    | refine keeps_ite ?_ ?_
    | refine kept_noteLoad (sub_trans (by decide) hP) ?_
    | refine kept_setMx (sub_trans (by decide) hP) ?_
    | split

theorem kept_failWload {P : List Part} {base : State} {m : Nat} {q : Nat} {t : TIss} {s : State} (hP : sub [.mxes] P) (h_s : Keeps P base s) :
    Keeps P base (failWload m q t s) := by
  unfold failWload
  try dsimp only
  with_reducible repeat' first
    | assumption
    | refine keeps_ite ?_ ?_
    | refine kept_fillWb (sub_trans (by decide) hP) ?_
    | refine kept_rememberLoad (sub_trans (by decide) hP) ?_
    | split

theorem kept_rememberTile {P : List Part} {base : State} {m : Nat} {q : Nat} {c : BitVec 128} {bad : Bool} {s : State} (hP : sub [.mxes] P) (h_s : Keeps P base s) :
    Keeps P base (rememberTile m q c bad s) := by
  unfold rememberTile
  try dsimp only
  with_reducible repeat' first
    | assumption
    | refine keeps_ite ?_ ?_
    | refine kept_updQ (sub_trans (by decide) hP) ?_
    | split

theorem kept_emptyStream {P : List Part} {base : State} {m : Nat} {q : Nat} {s : State} (hP : sub [.mxes] P) (h_s : Keeps P base s) :
    Keeps P base (emptyStream m q s) := by
  unfold emptyStream
  try dsimp only
  with_reducible repeat' first
    | assumption
    | refine keeps_ite ?_ ?_
    | refine kept_noteLoad (sub_trans (by decide) hP) ?_
    | refine kept_setMx (sub_trans (by decide) hP) ?_
    | split

theorem kept_failTload {P : List Part} {base : State} {m : Nat} {q : Nat} {t : TIss} {s : State} (hP : sub [.mxes] P) (h_s : Keeps P base s) :
    Keeps P base (failTload m q t s) := by
  unfold failTload
  try dsimp only
  with_reducible repeat' first
    | assumption
    | refine keeps_ite ?_ ?_
    | refine kept_emptyStream (sub_trans (by decide) hP) ?_
    | refine kept_rememberTile (sub_trans (by decide) hP) ?_
    | split

theorem kept_failCbload {P : List Part} {base : State} {m : Nat} {q : Nat} {c : BitVec 128} {s : State} (hP : sub [.mxes] P) (h_s : Keeps P base s) :
    Keeps P base (failCbload m q c s) := by
  unfold failCbload
  try dsimp only
  with_reducible repeat' first
    | assumption
    | refine keeps_ite ?_ ?_
    | refine kept_setMx (sub_trans (by decide) hP) ?_
    | refine keeps_foldl _ (fun _ _ _ => ?_) ?_
    | refine keeps_foldlP _ (fun _ _ _ => ?_) ?_
    | refine tripleKeeps_foldl _ (fun _ _ _ => ?_) ?_
    | refine objStepKeeps_foldl _ (fun _ _ _ => ?_) ?_
    | split

theorem kept_poison {P : List Part} {base : State} {m : Nat} {b : Nat} {s : State} (hP : sub [.mxes] P) (h_s : Keeps P base s) :
    Keeps P base (poison m b s) := by
  unfold poison
  try dsimp only
  with_reducible repeat' first
    | assumption
    | refine keeps_ite ?_ ?_
    | refine kept_setMx (sub_trans (by decide) hP) ?_
    | split

theorem kept_poisonOwn {P : List Part} {base : State} {m : Nat} {q : Nat} {b : Nat} {s : State} (hP : sub [.mxes] P) (h_s : Keeps P base s) :
    Keeps P base (poisonOwn m q b s) := by
  unfold poisonOwn
  try dsimp only
  with_reducible repeat' first
    | assumption
    | refine keeps_ite ?_ ?_
    | refine kept_poison (sub_trans (by decide) hP) ?_
    | split

theorem kept_failDest {P : List Part} {base : State} {m : Nat} {q : Nat} {t : TIss} {s : State} (hP : sub [.mxes] P) (h_s : Keeps P base s) :
    Keeps P base (failDest m q t s) := by
  unfold failDest
  try dsimp only
  with_reducible repeat' first
    | assumption
    | refine keeps_ite ?_ ?_
    | refine kept_failCbload (sub_trans (by decide) hP) ?_
    | refine kept_failTload (sub_trans (by decide) hP) ?_
    | refine kept_failWload (sub_trans (by decide) hP) ?_
    | refine kept_poisonOwn (sub_trans (by decide) hP) ?_
    | split

theorem kept_rcvOpen {P : List Part} {base : State} {hd : Nat} {k : UnitKey} {s : State} (hP : sub [.ms] P) (h_s : Keeps P base s) :
    Keeps P base (rcvOpen hd k s) := by
  unfold rcvOpen
  try dsimp only
  with_reducible repeat' first
    | assumption
    | refine keeps_ite ?_ ?_
    | split
  all_goals try (with_reducible refine keeps_with_ms (sub_trans (by decide) hP) ?_)
  all_goals with_reducible repeat' first
    | assumption
    | refine keeps_ite ?_ ?_
    | split

theorem kept_t0Read {P : List Part} {base : State} {crew : Nat} {off : Nat} {n : Nat} {s : State} (hP : sub [.ctl, .mem, .ev, .ms, .persist] P) (h_s : Keeps P base s) :
    PairKeeps P base (t0Read crew off n s) := by
  unfold t0Read
  extract_lets a
  split
  · exact h_s
  · have hr : TripleKeeps P base (readWords (s.flippedIn a n) s) := kept_readWords (sub_trans (by decide) hP) h_s
    revert hr
    generalize readWords (s.flippedIn a n) s = r
    obtain ⟨errs, bad, t⟩ := r
    intro hr
    dsimp only
    split
    · split
      · exact kept_rcvOpen (sub_trans (by decide) hP) hr
      · exact hr
    · exact hr

theorem kept_t0ReadRuns {P : List Part} {base : State} {crew : Nat} {runs : List (Nat × Nat)} {s : State} (hP : sub [.ctl, .mem, .ev, .ms, .persist] P) (h_s : Keeps P base s) :
    PairKeeps P base (t0ReadRuns crew runs s) := by
  unfold t0ReadRuns
  try dsimp only
  with_reducible repeat' first
    | assumption
    | refine keeps_ite ?_ ?_
    | refine pairKeeps_ite ?_ ?_
    | refine snd_of ?_
    | refine kept_t0Read (sub_trans (by decide) hP) ?_
    | refine keeps_foldl _ (fun _ _ _ => ?_) ?_
    | refine keeps_foldlP _ (fun _ _ _ => ?_) ?_
    | refine tripleKeeps_foldl _ (fun _ _ _ => ?_) ?_
    | refine objStepKeeps_foldl _ (fun _ _ _ => ?_) ?_
    | refine of_pair ?_ (by assumption)
    | split
    | refine keeps_pair ?_

theorem kept_engineEcc {P : List Part} {base : State} {m : Nat} {single : Nat} {double : Bool} {place : Nat} {index : Nat} {s : State} (hP : sub [.ctl, .ev] P) (h_s : Keeps P base s) :
    Keeps P base (engineEcc m single double place index s) := by
  unfold engineEcc
  try dsimp only
  with_reducible repeat' first
    | assumption
    | refine keeps_ite ?_ ?_
    | refine kept_bump (sub_trans (by decide) hP) ?_
    | refine kept_event (sub_trans (by decide) hP) ?_
    | split

theorem kept_touchBank {P : List Part} {base : State} {m : Nat} {b : Nat} {s : State} (hP : sub [.ctl, .ev, .mxes] P) (h_s : Keeps P base s) :
    Keeps P base (touchBank m b s) := by
  unfold touchBank
  try dsimp only
  with_reducible repeat' first
    | assumption
    | refine keeps_ite ?_ ?_
    | refine kept_engineEcc (sub_trans (by decide) hP) ?_
    | refine kept_setMx (sub_trans (by decide) hP) ?_
    | split

theorem kept_t0Write {P : List Part} {base : State} {crew : Nat} {off : Nat} {bs : List Byte} {s : State} (hP : sub [.ctl, .mem, .ev, .ms, .mxes, .persist] P) (h_s : Keeps P base s) :
    Keeps P base (t0Write crew off bs s) := by
  unfold t0Write
  try dsimp only
  with_reducible repeat' first
    | assumption
    | refine keeps_ite ?_ ?_
    | refine kept_writePieces (sub_trans (by decide) hP) ?_
    | split

theorem kept_finishCmd {P : List Part} {base : State} {m : Nat} {q : Nat} {c : BitVec 128} {status : Nat} {detail : Nat} {s : State} (hP : sub [.mxes] P) (h_s : Keeps P base s) :
    Keeps P base (finishCmd m q c status detail s) := by
  unfold finishCmd
  try dsimp only
  with_reducible repeat' first
    | assumption
    | refine keeps_ite ?_ ?_
    | refine kept_updQ (sub_trans (by decide) hP) ?_
    | split

theorem kept_popHead {P : List Part} {base : State} {m : Nat} {q : Nat} {s : State} (hP : sub [.mxes] P) (h_s : Keeps P base s) :
    Keeps P base (popHead m q s) := by
  unfold popHead
  try dsimp only
  with_reducible repeat' first
    | assumption
    | refine keeps_ite ?_ ?_
    | refine kept_updQ (sub_trans (by decide) hP) ?_
    | split

theorem kept_doneAtIssue {P : List Part} {base : State} {m : Nat} {q : Nat} {c : BitVec 128} {status : Nat} {detail : Nat} {s : State} (hP : sub [.mxes] P) (h_s : Keeps P base s) :
    Keeps P base (doneAtIssue m q c status detail s) := by
  unfold doneAtIssue
  try dsimp only
  with_reducible repeat' first
    | assumption
    | refine keeps_ite ?_ ?_
    | refine kept_finishCmd (sub_trans (by decide) hP) ?_
    | refine kept_popHead (sub_trans (by decide) hP) ?_
    | split

theorem kept_addHist {P : List Part} {base : State} {m : Nat} {q : Nat} {unit : Nat} {status : Option Nat} {s : State} (hP : sub [.mxes] P) (h_s : Keeps P base s) :
    Keeps P base (addHist m q unit status s) := by
  unfold addHist
  try dsimp only
  with_reducible repeat' first
    | assumption
    | refine keeps_ite ?_ ?_
    | refine kept_setMx (sub_trans (by decide) hP) ?_
    | split

theorem kept_enqueue {P : List Part} {base : State} {m : Nat} {q : Nat} {unit : Nat} {c : BitVec 128} {failed : Option Nat} {s : State} (hP : sub [.mxes] P) (h_s : Keeps P base s) :
    Keeps P base (enqueue m q unit c failed s) := by
  unfold enqueue
  try dsimp only
  with_reducible repeat' first
    | assumption
    | refine keeps_ite ?_ ?_
    | refine kept_addHist (sub_trans (by decide) hP) ?_
    | refine kept_updQ (sub_trans (by decide) hP) ?_
    | split

theorem kept_failedCmd {P : List Part} {base : State} {m : Nat} {q : Nat} {c : BitVec 128} {status : Nat} {s : State} (hP : sub [.mxes] P) (h_s : Keeps P base s) :
    Keeps P base (failedCmd m q c status s) := by
  unfold failedCmd
  try dsimp only
  with_reducible repeat' first
    | assumption
    | refine keeps_ite ?_ ?_
    | refine kept_addHist (sub_trans (by decide) hP) ?_
    | refine kept_enqueue (sub_trans (by decide) hP) ?_
    | split

theorem kept_discardQueue {P : List Part} {base : State} {m : Nat} {q : Nat} {status : Nat} {s : State} (hP : sub [.mxes] P) (h_s : Keeps P base s) :
    Keeps P base (discardQueue m q status s) := by
  unfold discardQueue
  try dsimp only
  with_reducible repeat' first
    | assumption
    | refine keeps_ite ?_ ?_
    | refine kept_failedCmd (sub_trans (by decide) hP) ?_
    | refine kept_updQ (sub_trans (by decide) hP) ?_
    | refine keeps_foldl _ (fun _ _ _ => ?_) ?_
    | refine keeps_foldlP _ (fun _ _ _ => ?_) ?_
    | refine tripleKeeps_foldl _ (fun _ _ _ => ?_) ?_
    | refine objStepKeeps_foldl _ (fun _ _ _ => ?_) ?_
    | refine optKeeps_map (fun _ => ?_)
    | split

theorem kept_semClose {P : List Part} {base : State} {n : Nat} {i : Nat} {s : State} (hP : sub [.semNow] P) (h_s : Keeps P base s) :
    Keeps P base (semClose n i s) := by
  unfold semClose
  try dsimp only
  with_reducible repeat' first
    | assumption
    | refine keeps_ite ?_ ?_
    | split
  all_goals try (with_reducible refine keeps_with_semNow (sub_trans (by decide) hP) ?_)
  all_goals with_reducible repeat' first
    | assumption
    | refine keeps_ite ?_ ?_
    | split

theorem kept_semAdd {P : List Part} {base : State} {n : Nat} {i : Nat} {v : Nat} {sig : Option (Nat × Nat × BitVec 128)} {s : State} (hP : sub [.ctl, .ev, .semNow] P) (h_s : Keeps P base s) :
    PairKeeps P base (semAdd n i v sig s) := by
  unfold semAdd
  try dsimp only
  with_reducible repeat' first
    | assumption
    | refine keeps_ite ?_ ?_
    | refine pairKeeps_ite ?_ ?_
    | refine snd_of ?_
    | refine kept_setFld (sub_trans (by decide) hP) ?_
    | refine kept_tenantEvent (sub_trans (by decide) hP) ?_
    | refine of_pair ?_ (by assumption)
    | split
    | refine keeps_pair ?_
  all_goals try (with_reducible refine keeps_with_semNow (sub_trans (by decide) hP) ?_)
  all_goals with_reducible repeat' first
    | assumption
    | refine keeps_ite ?_ ?_
    | refine pairKeeps_ite ?_ ?_
    | refine snd_of ?_
    | refine kept_setFld (sub_trans (by decide) hP) ?_
    | refine kept_tenantEvent (sub_trans (by decide) hP) ?_
    | refine of_pair ?_ (by assumption)
    | split
    | refine keeps_pair ?_

theorem kept_amendSig {P : List Part} {base : State} {sig : Option (Nat × Nat × BitVec 128)} {sat : Bool} {s : State} (hP : sub [.mxes] P) (h_s : Keeps P base s) :
    Keeps P base (amendSig sig sat s) := by
  unfold amendSig
  try dsimp only
  with_reducible repeat' first
    | assumption
    | refine keeps_ite ?_ ?_
    | refine kept_updQ (sub_trans (by decide) hP) ?_
    | split

theorem kept_semRedo {P : List Part} {base : State} {s : State} {a : SemAdd} (hP : sub [.ctl, .ev, .mxes, .semNow] P) (h_s : Keeps P base s) :
    Keeps P base (semRedo s a) := by
  unfold semRedo
  try dsimp only
  with_reducible repeat' first
    | assumption
    | refine keeps_ite ?_ ?_
    | refine pairKeeps_ite ?_ ?_
    | refine snd_of ?_
    | refine kept_amendSig (sub_trans (by decide) hP) ?_
    | refine kept_semAdd (sub_trans (by decide) hP) ?_
    | refine of_pair ?_ (by assumption)
    | split
    | refine keeps_pair ?_

theorem kept_semRefuse {P : List Part} {base : State} {who : Who} {n : Nat} {i : Nat} {s : State} (hP : sub [.ctl, .ev] P) (h_s : Keeps P base s) :
    Keeps P base (semRefuse who n i s) := by
  unfold semRefuse
  try dsimp only
  with_reducible repeat' first
    | assumption
    | refine keeps_ite ?_ ?_
    | refine kept_stopWrite (sub_trans (by decide) hP) ?_
    | refine kept_tenantEvent (sub_trans (by decide) hP) ?_
    | split

theorem kept_semWrite {P : List Part} {base : State} {who : Who} {n : Nat} {i : Nat} {val : Nat} {s : State} (hP : sub [.ctl, .ev, .mxes, .semNow] P) (h_s : Keeps P base s) :
    Keeps P base (semWrite who n i val s) := by
  unfold semWrite
  try dsimp only
  with_reducible repeat' first
    | assumption
    | refine keeps_ite ?_ ?_
    | refine kept_semClose (sub_trans (by decide) hP) ?_
    | refine kept_semRedo (sub_trans (by decide) hP) ?_
    | refine kept_semRefuse (sub_trans (by decide) hP) ?_
    | refine kept_setReg (sub_trans (by decide) hP) ?_
    | refine keeps_foldl _ (fun _ _ _ => ?_) ?_
    | refine keeps_foldlP _ (fun _ _ _ => ?_) ?_
    | refine tripleKeeps_foldl _ (fun _ _ _ => ?_) ?_
    | refine objStepKeeps_foldl _ (fun _ _ _ => ?_) ?_
    | refine optKeeps_map (fun _ => ?_)
    | refine keeps_getD ?_ ?_
    | split

theorem kept_semAddWrite {P : List Part} {base : State} {who : Who} {n : Nat} {i : Nat} {val : Nat} {s : State} (hP : sub [.ctl, .ev, .semNow] P) (h_s : Keeps P base s) :
    Keeps P base (semAddWrite who n i val s) := by
  unfold semAddWrite
  try dsimp only
  with_reducible repeat' first
    | assumption
    | refine keeps_ite ?_ ?_
    | refine pairKeeps_ite ?_ ?_
    | refine snd_of ?_
    | refine kept_semAdd (sub_trans (by decide) hP) ?_
    | refine kept_semRefuse (sub_trans (by decide) hP) ?_
    | refine of_pair ?_ (by assumption)
    | split
    | refine keeps_pair ?_

theorem kept_failWait {P : List Part} {base : State} {m : Nat} {q : Nat} {c : BitVec 128} {status : Nat} {detail : Nat} {s : State} (hP : sub [.mxes] P) (h_s : Keeps P base s) :
    Keeps P base (failWait m q c status detail s) := by
  unfold failWait
  try dsimp only
  with_reducible repeat' first
    | assumption
    | refine keeps_ite ?_ ?_
    | refine kept_discardQueue (sub_trans (by decide) hP) ?_
    | refine kept_doneAtIssue (sub_trans (by decide) hP) ?_
    | refine kept_updQ (sub_trans (by decide) hP) ?_
    | split

theorem kept_rejectHead {P : List Part} {base : State} {m : Nat} {q : Nat} {c : BitVec 128} {k : Nat} {s : State} (hP : sub [.ctl, .ev, .mxes] P) (h_s : Keeps P base s) :
    Keeps P base (rejectHead m q c k s) := by
  unfold rejectHead
  try dsimp only
  with_reducible repeat' first
    | assumption
    | refine keeps_ite ?_ ?_
    | refine kept_doneAtIssue (sub_trans (by decide) hP) ?_
    | refine kept_failWait (sub_trans (by decide) hP) ?_
    | refine kept_failedCmd (sub_trans (by decide) hP) ?_
    | refine kept_tenantEvent (sub_trans (by decide) hP) ?_
    | split

theorem kept_prepareQueue {P : List Part} {base : State} {m : Nat} {q : Nat} {s : State} (hP : sub [.mxes] P) (h_s : Keeps P base s) :
    Keeps P base (prepareQueue m q s) := by
  unfold prepareQueue
  try dsimp only
  with_reducible repeat' first
    | assumption
    | refine keeps_ite ?_ ?_
    | refine kept_setMx (sub_trans (by decide) hP) ?_
    | refine kept_updQ (sub_trans (by decide) hP) ?_
    | refine optKeeps_map (fun _ => ?_)
    | split

theorem kept_issueUnit {P : List Part} {base : State} {m : Nat} {q : Nat} {unit : Nat} {c : BitVec 128} {s : State} (hP : sub [.mxes] P) (h_s : Keeps P base s) :
    Keeps P base (issueUnit m q unit c s) := by
  unfold issueUnit
  try dsimp only
  with_reducible repeat' first
    | assumption
    | refine keeps_ite ?_ ?_
    | refine kept_enqueue (sub_trans (by decide) hP) ?_
    | refine kept_popHead (sub_trans (by decide) hP) ?_
    | split

end Sys2Proof.Machine
end

