-- ==== Sys2Proof/Laws/Tile.lean ====
section
/-! SUPPORT. For each operation of Machine/Tile.lean, which parts of the state it may change: `kept_f` says that `f` keeps
everything but the parts listed in its first hypothesis, from any state that the states it is given were kept from. -/

namespace Sys2Proof.Machine

theorem kept_dropIssued {P : List Part} {base : State} {m : Nat} {q : Nat} {seq : Nat} {s : State} (hP : sub [.mxes] P) (h_s : Keeps P base s) :
    Keeps P base (dropIssued m q seq s) := by
  unfold dropIssued
  try dsimp only
  with_reducible repeat' first
    | assumption
    | refine keeps_ite ?_ ?_
    | refine kept_updQ (sub_trans (by decide) hP) ?_
    | split

theorem kept_noteDamage {P : List Part} {base : State} {m : Nat} {q : Nat} {op : Nat} {reason : Nat} {tile : Nat} {off : Nat} {s : State} (hP : sub [.ctl, .ev] P) (h_s : Keeps P base s) :
    Keeps P base (noteDamage m q op reason tile off s) := by
  unfold noteDamage
  try dsimp only
  with_reducible repeat' first
    | assumption
    | refine keeps_ite ?_ ?_
    | refine kept_bump (sub_trans (by decide) hP) ?_
    | refine kept_setReg (sub_trans (by decide) hP) ?_
    | refine kept_tenantEvent (sub_trans (by decide) hP) ?_
    | split

theorem kept_touchGran {P : List Part} {base : State} {m : Nat} {g : Nat} {s : State} (hP : sub [.ctl, .ev, .mxes] P) (h_s : Keeps P base s) :
    Keeps P base (touchGran m g s) := by
  unfold touchGran
  try dsimp only
  with_reducible repeat' first
    | assumption
    | refine keeps_ite ?_ ?_
    | refine kept_engineEcc (sub_trans (by decide) hP) ?_
    | refine kept_setMx (sub_trans (by decide) hP) ?_
    | split

theorem kept_decodeFrame {P : List Part} {base : State} {m : Nat} {bs : List Byte} {starter : List (List Int)} {s : State} (hP : sub [.ctl] P) (h_s : Keeps P base s) :
    PairKeeps P base (decodeFrame m bs starter s) := by
  unfold decodeFrame
  try dsimp only
  with_reducible repeat' first
    | assumption
    | refine keeps_ite ?_ ?_
    | refine pairKeeps_ite ?_ ?_
    | refine snd_of ?_
    | refine kept_bump (sub_trans (by decide) hP) ?_
    | refine of_pair ?_ (by assumption)
    | split
    | refine keeps_pair ?_

theorem kept_loadGood {P : List Part} {base : State} {m : Nat} {g : Nat} {runs : List (Nat × Nat)} {int4 : Bool} {frame : List Byte} {s : State} (hP : sub [.ctl, .ev, .mxes] P) (h_s : Keeps P base s) :
    PairKeeps P base (loadGood m g runs int4 frame s) := by
  unfold loadGood
  try dsimp only
  with_reducible repeat' first
    | assumption
    | refine keeps_ite ?_ ?_
    | refine pairKeeps_ite ?_ ?_
    | refine snd_of ?_
    | refine kept_bump (sub_trans (by decide) hP) ?_
    | refine kept_decodeFrame (sub_trans (by decide) hP) ?_
    | refine kept_touchGran (sub_trans (by decide) hP) ?_
    | refine keeps_foldl _ (fun _ _ _ => ?_) ?_
    | refine keeps_foldlP _ (fun _ _ _ => ?_) ?_
    | refine tripleKeeps_foldl _ (fun _ _ _ => ?_) ?_
    | refine objStepKeeps_foldl _ (fun _ _ _ => ?_) ?_
    | refine of_pair ?_ (by assumption)
    | split
    | refine keeps_pair ?_

theorem kept_loadFrame {P : List Part} {base : State} {m : Nat} {q : Nat} {op : Nat} {runs : Nat → Nat → List (Nat × Nat)} {off : Nat} {room : Nat} {idx : Option IndexEntry} {int4 : Bool} {g : Nat} {tile : Nat} {s : State} (hP : sub [.ctl, .mem, .ev, .ms, .mxes, .persist] P) (h_s : Keeps P base s) :
    PairKeeps P base (loadFrame m q op runs off room idx int4 g tile s) := by
  unfold loadFrame
  try dsimp only
  with_reducible repeat' first
    | assumption
    | refine keeps_ite ?_ ?_
    | refine pairKeeps_ite ?_ ?_
    | refine snd_of ?_
    | refine kept_loadGood (sub_trans (by decide) hP) ?_
    | refine kept_noteDamage (sub_trans (by decide) hP) ?_
    | refine kept_t0ReadRuns (sub_trans (by decide) hP) ?_
    | refine of_pair ?_ (by assumption)
    | split
    | refine keeps_pair ?_

theorem kept_loadSlotFrom {P : List Part} {base : State} {m : Nat} {q : Nat} {v : SlotView} {tile : Nat} {int4 : Bool} {g : Nat} {r : T0Rd × State} (hP : sub [.ctl, .mem, .ev, .ms, .mxes, .persist] P) (h_r : PairKeeps P base r) :
    PairKeeps P base (loadSlotFrom m q v tile int4 g r) := by
  obtain ⟨o, t⟩ := r
  cases o with
  | wait => exact h_r
  | bad => exact keeps_pair (kept_noteDamage (sub_trans (by decide) hP) h_r)
  | ok bs =>
    exact pairKeeps_ite (keeps_pair (kept_noteDamage (sub_trans (by decide) hP) h_r))
      (pairKeeps_ite (keeps_pair (kept_bump (sub_trans (by decide) hP) h_r)) (kept_loadFrame (sub_trans (by decide) hP) h_r))

theorem kept_loadSlot {P : List Part} {base : State} {m : Nat} {q : Nat} {v : SlotView} {tile : Nat} {int4 : Bool} {g : Nat} {s : State} (hP : sub [.ctl, .mem, .ev, .ms, .mxes, .persist] P) (h_s : Keeps P base s) :
    PairKeeps P base (loadSlot m q v tile int4 g s) := by
  unfold loadSlot
  try dsimp only
  with_reducible repeat' first
    | assumption
    | refine keeps_ite ?_ ?_
    | refine pairKeeps_ite ?_ ?_
    | refine snd_of ?_
    | refine kept_loadSlotFrom (sub_trans (by decide) hP) ?_
    | refine kept_t0ReadRuns (sub_trans (by decide) hP) ?_
    | refine of_pair ?_ (by assumption)
    | split
    | refine keeps_pair ?_

theorem kept_loadRaw {P : List Part} {base : State} {m : Nat} {off : Nat} {int4 : Bool} {s : State} (hP : sub [.ctl, .mem, .ev, .ms, .persist] P) (h_s : Keeps P base s) :
    PairKeeps P base (loadRaw m off int4 s) := by
  unfold loadRaw
  try dsimp only
  with_reducible repeat' first
    | assumption
    | refine keeps_ite ?_ ?_
    | refine pairKeeps_ite ?_ ?_
    | refine snd_of ?_
    | refine kept_bump (sub_trans (by decide) hP) ?_
    | refine kept_t0Read (sub_trans (by decide) hP) ?_
    | refine of_pair ?_ (by assumption)
    | split
    | refine keeps_pair ?_

theorem kept_loadTile {P : List Part} {base : State} {m : Nat} {q : Nat} {view : Option SlotView} {c : BitVec 128} {s : State} (hP : sub [.ctl, .mem, .ev, .ms, .mxes, .persist] P) (h_s : Keeps P base s) :
    PairKeeps P base (loadTile m q view c s) := by
  unfold loadTile
  try dsimp only
  with_reducible repeat' first
    | assumption
    | refine keeps_ite ?_ ?_
    | refine pairKeeps_ite ?_ ?_
    | refine snd_of ?_
    | refine kept_loadFrame (sub_trans (by decide) hP) ?_
    | refine kept_loadRaw (sub_trans (by decide) hP) ?_
    | refine kept_loadSlot (sub_trans (by decide) hP) ?_
    | refine of_pair ?_ (by assumption)
    | split
    | refine keeps_pair ?_

theorem kept_wloadFail {P : List Part} {base : State} {m : Nat} {q : Nat} {t : TIss} {st : Nat} {d : Nat} {s : State} (hP : sub [.mxes] P) (h_s : Keeps P base s) :
    BeginKeeps P base (wloadFail m q t st d s) := by
  unfold wloadFail
  try dsimp only
  with_reducible repeat' first
    | assumption
    | refine keeps_ite ?_ ?_
    | refine beginKeeps_ite ?_ ?_
    | refine keeps_bwait ?_
    | refine keeps_bgo ?_
    | refine kept_failWload (sub_trans (by decide) hP) ?_
    | refine of_bwait ?_ (by assumption)
    | refine of_bgo ?_ (by assumption)
    | split

theorem kept_askRefetch {P : List Part} {base : State} {m : Nat} {slot : Nat} {tile : Nat} {s : State} (hP : sub [.ctl, .refetch] P) (h_s : Keeps P base s) :
    Keeps P base (askRefetch m slot tile s) := by
  unfold askRefetch
  try dsimp only
  with_reducible repeat' first
    | assumption
    | refine keeps_ite ?_ ?_
    | refine kept_bump (sub_trans (by decide) hP) ?_
    | split
  all_goals try (with_reducible refine keeps_with_refetch (sub_trans (by decide) hP) ?_)
  all_goals with_reducible repeat' first
    | assumption
    | refine keeps_ite ?_ ?_
    | refine kept_bump (sub_trans (by decide) hP) ?_
    | split

theorem kept_wloadDamaged {P : List Part} {base : State} {m : Nat} {q : Nat} {t : TIss} {s : State} (hP : sub [.ctl, .mxes, .refetch] P) (h_s : Keeps P base s) :
    BeginKeeps P base (wloadDamaged m q t s) := by
  unfold wloadDamaged
  try dsimp only
  with_reducible repeat' first
    | assumption
    | refine keeps_ite ?_ ?_
    | refine beginKeeps_ite ?_ ?_
    | refine keeps_bwait ?_
    | refine keeps_bgo ?_
    | refine kept_askRefetch (sub_trans (by decide) hP) ?_
    | refine kept_wloadFail (sub_trans (by decide) hP) ?_
    | refine of_bwait ?_ (by assumption)
    | refine of_bgo ?_ (by assumption)
    | split

theorem kept_loadScales {P : List Part} {base : State} {m : Nat} {c : BitVec 128} {s : State} (hP : sub [.ctl, .mem, .ev, .ms, .persist] P) (h_s : Keeps P base s) :
    TripleKeeps P base (loadScales m c s) := by
  unfold loadScales
  split
  · exact h_s
  · have hr : PairKeeps P base (t0Read (crewOf m) (tf c 95 72) 2048 s) := kept_t0Read (sub_trans (by decide) hP) h_s
    revert hr
    generalize t0Read (crewOf m) (tf c 95 72) 2048 s = r
    obtain ⟨o, t⟩ := r
    intro hr
    cases o with
    | wait => exact hr
    | bad => exact hr
    | ok bs =>
      dsimp only
      split <;> exact hr

theorem kept_wloadFill {P : List Part} {base : State} {m : Nat} {q : Nat} {t : TIss} {rows : List (List Int)} {scales : Option (List Nat)} {cycles : List UCyc} {s : State} (hP : sub [.mxes] P) (h_s : Keeps P base s) :
    BeginKeeps P base (wloadFill m q t rows scales cycles s) := by
  unfold wloadFill
  try dsimp only
  with_reducible repeat' first
    | assumption
    | refine keeps_ite ?_ ?_
    | refine beginKeeps_ite ?_ ?_
    | refine keeps_bwait ?_
    | refine keeps_bgo ?_
    | refine kept_fillWb (sub_trans (by decide) hP) ?_
    | refine kept_rememberLoad (sub_trans (by decide) hP) ?_
    | refine of_bwait ?_ (by assumption)
    | refine of_bgo ?_ (by assumption)
    | split

theorem kept_beginWload {P : List Part} {base : State} {m : Nat} {q : Nat} {t : TIss} {s : State} (hP : sub [.ctl, .mem, .ev, .ms, .mxes, .refetch, .persist] P) (h_s : Keeps P base s) :
    BeginKeeps P base (beginWload m q t s) := by
  unfold beginWload
  try dsimp only
  with_reducible repeat' first
    | assumption
    | refine keeps_ite ?_ ?_
    | refine pairKeeps_ite ?_ ?_
    | refine tripleKeeps_ite ?_ ?_
    | refine beginKeeps_ite ?_ ?_
    | refine keeps_bwait ?_
    | refine keeps_bgo ?_
    | refine snd_of ?_
    | refine snd2_of ?_
    | refine kept_loadScales (sub_trans (by decide) hP) ?_
    | refine kept_loadTile (sub_trans (by decide) hP) ?_
    | refine kept_wloadDamaged (sub_trans (by decide) hP) ?_
    | refine kept_wloadFail (sub_trans (by decide) hP) ?_
    | refine kept_wloadFill (sub_trans (by decide) hP) ?_
    | refine of_pair ?_ (by assumption)
    | refine of_triple ?_ (by assumption)
    | refine of_bwait ?_ (by assumption)
    | refine of_bgo ?_ (by assumption)
    | split
    | refine keeps_pair ?_
    | refine keeps_triple ?_

theorem kept_loadStream {P : List Part} {base : State} {m : Nat} {q : Nat} {c : BitVec 128} {s : State} (hP : sub [.ctl, .mem, .ev, .ms, .mxes, .persist] P) (h_s : Keeps P base s) :
    PairKeeps P base (loadStream m q c s) := by
  unfold loadStream
  try dsimp only
  with_reducible repeat' first
    | assumption
    | refine keeps_ite ?_ ?_
    | refine pairKeeps_ite ?_ ?_
    | refine snd_of ?_
    | refine kept_loadFrame (sub_trans (by decide) hP) ?_
    | refine kept_t0Read (sub_trans (by decide) hP) ?_
    | refine of_pair ?_ (by assumption)
    | split
    | refine keeps_pair ?_

theorem kept_fillStream {P : List Part} {base : State} {m : Nat} {q : Nat} {c : BitVec 128} {bs : List Byte} {s : State} (hP : sub [.mxes] P) (h_s : Keeps P base s) :
    Keeps P base (fillStream m q c bs s) := by
  unfold fillStream
  try dsimp only
  with_reducible repeat' first
    | assumption
    | refine keeps_ite ?_ ?_
    | refine kept_noteLoad (sub_trans (by decide) hP) ?_
    | refine kept_setMx (sub_trans (by decide) hP) ?_
    | split

theorem kept_beginTload {P : List Part} {base : State} {m : Nat} {q : Nat} {t : TIss} {s : State} (hP : sub [.ctl, .mem, .ev, .ms, .mxes, .persist] P) (h_s : Keeps P base s) :
    BeginKeeps P base (beginTload m q t s) := by
  unfold beginTload
  try dsimp only
  with_reducible repeat' first
    | assumption
    | refine keeps_ite ?_ ?_
    | refine pairKeeps_ite ?_ ?_
    | refine beginKeeps_ite ?_ ?_
    | refine keeps_bwait ?_
    | refine keeps_bgo ?_
    | refine snd_of ?_
    | refine kept_failTload (sub_trans (by decide) hP) ?_
    | refine kept_fillStream (sub_trans (by decide) hP) ?_
    | refine kept_loadStream (sub_trans (by decide) hP) ?_
    | refine kept_rememberTile (sub_trans (by decide) hP) ?_
    | refine of_pair ?_ (by assumption)
    | refine of_bwait ?_ (by assumption)
    | refine of_bgo ?_ (by assumption)
    | split
    | refine keeps_pair ?_

theorem kept_beginCbload {P : List Part} {base : State} {m : Nat} {q : Nat} {c : BitVec 128} {s : State} (hP : sub [.ctl, .mem, .ev, .ms, .mxes, .persist] P) (h_s : Keeps P base s) :
    BeginKeeps P base (beginCbload m q c s) := by
  unfold beginCbload
  try dsimp only
  with_reducible repeat' first
    | assumption
    | refine keeps_ite ?_ ?_
    | refine pairKeeps_ite ?_ ?_
    | refine beginKeeps_ite ?_ ?_
    | refine keeps_bwait ?_
    | refine keeps_bgo ?_
    | refine snd_of ?_
    | refine kept_failCbload (sub_trans (by decide) hP) ?_
    | refine kept_setMx (sub_trans (by decide) hP) ?_
    | refine kept_t0Read (sub_trans (by decide) hP) ?_
    | refine keeps_foldl _ (fun _ _ _ => ?_) ?_
    | refine keeps_foldlP _ (fun _ _ _ => ?_) ?_
    | refine tripleKeeps_foldl _ (fun _ _ _ => ?_) ?_
    | refine objStepKeeps_foldl _ (fun _ _ _ => ?_) ?_
    | refine of_pair ?_ (by assumption)
    | refine of_bwait ?_ (by assumption)
    | refine of_bgo ?_ (by assumption)
    | split
    | refine keeps_pair ?_

theorem kept_touchWb {P : List Part} {base : State} {m : Nat} {i : Nat} {s : State} (hP : sub [.ctl, .ev, .mxes] P) (h_s : Keeps P base s) :
    Keeps P base (touchWb m i s) := by
  unfold touchWb
  try dsimp only
  with_reducible repeat' first
    | assumption
    | refine keeps_ite ?_ ?_
    | refine kept_engineEcc (sub_trans (by decide) hP) ?_
    | refine kept_setMx (sub_trans (by decide) hP) ?_
    | split

theorem kept_touchStream {P : List Part} {base : State} {m : Nat} {ws : List Nat} {s : State} (hP : sub [.ctl, .ev, .mxes] P) (h_s : Keeps P base s) :
    PairKeeps P base (touchStream m ws s) := by
  unfold touchStream
  try dsimp only
  with_reducible repeat' first
    | assumption
    | refine keeps_ite ?_ ?_
    | refine pairKeeps_ite ?_ ?_
    | refine snd_of ?_
    | refine kept_engineEcc (sub_trans (by decide) hP) ?_
    | refine kept_setMx (sub_trans (by decide) hP) ?_
    | refine keeps_foldl _ (fun _ _ _ => ?_) ?_
    | refine keeps_foldlP _ (fun _ _ _ => ?_) ?_
    | refine tripleKeeps_foldl _ (fun _ _ _ => ?_) ?_
    | refine objStepKeeps_foldl _ (fun _ _ _ => ?_) ?_
    | refine of_pair ?_ (by assumption)
    | split
    | refine keeps_pair ?_

theorem kept_readUnit {P : List Part} {base : State} {m : Nat} {c : BitVec 128} {u : Nat} {s : State} (hP : sub [.ctl, .mem, .ev, .ms, .mxes, .persist] P) (h_s : Keeps P base s) :
    PairKeeps P base (readUnit m c u s) := by
  unfold readUnit
  try dsimp only
  with_reducible repeat' first
    | assumption
    | refine keeps_ite ?_ ?_
    | refine pairKeeps_ite ?_ ?_
    | refine snd_of ?_
    | refine kept_t0Read (sub_trans (by decide) hP) ?_
    | refine kept_touchStream (sub_trans (by decide) hP) ?_
    | refine optKeeps_map (fun _ => ?_)
    | refine of_pair ?_ (by assumption)
    | split
    | refine keeps_pair ?_

theorem kept_streamUnits {P : List Part} {base : State} {m : Nat} {c : BitVec 128} {w : WBuf} {cols : List (List Int)} {a : List Nat} {ax : Nat} {axx : State} (hP : sub [.ctl, .mem, .ev, .ms, .mxes, .persist] P) (h_axx : Keeps P base axx) :
    TripleKeeps P base (streamUnits m c w cols a ax axx) := by
  induction a generalizing ax axx with
  | nil =>
    unfold streamUnits
    try dsimp only
    with_reducible repeat' first
      | assumption
      | refine keeps_ite ?_ ?_
      | refine pairKeeps_ite ?_ ?_
      | refine tripleKeeps_ite ?_ ?_
      | refine snd_of ?_
      | refine snd2_of ?_
      | refine kept_bump (sub_trans (by decide) hP) ?_
      | refine kept_readUnit (sub_trans (by decide) hP) ?_
      | refine kept_setMx (sub_trans (by decide) hP) ?_
      | refine keeps_foldl _ (fun _ _ _ => ?_) ?_
      | refine keeps_foldlP _ (fun _ _ _ => ?_) ?_
      | refine tripleKeeps_foldl _ (fun _ _ _ => ?_) ?_
      | refine of_pair ?_ (by assumption)
      | refine of_triple ?_ (by assumption)
      | split
      | refine keeps_pair ?_
      | refine keeps_triple ?_
  | cons x t ih =>
    unfold streamUnits
    try dsimp only
    with_reducible repeat' first
      | assumption
      | refine keeps_ite ?_ ?_
      | refine pairKeeps_ite ?_ ?_
      | refine tripleKeeps_ite ?_ ?_
      | refine snd_of ?_
      | refine snd2_of ?_
      | refine kept_bump (sub_trans (by decide) hP) ?_
      | refine kept_readUnit (sub_trans (by decide) hP) ?_
      | refine kept_setMx (sub_trans (by decide) hP) ?_
      | refine ih ?_
      | refine keeps_foldl _ (fun _ _ _ => ?_) ?_
      | refine keeps_foldlP _ (fun _ _ _ => ?_) ?_
      | refine tripleKeeps_foldl _ (fun _ _ _ => ?_) ?_
      | refine of_pair ?_ (by assumption)
      | refine of_triple ?_ (by assumption)
      | split
      | refine keeps_pair ?_
      | refine keeps_triple ?_

theorem kept_beginMma {P : List Part} {base : State} {m : Nat} {t : TIss} {s : State} (hP : sub [.ctl, .mem, .ev, .ms, .mxes, .persist] P) (h_s : Keeps P base s) :
    BeginKeeps P base (beginMma m t s) := by
  unfold beginMma
  try dsimp only
  with_reducible repeat' first
    | assumption
    | refine keeps_ite ?_ ?_
    | refine tripleKeeps_ite ?_ ?_
    | refine beginKeeps_ite ?_ ?_
    | refine keeps_bwait ?_
    | refine keeps_bgo ?_
    | refine snd2_of ?_
    | refine kept_poison (sub_trans (by decide) hP) ?_
    | refine kept_setMx (sub_trans (by decide) hP) ?_
    | refine kept_streamUnits (sub_trans (by decide) hP) ?_
    | refine kept_touchBank (sub_trans (by decide) hP) ?_
    | refine kept_touchWb (sub_trans (by decide) hP) ?_
    | refine of_triple ?_ (by assumption)
    | refine of_bwait ?_ (by assumption)
    | refine of_bgo ?_ (by assumption)
    | split
    | refine keeps_triple ?_

theorem kept_beginAclr {P : List Part} {base : State} {m : Nat} {c : BitVec 128} {s : State} (hP : sub [.mxes] P) (h_s : Keeps P base s) :
    BeginKeeps P base (beginAclr m c s) := by
  unfold beginAclr
  try dsimp only
  with_reducible repeat' first
    | assumption
    | refine keeps_ite ?_ ?_
    | refine beginKeeps_ite ?_ ?_
    | refine keeps_bwait ?_
    | refine keeps_bgo ?_
    | refine kept_setMx (sub_trans (by decide) hP) ?_
    | refine of_bwait ?_ (by assumption)
    | refine of_bgo ?_ (by assumption)
    | split

theorem kept_moveBank {P : List Part} {base : State} {m : Nat} {c : BitVec 128} {s : State} (hP : sub [.ctl, .mem, .ev, .ms, .mxes, .persist] P) (h_s : Keeps P base s) :
    BeginKeeps P base (moveBank m c s) := by
  unfold moveBank
  try dsimp only
  with_reducible repeat' first
    | assumption
    | refine keeps_ite ?_ ?_
    | refine beginKeeps_ite ?_ ?_
    | refine keeps_bwait ?_
    | refine keeps_bgo ?_
    | refine kept_setMx (sub_trans (by decide) hP) ?_
    | refine kept_t0Write (sub_trans (by decide) hP) ?_
    | refine kept_touchBank (sub_trans (by decide) hP) ?_
    | refine of_bwait ?_ (by assumption)
    | refine of_bgo ?_ (by assumption)
    | split

theorem kept_beginAmove {P : List Part} {base : State} {m : Nat} {c : BitVec 128} {s : State} (hP : sub [.ctl, .mem, .ev, .ms, .mxes, .persist] P) (h_s : Keeps P base s) :
    BeginKeeps P base (beginAmove m c s) := by
  unfold beginAmove
  try dsimp only
  with_reducible repeat' first
    | assumption
    | refine keeps_ite ?_ ?_
    | refine pairKeeps_ite ?_ ?_
    | refine beginKeeps_ite ?_ ?_
    | refine keeps_bwait ?_
    | refine keeps_bgo ?_
    | refine snd_of ?_
    | refine kept_moveBank (sub_trans (by decide) hP) ?_
    | refine kept_poison (sub_trans (by decide) hP) ?_
    | refine kept_setMx (sub_trans (by decide) hP) ?_
    | refine kept_t0Read (sub_trans (by decide) hP) ?_
    | refine optKeeps_map (fun _ => ?_)
    | refine of_pair ?_ (by assumption)
    | refine of_bwait ?_ (by assumption)
    | refine of_bgo ?_ (by assumption)
    | split
    | refine keeps_pair ?_

theorem kept_holdTable {P : List Part} {base : State} {m : Nat} {q : Nat} {c : BitVec 128} {r : T0Rd × State} (hP : sub [.mxes] P) (h_r : PairKeeps P base r) :
    PairKeeps P base (holdTable m q c r) := by
  obtain ⟨o, t⟩ := r
  have hm : ∀ x, Keeps P base (setMx m x t) := fun _ => kept_setMx (sub_trans (by decide) hP) h_r
  cases o with
  | wait => exact h_r
  | bad => exact hm _
  | ok bs => exact kept_noteLoad (sub_trans (by decide) hP) (hm _)

theorem kept_readTableOf {P : List Part} {base : State} {m : Nat} {q : Nat} {c : BitVec 128} {s : State} (hP : sub [.ctl, .mem, .ev, .ms, .mxes, .persist] P) (h_s : Keeps P base s) :
    PairKeeps P base (readTableOf m q c s) := by
  unfold readTableOf
  try dsimp only
  with_reducible repeat' first
    | assumption
    | refine keeps_ite ?_ ?_
    | refine pairKeeps_ite ?_ ?_
    | refine snd_of ?_
    | refine kept_holdTable (sub_trans (by decide) hP) ?_
    | refine kept_t0Read (sub_trans (by decide) hP) ?_
    | refine of_pair ?_ (by assumption)
    | split
    | refine keeps_pair ?_

theorem kept_columnTable {P : List Part} {base : State} {m : Nat} {q : Nat} {c : BitVec 128} {s : State} (hP : sub [.ctl, .mem, .ev, .ms, .mxes, .persist] P) (h_s : Keeps P base s) :
    PairKeeps P base (columnTable m q c s) := by
  unfold columnTable
  try dsimp only
  with_reducible repeat' first
    | assumption
    | refine keeps_ite ?_ ?_
    | refine pairKeeps_ite ?_ ?_
    | refine snd_of ?_
    | refine kept_readTableOf (sub_trans (by decide) hP) ?_
    | refine of_pair ?_ (by assumption)
    | split
    | refine keeps_pair ?_

theorem kept_requantOutRows {P : List Part} {base : State} {m : Nat} {c : BitVec 128} {t : List Nat} {k : Bank} {s : State} (hP : sub [.ctl, .mem, .ev, .ms, .mxes, .persist] P) (h_s : Keeps P base s) :
    Keeps P base (requantOutRows m c t k s) := by
  unfold requantOutRows
  try dsimp only
  with_reducible repeat' first
    | assumption
    | refine keeps_ite ?_ ?_
    | refine kept_bump (sub_trans (by decide) hP) ?_
    | refine kept_t0Write (sub_trans (by decide) hP) ?_
    | refine keeps_foldl _ (fun _ _ _ => ?_) ?_
    | refine keeps_foldlP _ (fun _ _ _ => ?_) ?_
    | refine tripleKeeps_foldl _ (fun _ _ _ => ?_) ?_
    | refine objStepKeeps_foldl _ (fun _ _ _ => ?_) ?_
    | split

theorem kept_beginRequant {P : List Part} {base : State} {m : Nat} {q : Nat} {c : BitVec 128} {s0 : State} (hP : sub [.ctl, .mem, .ev, .ms, .mxes, .persist] P) (h_s0 : Keeps P base s0) :
    BeginKeeps P base (beginRequant m q c s0) := by
  unfold beginRequant
  try dsimp only
  with_reducible repeat' first
    | assumption
    | refine keeps_ite ?_ ?_
    | refine pairKeeps_ite ?_ ?_
    | refine beginKeeps_ite ?_ ?_
    | refine keeps_bwait ?_
    | refine keeps_bgo ?_
    | refine snd_of ?_
    | refine kept_columnTable (sub_trans (by decide) hP) ?_
    | refine kept_requantOutRows (sub_trans (by decide) hP) ?_
    | refine kept_touchBank (sub_trans (by decide) hP) ?_
    | refine of_pair ?_ (by assumption)
    | refine of_bwait ?_ (by assumption)
    | refine of_bgo ?_ (by assumption)
    | split
    | refine keeps_pair ?_

theorem kept_beginTstore {P : List Part} {base : State} {m : Nat} {c : BitVec 128} {s : State} (hP : sub [.ctl, .mem, .ev, .ms, .mxes, .persist] P) (h_s : Keeps P base s) :
    BeginKeeps P base (beginTstore m c s) := by
  unfold beginTstore
  try dsimp only
  with_reducible repeat' first
    | assumption
    | refine keeps_ite ?_ ?_
    | refine pairKeeps_ite ?_ ?_
    | refine beginKeeps_ite ?_ ?_
    | refine keeps_bwait ?_
    | refine keeps_bgo ?_
    | refine snd_of ?_
    | refine kept_t0Write (sub_trans (by decide) hP) ?_
    | refine kept_touchStream (sub_trans (by decide) hP) ?_
    | refine optKeeps_map (fun _ => ?_)
    | refine of_pair ?_ (by assumption)
    | refine of_bwait ?_ (by assumption)
    | refine of_bgo ?_ (by assumption)
    | split
    | refine keeps_pair ?_

theorem kept_beginCmd {P : List Part} {base : State} {m : Nat} {q : Nat} {t : TIss} {s : State} (hP : sub [.ctl, .mem, .ev, .ms, .mxes, .refetch, .persist] P) (h_s : Keeps P base s) :
    BeginKeeps P base (beginCmd m q t s) := by
  unfold beginCmd
  try dsimp only
  with_reducible repeat' first
    | assumption
    | refine keeps_ite ?_ ?_
    | refine beginKeeps_ite ?_ ?_
    | refine keeps_bwait ?_
    | refine keeps_bgo ?_
    | refine kept_beginAclr (sub_trans (by decide) hP) ?_
    | refine kept_beginAmove (sub_trans (by decide) hP) ?_
    | refine kept_beginCbload (sub_trans (by decide) hP) ?_
    | refine kept_beginMma (sub_trans (by decide) hP) ?_
    | refine kept_beginRequant (sub_trans (by decide) hP) ?_
    | refine kept_beginTload (sub_trans (by decide) hP) ?_
    | refine kept_beginTstore (sub_trans (by decide) hP) ?_
    | refine kept_beginWload (sub_trans (by decide) hP) ?_
    | refine of_bwait ?_ (by assumption)
    | refine of_bgo ?_ (by assumption)
    | split

theorem kept_startUnit {P : List Part} {base : State} {m : Nat} {q : Nat} {t : TIss} {s : State} (hP : sub [.ctl, .mem, .ev, .ms, .mxes, .refetch, .persist] P) (h_s : Keeps P base s) :
    Keeps P base (startUnit m q t s) := by
  unfold startUnit
  try dsimp only
  with_reducible repeat' first
    | assumption
    | refine keeps_ite ?_ ?_
    | refine beginKeeps_ite ?_ ?_
    | refine keeps_bwait ?_
    | refine keeps_bgo ?_
    | refine kept_beginCmd (sub_trans (by decide) hP) ?_
    | refine kept_dropIssued (sub_trans (by decide) hP) ?_
    | refine kept_failDest (sub_trans (by decide) hP) ?_
    | refine kept_updQ (sub_trans (by decide) hP) ?_
    | refine of_bwait ?_ (by assumption)
    | refine of_bgo ?_ (by assumption)
    | split

theorem kept_pumpUnit {P : List Part} {base : State} {m : Nat} {s : State} {u : Nat} (hP : sub [.ctl, .mem, .ev, .ms, .mxes, .refetch, .persist] P) (h_s : Keeps P base s) :
    Keeps P base (pumpUnit m s u) := by
  unfold pumpUnit
  try dsimp only
  with_reducible repeat' first
    | assumption
    | refine keeps_ite ?_ ?_
    | refine kept_startUnit (sub_trans (by decide) hP) ?_
    | split

theorem kept_replayLoad {P : List Part} {base : State} {m : Nat} {q : Nat} {r : Replay} {s : State} (hP : sub [.ctl, .mem, .ev, .ms, .mxes, .refetch, .persist] P) (h_s : Keeps P base s) :
    BeginKeeps P base (replayLoad m q r s) := by
  unfold replayLoad
  try dsimp only
  with_reducible repeat' first
    | assumption
    | refine keeps_ite ?_ ?_
    | refine beginKeeps_ite ?_ ?_
    | refine keeps_bwait ?_
    | refine keeps_bgo ?_
    | refine kept_beginTload (sub_trans (by decide) hP) ?_
    | refine kept_beginWload (sub_trans (by decide) hP) ?_
    | refine kept_failDest (sub_trans (by decide) hP) ?_
    | refine keeps_getD ?_ ?_
    | refine of_bwait ?_ (by assumption)
    | refine of_bgo ?_ (by assumption)
    | split

theorem kept_replayOne {P : List Part} {base : State} {m : Nat} {s : State} (hP : sub [.ctl, .mem, .ev, .ms, .mxes, .refetch, .persist] P) (h_s : Keeps P base s) :
    Keeps P base (replayOne m s) := by
  unfold replayOne
  try dsimp only
  with_reducible repeat' first
    | assumption
    | refine keeps_ite ?_ ?_
    | refine beginKeeps_ite ?_ ?_
    | refine keeps_bwait ?_
    | refine keeps_bgo ?_
    | refine kept_replayLoad (sub_trans (by decide) hP) ?_
    | refine kept_setMx (sub_trans (by decide) hP) ?_
    | refine keeps_getD ?_ ?_
    | refine of_bwait ?_ (by assumption)
    | refine of_bgo ?_ (by assumption)
    | split

theorem kept_settleWait {P : List Part} {base : State} {m : Nat} {s : State} {q : Nat} (hP : sub [.mxes] P) (h_s : Keeps P base s) :
    Keeps P base (settleWait m s q) := by
  unfold settleWait
  try dsimp only
  with_reducible repeat' first
    | assumption
    | refine keeps_ite ?_ ?_
    | refine kept_updQ (sub_trans (by decide) hP) ?_
    | split

theorem kept_emptySlot {P : List Part} {base : State} {h : Nat} {slot : Nat} {s : State} (hP : sub [.ctl, .slots, .refetch] P) (h_s : Keeps P base s) :
    Keeps P base (emptySlot h slot s) := by
  unfold emptySlot
  try dsimp only
  with_reducible repeat' first
    | assumption
    | refine keeps_ite ?_ ?_
    | refine kept_setFld (sub_trans (by decide) hP) ?_
    | split
  all_goals try (with_reducible refine keeps_mk ?_ rfl (Or.inl rfl) (Or.inl rfl) (Or.inl rfl) (Or.inl rfl) (Or.inl rfl) (Or.inl rfl) (Or.inl rfl) (Or.inl rfl) (Or.inl rfl) (Or.inl rfl) (Or.inl rfl) (Or.inl rfl) (Or.inr (sub_trans (by decide) hP)) (Or.inr (sub_trans (by decide) hP)) (Or.inl rfl) (Or.inl rfl) (Or.inl rfl) (Or.inl rfl) (Or.inl rfl) (Or.inl rfl) (Or.inl rfl) (Or.inl rfl) (Or.inl rfl) (Or.inl rfl) (Or.inl rfl) (Or.inl rfl) bytesWf_same)
  all_goals with_reducible repeat' first
    | assumption
    | refine keeps_ite ?_ ?_
    | refine kept_setFld (sub_trans (by decide) hP) ?_
    | split

theorem kept_countRelease {P : List Part} {base : State} {h : Nat} {slot : Nat} {layer : Nat} {s : State} (hP : sub [.ctl, .slots, .refetch] P) (h_s : Keeps P base s) :
    Keeps P base (countRelease h slot layer s) := by
  unfold countRelease
  try dsimp only
  with_reducible repeat' first
    | assumption
    | refine keeps_ite ?_ ?_
    | refine kept_emptySlot (sub_trans (by decide) hP) ?_
    | refine kept_setFld (sub_trans (by decide) hP) ?_
    | split

theorem kept_resolveRel {P : List Part} {base : State} {m : Nat} {s : State} {q : Nat} (hP : sub [.ctl, .mxes, .slots, .refetch] P) (h_s : Keeps P base s) :
    Keeps P base (resolveRel m s q) := by
  unfold resolveRel
  try dsimp only
  with_reducible repeat' first
    | assumption
    | refine keeps_ite ?_ ?_
    | refine kept_countRelease (sub_trans (by decide) hP) ?_
    | refine kept_doneAtIssue (sub_trans (by decide) hP) ?_
    | refine kept_updQ (sub_trans (by decide) hP) ?_
    | split

theorem kept_pump {P : List Part} {base : State} {m : Nat} {s : State} (hP : sub [.ctl, .mem, .ev, .ms, .mxes, .slots, .refetch, .persist] P) (h_s : Keeps P base s) :
    Keeps P base (pump m s) := by
  unfold pump
  try dsimp only
  with_reducible repeat' first
    | assumption
    | refine keeps_ite ?_ ?_
    | refine kept_pumpUnit (sub_trans (by decide) hP) ?_
    | refine kept_replayOne (sub_trans (by decide) hP) ?_
    | refine kept_resolveRel (sub_trans (by decide) hP) ?_
    | refine kept_settleWait (sub_trans (by decide) hP) ?_
    | refine keeps_foldl _ (fun _ _ _ => ?_) ?_
    | refine keeps_foldlP _ (fun _ _ _ => ?_) ?_
    | refine tripleKeeps_foldl _ (fun _ _ _ => ?_) ?_
    | refine objStepKeeps_foldl _ (fun _ _ _ => ?_) ?_
    | split

theorem kept_startCancel {P : List Part} {base : State} {m : Nat} {q : Nat} {status : Nat} {s : State} (hP : sub [.ctl, .mem, .ev, .ms, .mxes, .slots, .refetch, .persist] P) (h_s : Keeps P base s) :
    Keeps P base (startCancel m q status s) := by
  unfold startCancel
  try dsimp only
  with_reducible repeat' first
    | assumption
    | refine keeps_ite ?_ ?_
    | refine kept_discardQueue (sub_trans (by decide) hP) ?_
    | refine kept_pump (sub_trans (by decide) hP) ?_
    | refine kept_updQ (sub_trans (by decide) hP) ?_
    | split

theorem kept_completeRun {P : List Part} {base : State} {m : Nat} {q : Nat} {r : TRun} {s : State} (hP : sub [.mxes] P) (h_s : Keeps P base s) :
    Keeps P base (completeRun m q r s) := by
  unfold completeRun
  try dsimp only
  with_reducible repeat' first
    | assumption
    | refine keeps_ite ?_ ?_
    | refine kept_finishCmd (sub_trans (by decide) hP) ?_
    | refine kept_updQ (sub_trans (by decide) hP) ?_
    | refine optKeeps_map (fun _ => ?_)
    | split

theorem kept_abortRuns {P : List Part} {base : State} {m : Nat} {s : State} (hP : sub [.mxes] P) (h_s : Keeps P base s) :
    Keeps P base (abortRuns m s) := by
  unfold abortRuns
  try dsimp only
  with_reducible repeat' first
    | assumption
    | refine keeps_ite ?_ ?_
    | refine kept_completeRun (sub_trans (by decide) hP) ?_
    | refine keeps_foldl _ (fun _ _ _ => ?_) ?_
    | refine keeps_foldlP _ (fun _ _ _ => ?_) ?_
    | refine tripleKeeps_foldl _ (fun _ _ _ => ?_) ?_
    | refine objStepKeeps_foldl _ (fun _ _ _ => ?_) ?_
    | split

theorem kept_blockDo {P : List Part} {base : State} {who : Who} {off : Nat} {f : State → State} {s : State} (hP : sub [.ctl, .ev] P) (h_f : ∀ x0, Keeps P base x0 → Keeps P base (f x0)) (h_s : Keeps P base s) :
    Keeps P base (blockDo who off f s) := by
  unfold blockDo
  try dsimp only
  with_reducible repeat' first
    | assumption
    | refine keeps_ite ?_ ?_
    | refine kept_ignoredWrite (sub_trans (by decide) hP) ?_
    | refine h_f _ ?_
    | split

theorem kept_mxeClearEvents {P : List Part} {base : State} {m : Nat} {s : State} (hP : sub [.ctl] P) (h_s : Keeps P base s) :
    Keeps P base (mxeClearEvents m s) := by
  unfold mxeClearEvents
  try dsimp only
  with_reducible repeat' first
    | assumption
    | refine keeps_ite ?_ ?_
    | refine kept_zeroRegs (sub_trans (by decide) hP) ?_
    | split

theorem kept_mxeClearCycles {P : List Part} {base : State} {m : Nat} {s : State} (hP : sub [.ctl] P) (h_s : Keeps P base s) :
    Keeps P base (mxeClearCycles m s) := by
  unfold mxeClearCycles
  try dsimp only
  with_reducible repeat' first
    | assumption
    | refine keeps_ite ?_ ?_
    | refine kept_zeroRegs (sub_trans (by decide) hP) ?_
    | split

theorem kept_bindQueue {P : List Part} {base : State} {m : Nat} {q : Nat} {val : Nat} {s : State} (hP : sub [.ctl, .mxes] P) (h_s : Keeps P base s) :
    Keeps P base (bindQueue m q val s) := by
  unfold bindQueue
  try dsimp only
  with_reducible repeat' first
    | assumption
    | refine keeps_ite ?_ ?_
    | refine kept_setReg (sub_trans (by decide) hP) ?_
    | refine kept_updQ (sub_trans (by decide) hP) ?_
    | split

theorem kept_qctlWrite {P : List Part} {base : State} {who : Who} {m : Nat} {q : Nat} {val : Nat} {s : State} (hP : sub [.ctl, .ev, .mxes] P) (h_s : Keeps P base s) :
    Keeps P base (qctlWrite who m q val s) := by
  unfold qctlWrite
  try dsimp only
  with_reducible repeat' first
    | assumption
    | refine keeps_ite ?_ ?_
    | refine kept_bindQueue (sub_trans (by decide) hP) ?_
    | refine kept_ignoredWrite (sub_trans (by decide) hP) ?_
    | refine kept_setReg (sub_trans (by decide) hP) ?_
    | refine kept_updQ (sub_trans (by decide) hP) ?_
    | split

theorem kept_xpClear {P : List Part} {base : State} {m : Nat} {s : State} (hP : sub [.ctl] P) (h_s : Keeps P base s) :
    Keeps P base (xpClear m s) := by
  unfold xpClear
  try dsimp only
  with_reducible repeat' first
    | assumption
    | refine keeps_ite ?_ ?_
    | refine kept_zeroRegs (sub_trans (by decide) hP) ?_
    | split

theorem kept_pumpCrew {P : List Part} {base : State} {h : Nat} {s : State} (hP : sub [.ctl, .mem, .ev, .ms, .mxes, .slots, .refetch, .persist] P) (h_s : Keeps P base s) :
    Keeps P base (pumpCrew h s) := by
  unfold pumpCrew
  try dsimp only
  with_reducible repeat' first
    | assumption
    | refine keeps_ite ?_ ?_
    | refine kept_pump (sub_trans (by decide) hP) ?_
    | refine keeps_foldl _ (fun _ _ _ => ?_) ?_
    | refine keeps_foldlP _ (fun _ _ _ => ?_) ?_
    | refine tripleKeeps_foldl _ (fun _ _ _ => ?_) ?_
    | refine objStepKeeps_foldl _ (fun _ _ _ => ?_) ?_
    | split

theorem kept_dropViews {P : List Part} {base : State} {h : Nat} {slot : Nat} {s : State} (hP : sub [.mxes] P) (h_s : Keeps P base s) :
    Keeps P base (dropViews h slot s) := by
  unfold dropViews
  try dsimp only
  with_reducible repeat' first
    | assumption
    | refine keeps_ite ?_ ?_
    | refine kept_updQ (sub_trans (by decide) hP) ?_
    | refine keeps_foldl _ (fun _ _ _ => ?_) ?_
    | refine keeps_foldlP _ (fun _ _ _ => ?_) ?_
    | refine tripleKeeps_foldl _ (fun _ _ _ => ?_) ?_
    | refine objStepKeeps_foldl _ (fun _ _ _ => ?_) ?_
    | split

theorem kept_resolveHswait {P : List Part} {base : State} {m : Nat} {q : Nat} {c : BitVec 128} {s : State} (hP : sub [.mxes] P) (h_s : Keeps P base s) :
    Keeps P base (resolveHswait m q c s) := by
  unfold resolveHswait
  try dsimp only
  with_reducible repeat' first
    | assumption
    | refine keeps_ite ?_ ?_
    | refine kept_doneAtIssue (sub_trans (by decide) hP) ?_
    | refine kept_failWait (sub_trans (by decide) hP) ?_
    | refine kept_setMx (sub_trans (by decide) hP) ?_
    | refine kept_updQ (sub_trans (by decide) hP) ?_
    | split

theorem kept_waitExpired {P : List Part} {base : State} {m : Nat} {q : Nat} {h : Option (BitVec 128 × Option Nat)} {s : State} (hP : sub [.ctl, .mem, .ev, .ms, .mxes, .slots, .refetch, .persist] P) (h_s : Keeps P base s) :
    Keeps P base (waitExpired m q h s) := by
  unfold waitExpired
  try dsimp only
  with_reducible repeat' first
    | assumption
    | refine keeps_ite ?_ ?_
    | refine kept_failWait (sub_trans (by decide) hP) ?_
    | refine kept_pump (sub_trans (by decide) hP) ?_
    | split

theorem kept_effSemsig {P : List Part} {base : State} {m : Nat} {q : Nat} {c : BitVec 128} {s : State} (hP : sub [.mxes] P) (h_s : Keeps P base s) :
    Keeps P base (effSemsig m q c s) := by
  unfold effSemsig
  try dsimp only
  with_reducible repeat' first
    | assumption
    | refine keeps_ite ?_ ?_
    | refine kept_popHead (sub_trans (by decide) hP) ?_
    | refine kept_updQ (sub_trans (by decide) hP) ?_
    | split

theorem kept_endRestore {P : List Part} {base : State} {m : Nat} {s : State} (hP : sub [.ctl, .mxes] P) (h_s : Keeps P base s) :
    Keeps P base (endRestore m s) := by
  unfold endRestore
  try dsimp only
  with_reducible repeat' first
    | assumption
    | refine keeps_ite ?_ ?_
    | refine kept_bump (sub_trans (by decide) hP) ?_
    | refine kept_setMx (sub_trans (by decide) hP) ?_
    | split

theorem kept_countStream {P : List Part} {base : State} {m : Nat} {r : TRun} {s : State} (hP : sub [.ctl] P) (h_s : Keeps P base s) :
    Keeps P base (countStream m r s) := by
  unfold countStream
  try dsimp only
  with_reducible repeat' first
    | assumption
    | refine keeps_ite ?_ ?_
    | refine kept_bump (sub_trans (by decide) hP) ?_
    | split

theorem kept_effHsrel {P : List Part} {base : State} {m : Nat} {q : Nat} {_c : BitVec 128} {s : State} (hP : sub [.mxes] P) (h_s : Keeps P base s) :
    Keeps P base (effHsrel m q _c s) := by
  unfold effHsrel
  try dsimp only
  with_reducible repeat' first
    | assumption
    | refine keeps_ite ?_ ?_
    | refine kept_updQ (sub_trans (by decide) hP) ?_
    | split

theorem kept_runTile {P : List Part} {base : State} {m : Nat} {q : Nat} {op : Nat} {eff : BitVec 128 → State → State} {s : State} (hP : sub [.ctl, .mem, .ev, .ms, .mxes, .slots, .refetch, .persist] P) (h_eff : ∀ x0 x1, Keeps P base x1 → Keeps P base (eff x0 x1)) (h_s : Keeps P base s) :
    Keeps P base (runTile m q op eff s) := by
  unfold runTile
  try dsimp only
  with_reducible repeat' first
    | assumption
    | refine keeps_ite ?_ ?_
    | refine kept_endRestore (sub_trans (by decide) hP) ?_
    | refine kept_pump (sub_trans (by decide) hP) ?_
    | refine kept_rejectHead (sub_trans (by decide) hP) ?_
    | refine h_eff _ _ ?_
    | split

theorem kept_effHswait {P : List Part} {base : State} {m : Nat} {q : Nat} {c : BitVec 128} {s : State} (hP : sub [.mxes] P) (h_s : Keeps P base s) :
    Keeps P base (effHswait m q c s) := by
  unfold effHswait
  try dsimp only
  with_reducible repeat' first
    | assumption
    | refine keeps_ite ?_ ?_
    | refine kept_updQ (sub_trans (by decide) hP) ?_
    | split

theorem kept_effSemwait {P : List Part} {base : State} {m : Nat} {q : Nat} {c : BitVec 128} {s : State} (hP : sub [.mxes] P) (h_s : Keeps P base s) :
    Keeps P base (effSemwait m q c s) := by
  unfold effSemwait
  try dsimp only
  with_reducible repeat' first
    | assumption
    | refine keeps_ite ?_ ?_
    | refine kept_updQ (sub_trans (by decide) hP) ?_
    | split

theorem kept_serveWait {P : List Part} {base : State} {n : Nat} {i : Nat} {s : State} {p : Nat} (hP : sub [.ctl, .mxes] P) (h_s : Keeps P base s) :
    Keeps P base (serveWait n i s p) := by
  unfold serveWait
  try dsimp only
  with_reducible repeat' first
    | assumption
    | refine keeps_ite ?_ ?_
    | refine kept_doneAtIssue (sub_trans (by decide) hP) ?_
    | refine kept_setFld (sub_trans (by decide) hP) ?_
    | refine kept_updQ (sub_trans (by decide) hP) ?_
    | split

end Sys2Proof.Machine
end

