-- ==== Sys2Proof/Laws/KncOps.lean ====
section
/-! SUPPORT. For each operation of Machine/KncOps.lean, which parts of the state it may change: `kept_f` says that `f` keeps
everything but the parts listed in its first hypothesis, from any state that the states it is given were kept from. -/

namespace Sys2Proof.Machine

theorem kept_updCtx {P : List Part} {base : State} {c : Nat} {f : Ctx → Ctx} {s : State} (hP : sub [.knc] P) (h_s : Keeps P base s) :
    Keeps P base (updCtx c f s) := by
  unfold updCtx
  try dsimp only
  with_reducible repeat' first
    | assumption
    | refine keeps_ite ?_ ?_
    | split
  all_goals try (with_reducible refine keeps_with_knc (sub_trans (by decide) hP) ?_)
  all_goals with_reducible repeat' first
    | assumption
    | refine keeps_ite ?_ ?_
    | split

theorem kept_setCtxState {P : List Part} {base : State} {c : Nat} {v : Nat} {s : State} (hP : sub [.ctl] P) (h_s : Keeps P base s) :
    Keeps P base (setCtxState c v s) := by
  unfold setCtxState
  try dsimp only
  with_reducible repeat' first
    | assumption
    | refine keeps_ite ?_ ?_
    | refine kept_setFld (sub_trans (by decide) hP) ?_
    | split

theorem kept_tellSupervisor {P : List Part} {base : State} {c : Nat} {s : State} (hP : sub [.knc] P) (h_s : Keeps P base s) :
    Keeps P base (tellSupervisor c s) := by
  unfold tellSupervisor
  try dsimp only
  with_reducible repeat' first
    | assumption
    | refine keeps_ite ?_ ?_
    | refine kept_updCtx (sub_trans (by decide) hP) ?_
    | split

theorem kept_stopCtx {P : List Part} {base : State} {c : Nat} {st : Nat} {cause : Nat} {epc : Nat} {addr : Nat} {s : State} (hP : sub [.ctl, .knc] P) (h_s : Keeps P base s) :
    Keeps P base (stopCtx c st cause epc addr s) := by
  unfold stopCtx
  try dsimp only
  with_reducible repeat' first
    | assumption
    | refine keeps_ite ?_ ?_
    | refine kept_setCtxState (sub_trans (by decide) hP) ?_
    | refine kept_setFld (sub_trans (by decide) hP) ?_
    | refine kept_setReg (sub_trans (by decide) hP) ?_
    | refine kept_tellSupervisor (sub_trans (by decide) hP) ?_
    | refine kept_updCtx (sub_trans (by decide) hP) ?_
    | split

theorem kept_syncIntake {P : List Part} {base : State} {c : Nat} {s : State} (hP : sub [.ctl] P) (h_s : Keeps P base s) :
    Keeps P base (syncIntake c s) := by
  unfold syncIntake
  try dsimp only
  with_reducible repeat' first
    | assumption
    | refine keeps_ite ?_ ?_
    | refine kept_setFld (sub_trans (by decide) hP) ?_
    | split

theorem kept_ctxFlr {P : List Part} {base : State} {c : Nat} {s : State} (hP : sub [.free, .ctl, .mem, .ev, .ms, .mxes, .slots, .refetch, .knc, .persist] P) (h_s : Keeps P base s) :
    Keeps P base (ctxFlr c s) := by
  unfold ctxFlr
  try dsimp only
  with_reducible repeat' first
    | assumption
    | refine keeps_ite ?_ ?_
    | refine pairKeeps_ite ?_ ?_
    | refine snd_of ?_
    | refine kept_freshWord (sub_trans (by decide) hP) ?_
    | refine kept_startCancel (sub_trans (by decide) hP) ?_
    | refine kept_stopCtx (sub_trans (by decide) hP) ?_
    | refine kept_syncIntake (sub_trans (by decide) hP) ?_
    | refine kept_updCtx (sub_trans (by decide) hP) ?_
    | refine keeps_foldl _ (fun _ _ _ => ?_) ?_
    | refine keeps_foldlP _ (fun _ _ _ => ?_) ?_
    | refine tripleKeeps_foldl _ (fun _ _ _ => ?_) ?_
    | refine objStepKeeps_foldl _ (fun _ _ _ => ?_) ?_
    | refine of_pair ?_ (by assumption)
    | split
    | refine keeps_pair ?_

theorem kept_excCtx {P : List Part} {base : State} {c : Nat} {cause : Nat} {epc : Nat} {addr : Nat} {s : State} (hP : sub [.ctl, .ev, .knc] P) (h_s : Keeps P base s) :
    Keeps P base (excCtx c cause epc addr s) := by
  unfold excCtx
  try dsimp only
  with_reducible repeat' first
    | assumption
    | refine keeps_ite ?_ ?_
    | refine kept_stopCtx (sub_trans (by decide) hP) ?_
    | refine kept_tenantEvent (sub_trans (by decide) hP) ?_
    | split

theorem kept_takeErr {P : List Part} {base : State} {c : Nat} {e : HeldErr} {s : State} (hP : sub [.ctl, .ev, .knc] P) (h_s : Keeps P base s) :
    Keeps P base (takeErr c e s) := by
  unfold takeErr
  try dsimp only
  with_reducible repeat' first
    | assumption
    | refine keeps_ite ?_ ?_
    | refine kept_excCtx (sub_trans (by decide) hP) ?_
    | refine kept_updCtx (sub_trans (by decide) hP) ?_
    | split

theorem kept_excFree {P : List Part} {base : State} {c : Nat} {cause : Nat} {s : State} (hP : sub [.free, .ctl, .ev, .knc] P) (h_s : Keeps P base s) :
    Keeps P base (excFree c cause s) := by
  unfold excFree
  try dsimp only
  with_reducible repeat' first
    | assumption
    | refine keeps_ite ?_ ?_
    | refine pairKeeps_ite ?_ ?_
    | refine snd_of ?_
    | refine kept_excCtx (sub_trans (by decide) hP) ?_
    | refine kept_freshWord (sub_trans (by decide) hP) ?_
    | refine of_pair ?_ (by assumption)
    | split
    | refine keeps_pair ?_

theorem kept_retire {P : List Part} {base : State} {c : Nat} {pc : Nat} {s : State} (hP : sub [.ctl, .knc] P) (h_s : Keeps P base s) :
    Keeps P base (retire c pc s) := by
  unfold retire
  try dsimp only
  with_reducible repeat' first
    | assumption
    | refine keeps_ite ?_ ?_
    | refine kept_setReg (sub_trans (by decide) hP) ?_
    | refine kept_updCtx (sub_trans (by decide) hP) ?_
    | split

theorem kept_issue {P : List Part} {base : State} {c : Nat} {u : Use} {eff : State → Eff} {s : State} (hP : sub [.free, .ctl, .ev, .knc] P) (h_eff : ∀ x0, Keeps P base x0 → EffKeeps P base (eff x0)) (h_s : Keeps P base s) :
    Keeps P base (issue c u eff s) := by
  unfold issue
  try dsimp only
  with_reducible repeat' first
    | assumption
    | refine keeps_ite ?_ ?_
    | refine kept_bump (sub_trans (by decide) hP) ?_
    | refine kept_excCtx (sub_trans (by decide) hP) ?_
    | refine kept_excFree (sub_trans (by decide) hP) ?_
    | refine kept_retire (sub_trans (by decide) hP) ?_
    | refine kept_takeErr (sub_trans (by decide) hP) ?_
    | refine h_eff _ ?_
    | refine of_done ?_ (by assumption)
    | refine of_jump ?_ (by assumption)
    | refine of_exc ?_ (by assumption)
    | refine of_excFree ?_ (by assumption)
    | refine of_away ?_ (by assumption)
    | split

theorem kept_wroteReg {P : List Part} {base : State} {c : Nat} {d : Nat} {s : State} (hP : sub [.knc] P) (h_s : Keeps P base s) :
    Keeps P base (wroteReg c d s) := by
  unfold wroteReg
  try dsimp only
  with_reducible repeat' first
    | assumption
    | refine keeps_ite ?_ ?_
    | refine kept_updCtx (sub_trans (by decide) hP) ?_
    | refine optKeeps_map (fun _ => ?_)
    | split

theorem kept_setV {P : List Part} {base : State} {c : Nat} {i : Nat} {bs : List Byte} {s : State} (hP : sub [.ctl, .knc] P) (h_s : Keeps P base s) :
    Keeps P base (setV c i bs s) := by
  unfold setV
  try dsimp only
  with_reducible repeat' first
    | assumption
    | refine keeps_ite ?_ ?_
    | refine kept_setReg (sub_trans (by decide) hP) ?_
    | refine kept_wroteReg (sub_trans (by decide) hP) ?_
    | refine keeps_foldl _ (fun _ _ _ => ?_) ?_
    | refine keeps_foldlP _ (fun _ _ _ => ?_) ?_
    | refine tripleKeeps_foldl _ (fun _ _ _ => ?_) ?_
    | refine objStepKeeps_foldl _ (fun _ _ _ => ?_) ?_
    | split

theorem kept_kncCntClear {P : List Part} {base : State} {k : Nat} {s : State} (hP : sub [.ctl] P) (h_s : Keeps P base s) :
    Keeps P base (kncCntClear k s) := by
  unfold kncCntClear
  try dsimp only
  with_reducible repeat' first
    | assumption
    | refine keeps_ite ?_ ?_
    | refine kept_zeroRegs (sub_trans (by decide) hP) ?_
    | split

theorem kept_kncCtlWrite {P : List Part} {base : State} {who : Who} {c : Nat} {val : Nat} {s : State} (hP : sub [.ctl, .ev] P) (h_s : Keeps P base s) :
    Keeps P base (kncCtlWrite who c val s) := by
  unfold kncCtlWrite
  try dsimp only
  with_reducible repeat' first
    | assumption
    | refine keeps_ite ?_ ?_
    | refine kept_ignoredWrite (sub_trans (by decide) hP) ?_
    | refine kept_setCtxState (sub_trans (by decide) hP) ?_
    | refine kept_setReg (sub_trans (by decide) hP) ?_
    | split

theorem kept_ctxClear {P : List Part} {base : State} {who : Who} {c : Nat} {s : State} (hP : sub [.ctl, .ev, .knc] P) (h_s : Keeps P base s) :
    Keeps P base (ctxClear who c s) := by
  unfold ctxClear
  try dsimp only
  with_reducible repeat' first
    | assumption
    | refine keeps_ite ?_ ?_
    | refine kept_ignoredWrite (sub_trans (by decide) hP) ?_
    | refine kept_updCtx (sub_trans (by decide) hP) ?_
    | refine kept_zeroRegs (sub_trans (by decide) hP) ?_
    | refine optKeeps_map (fun _ => ?_)
    | split

theorem kept_ctxStop {P : List Part} {base : State} {who : Who} {c : Nat} {s : State} (hP : sub [.free, .ctl, .ev, .knc] P) (h_s : Keeps P base s) :
    Keeps P base (ctxStop who c s) := by
  unfold ctxStop
  try dsimp only
  with_reducible repeat' first
    | assumption
    | refine keeps_ite ?_ ?_
    | refine pairKeeps_ite ?_ ?_
    | refine snd_of ?_
    | refine kept_freshWord (sub_trans (by decide) hP) ?_
    | refine kept_ignoredWrite (sub_trans (by decide) hP) ?_
    | refine kept_stopCtx (sub_trans (by decide) hP) ?_
    | refine of_pair ?_ (by assumption)
    | split
    | refine keeps_pair ?_

theorem kept_ctxStart {P : List Part} {base : State} {who : Who} {c : Nat} {s : State} (hP : sub [.ctl, .ev, .knc] P) (h_s : Keeps P base s) :
    Keeps P base (ctxStart who c s) := by
  unfold ctxStart
  try dsimp only
  with_reducible repeat' first
    | assumption
    | refine keeps_ite ?_ ?_
    | refine kept_excCtx (sub_trans (by decide) hP) ?_
    | refine kept_ignoredWrite (sub_trans (by decide) hP) ?_
    | refine kept_setCtxState (sub_trans (by decide) hP) ?_
    | split

theorem kept_ctxCmdWrite {P : List Part} {base : State} {who : Who} {c : Nat} {val : Nat} {s : State} (hP : sub [.free, .ctl, .ev, .knc] P) (h_s : Keeps P base s) :
    Keeps P base (ctxCmdWrite who c val s) := by
  unfold ctxCmdWrite
  try dsimp only
  with_reducible repeat' first
    | assumption
    | refine keeps_ite ?_ ?_
    | refine kept_ctxClear (sub_trans (by decide) hP) ?_
    | refine kept_ctxStart (sub_trans (by decide) hP) ?_
    | refine kept_ctxStop (sub_trans (by decide) hP) ?_
    | split

theorem kept_setG {P : List Part} {base : State} {c : Nat} {i : Nat} {v : Nat} {s : State} (hP : sub [.ctl, .knc] P) (h_s : Keeps P base s) :
    Keeps P base (setG c i v s) := by
  unfold setG
  try dsimp only
  with_reducible repeat' first
    | assumption
    | refine keeps_ite ?_ ?_
    | refine kept_setReg (sub_trans (by decide) hP) ?_
    | refine kept_wroteReg (sub_trans (by decide) hP) ?_
    | split

theorem kept_setP {P : List Part} {base : State} {c : Nat} {i : Nat} {v : Nat} {s : State} (hP : sub [.ctl] P) (h_s : Keeps P base s) :
    Keeps P base (setP c i v s) := by
  unfold setP
  try dsimp only
  with_reducible repeat' first
    | assumption
    | refine keeps_ite ?_ ?_
    | refine kept_setReg (sub_trans (by decide) hP) ?_
    | split

end Sys2Proof.Machine
end

