-- ==== Sys2Proof/Laws/Hp0Ops.lean ====
section
/-! SUPPORT. For each operation of Machine/Hp0Ops.lean, which parts of the state it may change: `kept_f` says that `f` keeps
everything but the parts listed in its first hypothesis, from any state that the states it is given were kept from. -/

namespace Sys2Proof.Machine

theorem kept_send {P : List Part} {base : State} {o : Out} {s : State} (hP : sub [.out] P) (h_s : Keeps P base s) :
    Keeps P base (send o s) := by
  unfold send
  try dsimp only
  with_reducible repeat' first
    | assumption
    | refine keeps_ite ?_ ?_
    | split
  all_goals try (with_reducible refine keeps_with_out (sub_trans (by decide) hP) ?_)
  all_goals with_reducible repeat' first
    | assumption
    | refine keeps_ite ?_ ?_
    | split

theorem kept_updHp0 {P : List Part} {base : State} {g : Hp0 → Hp0} {s : State} (hP : sub [.hp0] P) (h_s : Keeps P base s) :
    Keeps P base (updHp0 g s) := by
  unfold updHp0
  try dsimp only
  with_reducible repeat' first
    | assumption
    | refine keeps_ite ?_ ?_
    | split
  all_goals try (with_reducible refine keeps_with_hp0 (sub_trans (by decide) hP) ?_)
  all_goals with_reducible repeat' first
    | assumption
    | refine keeps_ite ?_ ?_
    | split

theorem kept_updCfg {P : List Part} {base : State} {f : Nat} {g : FnCfg → FnCfg} {s : State} (hP : sub [.hp0] P) (h_s : Keeps P base s) :
    Keeps P base (updCfg f g s) := by
  unfold updCfg
  try dsimp only
  with_reducible repeat' first
    | assumption
    | refine keeps_ite ?_ ?_
    | refine kept_updHp0 (sub_trans (by decide) hP) ?_
    | split

theorem kept_pushIntake {P : List Part} {base : State} {c : Nat} {bs : List Byte} {s : State} (hP : sub [.ctl, .knc] P) (h_s : Keeps P base s) :
    Keeps P base (pushIntake c bs s) := by
  unfold pushIntake
  try dsimp only
  with_reducible repeat' first
    | assumption
    | refine keeps_ite ?_ ?_
    | refine kept_syncIntake (sub_trans (by decide) hP) ?_
    | refine kept_updCtx (sub_trans (by decide) hP) ?_
    | split

theorem kept_giveNotice {P : List Part} {base : State} {s : State} {t : Token} (hP : sub [.ctl, .knc, .hp0] P) (h_s : Keeps P base s) :
    Keeps P base (giveNotice s t) := by
  unfold giveNotice
  try dsimp only
  with_reducible repeat' first
    | assumption
    | refine keeps_ite ?_ ?_
    | refine kept_pushIntake (sub_trans (by decide) hP) ?_
    | refine kept_updHp0 (sub_trans (by decide) hP) ?_
    | split

theorem kept_logUnsupported {P : List Part} {base : State} {r : WinReq} {s : State} (hP : sub [.hp0] P) (h_s : Keeps P base s) :
    Keeps P base (logUnsupported r s) := by
  unfold logUnsupported
  try dsimp only
  with_reducible repeat' first
    | assumption
    | refine keeps_ite ?_ ?_
    | refine kept_updCfg (sub_trans (by decide) hP) ?_
    | split

theorem kept_unmatched {P : List Part} {base : State} {r : WinReq} {s : State} (hP : sub [.ctl, .ev, .hp0, .out] P) (h_s : Keeps P base s) :
    Keeps P base (unmatched r s) := by
  unfold unmatched
  try dsimp only
  with_reducible repeat' first
    | assumption
    | refine keeps_ite ?_ ?_
    | refine kept_bump (sub_trans (by decide) hP) ?_
    | refine kept_event (sub_trans (by decide) hP) ?_
    | refine kept_logUnsupported (sub_trans (by decide) hP) ?_
    | refine kept_send (sub_trans (by decide) hP) ?_
    | split

theorem kept_winOut {P : List Part} {base : State} {r : WinReq} {s : State} (hP : sub [.hp0] P) (h_s : Keeps P base s) :
    Keeps P base (winOut r s) := by
  unfold winOut
  try dsimp only
  with_reducible repeat' first
    | assumption
    | refine keeps_ite ?_ ?_
    | refine kept_updHp0 (sub_trans (by decide) hP) ?_
    | split

theorem kept_winPark {P : List Part} {base : State} {r : WinReq} {s : State} (hP : sub [.hp0] P) (h_s : Keeps P base s) :
    Keeps P base (winPark r s) := by
  unfold winPark
  try dsimp only
  with_reducible repeat' first
    | assumption
    | refine keeps_ite ?_ ?_
    | refine kept_updHp0 (sub_trans (by decide) hP) ?_
    | refine optKeeps_map (fun _ => ?_)
    | split

theorem kept_poisonReply {P : List Part} {base : State} {r : WinReq} {s : State} (hP : sub [.ctl, .ev, .out] P) (h_s : Keeps P base s) :
    Keeps P base (poisonReply r s) := by
  unfold poisonReply
  try dsimp only
  with_reducible repeat' first
    | assumption
    | refine keeps_ite ?_ ?_
    | refine kept_bump (sub_trans (by decide) hP) ?_
    | refine kept_event (sub_trans (by decide) hP) ?_
    | refine kept_send (sub_trans (by decide) hP) ?_
    | split

theorem kept_winPerform {P : List Part} {base : State} {r : WinReq} {s : State} (hP : sub [.ctl, .mem, .ev, .ms, .mxes, .hp0, .persist, .out] P) (h_s : Keeps P base s) :
    Keeps P base (winPerform r s) := by
  unfold winPerform
  try dsimp only
  with_reducible repeat' first
    | assumption
    | refine keeps_ite ?_ ?_
    | refine pairKeeps_ite ?_ ?_
    | refine snd_of ?_
    | refine kept_poisonReply (sub_trans (by decide) hP) ?_
    | refine kept_readRange (sub_trans (by decide) hP) ?_
    | refine kept_send (sub_trans (by decide) hP) ?_
    | refine kept_unmatched (sub_trans (by decide) hP) ?_
    | refine kept_updHp0 (sub_trans (by decide) hP) ?_
    | refine kept_winOut (sub_trans (by decide) hP) ?_
    | refine kept_winPark (sub_trans (by decide) hP) ?_
    | refine kept_writeRange (sub_trans (by decide) hP) ?_
    | refine of_pair ?_ (by assumption)
    | split
    | refine keeps_pair ?_

theorem kept_winRun {P : List Part} {base : State} {s : State} (hP : sub [.ctl, .mem, .ev, .ms, .mxes, .hp0, .persist, .out] P) (h_s : Keeps P base s) :
    Keeps P base (winRun s) := by
  unfold winRun
  try dsimp only
  with_reducible repeat' first
    | assumption
    | refine keeps_ite ?_ ?_
    | refine kept_winPerform (sub_trans (by decide) hP) ?_
    | refine keeps_foldl _ (fun _ _ _ => ?_) ?_
    | refine keeps_foldlP _ (fun _ _ _ => ?_) ?_
    | refine tripleKeeps_foldl _ (fun _ _ _ => ?_) ?_
    | refine objStepKeeps_foldl _ (fun _ _ _ => ?_) ?_
    | split

theorem kept_ownCompletion {P : List Part} {base : State} {t : Token} {status : Nat} {s : State} (hP : sub [.free, .hp0] P) (h_s : Keeps P base s) :
    Keeps P base (ownCompletion t status s) := by
  unfold ownCompletion
  try dsimp only
  with_reducible repeat' first
    | assumption
    | refine keeps_ite ?_ ?_
    | refine pairKeeps_ite ?_ ?_
    | refine snd_of ?_
    | refine kept_freshBytes (sub_trans (by decide) hP) ?_
    | refine kept_updHp0 (sub_trans (by decide) hP) ?_
    | refine of_pair ?_ (by assumption)
    | split
    | refine keeps_pair ?_

theorem kept_hostStream {P : List Part} {base : State} {f : Nat} {a : Nat} {bs : List Byte} {s : State} (hP : sub [.out] P) (h_s : Keeps P base s) :
    Keeps P base (hostStream f a bs s) := by
  unfold hostStream
  try dsimp only
  with_reducible repeat' first
    | assumption
    | refine keeps_ite ?_ ?_
    | refine kept_send (sub_trans (by decide) hP) ?_
    | refine keeps_foldl _ (fun _ _ _ => ?_) ?_
    | refine keeps_foldlP _ (fun _ _ _ => ?_) ?_
    | refine tripleKeeps_foldl _ (fun _ _ _ => ?_) ?_
    | refine objStepKeeps_foldl _ (fun _ _ _ => ?_) ?_
    | split

theorem kept_setPending {P : List Part} {base : State} {f : Nat} {v : Nat} {b : Nat} {s : State} (hP : sub [.ctl] P) (h_s : Keeps P base s) :
    Keeps P base (setPending f v b s) := by
  unfold setPending
  try dsimp only
  with_reducible repeat' first
    | assumption
    | refine keeps_ite ?_ ?_
    | refine kept_setReg (sub_trans (by decide) hP) ?_
    | split

theorem kept_emitMsix {P : List Part} {base : State} {f : Nat} {v : Nat} {s : State} (hP : sub [.ctl, .out] P) (h_s : Keeps P base s) :
    Keeps P base (emitMsix f v s) := by
  unfold emitMsix
  try dsimp only
  with_reducible repeat' first
    | assumption
    | refine keeps_ite ?_ ?_
    | refine kept_send (sub_trans (by decide) hP) ?_
    | refine kept_setPending (sub_trans (by decide) hP) ?_
    | split

theorem kept_sendMsix {P : List Part} {base : State} {f : Nat} {v : Nat} {s : State} (hP : sub [.ctl, .hp0, .out] P) (h_s : Keeps P base s) :
    Keeps P base (sendMsix f v s) := by
  unfold sendMsix
  try dsimp only
  with_reducible repeat' first
    | assumption
    | refine keeps_ite ?_ ?_
    | refine kept_bump (sub_trans (by decide) hP) ?_
    | refine kept_emitMsix (sub_trans (by decide) hP) ?_
    | refine kept_setPending (sub_trans (by decide) hP) ?_
    | refine kept_updHp0 (sub_trans (by decide) hP) ?_
    | split

theorem kept_flushMsix {P : List Part} {base : State} {f : Nat} {s : State} (hP : sub [.ctl, .hp0, .out] P) (h_s : Keeps P base s) :
    Keeps P base (flushMsix f s) := by
  unfold flushMsix
  try dsimp only
  with_reducible repeat' first
    | assumption
    | refine keeps_ite ?_ ?_
    | refine kept_sendMsix (sub_trans (by decide) hP) ?_
    | refine kept_setPending (sub_trans (by decide) hP) ?_
    | refine keeps_foldl _ (fun _ _ _ => ?_) ?_
    | refine keeps_foldlP _ (fun _ _ _ => ?_) ?_
    | refine tripleKeeps_foldl _ (fun _ _ _ => ?_) ?_
    | refine objStepKeeps_foldl _ (fun _ _ _ => ?_) ?_
    | split

theorem kept_hp0CntClear {P : List Part} {base : State} {who : Who} {s : State} (hP : sub [.ctl, .ev] P) (h_s : Keeps P base s) :
    Keeps P base (hp0CntClear who s) := by
  unfold hp0CntClear
  try dsimp only
  with_reducible repeat' first
    | assumption
    | refine keeps_ite ?_ ?_
    | refine kept_ignoredWrite (sub_trans (by decide) hP) ?_
    | refine kept_zeroRegs (sub_trans (by decide) hP) ?_
    | split

theorem kept_winBaseWrite {P : List Part} {base : State} {who : Who} {f : Nat} {w : Nat} {val : Nat} {s : State} (hP : sub [.ctl, .ev] P) (h_s : Keeps P base s) :
    Keeps P base (winBaseWrite who f w val s) := by
  unfold winBaseWrite
  try dsimp only
  with_reducible repeat' first
    | assumption
    | refine keeps_ite ?_ ?_
    | refine kept_ignoredWrite (sub_trans (by decide) hP) ?_
    | refine kept_setReg (sub_trans (by decide) hP) ?_
    | split

theorem kept_winCtlWrite {P : List Part} {base : State} {who : Who} {f : Nat} {w : Nat} {val : Nat} {s : State} (hP : sub [.ctl, .ev] P) (h_s : Keeps P base s) :
    Keeps P base (winCtlWrite who f w val s) := by
  unfold winCtlWrite
  try dsimp only
  with_reducible repeat' first
    | assumption
    | refine keeps_ite ?_ ?_
    | refine kept_ignoredWrite (sub_trans (by decide) hP) ?_
    | refine kept_setFld (sub_trans (by decide) hP) ?_
    | refine kept_setReg (sub_trans (by decide) hP) ?_
    | split

theorem kept_qrouteWrite {P : List Part} {base : State} {who : Who} {i : Nat} {val : Nat} {s : State} (hP : sub [.ctl, .ev] P) (h_s : Keeps P base s) :
    Keeps P base (qrouteWrite who i val s) := by
  unfold qrouteWrite
  try dsimp only
  with_reducible repeat' first
    | assumption
    | refine keeps_ite ?_ ?_
    | refine kept_ignoredWrite (sub_trans (by decide) hP) ?_
    | refine kept_setFld (sub_trans (by decide) hP) ?_
    | refine kept_setReg (sub_trans (by decide) hP) ?_
    | split

theorem kept_chargeInflight {P : List Part} {base : State} {f : Nat} {up : Bool} {s : State} (hP : sub [.ctl] P) (h_s : Keeps P base s) :
    Keeps P base (chargeInflight f up s) := by
  unfold chargeInflight
  try dsimp only
  with_reducible repeat' first
    | assumption
    | refine keeps_ite ?_ ?_
    | refine kept_setFld (sub_trans (by decide) hP) ?_
    | split

theorem kept_dropToken {P : List Part} {base : State} {t : Token} {s : State} (hP : sub [.ctl, .hp0] P) (h_s : Keeps P base s) :
    Keeps P base (dropToken t s) := by
  unfold dropToken
  try dsimp only
  with_reducible repeat' first
    | assumption
    | refine keeps_ite ?_ ?_
    | refine kept_chargeInflight (sub_trans (by decide) hP) ?_
    | refine kept_updHp0 (sub_trans (by decide) hP) ?_
    | split

theorem kept_fnAbort {P : List Part} {base : State} {who : Who} {f : Nat} {tok : Nat} {s : State} (hP : sub [.free, .ctl, .ev, .knc, .hp0] P) (h_s : Keeps P base s) :
    Keeps P base (fnAbort who f tok s) := by
  unfold fnAbort
  try dsimp only
  with_reducible repeat' first
    | assumption
    | refine keeps_ite ?_ ?_
    | refine kept_dropToken (sub_trans (by decide) hP) ?_
    | refine kept_giveNotice (sub_trans (by decide) hP) ?_
    | refine kept_ignoredWrite (sub_trans (by decide) hP) ?_
    | refine kept_ownCompletion (sub_trans (by decide) hP) ?_
    | refine kept_setReg (sub_trans (by decide) hP) ?_
    | split

theorem kept_qpBaseWrite {P : List Part} {base : State} {who : Who} {f : Nat} {q : Nat} {r : Reg} {val : Nat} {s : State} (hP : sub [.ctl, .ev] P) (h_s : Keeps P base s) :
    Keeps P base (qpBaseWrite who f q r val s) := by
  unfold qpBaseWrite
  try dsimp only
  with_reducible repeat' first
    | assumption
    | refine keeps_ite ?_ ?_
    | refine kept_ignoredWrite (sub_trans (by decide) hP) ?_
    | refine kept_setReg (sub_trans (by decide) hP) ?_
    | split

theorem kept_qpDisable {P : List Part} {base : State} {f : Nat} {q : Nat} {s : State} (hP : sub [.ctl, .knc, .hp0] P) (h_s : Keeps P base s) :
    Keeps P base (qpDisable f q s) := by
  unfold qpDisable
  try dsimp only
  with_reducible repeat' first
    | assumption
    | refine keeps_ite ?_ ?_
    | refine kept_dropToken (sub_trans (by decide) hP) ?_
    | refine kept_giveNotice (sub_trans (by decide) hP) ?_
    | refine kept_setFld (sub_trans (by decide) hP) ?_
    | refine keeps_foldl _ (fun _ _ _ => ?_) ?_
    | refine keeps_foldlP _ (fun _ _ _ => ?_) ?_
    | refine tripleKeeps_foldl _ (fun _ _ _ => ?_) ?_
    | refine objStepKeeps_foldl _ (fun _ _ _ => ?_) ?_
    | split

theorem kept_qpInit {P : List Part} {base : State} {f : Nat} {q : Nat} {s : State} (hP : sub [.ctl, .hp0] P) (h_s : Keeps P base s) :
    Keeps P base (qpInit f q s) := by
  unfold qpInit
  try dsimp only
  with_reducible repeat' first
    | assumption
    | refine keeps_ite ?_ ?_
    | refine kept_setFld (sub_trans (by decide) hP) ?_
    | refine kept_setReg (sub_trans (by decide) hP) ?_
    | refine kept_updHp0 (sub_trans (by decide) hP) ?_
    | split

theorem kept_qpCfgWrite {P : List Part} {base : State} {who : Who} {f : Nat} {q : Nat} {val : Nat} {s : State} (hP : sub [.ctl, .ev, .knc, .hp0] P) (h_s : Keeps P base s) :
    Keeps P base (qpCfgWrite who f q val s) := by
  unfold qpCfgWrite
  try dsimp only
  with_reducible repeat' first
    | assumption
    | refine keeps_ite ?_ ?_
    | refine kept_ignoredWrite (sub_trans (by decide) hP) ?_
    | refine kept_qpDisable (sub_trans (by decide) hP) ?_
    | refine kept_qpInit (sub_trans (by decide) hP) ?_
    | refine kept_setFld (sub_trans (by decide) hP) ?_
    | refine kept_setReg (sub_trans (by decide) hP) ?_
    | split

theorem kept_fnEvent {P : List Part} {base : State} {code : Nat} {f : Nat} {p0 : Nat} {p1 : Nat} {p2 : Nat} {s : State} (hP : sub [.ctl, .ev] P) (h_s : Keeps P base s) :
    Keeps P base (fnEvent code f p0 p1 p2 s) := by
  unfold fnEvent
  try dsimp only
  with_reducible repeat' first
    | assumption
    | refine keeps_ite ?_ ?_
    | refine kept_event (sub_trans (by decide) hP) ?_
    | refine kept_tenantEvent (sub_trans (by decide) hP) ?_
    | split

theorem kept_hostReads {P : List Part} {base : State} {f : Nat} {a : Nat} {n : Nat} {s : State} (hP : sub [.out] P) (h_s : Keeps P base s) :
    Keeps P base (hostReads f a n s) := by
  unfold hostReads
  try dsimp only
  with_reducible repeat' first
    | assumption
    | refine keeps_ite ?_ ?_
    | refine kept_send (sub_trans (by decide) hP) ?_
    | refine keeps_foldl _ (fun _ _ _ => ?_) ?_
    | refine keeps_foldlP _ (fun _ _ _ => ?_) ?_
    | refine tripleKeeps_foldl _ (fun _ _ _ => ?_) ?_
    | refine objStepKeeps_foldl _ (fun _ _ _ => ?_) ?_
    | split

theorem kept_acceptCompletion {P : List Part} {base : State} {c : Nat} {tokv : Nat} {entry : List Byte} {s : State} (hP : sub [.ctl, .knc, .hp0] P) (h_s : Keeps P base s) :
    Keeps P base (acceptCompletion c tokv entry s) := by
  unfold acceptCompletion
  try dsimp only
  with_reducible repeat' first
    | assumption
    | refine keeps_ite ?_ ?_
    | refine kept_bump (sub_trans (by decide) hP) ?_
    | refine kept_dropToken (sub_trans (by decide) hP) ?_
    | refine kept_updCtx (sub_trans (by decide) hP) ?_
    | split

theorem kept_hostWrite {P : List Part} {base : State} {f : Nat} {a : Nat} {bs : List Byte} {s : State} (hP : sub [.out] P) (h_s : Keeps P base s) :
    Keeps P base (hostWrite f a bs s) := by
  unfold hostWrite
  try dsimp only
  with_reducible repeat' first
    | assumption
    | refine keeps_ite ?_ ?_
    | refine kept_send (sub_trans (by decide) hP) ?_
    | split

theorem kept_doorbell {P : List Part} {base : State} {f : Nat} {off : Nat} {width : Nat} {val : Nat} {s : State} (hP : sub [.ctl, .hp0] P) (h_s : Keeps P base s) :
    Keeps P base (doorbell f off width val s) := by
  unfold doorbell
  try dsimp only
  with_reducible repeat' first
    | assumption
    | refine keeps_ite ?_ ?_
    | refine kept_bump (sub_trans (by decide) hP) ?_
    | refine kept_setFld (sub_trans (by decide) hP) ?_
    | refine kept_updHp0 (sub_trans (by decide) hP) ?_
    | split

theorem kept_pushNotices {P : List Part} {base : State} {s : State} (hP : sub [.ctl, .knc, .hp0] P) (h_s : Keeps P base s) :
    Keeps P base (pushNotices s) := by
  unfold pushNotices
  try dsimp only
  with_reducible repeat' first
    | assumption
    | refine keeps_ite ?_ ?_
    | refine kept_giveNotice (sub_trans (by decide) hP) ?_
    | refine kept_updHp0 (sub_trans (by decide) hP) ?_
    | refine keeps_foldl _ (fun _ _ _ => ?_) ?_
    | refine keeps_foldlP _ (fun _ _ _ => ?_) ?_
    | refine tripleKeeps_foldl _ (fun _ _ _ => ?_) ?_
    | refine objStepKeeps_foldl _ (fun _ _ _ => ?_) ?_
    | split

theorem kept_winServe {P : List Part} {base : State} {p : WinReq → Bool} {s : State} (hP : sub [.ctl, .mem, .ev, .ms, .mxes, .hp0, .persist, .out] P) (h_s : Keeps P base s) :
    Keeps P base (winServe p s) := by
  unfold winServe
  try dsimp only
  with_reducible repeat' first
    | assumption
    | refine keeps_ite ?_ ?_
    | refine kept_updHp0 (sub_trans (by decide) hP) ?_
    | refine kept_winRun (sub_trans (by decide) hP) ?_
    | refine optKeeps_map (fun _ => ?_)
    | split

theorem kept_coalesce {P : List Part} {base : State} {f : Nat} {q : Nat} {s : State} (hP : sub [.ctl, .hp0, .out] P) (h_s : Keeps P base s) :
    Keeps P base (coalesce f q s) := by
  unfold coalesce
  try dsimp only
  with_reducible repeat' first
    | assumption
    | refine keeps_ite ?_ ?_
    | refine kept_sendMsix (sub_trans (by decide) hP) ?_
    | refine kept_updHp0 (sub_trans (by decide) hP) ?_
    | split

theorem kept_noteWritten {P : List Part} {base : State} {t : Token} {s : State} (hP : sub [.ctl, .ev] P) (h_s : Keeps P base s) :
    Keeps P base (noteWritten t s) := by
  unfold noteWritten
  try dsimp only
  with_reducible repeat' first
    | assumption
    | refine keeps_ite ?_ ?_
    | refine kept_bump (sub_trans (by decide) hP) ?_
    | refine kept_qosLatency (sub_trans (by decide) hP) ?_
    | refine kept_tenantEvent (sub_trans (by decide) hP) ?_
    | split

theorem kept_writeCompletion {P : List Part} {base : State} {c : Cpl} {s : State} (hP : sub [.ctl, .ev, .hp0, .out] P) (h_s : Keeps P base s) :
    Keeps P base (writeCompletion c s) := by
  unfold writeCompletion
  try dsimp only
  with_reducible repeat' first
    | assumption
    | refine keeps_ite ?_ ?_
    | refine kept_coalesce (sub_trans (by decide) hP) ?_
    | refine kept_hostWrite (sub_trans (by decide) hP) ?_
    | refine kept_noteWritten (sub_trans (by decide) hP) ?_
    | refine kept_setFld (sub_trans (by decide) hP) ?_
    | split

theorem kept_winArrive {P : List Part} {base : State} {r : WinReq} {s : State} (hP : sub [.ctl, .mem, .ev, .ms, .mxes, .hp0, .persist, .out] P) (h_s : Keeps P base s) :
    Keeps P base (winArrive r s) := by
  unfold winArrive
  try dsimp only
  with_reducible repeat' first
    | assumption
    | refine keeps_ite ?_ ?_
    | refine kept_updHp0 (sub_trans (by decide) hP) ?_
    | refine kept_winRun (sub_trans (by decide) hP) ?_
    | refine keeps_id ?_
    | split

end Sys2Proof.Machine
end

