-- ==== Sys2Proof/Laws/Operands.lean ====
section
/-! SUPPORT. For each operation of Machine/Operands.lean, which parts of the state it may change: `kept_f` says that `f` keeps
everything but the parts listed in its first hypothesis, from any state that the states it is given were kept from. -/

namespace Sys2Proof.Machine

theorem kept_scrRead {P : List Part} {base : State} {c : Nat} {a : Nat} {n : Nat} {s : State} (hP : sub [.ctl, .cores] P) (h_s : Keeps P base s) :
    PairKeeps P base (scrRead c a n s) := by
  unfold scrRead
  try dsimp only
  with_reducible repeat' first
    | assumption
    | refine keeps_ite ?_ ?_
    | refine pairKeeps_ite ?_ ?_
    | refine snd_of ?_
    | refine kept_bump (sub_trans (by decide) hP) ?_
    | refine of_pair ?_ (by assumption)
    | split
    | refine keeps_pair ?_
  all_goals try (with_reducible refine keeps_with_cores (sub_trans (by decide) hP) ?_ (fun q => by first | exact q | exact wf_memPuts _ _ q | exact wf_memZero _ _ q | exact wf_filter _ q))
  all_goals with_reducible repeat' first
    | assumption
    | refine keeps_ite ?_ ?_
    | refine pairKeeps_ite ?_ ?_
    | refine snd_of ?_
    | refine kept_bump (sub_trans (by decide) hP) ?_
    | refine of_pair ?_ (by assumption)
    | split
    | refine keeps_pair ?_

theorem kept_scrWrite {P : List Part} {base : State} {a : Nat} {bs : List Byte} {s : State} (hP : sub [.cores] P) (h_s : Keeps P base s) :
    Keeps P base (scrWrite a bs s) := by
  unfold scrWrite
  try dsimp only
  with_reducible repeat' first
    | assumption
    | refine keeps_ite ?_ ?_
    | split
  all_goals try (with_reducible refine keeps_with_cores (sub_trans (by decide) hP) ?_ (fun q => by first | exact q | exact wf_memPuts _ _ q | exact wf_memZero _ _ q | exact wf_filter _ q))
  all_goals with_reducible repeat' first
    | assumption
    | refine keeps_ite ?_ ?_
    | split

end Sys2Proof.Machine
end

