-- ==== Sys2Proof/Laws/CtxMem.lean ====
section
/-! SUPPORT. For each operation of Machine/CtxMem.lean, which parts of the state it may change: `kept_f` says that `f` keeps
everything but the parts listed in its first hypothesis, from any state that the states it is given were kept from. -/

namespace Sys2Proof.Machine

theorem kept_memAmo {P : List Part} {base : State} {w : Waiter} {fn : Nat} {a : Nat} {rb : Nat} {cmp : Nat} {s : State} (hP : sub [.ctl, .mem, .ev, .ms, .mxes, .persist] P) (h_s : Keeps P base s) :
    PairKeeps P base (memAmo w fn a rb cmp s) := by
  unfold memAmo
  try dsimp only
  with_reducible repeat' first
    | assumption
    | refine keeps_ite ?_ ?_
    | refine pairKeeps_ite ?_ ?_
    | refine snd_of ?_
    | refine kept_readRange (sub_trans (by decide) hP) ?_
    | refine kept_writeRange (sub_trans (by decide) hP) ?_
    | refine of_pair ?_ (by assumption)
    | split
    | refine keeps_pair ?_

theorem kept_mapAcc {P : List Part} {base : State} {c : Nat} {f : CtxAcc → CtxAcc} {s : State} (hP : sub [.knc] P) (h_s : Keeps P base s) :
    Keeps P base (mapAcc c f s) := by
  unfold mapAcc
  try dsimp only
  with_reducible repeat' first
    | assumption
    | refine keeps_ite ?_ ?_
    | refine kept_updCtx (sub_trans (by decide) hP) ?_
    | refine optKeeps_map (fun _ => ?_)
    | split

theorem kept_ctxPark {P : List Part} {base : State} {c : Nat} {i : Nat} {s : State} (hP : sub [.knc] P) (h_s : Keeps P base s) :
    Keeps P base (ctxPark c i s) := by
  unfold ctxPark
  try dsimp only
  with_reducible repeat' first
    | assumption
    | refine keeps_ite ?_ ?_
    | refine kept_mapAcc (sub_trans (by decide) hP) ?_
    | split

theorem kept_retryAcc {P : List Part} {base : State} {c : Nat} {a : CtxAcc} {s : State} (hP : sub [.ctl, .mem, .ev, .ms, .mxes, .persist] P) (h_s : Keeps P base s) :
    PairKeeps P base (retryAcc c a s) := by
  unfold retryAcc
  try dsimp only
  with_reducible repeat' first
    | assumption
    | refine keeps_ite ?_ ?_
    | refine pairKeeps_ite ?_ ?_
    | refine snd_of ?_
    | refine kept_memAmo (sub_trans (by decide) hP) ?_
    | refine kept_readRange (sub_trans (by decide) hP) ?_
    | refine of_pair ?_ (by assumption)
    | split
    | refine keeps_pair ?_

theorem kept_ctxServe {P : List Part} {base : State} {c : Nat} {s : State} (hP : sub [.ctl, .mem, .ev, .ms, .mxes, .knc, .persist] P) (h_s : Keeps P base s) :
    Keeps P base (ctxServe c s) := by
  unfold ctxServe
  try dsimp only
  with_reducible repeat' first
    | assumption
    | refine keeps_ite ?_ ?_
    | refine pairKeeps_ite ?_ ?_
    | refine snd_of ?_
    | refine kept_retryAcc (sub_trans (by decide) hP) ?_
    | refine kept_updCtx (sub_trans (by decide) hP) ?_
    | refine keeps_foldl _ (fun _ _ _ => ?_) ?_
    | refine keeps_foldlP _ (fun _ _ _ => ?_) ?_
    | refine tripleKeeps_foldl _ (fun _ _ _ => ?_) ?_
    | refine objStepKeeps_foldl _ (fun _ _ _ => ?_) ?_
    | refine of_pair ?_ (by assumption)
    | split
    | refine keeps_pair ?_

theorem kept_ctxReply {P : List Part} {base : State} {c : Nat} {i : Nat} {r : Option (List Byte)} {s : State} (hP : sub [.knc] P) (h_s : Keeps P base s) :
    Keeps P base (ctxReply c i r s) := by
  unfold ctxReply
  try dsimp only
  with_reducible repeat' first
    | assumption
    | refine keeps_ite ?_ ?_
    | refine kept_mapAcc (sub_trans (by decide) hP) ?_
    | split

theorem kept_ctxFailUnit {P : List Part} {base : State} {c : Nat} {k : UnitKey} {s : State} (hP : sub [.knc] P) (h_s : Keeps P base s) :
    Keeps P base (ctxFailUnit c k s) := by
  unfold ctxFailUnit
  try dsimp only
  with_reducible repeat' first
    | assumption
    | refine keeps_ite ?_ ?_
    | refine kept_mapAcc (sub_trans (by decide) hP) ?_
    | split

theorem kept_accError {P : List Part} {base : State} {c : Nat} {a : CtxAcc} {timeout : Bool} {s : State} (hP : sub [.knc] P) (h_s : Keeps P base s) :
    Keeps P base (accError c a timeout s) := by
  unfold accError
  try dsimp only
  with_reducible repeat' first
    | assumption
    | refine keeps_ite ?_ ?_
    | refine kept_updCtx (sub_trans (by decide) hP) ?_
    | split

theorem kept_ctxRespond {P : List Part} {base : State} {c : Nat} {n : Nat} {s : State} (hP : sub [.ctl, .knc] P) (h_s : Keeps P base s) :
    Keeps P base (ctxRespond c n s) := by
  unfold ctxRespond
  try dsimp only
  with_reducible repeat' first
    | assumption
    | refine keeps_ite ?_ ?_
    | refine kept_accError (sub_trans (by decide) hP) ?_
    | refine kept_setG (sub_trans (by decide) hP) ?_
    | refine kept_setV (sub_trans (by decide) hP) ?_
    | refine kept_updCtx (sub_trans (by decide) hP) ?_
    | split

theorem kept_ctxTimeout {P : List Part} {base : State} {c : Nat} {n : Nat} {s : State} (hP : sub [.knc] P) (h_s : Keeps P base s) :
    Keeps P base (ctxTimeout c n s) := by
  unfold ctxTimeout
  try dsimp only
  with_reducible repeat' first
    | assumption
    | refine keeps_ite ?_ ?_
    | refine kept_accError (sub_trans (by decide) hP) ?_
    | refine kept_updCtx (sub_trans (by decide) hP) ?_
    | split

theorem kept_ctxNoReply {P : List Part} {base : State} {c : Nat} {i : Nat} {s : State} (hP : sub [.knc] P) (h_s : Keeps P base s) :
    Keeps P base (ctxNoReply c i s) := by
  unfold ctxNoReply
  try dsimp only
  with_reducible repeat' first
    | assumption
    | refine keeps_ite ?_ ?_
    | refine kept_accError (sub_trans (by decide) hP) ?_
    | refine kept_updCtx (sub_trans (by decide) hP) ?_
    | refine keeps_foldl _ (fun _ _ _ => ?_) ?_
    | refine keeps_foldlP _ (fun _ _ _ => ?_) ?_
    | refine tripleKeeps_foldl _ (fun _ _ _ => ?_) ?_
    | refine objStepKeeps_foldl _ (fun _ _ _ => ?_) ?_
    | split

end Sys2Proof.Machine
end

