-- ==== Sys2Proof/Laws/EngOps.lean ====
section
/-! SUPPORT. For each operation of Machine/EngOps.lean, which parts of the state it may change: `kept_f` says that `f` keeps
everything but the parts listed in its first hypothesis, from any state that the states it is given were kept from. -/

namespace Sys2Proof.Machine

theorem kept_setEngState {P : List Part} {base : State} {e : Nat} {v : Nat} {s : State} (hP : sub [.ctl] P) (h_s : Keeps P base s) :
    Keeps P base (setEngState e v s) := by
  unfold setEngState
  try dsimp only
  with_reducible repeat' first
    | assumption
    | refine keeps_ite ?_ ?_
    | refine kept_setFld (sub_trans (by decide) hP) ?_
    | split

theorem kept_updEng {P : List Part} {base : State} {e : Nat} {f : Eng → Eng} {s : State} (hP : sub [.engs] P) (h_s : Keeps P base s) :
    Keeps P base (updEng e f s) := by
  unfold updEng
  try dsimp only
  with_reducible repeat' first
    | assumption
    | refine keeps_ite ?_ ?_
    | split
  all_goals try (with_reducible refine keeps_with_engs (sub_trans (by decide) hP) ?_)
  all_goals with_reducible repeat' first
    | assumption
    | refine keeps_ite ?_ ?_
    | split

theorem kept_engIdleWork {P : List Part} {base : State} {e : Nat} {s : State} (hP : sub [.engs] P) (h_s : Keeps P base s) :
    Keeps P base (engIdleWork e s) := by
  unfold engIdleWork
  try dsimp only
  with_reducible repeat' first
    | assumption
    | refine keeps_ite ?_ ?_
    | refine kept_updEng (sub_trans (by decide) hP) ?_
    | split

theorem kept_engToIdle {P : List Part} {base : State} {e : Nat} {s : State} (hP : sub [.ctl, .ms, .engs, .tags] P) (h_s : Keeps P base s) :
    Keeps P base (engToIdle e s) := by
  unfold engToIdle
  try dsimp only
  with_reducible repeat' first
    | assumption
    | refine keeps_ite ?_ ?_
    | refine kept_disownFab (sub_trans (by decide) hP) ?_
    | refine kept_disownReads (sub_trans (by decide) hP) ?_
    | refine kept_engIdleWork (sub_trans (by decide) hP) ?_
    | refine kept_setEngState (sub_trans (by decide) hP) ?_
    | refine kept_setFld (sub_trans (by decide) hP) ?_
    | refine kept_setReg (sub_trans (by decide) hP) ?_
    | refine kept_updEng (sub_trans (by decide) hP) ?_
    | split

theorem kept_engActed {P : List Part} {base : State} {e : Nat} {status : Nat} {detail : Nat} {next : Nat} {s : State} (hP : sub [.engs] P) (h_s : Keeps P base s) :
    Keeps P base (engActed e status detail next s) := by
  unfold engActed
  try dsimp only
  with_reducible repeat' first
    | assumption
    | refine keeps_ite ?_ ?_
    | refine kept_updEng (sub_trans (by decide) hP) ?_
    | split

theorem kept_lfillOutcome {P : List Part} {base : State} {h : Nat} {slot : Nat} {s : State} (hP : sub [.engs] P) (h_s : Keeps P base s) :
    Keeps P base (lfillOutcome h slot s) := by
  unfold lfillOutcome
  try dsimp only
  with_reducible repeat' first
    | assumption
    | refine keeps_ite ?_ ?_
    | refine kept_engActed (sub_trans (by decide) hP) ?_
    | split

theorem kept_clearFailed {P : List Part} {base : State} {w : Waiter} {s : State} (hP : sub [.ms] P) (h_s : Keeps P base s) :
    Keeps P base (clearFailed w s) := by
  unfold clearFailed
  try dsimp only
  with_reducible repeat' first
    | assumption
    | refine keeps_ite ?_ ?_
    | split
  all_goals try (with_reducible refine keeps_with_ms (sub_trans (by decide) hP) ?_)
  all_goals with_reducible repeat' first
    | assumption
    | refine keeps_ite ?_ ?_
    | split

theorem kept_fillEnded {P : List Part} {base : State} {h : Nat} {slot : Nat} {s : State} (hP : sub [.ctl, .ms, .slots, .refetch, .engs] P) (h_s : Keeps P base s) :
    Keeps P base (fillEnded h slot s) := by
  unfold fillEnded
  try dsimp only
  with_reducible repeat' first
    | assumption
    | refine keeps_ite ?_ ?_
    | refine kept_clearFailed (sub_trans (by decide) hP) ?_
    | refine kept_emptySlot (sub_trans (by decide) hP) ?_
    | refine kept_lfillOutcome (sub_trans (by decide) hP) ?_
    | refine kept_setFld (sub_trans (by decide) hP) ?_
    | split

theorem kept_cutFill {P : List Part} {base : State} {e : Nat} {d : List Byte} {s : State} (hP : sub [.ctl, .ms, .slots, .refetch, .engs] P) (h_s : Keeps P base s) :
    Keeps P base (cutFill e d s) := by
  unfold cutFill
  try dsimp only
  with_reducible repeat' first
    | assumption
    | refine keeps_ite ?_ ?_
    | refine kept_emptySlot (sub_trans (by decide) hP) ?_
    | refine kept_fillEnded (sub_trans (by decide) hP) ?_
    | split
  all_goals try (with_reducible refine keeps_with_slots (sub_trans (by decide) hP) ?_)
  all_goals with_reducible repeat' first
    | assumption
    | refine keeps_ite ?_ ?_
    | refine kept_emptySlot (sub_trans (by decide) hP) ?_
    | refine kept_fillEnded (sub_trans (by decide) hP) ?_
    | split
  all_goals try (with_reducible refine keeps_with_slots (sub_trans (by decide) hP) ?_)
  all_goals with_reducible repeat' first
    | assumption
    | refine keeps_ite ?_ ?_
    | refine kept_emptySlot (sub_trans (by decide) hP) ?_
    | refine kept_fillEnded (sub_trans (by decide) hP) ?_
    | split

theorem kept_engAbort {P : List Part} {base : State} {e : Nat} {status : Nat} {s : State} (hP : sub [.ctl, .ms, .slots, .refetch, .engs, .tags] P) (h_s : Keeps P base s) :
    Keeps P base (engAbort e status s) := by
  unfold engAbort
  try dsimp only
  with_reducible repeat' first
    | assumption
    | refine keeps_ite ?_ ?_
    | refine kept_bump (sub_trans (by decide) hP) ?_
    | refine kept_cutFill (sub_trans (by decide) hP) ?_
    | refine kept_disownFab (sub_trans (by decide) hP) ?_
    | refine kept_disownReads (sub_trans (by decide) hP) ?_
    | refine kept_engToIdle (sub_trans (by decide) hP) ?_
    | refine kept_setEngState (sub_trans (by decide) hP) ?_
    | refine kept_setFld (sub_trans (by decide) hP) ?_
    | refine kept_updEng (sub_trans (by decide) hP) ?_
    | split

theorem kept_noteFillHalt {P : List Part} {base : State} {e : Nat} {s : State} (hP : sub [.slots] P) (h_s : Keeps P base s) :
    Keeps P base (noteFillHalt e s) := by
  unfold noteFillHalt
  try dsimp only
  with_reducible repeat' first
    | assumption
    | refine keeps_ite ?_ ?_
    | split
  all_goals try (with_reducible refine keeps_with_slots (sub_trans (by decide) hP) ?_)
  all_goals with_reducible repeat' first
    | assumption
    | refine keeps_ite ?_ ?_
    | split
  all_goals try (with_reducible refine keeps_with_slots (sub_trans (by decide) hP) ?_)
  all_goals with_reducible repeat' first
    | assumption
    | refine keeps_ite ?_ ?_
    | split

theorem kept_engHalted {P : List Part} {base : State} {e : Nat} {status : Nat} {dir : Nat} {addr : Nat} {s : State} (hP : sub [.ctl, .ev, .slots, .engs] P) (h_s : Keeps P base s) :
    Keeps P base (engHalted e status dir addr s) := by
  unfold engHalted
  try dsimp only
  with_reducible repeat' first
    | assumption
    | refine keeps_ite ?_ ?_
    | refine kept_bump (sub_trans (by decide) hP) ?_
    | refine kept_noteFillHalt (sub_trans (by decide) hP) ?_
    | refine kept_setEngState (sub_trans (by decide) hP) ?_
    | refine kept_setFld (sub_trans (by decide) hP) ?_
    | refine kept_setReg (sub_trans (by decide) hP) ?_
    | refine kept_tenantEvent (sub_trans (by decide) hP) ?_
    | refine kept_updEng (sub_trans (by decide) hP) ?_
    | split

theorem kept_engWrite {P : List Part} {base : State} {e : Nat} {a : Nat} {bs : List Byte} {k : Reach} {s : State} (hP : sub [.ctl, .mem, .ev, .ms, .mxes, .tags, .fabQ, .persist] P) (h_s : Keeps P base s) :
    PairKeeps P base (engWrite e a bs k s) := by
  unfold engWrite
  try dsimp only
  with_reducible repeat' first
    | assumption
    | refine keeps_ite ?_ ?_
    | refine pairKeeps_ite ?_ ?_
    | refine tripleKeeps_ite ?_ ?_
    | refine snd_of ?_
    | refine snd2_of ?_
    | refine kept_bump (sub_trans (by decide) hP) ?_
    | refine kept_driftPut (sub_trans (by decide) hP) ?_
    | refine kept_writeRangeBy (sub_trans (by decide) hP) ?_
    | refine of_pair ?_ (by assumption)
    | refine of_triple ?_ (by assumption)
    | split
    | refine keeps_pair ?_
    | refine keeps_triple ?_

theorem kept_putStatus {P : List Part} {base : State} {e : Nat} {status : Nat} {detail : Nat} {s : State} (hP : sub [.ctl, .mem, .ev, .ms, .mxes, .tags, .fabQ, .persist] P) (h_s : Keeps P base s) :
    PairKeeps P base (putStatus e status detail s) := by
  unfold putStatus
  try dsimp only
  with_reducible repeat' first
    | assumption
    | refine keeps_ite ?_ ?_
    | refine pairKeeps_ite ?_ ?_
    | refine snd_of ?_
    | refine kept_engWrite (sub_trans (by decide) hP) ?_
    | refine of_pair ?_ (by assumption)
    | split
    | refine keeps_pair ?_

theorem kept_engHaltAt {P : List Part} {base : State} {e : Nat} {status : Nat} {detail : Nat} {dir : Nat} {addr : Nat} {s : State} (hP : sub [.ctl, .mem, .ev, .ms, .mxes, .slots, .engs, .tags, .fabQ, .persist] P) (h_s : Keeps P base s) :
    Keeps P base (engHaltAt e status detail dir addr s) := by
  unfold engHaltAt
  try dsimp only
  with_reducible repeat' first
    | assumption
    | refine keeps_ite ?_ ?_
    | refine pairKeeps_ite ?_ ?_
    | refine snd_of ?_
    | refine kept_disownFab (sub_trans (by decide) hP) ?_
    | refine kept_disownReads (sub_trans (by decide) hP) ?_
    | refine kept_engHalted (sub_trans (by decide) hP) ?_
    | refine kept_putStatus (sub_trans (by decide) hP) ?_
    | refine kept_updEng (sub_trans (by decide) hP) ?_
    | refine of_pair ?_ (by assumption)
    | split
    | refine keeps_pair ?_

theorem kept_engScatter {P : List Part} {base : State} {e : Nat} {a : Nat} {bs : List Byte} {k : Reach} {s : State} (hP : sub [.ctl, .mem, .ev, .ms, .mxes, .engs, .tags, .fabQ, .persist] P) (h_s : Keeps P base s) :
    PairKeeps P base (engScatter e a bs k s) := by
  unfold engScatter
  try dsimp only
  with_reducible repeat' first
    | assumption
    | refine keeps_ite ?_ ?_
    | refine pairKeeps_ite ?_ ?_
    | refine snd_of ?_
    | refine kept_engWrite (sub_trans (by decide) hP) ?_
    | refine kept_updEng (sub_trans (by decide) hP) ?_
    | refine of_pair ?_ (by assumption)
    | split
    | refine keeps_pair ?_

theorem kept_engCtlWrite {P : List Part} {base : State} {who : Who} {e : Nat} {val : Nat} {s : State} (hP : sub [.ctl, .ev] P) (h_s : Keeps P base s) :
    Keeps P base (engCtlWrite who e val s) := by
  unfold engCtlWrite
  try dsimp only
  with_reducible repeat' first
    | assumption
    | refine keeps_ite ?_ ?_
    | refine kept_ignoredWrite (sub_trans (by decide) hP) ?_
    | refine kept_setReg (sub_trans (by decide) hP) ?_
    | split

theorem kept_engHeadWrite {P : List Part} {base : State} {who : Who} {e : Nat} {val : Nat} {s : State} (hP : sub [.ctl, .ev] P) (h_s : Keeps P base s) :
    Keeps P base (engHeadWrite who e val s) := by
  unfold engHeadWrite
  try dsimp only
  with_reducible repeat' first
    | assumption
    | refine keeps_ite ?_ ?_
    | refine kept_ignoredWrite (sub_trans (by decide) hP) ?_
    | refine kept_setReg (sub_trans (by decide) hP) ?_
    | split

theorem kept_engGo {P : List Part} {base : State} {who : Who} {e : Nat} {s : State} (hP : sub [.ctl, .ev, .engs] P) (h_s : Keeps P base s) :
    Keeps P base (engGo who e s) := by
  unfold engGo
  try dsimp only
  with_reducible repeat' first
    | assumption
    | refine keeps_ite ?_ ?_
    | refine kept_engIdleWork (sub_trans (by decide) hP) ?_
    | refine kept_ignoredWrite (sub_trans (by decide) hP) ?_
    | refine kept_setEngState (sub_trans (by decide) hP) ?_
    | refine kept_setReg (sub_trans (by decide) hP) ?_
    | split

theorem kept_engSkip {P : List Part} {base : State} {who : Who} {e : Nat} {s : State} (hP : sub [.ctl, .ev, .ms, .slots, .refetch, .engs] P) (h_s : Keeps P base s) :
    Keeps P base (engSkip who e s) := by
  unfold engSkip
  try dsimp only
  with_reducible repeat' first
    | assumption
    | refine keeps_ite ?_ ?_
    | refine kept_cutFill (sub_trans (by decide) hP) ?_
    | refine kept_engIdleWork (sub_trans (by decide) hP) ?_
    | refine kept_ignoredWrite (sub_trans (by decide) hP) ?_
    | refine kept_setEngState (sub_trans (by decide) hP) ?_
    | refine kept_setReg (sub_trans (by decide) hP) ?_
    | split

theorem kept_engResume {P : List Part} {base : State} {who : Who} {e : Nat} {s : State} (hP : sub [.ctl, .ev, .engs] P) (h_s : Keeps P base s) :
    Keeps P base (engResume who e s) := by
  unfold engResume
  try dsimp only
  with_reducible repeat' first
    | assumption
    | refine keeps_ite ?_ ?_
    | refine kept_engIdleWork (sub_trans (by decide) hP) ?_
    | refine kept_ignoredWrite (sub_trans (by decide) hP) ?_
    | refine kept_setEngState (sub_trans (by decide) hP) ?_
    | split

theorem kept_engCmdWrite {P : List Part} {base : State} {who : Who} {e : Nat} {val : Nat} {s : State} (hP : sub [.ctl, .ev, .ms, .slots, .refetch, .engs, .tags] P) (h_s : Keeps P base s) :
    Keeps P base (engCmdWrite who e val s) := by
  unfold engCmdWrite
  try dsimp only
  with_reducible repeat' first
    | assumption
    | refine keeps_ite ?_ ?_
    | refine kept_engAbort (sub_trans (by decide) hP) ?_
    | refine kept_engGo (sub_trans (by decide) hP) ?_
    | refine kept_engResume (sub_trans (by decide) hP) ?_
    | refine kept_engSkip (sub_trans (by decide) hP) ?_
    | refine kept_ignoredWrite (sub_trans (by decide) hP) ?_
    | split

theorem kept_layerNextWrite {P : List Part} {base : State} {who : Who} {h : Nat} {val : Nat} {s : State} (hP : sub [.ctl, .ev] P) (h_s : Keeps P base s) :
    Keeps P base (layerNextWrite who h val s) := by
  unfold layerNextWrite
  try dsimp only
  with_reducible repeat' first
    | assumption
    | refine keeps_ite ?_ ?_
    | refine kept_ignoredWrite (sub_trans (by decide) hP) ?_
    | refine kept_setReg (sub_trans (by decide) hP) ?_
    | split

theorem kept_slotCfgWrite {P : List Part} {base : State} {who : Who} {h : Nat} {slot : Nat} {val : Nat} {s : State} (hP : sub [.ctl, .ev] P) (h_s : Keeps P base s) :
    Keeps P base (slotCfgWrite who h slot val s) := by
  unfold slotCfgWrite
  try dsimp only
  with_reducible repeat' first
    | assumption
    | refine keeps_ite ?_ ?_
    | refine kept_ignoredWrite (sub_trans (by decide) hP) ?_
    | refine kept_setReg (sub_trans (by decide) hP) ?_
    | split

theorem kept_slotDiscard {P : List Part} {base : State} {who : Who} {h : Nat} {slot : Nat} {s : State} (hP : sub [.ctl, .mem, .ev, .ms, .mxes, .slots, .refetch, .engs, .persist] P) (h_s : Keeps P base s) :
    Keeps P base (slotDiscard who h slot s) := by
  unfold slotDiscard
  try dsimp only
  with_reducible repeat' first
    | assumption
    | refine keeps_ite ?_ ?_
    | refine kept_dropViews (sub_trans (by decide) hP) ?_
    | refine kept_emptySlot (sub_trans (by decide) hP) ?_
    | refine kept_fillEnded (sub_trans (by decide) hP) ?_
    | refine kept_ignoredWrite (sub_trans (by decide) hP) ?_
    | refine kept_pumpCrew (sub_trans (by decide) hP) ?_
    | split

theorem kept_engHalt {P : List Part} {base : State} {e : Nat} {status : Nat} {detail : Nat} {s : State} (hP : sub [.free, .ctl, .mem, .ev, .ms, .mxes, .slots, .engs, .tags, .fabQ, .persist] P) (h_s : Keeps P base s) :
    Keeps P base (engHalt e status detail s) := by
  unfold engHalt
  try dsimp only
  with_reducible repeat' first
    | assumption
    | refine keeps_ite ?_ ?_
    | refine pairKeeps_ite ?_ ?_
    | refine snd_of ?_
    | refine kept_engHaltAt (sub_trans (by decide) hP) ?_
    | refine kept_freshWord (sub_trans (by decide) hP) ?_
    | refine of_pair ?_ (by assumption)
    | split
    | refine keeps_pair ?_

theorem kept_engDriftRead {P : List Part} {base : State} {e : Nat} {a : Nat} {n : Nat} {s : State} (hP : sub [.engs, .tags, .fabQ] P) (h_s : Keeps P base s) :
    PairKeeps P base (engDriftRead e a n s) := by
  unfold engDriftRead
  try dsimp only
  with_reducible repeat' first
    | assumption
    | refine keeps_ite ?_ ?_
    | refine pairKeeps_ite ?_ ?_
    | refine optKeeps_ite ?_ ?_
    | refine optPairKeeps_ite ?_ ?_
    | refine keeps_some ?_
    | refine keeps_none
    | refine keeps_someP ?_
    | refine keeps_noneP
    | refine snd_of ?_
    | refine kept_fabSend (sub_trans (by decide) hP) ?_
    | refine kept_updEng (sub_trans (by decide) hP) ?_
    | refine of_pair ?_ (by assumption)
    | refine of_some ?_ (by assumption)
    | refine of_someP ?_ (by assumption)
    | split
    | refine keeps_pair ?_

theorem kept_engRead {P : List Part} {base : State} {e : Nat} {a : Nat} {n : Nat} {k : Reach} {s : State} (hP : sub [.ctl, .mem, .ev, .ms, .engs, .tags, .fabQ, .persist] P) (h_s : Keeps P base s) :
    PairKeeps P base (engRead e a n k s) := by
  unfold engRead
  try dsimp only
  with_reducible repeat' first
    | assumption
    | refine keeps_ite ?_ ?_
    | refine pairKeeps_ite ?_ ?_
    | refine snd_of ?_
    | refine kept_clearFailed (sub_trans (by decide) hP) ?_
    | refine kept_engDriftRead (sub_trans (by decide) hP) ?_
    | refine kept_readRangeBy (sub_trans (by decide) hP) ?_
    | refine of_pair ?_ (by assumption)
    | split
    | refine keeps_pair ?_

theorem kept_engGather {P : List Part} {base : State} {e : Nat} {side : Nat} {a : Nat} {n : Nat} {k : Reach} {s : State} (hP : sub [.ctl, .mem, .ev, .ms, .engs, .tags, .fabQ, .persist] P) (h_s : Keeps P base s) :
    PairKeeps P base (engGather e side a n k s) := by
  unfold engGather
  try dsimp only
  with_reducible repeat' first
    | assumption
    | refine keeps_ite ?_ ?_
    | refine pairKeeps_ite ?_ ?_
    | refine snd_of ?_
    | refine kept_engRead (sub_trans (by decide) hP) ?_
    | refine kept_updEng (sub_trans (by decide) hP) ?_
    | refine of_pair ?_ (by assumption)
    | split
    | refine keeps_pair ?_

theorem kept_resolveStandby {P : List Part} {base : State} {h : Nat} {slot : Nat} {d : HSlot} {s : State} (hP : sub [.ctl, .ev, .ms, .slots, .refetch, .engs] P) (h_s : Keeps P base s) :
    Keeps P base (resolveStandby h slot d s) := by
  unfold resolveStandby
  try dsimp only
  with_reducible repeat' first
    | assumption
    | refine keeps_ite ?_ ?_
    | refine kept_bump (sub_trans (by decide) hP) ?_
    | refine kept_fillEnded (sub_trans (by decide) hP) ?_
    | refine kept_setFld (sub_trans (by decide) hP) ?_
    | refine kept_tenantEvent (sub_trans (by decide) hP) ?_
    | split

theorem kept_slotLoss {P : List Part} {base : State} {h : Nat} {slot : Nat} {s : State} (hP : sub [.ctl, .ev, .ms, .slots, .refetch, .engs] P) (h_s : Keeps P base s) :
    Keeps P base (slotLoss h slot s) := by
  unfold slotLoss
  try dsimp only
  with_reducible repeat' first
    | assumption
    | refine keeps_ite ?_ ?_
    | refine kept_bump (sub_trans (by decide) hP) ?_
    | refine kept_fillEnded (sub_trans (by decide) hP) ?_
    | refine kept_resolveStandby (sub_trans (by decide) hP) ?_
    | refine kept_setFld (sub_trans (by decide) hP) ?_
    | split

theorem kept_missDeadline {P : List Part} {base : State} {h : Nat} {slot : Nat} {s : State} (hP : sub [.ctl, .ev, .ms, .slots, .refetch, .engs] P) (h_s : Keeps P base s) :
    Keeps P base (missDeadline h slot s) := by
  unfold missDeadline
  try dsimp only
  with_reducible repeat' first
    | assumption
    | refine keeps_ite ?_ ?_
    | refine kept_bump (sub_trans (by decide) hP) ?_
    | refine kept_resolveStandby (sub_trans (by decide) hP) ?_
    | refine kept_tenantEvent (sub_trans (by decide) hP) ?_
    | split
  all_goals try (with_reducible refine keeps_with_slots (sub_trans (by decide) hP) ?_)
  all_goals with_reducible repeat' first
    | assumption
    | refine keeps_ite ?_ ?_
    | refine kept_bump (sub_trans (by decide) hP) ?_
    | refine kept_resolveStandby (sub_trans (by decide) hP) ?_
    | refine kept_tenantEvent (sub_trans (by decide) hP) ?_
    | split
  all_goals try (with_reducible refine keeps_with_slots (sub_trans (by decide) hP) ?_)
  all_goals with_reducible repeat' first
    | assumption
    | refine keeps_ite ?_ ?_
    | refine kept_bump (sub_trans (by decide) hP) ?_
    | refine kept_resolveStandby (sub_trans (by decide) hP) ?_
    | refine kept_tenantEvent (sub_trans (by decide) hP) ?_
    | split

end Sys2Proof.Machine
end

