-- ==== Sys2Proof/Laws/MemCtl.lean ====
section
/-! SUPPORT. For each operation of Machine/MemCtl.lean, which parts of the state it may change: `kept_f` says that `f` keeps
everything but the parts listed in its first hypothesis, from any state that the states it is given were kept from. -/

namespace Sys2Proof.Machine

theorem kept_nvmeSubmitAt {P : List Part} {base : State} {owner : Nat} {ch : Nat} {off : Nat} {write : Bool} {data : List Byte} {s : State} (hP : sub [.t3] P) (h_s : Keeps P base s) :
    Keeps P base (nvmeSubmitAt owner ch off write data s) := by
  unfold nvmeSubmitAt
  try dsimp only
  with_reducible repeat' first
    | assumption
    | refine keeps_ite ?_ ?_
    | refine keeps_id ?_
    | split
  all_goals try (with_reducible refine keeps_with_t3 (sub_trans (by decide) hP) ?_ (fun q => by first | exact q | exact wf_memPuts _ _ q | exact wf_memZero _ _ q | exact wf_filter _ q))
  all_goals with_reducible repeat' first
    | assumption
    | refine keeps_ite ?_ ?_
    | refine keeps_id ?_
    | split

theorem kept_sizeChannels {P : List Part} {base : State} {s : State} (hP : sub [.ctl, .ev] P) (h_s : Keeps P base s) :
    Keeps P base (sizeChannels s) := by
  unfold sizeChannels
  try dsimp only
  with_reducible repeat' first
    | assumption
    | refine keeps_ite ?_ ?_
    | refine kept_event (sub_trans (by decide) hP) ?_
    | refine kept_setFld (sub_trans (by decide) hP) ?_
    | refine keeps_foldl _ (fun _ _ _ => ?_) ?_
    | refine keeps_foldlP _ (fun _ _ _ => ?_) ?_
    | refine tripleKeeps_foldl _ (fun _ _ _ => ?_) ?_
    | refine objStepKeeps_foldl _ (fun _ _ _ => ?_) ?_
    | refine optKeeps_map (fun _ => ?_)
    | split

theorem kept_memCtlWrite {P : List Part} {base : State} {who : Who} {c : Nat} {val : Nat} {s : State} (hP : sub [.ctl, .ev] P) (h_s : Keeps P base s) :
    Keeps P base (memCtlWrite who c val s) := by
  unfold memCtlWrite
  try dsimp only
  with_reducible repeat' first
    | assumption
    | refine keeps_ite ?_ ?_
    | refine kept_ignoredWrite (sub_trans (by decide) hP) ?_
    | refine kept_setReg (sub_trans (by decide) hP) ?_
    | split

theorem kept_injAddrWrite {P : List Part} {base : State} {who : Who} {c : Nat} {val : Nat} {s : State} (hP : sub [.ctl, .ev] P) (h_s : Keeps P base s) :
    Keeps P base (injAddrWrite who c val s) := by
  unfold injAddrWrite
  try dsimp only
  with_reducible repeat' first
    | assumption
    | refine keeps_ite ?_ ?_
    | refine kept_ignoredWrite (sub_trans (by decide) hP) ?_
    | refine kept_setReg (sub_trans (by decide) hP) ?_
    | split

theorem kept_injCtlWrite {P : List Part} {base : State} {who : Who} {c : Nat} {val : Nat} {s : State} (hP : sub [.ctl, .ev] P) (h_s : Keeps P base s) :
    Keeps P base (injCtlWrite who c val s) := by
  unfold injCtlWrite
  try dsimp only
  with_reducible repeat' first
    | assumption
    | refine keeps_ite ?_ ?_
    | refine kept_ignoredWrite (sub_trans (by decide) hP) ?_
    | refine kept_setReg (sub_trans (by decide) hP) ?_
    | split

theorem kept_memCntClear {P : List Part} {base : State} {who : Who} {c : Nat} {s : State} (hP : sub [.ctl, .ev] P) (h_s : Keeps P base s) :
    Keeps P base (memCntClear who c s) := by
  unfold memCntClear
  try dsimp only
  with_reducible repeat' first
    | assumption
    | refine keeps_ite ?_ ?_
    | refine kept_ignoredWrite (sub_trans (by decide) hP) ?_
    | refine kept_setReg (sub_trans (by decide) hP) ?_
    | refine kept_zeroRegs (sub_trans (by decide) hP) ?_
    | split

theorem kept_setMemState {P : List Part} {base : State} {c : Nat} {v : Nat} {s : State} (hP : sub [.ctl, .ev, .ms] P) (h_s : Keeps P base s) :
    Keeps P base (setMemState c v s) := by
  unfold setMemState
  try dsimp only
  with_reducible repeat' first
    | assumption
    | refine keeps_ite ?_ ?_
    | refine kept_ckFlush (sub_trans (by decide) hP) ?_
    | refine kept_qosRefresh (sub_trans (by decide) hP) ?_
    | refine kept_setFld (sub_trans (by decide) hP) ?_
    | refine kept_setReg (sub_trans (by decide) hP) ?_
    | split

theorem kept_srEnter {P : List Part} {base : State} {c : Nat} {s : State} (hP : sub [.ctl, .ev, .ms] P) (h_s : Keeps P base s) :
    Keeps P base (srEnter c s) := by
  unfold srEnter
  try dsimp only
  with_reducible repeat' first
    | assumption
    | refine keeps_ite ?_ ?_
    | refine kept_setMemState (sub_trans (by decide) hP) ?_
    | split
  all_goals try (with_reducible refine keeps_with_ms (sub_trans (by decide) hP) ?_)
  all_goals with_reducible repeat' first
    | assumption
    | refine keeps_ite ?_ ?_
    | refine kept_setMemState (sub_trans (by decide) hP) ?_
    | split

theorem kept_srExit {P : List Part} {base : State} {c : Nat} {s : State} (hP : sub [.ctl, .ev, .ms] P) (h_s : Keeps P base s) :
    Keeps P base (srExit c s) := by
  unfold srExit
  try dsimp only
  with_reducible repeat' first
    | assumption
    | refine keeps_ite ?_ ?_
    | refine kept_setMemState (sub_trans (by decide) hP) ?_
    | split

theorem kept_lpWrite {P : List Part} {base : State} {who : Who} {c : Nat} {val : Nat} {s : State} (hP : sub [.ctl, .ev, .ms] P) (h_s : Keeps P base s) :
    Keeps P base (lpWrite who c val s) := by
  unfold lpWrite
  try dsimp only
  with_reducible repeat' first
    | assumption
    | refine keeps_ite ?_ ?_
    | refine kept_ignoredWrite (sub_trans (by decide) hP) ?_
    | refine kept_setReg (sub_trans (by decide) hP) ?_
    | refine kept_srEnter (sub_trans (by decide) hP) ?_
    | refine kept_srExit (sub_trans (by decide) hP) ?_
    | split

theorem kept_nvmeEnd {P : List Part} {base : State} {c : NvmeCmd} {ok : Bool} {s : State} (hP : sub [.t3] P) (h_s : Keeps P base s) :
    Keeps P base (nvmeEnd c ok s) := by
  unfold nvmeEnd
  try dsimp only
  with_reducible repeat' first
    | assumption
    | refine keeps_ite ?_ ?_
    | split
  all_goals try (with_reducible refine keeps_with_t3 (sub_trans (by decide) hP) ?_ (fun q => by first | exact q | exact wf_memPuts _ _ q | exact wf_memZero _ _ q | exact wf_filter _ q))
  all_goals with_reducible repeat' first
    | assumption
    | refine keeps_ite ?_ ?_
    | split

theorem kept_notInstalled {P : List Part} {base : State} {c : Nat} {phase : Nat} {failure : Bool} {s : State} (hP : sub [.ctl, .ev, .ms] P) (h_s : Keeps P base s) :
    Keeps P base (notInstalled c phase failure s) := by
  unfold notInstalled
  try dsimp only
  with_reducible repeat' first
    | assumption
    | refine keeps_ite ?_ ?_
    | refine kept_clearStackPresent (sub_trans (by decide) hP) ?_
    | refine kept_event (sub_trans (by decide) hP) ?_
    | refine kept_setMemState (sub_trans (by decide) hP) ?_
    | refine kept_sizeChannels (sub_trans (by decide) hP) ?_
    | split
  all_goals try (with_reducible refine keeps_with_ms (sub_trans (by decide) hP) ?_)
  all_goals with_reducible repeat' first
    | assumption
    | refine keeps_ite ?_ ?_
    | refine kept_clearStackPresent (sub_trans (by decide) hP) ?_
    | refine kept_event (sub_trans (by decide) hP) ?_
    | refine kept_setMemState (sub_trans (by decide) hP) ?_
    | refine kept_sizeChannels (sub_trans (by decide) hP) ?_
    | split

theorem kept_directedRefresh {P : List Part} {base : State} {c : Nat} {s : State} (hP : sub [.ctl] P) (h_s : Keeps P base s) :
    Keeps P base (directedRefresh c s) := by
  unfold directedRefresh
  try dsimp only
  with_reducible repeat' first
    | assumption
    | refine keeps_ite ?_ ?_
    | refine kept_bump (sub_trans (by decide) hP) ?_
    | split

theorem kept_onActivate {P : List Part} {base : State} {c : Nat} {act : Option (Nat × Nat)} {s : State} (hP : sub [.ctl, .ms] P) (h_s : Keeps P base s) :
    Keeps P base (onActivate c act s) := by
  unfold onActivate
  try dsimp only
  with_reducible repeat' first
    | assumption
    | refine keeps_ite ?_ ?_
    | refine kept_directedRefresh (sub_trans (by decide) hP) ?_
    | split
  all_goals try (with_reducible refine keeps_with_ms (sub_trans (by decide) hP) ?_)
  all_goals with_reducible repeat' first
    | assumption
    | refine keeps_ite ?_ ?_
    | refine kept_directedRefresh (sub_trans (by decide) hP) ?_
    | split

theorem kept_touchCtrl {P : List Part} {base : State} {a : Nat} {act : Option (Nat × Nat)} {inline : Bool} {s : State} (hP : sub [.ctl, .ms] P) (h_s : Keeps P base s) :
    Keeps P base (touchCtrl a act inline s) := by
  unfold touchCtrl
  try dsimp only
  with_reducible repeat' first
    | assumption
    | refine keeps_ite ?_ ?_
    | refine kept_ckFetch (sub_trans (by decide) hP) ?_
    | refine kept_onActivate (sub_trans (by decide) hP) ?_
    | split

theorem kept_nvmeSubmit {P : List Part} {base : State} {owner : Nat} {ch : Nat} {write : Bool} {data : List Byte} {s : State} (hP : sub [.t3] P) (h_s : Keeps P base s) :
    Keeps P base (nvmeSubmit owner ch write data s) := by
  unfold nvmeSubmit
  try dsimp only
  with_reducible repeat' first
    | assumption
    | refine keeps_ite ?_ ?_
    | refine kept_nvmeSubmitAt (sub_trans (by decide) hP) ?_
    | split

theorem kept_updSsd {P : List Part} {base : State} {p : Nat} {f : Ssd → Ssd} {s : State} (hP : sub [.t3] P) (h_s : Keeps P base s) :
    Keeps P base (updSsd p f s) := by
  unfold updSsd
  try dsimp only
  with_reducible repeat' first
    | assumption
    | refine keeps_ite ?_ ?_
    | split
  all_goals try (with_reducible refine keeps_with_t3 (sub_trans (by decide) hP) ?_ (fun q => by first | exact q | exact wf_memPuts _ _ q | exact wf_memZero _ _ q | exact wf_filter _ q))
  all_goals with_reducible repeat' first
    | assumption
    | refine keeps_ite ?_ ?_
    | split

theorem kept_trainLower {P : List Part} {base : State} {c : Nat} {s : State} (hP : sub [.ctl, .ev, .ms] P) (h_s : Keeps P base s) :
    Keeps P base (trainLower c s) := by
  unfold trainLower
  try dsimp only
  with_reducible repeat' first
    | assumption
    | refine keeps_ite ?_ ?_
    | refine kept_notInstalled (sub_trans (by decide) hP) ?_
    | refine kept_setFld (sub_trans (by decide) hP) ?_
    | split

theorem kept_trainDone {P : List Part} {base : State} {c : Nat} {res : TrainResult} {s : State} (hP : sub [.ctl, .ev, .ms] P) (h_s : Keeps P base s) :
    Keeps P base (trainDone c res s) := by
  unfold trainDone
  try dsimp only
  with_reducible repeat' first
    | assumption
    | refine keeps_ite ?_ ?_
    | refine kept_notInstalled (sub_trans (by decide) hP) ?_
    | refine kept_setFld (sub_trans (by decide) hP) ?_
    | refine kept_setReg (sub_trans (by decide) hP) ?_
    | refine kept_sizeChannels (sub_trans (by decide) hP) ?_
    | refine kept_trainLower (sub_trans (by decide) hP) ?_
    | split
  all_goals try (with_reducible refine keeps_with_ms (sub_trans (by decide) hP) ?_)
  all_goals with_reducible repeat' first
    | assumption
    | refine keeps_ite ?_ ?_
    | refine kept_notInstalled (sub_trans (by decide) hP) ?_
    | refine kept_setFld (sub_trans (by decide) hP) ?_
    | refine kept_setReg (sub_trans (by decide) hP) ?_
    | refine kept_sizeChannels (sub_trans (by decide) hP) ?_
    | refine kept_trainLower (sub_trans (by decide) hP) ?_
    | split
  all_goals try (with_reducible refine keeps_with_ms (sub_trans (by decide) hP) ?_)
  all_goals with_reducible repeat' first
    | assumption
    | refine keeps_ite ?_ ?_
    | refine kept_notInstalled (sub_trans (by decide) hP) ?_
    | refine kept_setFld (sub_trans (by decide) hP) ?_
    | refine kept_setReg (sub_trans (by decide) hP) ?_
    | refine kept_sizeChannels (sub_trans (by decide) hP) ?_
    | refine kept_trainLower (sub_trans (by decide) hP) ?_
    | split

theorem kept_nvmeEvent {P : List Part} {base : State} {p : Nat} {kind : Nat} {s : State} (hP : sub [.ctl, .ev] P) (h_s : Keeps P base s) :
    Keeps P base (nvmeEvent p kind s) := by
  unfold nvmeEvent
  try dsimp only
  with_reducible repeat' first
    | assumption
    | refine keeps_ite ?_ ?_
    | refine kept_event (sub_trans (by decide) hP) ?_
    | split

theorem kept_zeroLocal {P : List Part} {base : State} {c : Nat} {p : Nat → Bool} {s : State} (hP : sub [.mem, .ms] P) (h_s : Keeps P base s) :
    Keeps P base (zeroLocal c p s) := by
  unfold zeroLocal
  try dsimp only
  with_reducible repeat' first
    | assumption
    | refine keeps_ite ?_ ?_
    | split
  all_goals try (with_reducible refine keeps_mk ?_ rfl (Or.inl rfl) (Or.inl rfl) (Or.inl rfl) (Or.inl rfl) (Or.inl rfl) (Or.inr (sub_trans (by decide) hP)) (Or.inl rfl) (Or.inl rfl) (Or.inr (sub_trans (by decide) hP)) (Or.inl rfl) (Or.inl rfl) (Or.inl rfl) (Or.inl rfl) (Or.inl rfl) (Or.inl rfl) (Or.inl rfl) (Or.inl rfl) (Or.inl rfl) (Or.inl rfl) (Or.inl rfl) (Or.inl rfl) (Or.inl rfl) (Or.inl rfl) (Or.inl rfl) (Or.inl rfl) (Or.inl rfl) (by first | exact bytesWf_same | (intro q; have q := bytesWf_parts q; refine bytesWf_of ?_ ?_ ?_ ?_ <;> first | exact q.1 | exact q.2.1 | exact q.2.2.1 | exact q.2.2.2 | exact wf_memPuts _ _ q.1 | exact wf_memZero _ _ q.1 | exact wf_filter _ q.1 | exact wf_memPuts _ _ q.2.1 | exact wf_memZero _ _ q.2.1 | exact wf_filter _ q.2.1 | exact wf_memPuts _ _ q.2.2.1 | exact wf_memZero _ _ q.2.2.1 | exact wf_filter _ q.2.2.1 | exact wf_memPuts _ _ q.2.2.2 | exact wf_memZero _ _ q.2.2.2 | exact wf_filter _ q.2.2.2)))
  all_goals with_reducible repeat' first
    | assumption
    | refine keeps_ite ?_ ?_
    | split

theorem kept_srRefilled {P : List Part} {base : State} {c : Nat} {s : State} (hP : sub [.ctl, .mem, .ev, .ms] P) (h_s : Keeps P base s) :
    Keeps P base (srRefilled c s) := by
  unfold srRefilled
  try dsimp only
  with_reducible repeat' first
    | assumption
    | refine keeps_ite ?_ ?_
    | refine kept_setMemState (sub_trans (by decide) hP) ?_
    | refine kept_zeroLocal (sub_trans (by decide) hP) ?_
    | split
  all_goals try (with_reducible refine keeps_with_ms (sub_trans (by decide) hP) ?_)
  all_goals with_reducible repeat' first
    | assumption
    | refine keeps_ite ?_ ?_
    | refine kept_setMemState (sub_trans (by decide) hP) ?_
    | refine kept_zeroLocal (sub_trans (by decide) hP) ?_
    | split

theorem kept_countSev {P : List Part} {base : State} {a : Nat} {sev : Nat} {s : State} (hP : sub [.ctl] P) (h_s : Keeps P base s) :
    Keeps P base (countSev a sev s) := by
  unfold countSev
  try dsimp only
  with_reducible repeat' first
    | assumption
    | refine keeps_ite ?_ ?_
    | refine kept_bump (sub_trans (by decide) hP) ?_
    | split

theorem kept_flipWord {P : List Part} {base : State} {w : Nat} {m : Nat} {hard : Bool} {s : State} (hP : sub [.ms] P) (h_s : Keeps P base s) :
    Keeps P base (flipWord w m hard s) := by
  unfold flipWord
  try dsimp only
  with_reducible repeat' first
    | assumption
    | refine keeps_ite ?_ ?_
    | refine kept_setFlips (sub_trans (by decide) hP) ?_
    | split
  all_goals try (with_reducible refine keeps_with_ms (sub_trans (by decide) hP) ?_)
  all_goals with_reducible repeat' first
    | assumption
    | refine keeps_ite ?_ ?_
    | refine kept_setFlips (sub_trans (by decide) hP) ?_
    | split

theorem kept_scrubWord {P : List Part} {base : State} {c : Nat} {x : Nat} {s : State} {w : Nat} (hP : sub [.ctl, .mem, .ev, .ms, .persist] P) (h_s : Keeps P base s) :
    Keeps P base (scrubWord c x s w) := by
  unfold scrubWord
  try dsimp only
  with_reducible repeat' first
    | assumption
    | refine keeps_ite ?_ ?_
    | refine kept_bump (sub_trans (by decide) hP) ?_
    | refine kept_correctWord (sub_trans (by decide) hP) ?_
    | refine kept_event (sub_trans (by decide) hP) ?_
    | refine kept_noteUncorr (sub_trans (by decide) hP) ?_
    | refine kept_rcvAttach (sub_trans (by decide) hP) ?_
    | refine kept_restoreTable (sub_trans (by decide) hP) ?_
    | split

end Sys2Proof.Machine
end

