-- ==== Sys2Proof/Laws/ObjOps.lean ====
section
/-! SUPPORT. For each operation of Machine/ObjOps.lean, which parts of the state it may change: `kept_f` says that `f` keeps
everything but the parts listed in its first hypothesis, from any state that the states it is given were kept from. -/

namespace Sys2Proof.Machine

theorem kept_syncDirty {P : List Part} {base : State} {a : Nat} {s : State} (hP : sub [.ctl] P) (h_s : Keeps P base s) :
    Keeps P base (syncDirty a s) := by
  unfold syncDirty
  try dsimp only
  with_reducible repeat' first
    | assumption
    | refine keeps_ite ?_ ?_
    | refine kept_setFld (sub_trans (by decide) hP) ?_
    | split

theorem kept_cleanUnit {P : List Part} {base : State} {s : State} {a : Nat} (hP : sub [.ctl, .ms] P) (h_s : Keeps P base s) :
    Keeps P base (cleanUnit s a) := by
  unfold cleanUnit
  try dsimp only
  with_reducible repeat' first
    | assumption
    | refine keeps_ite ?_ ?_
    | refine kept_syncDirty (sub_trans (by decide) hP) ?_
    | split
  all_goals try (with_reducible refine keeps_with_ms (sub_trans (by decide) hP) ?_)
  all_goals with_reducible repeat' first
    | assumption
    | refine keeps_ite ?_ ?_
    | refine kept_syncDirty (sub_trans (by decide) hP) ?_
    | split
  all_goals try (with_reducible refine keeps_with_ms (sub_trans (by decide) hP) ?_)
  all_goals with_reducible repeat' first
    | assumption
    | refine keeps_ite ?_ ?_
    | refine kept_syncDirty (sub_trans (by decide) hP) ?_
    | split

theorem kept_objRead {P : List Part} {base : State} {w : Waiter} {ly : Layout} {off : Nat} {n : Nat} {s : State} (hP : sub [.ctl, .mem, .ev, .ms, .persist] P) (h_s : Keeps P base s) :
    PairKeeps P base (objRead w ly off n s) := by
  unfold objRead
  try dsimp only
  with_reducible repeat' first
    | assumption
    | refine keeps_ite ?_ ?_
    | refine pairKeeps_ite ?_ ?_
    | refine snd_of ?_
    | refine kept_readRange (sub_trans (by decide) hP) ?_
    | refine keeps_foldl _ (fun _ _ _ => ?_) ?_
    | refine keeps_foldlP _ (fun _ _ _ => ?_) ?_
    | refine tripleKeeps_foldl _ (fun _ _ _ => ?_) ?_
    | refine objStepKeeps_foldl _ (fun _ _ _ => ?_) ?_
    | refine of_pair ?_ (by assumption)
    | split
    | refine keeps_pair ?_

theorem kept_remark {P : List Part} {base : State} {e : Nat} {i : Nat} {tier : Nat} {s : State} (hP : sub [.ctl, .ms] P) (h_s : Keeps P base s) :
    Keeps P base (remark e i tier s) := by
  unfold remark
  try dsimp only
  with_reducible repeat' first
    | assumption
    | refine keeps_ite ?_ ?_
    | refine kept_markDirty (sub_trans (by decide) hP) ?_
    | refine keeps_foldl _ (fun _ _ _ => ?_) ?_
    | refine keeps_foldlP _ (fun _ _ _ => ?_) ?_
    | refine tripleKeeps_foldl _ (fun _ _ _ => ?_) ?_
    | refine objStepKeeps_foldl _ (fun _ _ _ => ?_) ?_
    | refine keeps_getD ?_ ?_
    | split

theorem kept_dropCopy {P : List Part} {base : State} {i : Nat} {tier : Nat} {s : State} (hP : sub [.ctl, .mem, .ev, .ms, .mxes, .persist] P) (h_s : Keeps P base s) :
    Keeps P base (dropCopy i tier s) := by
  unfold dropCopy
  try dsimp only
  with_reducible repeat' first
    | assumption
    | refine keeps_ite ?_ ?_
    | refine kept_dropCharge (sub_trans (by decide) hP) ?_
    | refine kept_putObj (sub_trans (by decide) hP) ?_
    | split

theorem kept_loseObject {P : List Part} {base : State} {hd : Nat} {tier : Nat} {s : State} {i : Nat} (hP : sub [.ctl, .mem, .ev, .ms, .mxes, .slots, .refetch, .engs, .persist] P) (h_s : Keeps P base s) :
    Keeps P base (loseObject hd tier s i) := by
  unfold loseObject
  try dsimp only
  with_reducible repeat' first
    | assumption
    | refine keeps_ite ?_ ?_
    | refine kept_markLost (sub_trans (by decide) hP) ?_
    | refine kept_slotLoss (sub_trans (by decide) hP) ?_
    | refine keeps_foldl _ (fun _ _ _ => ?_) ?_
    | refine keeps_foldlP _ (fun _ _ _ => ?_) ?_
    | refine tripleKeeps_foldl _ (fun _ _ _ => ?_) ?_
    | refine objStepKeeps_foldl _ (fun _ _ _ => ?_) ?_
    | split

theorem kept_endLeaseObjects {P : List Part} {base : State} {peer : Nat} {s : State} (hP : sub [.ctl, .mem, .ev, .ms, .mxes, .slots, .refetch, .engs, .persist] P) (h_s : Keeps P base s) :
    Keeps P base (endLeaseObjects peer s) := by
  unfold endLeaseObjects
  try dsimp only
  with_reducible repeat' first
    | assumption
    | refine keeps_ite ?_ ?_
    | refine kept_dropCopy (sub_trans (by decide) hP) ?_
    | refine kept_loseObject (sub_trans (by decide) hP) ?_
    | refine keeps_foldl _ (fun _ _ _ => ?_) ?_
    | refine keeps_foldlP _ (fun _ _ _ => ?_) ?_
    | refine tripleKeeps_foldl _ (fun _ _ _ => ?_) ?_
    | refine objStepKeeps_foldl _ (fun _ _ _ => ?_) ?_
    | split

theorem kept_cutDrain {P : List Part} {base : State} {i : Nat} {s : State} (hP : sub [.ctl, .ms, .t3, .engs] P) (h_s : Keeps P base s) :
    Keeps P base (cutDrain i s) := by
  unfold cutDrain
  try dsimp only
  with_reducible repeat' first
    | assumption
    | refine keeps_ite ?_ ?_
    | refine kept_disownReads (sub_trans (by decide) hP) ?_
    | refine kept_remark (sub_trans (by decide) hP) ?_
    | refine kept_updEng (sub_trans (by decide) hP) ?_
    | refine optKeeps_map (fun _ => ?_)
    | split
  all_goals try (with_reducible refine keeps_with_t3 (sub_trans (by decide) hP) ?_ (fun q => by first | exact q | exact wf_memPuts _ _ q | exact wf_memZero _ _ q | exact wf_filter _ q))
  all_goals with_reducible repeat' first
    | assumption
    | refine keeps_ite ?_ ?_
    | refine kept_disownReads (sub_trans (by decide) hP) ?_
    | refine kept_remark (sub_trans (by decide) hP) ?_
    | refine kept_updEng (sub_trans (by decide) hP) ?_
    | refine optKeeps_map (fun _ => ?_)
    | split
  all_goals try (with_reducible refine keeps_with_t3 (sub_trans (by decide) hP) ?_ (fun q => by first | exact q | exact wf_memPuts _ _ q | exact wf_memZero _ _ q | exact wf_filter _ q))
  all_goals with_reducible repeat' first
    | assumption
    | refine keeps_ite ?_ ?_
    | refine kept_disownReads (sub_trans (by decide) hP) ?_
    | refine kept_remark (sub_trans (by decide) hP) ?_
    | refine kept_updEng (sub_trans (by decide) hP) ?_
    | refine optKeeps_map (fun _ => ?_)
    | split

end Sys2Proof.Machine
end

