-- ==== Sys2Proof/Laws/PltOps.lean ====
section
/-! SUPPORT. For each operation of Machine/PltOps.lean, which parts of the state it may change: `kept_f` says that `f` keeps
everything but the parts listed in its first hypothesis, from any state that the states it is given were kept from. -/

namespace Sys2Proof.Machine

theorem kept_updPlt {P : List Part} {base : State} {f : Plotre → Plotre} {s : State} (hP : sub [.plt] P) (h_s : Keeps P base s) :
    Keeps P base (updPlt f s) := by
  unfold updPlt
  try dsimp only
  with_reducible repeat' first
    | assumption
    | refine keeps_ite ?_ ?_
    | split
  all_goals try (with_reducible refine keeps_with_plt (sub_trans (by decide) hP) ?_)
  all_goals with_reducible repeat' first
    | assumption
    | refine keeps_ite ?_ ?_
    | split

theorem kept_updPort {P : List Part} {base : State} {p : Nat} {f : Port → Port} {s : State} (hP : sub [.plt] P) (h_s : Keeps P base s) :
    Keeps P base (updPort p f s) := by
  unfold updPort
  try dsimp only
  with_reducible repeat' first
    | assumption
    | refine keeps_ite ?_ ?_
    | refine kept_updPlt (sub_trans (by decide) hP) ?_
    | split

theorem kept_freeCredit {P : List Part} {base : State} {k : Nat} {p : Packet} {s : State} (hP : sub [.plt] P) (h_s : Keeps P base s) :
    Keeps P base (freeCredit k p s) := by
  unfold freeCredit
  try dsimp only
  with_reducible repeat' first
    | assumption
    | refine keeps_ite ?_ ?_
    | refine kept_updPort (sub_trans (by decide) hP) ?_
    | split

theorem kept_updLease {P : List Part} {base : State} {i : Nat} {f : Lease → Lease} {s : State} (hP : sub [.plt] P) (h_s : Keeps P base s) :
    Keeps P base (updLease i f s) := by
  unfold updLease
  try dsimp only
  with_reducible repeat' first
    | assumption
    | refine keeps_ite ?_ ?_
    | refine kept_updPlt (sub_trans (by decide) hP) ?_
    | split

theorem kept_queuePacket {P : List Part} {base : State} {k : Nat} {p : Packet} {s : State} (hP : sub [.fabQ] P) (h_s : Keeps P base s) :
    Keeps P base (queuePacket k p s) := by
  unfold queuePacket
  try dsimp only
  with_reducible repeat' first
    | assumption
    | refine keeps_ite ?_ ?_
    | split
  all_goals try (with_reducible refine keeps_with_fabQ (sub_trans (by decide) hP) ?_)
  all_goals with_reducible repeat' first
    | assumption
    | refine keeps_ite ?_ ?_
    | split

theorem kept_setLeaseState {P : List Part} {base : State} {i : Nat} {v : Nat} {s : State} (hP : sub [.ctl] P) (h_s : Keeps P base s) :
    Keeps P base (setLeaseState i v s) := by
  unfold setLeaseState
  try dsimp only
  with_reducible repeat' first
    | assumption
    | refine keeps_ite ?_ ?_
    | refine kept_setFld (sub_trans (by decide) hP) ?_
    | split

theorem kept_setPortState {P : List Part} {base : State} {p : Nat} {v : Nat} {s : State} (hP : sub [.ctl] P) (h_s : Keeps P base s) :
    Keeps P base (setPortState p v s) := by
  unfold setPortState
  try dsimp only
  with_reducible repeat' first
    | assumption
    | refine keeps_ite ?_ ?_
    | refine kept_setFld (sub_trans (by decide) hP) ?_
    | split

theorem kept_updColl {P : List Part} {base : State} {c : Nat} {f : Coll → Coll} {s : State} (hP : sub [.plt] P) (h_s : Keeps P base s) :
    Keeps P base (updColl c f s) := by
  unfold updColl
  try dsimp only
  with_reducible repeat' first
    | assumption
    | refine keeps_ite ?_ ?_
    | refine kept_updPlt (sub_trans (by decide) hP) ?_
    | split

theorem kept_dropHeld {P : List Part} {base : State} {p : Nat} {s : State} (hP : sub [.plt, .fabQ] P) (h_s : Keeps P base s) :
    Keeps P base (dropHeld p s) := by
  unfold dropHeld
  try dsimp only
  with_reducible repeat' first
    | assumption
    | refine keeps_ite ?_ ?_
    | refine kept_updPlt (sub_trans (by decide) hP) ?_
    | refine optKeeps_map (fun _ => ?_)
    | split
  all_goals try (with_reducible refine keeps_with_fabQ (sub_trans (by decide) hP) ?_)
  all_goals with_reducible repeat' first
    | assumption
    | refine keeps_ite ?_ ?_
    | refine kept_updPlt (sub_trans (by decide) hP) ?_
    | refine optKeeps_map (fun _ => ?_)
    | split
  all_goals try (with_reducible refine keeps_with_fabQ (sub_trans (by decide) hP) ?_)
  all_goals with_reducible repeat' first
    | assumption
    | refine keeps_ite ?_ ?_
    | refine kept_updPlt (sub_trans (by decide) hP) ?_
    | refine optKeeps_map (fun _ => ?_)
    | split

theorem kept_portDiscard {P : List Part} {base : State} {p : Nat} {s : State} (hP : sub [.ctl, .plt, .fabQ] P) (h_s : Keeps P base s) :
    Keeps P base (portDiscard p s) := by
  unfold portDiscard
  try dsimp only
  with_reducible repeat' first
    | assumption
    | refine keeps_ite ?_ ?_
    | refine kept_bump (sub_trans (by decide) hP) ?_
    | refine kept_dropHeld (sub_trans (by decide) hP) ?_
    | refine kept_updPort (sub_trans (by decide) hP) ?_
    | refine optKeeps_map (fun _ => ?_)
    | split

theorem kept_portStop {P : List Part} {base : State} {p : Nat} {st : Nat} {s : State} (hP : sub [.ctl, .ev, .plt, .fabQ] P) (h_s : Keeps P base s) :
    Keeps P base (portStop p st s) := by
  unfold portStop
  try dsimp only
  with_reducible repeat' first
    | assumption
    | refine keeps_ite ?_ ?_
    | refine kept_portDiscard (sub_trans (by decide) hP) ?_
    | refine kept_qosRefresh (sub_trans (by decide) hP) ?_
    | refine kept_setFld (sub_trans (by decide) hP) ?_
    | refine kept_setPortState (sub_trans (by decide) hP) ?_
    | split

theorem kept_replyTo {P : List Part} {base : State} {k : Nat} {q : Packet} {type : Nat} {fn : Nat} {payload : List Byte} {s : State} (hP : sub [.plt, .fabQ] P) (h_s : Keeps P base s) :
    Keeps P base (replyTo k q type fn payload s) := by
  unfold replyTo
  try dsimp only
  with_reducible repeat' first
    | assumption
    | refine keeps_ite ?_ ?_
    | refine kept_queuePacket (sub_trans (by decide) hP) ?_
    | refine kept_updPlt (sub_trans (by decide) hP) ?_
    | split

theorem kept_injectSome {P : List Part} {base : State} {p : Nat} {rate : Nat} {n : Nat} {s : State} (hP : sub [.free, .ctl] P) (h_s : Keeps P base s) :
    Keeps P base (injectSome p rate n s) := by
  unfold injectSome
  try dsimp only
  with_reducible repeat' first
    | assumption
    | refine keeps_ite ?_ ?_
    | refine pairKeeps_ite ?_ ?_
    | refine snd_of ?_
    | refine kept_bump (sub_trans (by decide) hP) ?_
    | refine kept_freshBool (sub_trans (by decide) hP) ?_
    | refine keeps_foldl _ (fun _ _ _ => ?_) ?_
    | refine keeps_foldlP _ (fun _ _ _ => ?_) ?_
    | refine tripleKeeps_foldl _ (fun _ _ _ => ?_) ?_
    | refine objStepKeeps_foldl _ (fun _ _ _ => ?_) ?_
    | refine of_pair ?_ (by assumption)
    | split
    | refine keeps_pair ?_

theorem kept_portEvent {P : List Part} {base : State} {p : Nat} {s : State} (hP : sub [.ctl, .ev] P) (h_s : Keeps P base s) :
    Keeps P base (portEvent p s) := by
  unfold portEvent
  try dsimp only
  with_reducible repeat' first
    | assumption
    | refine keeps_ite ?_ ?_
    | refine kept_event (sub_trans (by decide) hP) ?_
    | split

theorem kept_leaseUnreach {P : List Part} {base : State} {i : Nat} {s : State} (hP : sub [.ctl, .ev, .plt] P) (h_s : Keeps P base s) :
    Keeps P base (leaseUnreach i s) := by
  unfold leaseUnreach
  try dsimp only
  with_reducible repeat' first
    | assumption
    | refine keeps_ite ?_ ?_
    | refine kept_event (sub_trans (by decide) hP) ?_
    | refine kept_setLeaseState (sub_trans (by decide) hP) ?_
    | refine kept_updLease (sub_trans (by decide) hP) ?_
    | split

theorem kept_injectFlits {P : List Part} {base : State} {p : Nat} {n : Nat} {s : State} (hP : sub [.free, .ctl] P) (h_s : Keeps P base s) :
    Keeps P base (injectFlits p n s) := by
  unfold injectFlits
  try dsimp only
  with_reducible repeat' first
    | assumption
    | refine keeps_ite ?_ ?_
    | refine kept_injectSome (sub_trans (by decide) hP) ?_
    | split

theorem kept_emitPacket {P : List Part} {base : State} {port : Nat} {p : Packet} {s : State} (hP : sub [.free, .ctl, .plt, .out] P) (h_s : Keeps P base s) :
    Keeps P base (emitPacket port p s) := by
  unfold emitPacket
  try dsimp only
  with_reducible repeat' first
    | assumption
    | refine keeps_ite ?_ ?_
    | refine kept_bump (sub_trans (by decide) hP) ?_
    | refine kept_injectFlits (sub_trans (by decide) hP) ?_
    | refine kept_send (sub_trans (by decide) hP) ?_
    | refine kept_updPlt (sub_trans (by decide) hP) ?_
    | refine kept_updPort (sub_trans (by decide) hP) ?_
    | refine optKeeps_map (fun _ => ?_)
    | refine keeps_id ?_
    | split

end Sys2Proof.Machine
end

