-- ==== Sys2Proof/Laws/Plt.lean ====
section
/-! SUPPORT. For each operation of Machine/Plt.lean, which parts of the state it may change: `kept_f` says that `f` keeps
everything but the parts listed in its first hypothesis, from any state that the states it is given were kept from. -/

namespace Sys2Proof.Machine

theorem kept_pltCntClear {P : List Part} {base : State} {who : Who} {s : State} (hP : sub [.ctl, .ev] P) (h_s : Keeps P base s) :
    Keeps P base (pltCntClear who s) := by
  unfold pltCntClear
  try dsimp only
  with_reducible repeat' first
    | assumption
    | refine keeps_ite ?_ ?_
    | refine kept_ignoredWrite (sub_trans (by decide) hP) ?_
    | refine kept_zeroRegs (sub_trans (by decide) hP) ?_
    | split

theorem kept_pltTestCtlWrite {P : List Part} {base : State} {who : Who} {p : Nat} {val : Nat} {s : State} (hP : sub [.ctl, .ev] P) (h_s : Keeps P base s) :
    Keeps P base (pltTestCtlWrite who p val s) := by
  unfold pltTestCtlWrite
  try dsimp only
  with_reducible repeat' first
    | assumption
    | refine keeps_ite ?_ ?_
    | refine kept_event (sub_trans (by decide) hP) ?_
    | refine kept_ignoredWrite (sub_trans (by decide) hP) ?_
    | refine kept_setReg (sub_trans (by decide) hP) ?_
    | split

theorem kept_failRequest {P : List Part} {base : State} {i : Nat} {r : FabReq} {status : Nat} {s : State} (hP : sub [.knc, .engs] P) (h_s : Keeps P base s) :
    Keeps P base (failRequest i r status s) := by
  unfold failRequest
  try dsimp only
  with_reducible repeat' first
    | assumption
    | refine keeps_ite ?_ ?_
    | refine kept_ctxReply (sub_trans (by decide) hP) ?_
    | refine kept_updEng (sub_trans (by decide) hP) ?_
    | split

theorem kept_serveWrite {P : List Part} {base : State} {r : Wr × State} (hP : sub [] P) (h_r : PairKeeps P base r) :
    ServedKeeps P base (serveWrite r) := by
  obtain ⟨o, t⟩ := r
  cases o <;> first | exact keeps_reply h_r | exact keeps_nack h_r | exact keeps_later h_r

theorem kept_withArrival {P : List Part} {base : State} {plane : Nat} {type : Nat} {f : Nat → Packet → State → State} {s : State} (hP : sub [.plt] P) (h_f : ∀ x0 x1 x2, Keeps P base x2 → Keeps P base (f x0 x1 x2)) (h_s : Keeps P base s) :
    Keeps P base (withArrival plane type f s) := by
  unfold withArrival
  try dsimp only
  with_reducible repeat' first
    | assumption
    | refine keeps_ite ?_ ?_
    | refine kept_freeCredit (sub_trans (by decide) hP) ?_
    | refine kept_updPlt (sub_trans (by decide) hP) ?_
    | refine h_f _ _ _ ?_
    | split

theorem kept_withReply {P : List Part} {base : State} {plane : Nat} {type : Nat} {f : Nat → FabReq → Packet → State → State} {s : State} (hP : sub [.ctl, .plt, .tags] P) (h_f : ∀ x0 x1 x2 x3, Keeps P base x3 → Keeps P base (f x0 x1 x2 x3)) (h_s : Keeps P base s) :
    Keeps P base (withReply plane type f s) := by
  unfold withReply
  try dsimp only
  with_reducible repeat' first
    | assumption
    | refine keeps_ite ?_ ?_
    | refine kept_bump (sub_trans (by decide) hP) ?_
    | refine kept_freeSlot (sub_trans (by decide) hP) ?_
    | refine kept_withArrival (sub_trans (by decide) hP) (fun _ _ _ _ => ?_) ?_
    | refine h_f _ _ _ _ ?_
    | split

theorem kept_lenderServe {P : List Part} {base : State} {plane : Nat} {type : Nat} {write : Bool} {f : Waiter → Packet → Nat → State → Served} {s : State} (hP : sub [.ctl, .ms, .plt, .fabQ] P) (h_f : ∀ x0 x1 x2 x3, Keeps P base x3 → ServedKeeps P base (f x0 x1 x2 x3)) (h_s : Keeps P base s) :
    Keeps P base (lenderServe plane type write f s) := by
  unfold lenderServe
  try dsimp only
  with_reducible repeat' first
    | assumption
    | refine keeps_ite ?_ ?_
    | refine kept_bump (sub_trans (by decide) hP) ?_
    | refine kept_clearFailed (sub_trans (by decide) hP) ?_
    | refine kept_freeCredit (sub_trans (by decide) hP) ?_
    | refine kept_replyTo (sub_trans (by decide) hP) ?_
    | refine kept_updPlt (sub_trans (by decide) hP) ?_
    | refine h_f _ _ _ _ ?_
    | refine of_reply ?_ (by assumption)
    | refine of_nack ?_ (by assumption)
    | refine of_later ?_ (by assumption)
    | split

theorem kept_handReply {P : List Part} {base : State} {i : Nat} {r : FabReq} {q : Packet} {s : State} (hP : sub [.knc, .engs] P) (h_s : Keeps P base s) :
    Keeps P base (handReply i r q s) := by
  unfold handReply
  try dsimp only
  with_reducible repeat' first
    | assumption
    | refine keeps_ite ?_ ?_
    | refine kept_ctxReply (sub_trans (by decide) hP) ?_
    | refine kept_updEng (sub_trans (by decide) hP) ?_
    | split

theorem kept_serveRead {P : List Part} {base : State} {type : Nat} {r : Rd × State} (hP : sub [] P) (h_r : PairKeeps P base r) :
    ServedKeeps P base (serveRead type r) := by
  obtain ⟨o, t⟩ := r
  cases o <;> first | exact keeps_reply h_r | exact keeps_nack h_r | exact keeps_later h_r

end Sys2Proof.Machine
end

