-- ==== Sys2Proof/Laws/Coll.lean ====
section
/-! SUPPORT. For each operation of Machine/Coll.lean, which parts of the state it may change: `kept_f` says that `f` keeps
everything but the parts listed in its first hypothesis, from any state that the states it is given were kept from. -/

namespace Sys2Proof.Machine

theorem kept_collEnd {P : List Part} {base : State} {c : Nat} {st : Nat} {status : Nat} {s : State} (hP : sub [.ctl, .mem, .ev, .ms, .mxes, .plt, .persist] P) (h_s : Keeps P base s) :
    Keeps P base (collEnd c st status s) := by
  unfold collEnd
  try dsimp only
  with_reducible repeat' first
    | assumption
    | refine keeps_ite ?_ ?_
    | refine kept_poke (sub_trans (by decide) hP) ?_
    | refine kept_setFld (sub_trans (by decide) hP) ?_
    | refine kept_updColl (sub_trans (by decide) hP) ?_
    | split

theorem kept_collFail {P : List Part} {base : State} {c : Nat} {status : Nat} {tell : List Nat} {s : State} (hP : sub [.ctl, .mem, .ev, .ms, .mxes, .plt, .fabQ, .persist] P) (h_s : Keeps P base s) :
    Keeps P base (collFail c status tell s) := by
  unfold collFail
  try dsimp only
  with_reducible repeat' first
    | assumption
    | refine keeps_ite ?_ ?_
    | refine kept_bump (sub_trans (by decide) hP) ?_
    | refine kept_collEnd (sub_trans (by decide) hP) ?_
    | refine kept_event (sub_trans (by decide) hP) ?_
    | refine kept_queuePacket (sub_trans (by decide) hP) ?_
    | refine keeps_foldl _ (fun _ _ _ => ?_) ?_
    | refine keeps_foldlP _ (fun _ _ _ => ?_) ?_
    | refine tripleKeeps_foldl _ (fun _ _ _ => ?_) ?_
    | refine objStepKeeps_foldl _ (fun _ _ _ => ?_) ?_
    | split

theorem kept_collCheck {P : List Part} {base : State} {s : State} (hP : sub [.ctl, .mem, .ev, .ms, .mxes, .plt, .fabQ, .persist] P) (h_s : Keeps P base s) :
    Keeps P base (collCheck s) := by
  unfold collCheck
  try dsimp only
  with_reducible repeat' first
    | assumption
    | refine keeps_ite ?_ ?_
    | refine kept_collFail (sub_trans (by decide) hP) ?_
    | refine keeps_foldl _ (fun _ _ _ => ?_) ?_
    | refine keeps_foldlP _ (fun _ _ _ => ?_) ?_
    | refine tripleKeeps_foldl _ (fun _ _ _ => ?_) ?_
    | refine objStepKeeps_foldl _ (fun _ _ _ => ?_) ?_
    | split

theorem kept_collResult {P : List Part} {base : State} {c : Nat} {i : Nat} {sat : Bool} {xs : List Int} {s : State} (hP : sub [.ctl, .mem, .ev, .ms, .mxes, .plt, .fabQ, .persist] P) (h_s : Keeps P base s) :
    Keeps P base (collResult c i sat xs s) := by
  unfold collResult
  try dsimp only
  with_reducible repeat' first
    | assumption
    | refine keeps_ite ?_ ?_
    | refine kept_collEnd (sub_trans (by decide) hP) ?_
    | refine kept_poke (sub_trans (by decide) hP) ?_
    | refine kept_queuePacket (sub_trans (by decide) hP) ?_
    | refine kept_setFld (sub_trans (by decide) hP) ?_
    | refine kept_updColl (sub_trans (by decide) hP) ?_
    | refine keeps_foldl _ (fun _ _ _ => ?_) ?_
    | refine keeps_foldlP _ (fun _ _ _ => ?_) ?_
    | refine tripleKeeps_foldl _ (fun _ _ _ => ?_) ?_
    | refine objStepKeeps_foldl _ (fun _ _ _ => ?_) ?_
    | split

theorem kept_collGive {P : List Part} {base : State} {c : Nat} {i : Nat} {who : Nat} {sat : Bool} {xs : List Int} {s : State} (hP : sub [.ctl, .mem, .ev, .ms, .mxes, .plt, .fabQ, .persist] P) (h_s : Keeps P base s) :
    Keeps P base (collGive c i who sat xs s) := by
  unfold collGive
  try dsimp only
  with_reducible repeat' first
    | assumption
    | refine keeps_ite ?_ ?_
    | refine kept_collResult (sub_trans (by decide) hP) ?_
    | refine kept_queuePacket (sub_trans (by decide) hP) ?_
    | refine kept_updColl (sub_trans (by decide) hP) ?_
    | split

theorem kept_collFeed {P : List Part} {base : State} {c : Nat} {s : State} (hP : sub [.ctl, .mem, .ev, .ms, .mxes, .plt, .fabQ, .persist] P) (h_s : Keeps P base s) :
    Keeps P base (collFeed c s) := by
  unfold collFeed
  try dsimp only
  with_reducible repeat' first
    | assumption
    | refine keeps_ite ?_ ?_
    | refine pairKeeps_ite ?_ ?_
    | refine snd_of ?_
    | refine kept_collFail (sub_trans (by decide) hP) ?_
    | refine kept_collGive (sub_trans (by decide) hP) ?_
    | refine kept_collResult (sub_trans (by decide) hP) ?_
    | refine kept_readRange (sub_trans (by decide) hP) ?_
    | refine keeps_foldl _ (fun _ _ _ => ?_) ?_
    | refine keeps_foldlP _ (fun _ _ _ => ?_) ?_
    | refine tripleKeeps_foldl _ (fun _ _ _ => ?_) ?_
    | refine objStepKeeps_foldl _ (fun _ _ _ => ?_) ?_
    | refine of_pair ?_ (by assumption)
    | split
    | refine keeps_pair ?_

theorem kept_collTake {P : List Part} {base : State} {c : Nat} {q : Packet} {s : State} (hP : sub [.ctl, .mem, .ev, .ms, .mxes, .plt, .fabQ, .persist] P) (h_s : Keeps P base s) :
    Keeps P base (collTake c q s) := by
  unfold collTake
  try dsimp only
  with_reducible repeat' first
    | assumption
    | refine keeps_ite ?_ ?_
    | refine kept_collFail (sub_trans (by decide) hP) ?_
    | refine kept_collGive (sub_trans (by decide) hP) ?_
    | refine kept_collResult (sub_trans (by decide) hP) ?_
    | split

theorem kept_collGo {P : List Part} {base : State} {c : Nat} {s : State} (hP : sub [.ctl, .mem, .ev, .ms, .mxes, .plt, .fabQ, .persist] P) (h_s : Keeps P base s) :
    Keeps P base (collGo c s) := by
  unfold collGo
  try dsimp only
  with_reducible repeat' first
    | assumption
    | refine keeps_ite ?_ ?_
    | refine kept_collFail (sub_trans (by decide) hP) ?_
    | refine kept_collFeed (sub_trans (by decide) hP) ?_
    | refine kept_collTake (sub_trans (by decide) hP) ?_
    | refine kept_freeCredit (sub_trans (by decide) hP) ?_
    | refine kept_setFld (sub_trans (by decide) hP) ?_
    | refine kept_setReg (sub_trans (by decide) hP) ?_
    | refine kept_updColl (sub_trans (by decide) hP) ?_
    | refine keeps_foldl _ (fun _ _ _ => ?_) ?_
    | refine keeps_foldlP _ (fun _ _ _ => ?_) ?_
    | refine tripleKeeps_foldl _ (fun _ _ _ => ?_) ?_
    | refine objStepKeeps_foldl _ (fun _ _ _ => ?_) ?_
    | split

theorem kept_collCtlWrite {P : List Part} {base : State} {who : Who} {c : Nat} {val : Nat} {s : State} (hP : sub [.ctl, .mem, .ev, .ms, .mxes, .plt, .fabQ, .persist] P) (h_s : Keeps P base s) :
    Keeps P base (collCtlWrite who c val s) := by
  unfold collCtlWrite
  try dsimp only
  with_reducible repeat' first
    | assumption
    | refine keeps_ite ?_ ?_
    | refine kept_collFail (sub_trans (by decide) hP) ?_
    | refine kept_collGo (sub_trans (by decide) hP) ?_
    | refine kept_ignoredWrite (sub_trans (by decide) hP) ?_
    | refine kept_setReg (sub_trans (by decide) hP) ?_
    | split

theorem kept_collRegWrite {P : List Part} {base : State} {who : Who} {c : Nat} {r : Reg} {val : Nat} {s : State} (hP : sub [.ctl, .ev] P) (h_s : Keeps P base s) :
    Keeps P base (collRegWrite who c r val s) := by
  unfold collRegWrite
  try dsimp only
  with_reducible repeat' first
    | assumption
    | refine keeps_ite ?_ ?_
    | refine kept_ignoredWrite (sub_trans (by decide) hP) ?_
    | refine kept_setReg (sub_trans (by decide) hP) ?_
    | split

theorem kept_unroutable {P : List Part} {base : State} {k : Nat} {p : Packet} {s : State} (hP : sub [.ctl, .plt, .fabQ] P) (h_s : Keeps P base s) :
    Keeps P base (unroutable k p s) := by
  unfold unroutable
  try dsimp only
  with_reducible repeat' first
    | assumption
    | refine keeps_ite ?_ ?_
    | refine kept_bump (sub_trans (by decide) hP) ?_
    | refine kept_replyTo (sub_trans (by decide) hP) ?_
    | split

theorem kept_dropUnrouted {P : List Part} {base : State} {k : Nat} {p : Packet} {s : State} (hP : sub [.ctl, .mem, .ev, .ms, .mxes, .plt, .fabQ, .persist] P) (h_s : Keeps P base s) :
    Keeps P base (dropUnrouted k p s) := by
  unfold dropUnrouted
  try dsimp only
  with_reducible repeat' first
    | assumption
    | refine keeps_ite ?_ ?_
    | refine kept_collCheck (sub_trans (by decide) hP) ?_
    | refine kept_freeCredit (sub_trans (by decide) hP) ?_
    | refine kept_unroutable (sub_trans (by decide) hP) ?_
    | split

theorem kept_passOver {P : List Part} {base : State} {out : Nat} {vc : Nat} {input : Nat} {n : Nat} {s : State} (hP : sub [.plt] P) (h_s : Keeps P base s) :
    Keeps P base (passOver out vc input n s) := by
  unfold passOver
  try dsimp only
  with_reducible repeat' first
    | assumption
    | refine keeps_ite ?_ ?_
    | refine kept_updPort (sub_trans (by decide) hP) ?_
    | refine keeps_foldl _ (fun _ _ _ => ?_) ?_
    | refine keeps_foldlP _ (fun _ _ _ => ?_) ?_
    | refine tripleKeeps_foldl _ (fun _ _ _ => ?_) ?_
    | refine objStepKeeps_foldl _ (fun _ _ _ => ?_) ?_
    | split

theorem kept_collArrive {P : List Part} {base : State} {plane : Nat} {type : Nat} {s : State} (hP : sub [.ctl, .mem, .ev, .ms, .mxes, .plt, .fabQ, .persist] P) (h_s : Keeps P base s) :
    Keeps P base (collArrive plane type s) := by
  unfold collArrive
  try dsimp only
  with_reducible repeat' first
    | assumption
    | refine keeps_ite ?_ ?_
    | refine kept_bump (sub_trans (by decide) hP) ?_
    | refine kept_collTake (sub_trans (by decide) hP) ?_
    | refine kept_freeCredit (sub_trans (by decide) hP) ?_
    | refine kept_updColl (sub_trans (by decide) hP) ?_
    | refine kept_updPlt (sub_trans (by decide) hP) ?_
    | split

theorem kept_serveOutput {P : List Part} {base : State} {out : Nat} {s : State} (hP : sub [.free, .ctl, .plt, .fabQ, .out] P) (h_s : Keeps P base s) :
    Keeps P base (serveOutput out s) := by
  unfold serveOutput
  try dsimp only
  with_reducible repeat' first
    | assumption
    | refine keeps_ite ?_ ?_
    | refine kept_bump (sub_trans (by decide) hP) ?_
    | refine kept_emitPacket (sub_trans (by decide) hP) ?_
    | refine kept_freeCredit (sub_trans (by decide) hP) ?_
    | refine kept_passOver (sub_trans (by decide) hP) ?_
    | split
  all_goals try (with_reducible refine keeps_with_fabQ (sub_trans (by decide) hP) ?_)
  all_goals with_reducible repeat' first
    | assumption
    | refine keeps_ite ?_ ?_
    | refine kept_bump (sub_trans (by decide) hP) ?_
    | refine kept_emitPacket (sub_trans (by decide) hP) ?_
    | refine kept_freeCredit (sub_trans (by decide) hP) ?_
    | refine kept_passOver (sub_trans (by decide) hP) ?_
    | split

end Sys2Proof.Machine
end

