-- ==== Sys2Proof/Laws/Maps.lean ====
section
/-! SUPPORT. The laws of the maps: what a read after a write gives, for the key written and for every other key. -/

namespace Sys2Proof.Machine

variable {α : Type}

@[simp] theorem mapFind_mapPut_self (m : SMap α) (k : Nat) (v : α) : mapFind (mapPut m k v) k = some v := by
  induction m with
  | nil => simp [mapPut, mapFind]
  | cons p t ih =>
    obtain ⟨x, w⟩ := p
    unfold mapPut
    split
    · simp [mapFind]
    · split
      · simp [mapFind]
      · rename_i h _
        simp only [mapFind]
        rw [if_neg h]
        exact ih

theorem mapFind_mapPut_ne (m : SMap α) {k j : Nat} (v : α) (h : j ≠ k) : mapFind (mapPut m k v) j = mapFind m j := by
  induction m with
  | nil => simp [mapPut, mapFind, h]
  | cons p t ih =>
    obtain ⟨x, w⟩ := p
    unfold mapPut
    split
    · rename_i e; subst e
      simp [mapFind, h]
    · split
      · simp [mapFind, h]
      · simp only [mapFind]
        split
        · rfl
        · exact ih

theorem mapFind_mapPut (m : SMap α) (k j : Nat) (v : α) :
    mapFind (mapPut m k v) j = if j = k then some v else mapFind m j := by
  split
  · rename_i e; subst e; exact mapFind_mapPut_self ..
  · rename_i e; exact mapFind_mapPut_ne _ _ e

@[simp] theorem mapGet_mapPut_self (m : SMap α) (k : Nat) (v d : α) : mapGet (mapPut m k v) k d = v := by
  simp [mapGet]

theorem mapGet_mapPut_ne (m : SMap α) {k j : Nat} (v d : α) (h : j ≠ k) : mapGet (mapPut m k v) j d = mapGet m j d := by
  simp [mapGet, mapFind_mapPut_ne m v h]

theorem mapGet_mapPut (m : SMap α) (k j : Nat) (v d : α) :
    mapGet (mapPut m k v) j d = if j = k then v else mapGet m j d := by
  split
  · rename_i e; subst e; exact mapGet_mapPut_self ..
  · rename_i e; exact mapGet_mapPut_ne _ _ _ e

end Sys2Proof.Machine
end

