-- ==== Sys2Proof/Laws/State.lean ====
section
/-! SUPPORT. What each basic update of the state does to each field, and what a register reads as after one. -/

namespace Sys2Proof.Machine

variable (s : State)

/-! ### `setReg` -/

@[simp] theorem setReg_pending (r : Reg) (v : Nat) : (setReg r v s).pending = s.pending := rfl
@[simp] theorem setReg_nclk (r : Reg) (v : Nat) : (setReg r v s).nclk = s.nclk := rfl
@[simp] theorem setReg_free (r : Reg) (v : Nat) : (setReg r v s).free = s.free := rfl
@[simp] theorem setReg_ctl (r : Reg) (v : Nat) : (setReg r v s).ctl = mapPut s.ctl r.off (BitVec.ofNat 64 v) := rfl
@[simp] theorem setReg_locks (r : Reg) (v : Nat) : (setReg r v s).locks = s.locks := rfl
@[simp] theorem setReg_latch (r : Reg) (v : Nat) : (setReg r v s).latch = s.latch := rfl
@[simp] theorem setReg_mem (r : Reg) (v : Nat) : (setReg r v s).mem = s.mem := rfl
@[simp] theorem setReg_ev (r : Reg) (v : Nat) : (setReg r v s).ev = s.ev := rfl
@[simp] theorem setReg_seams (r : Reg) (v : Nat) : (setReg r v s).seams = s.seams := rfl
@[simp] theorem setReg_ms (r : Reg) (v : Nat) : (setReg r v s).ms = s.ms := rfl
@[simp] theorem setReg_t3 (r : Reg) (v : Nat) : (setReg r v s).t3 = s.t3 := rfl
@[simp] theorem setReg_mxes (r : Reg) (v : Nat) : (setReg r v s).mxes = s.mxes := rfl
@[simp] theorem setReg_slots (r : Reg) (v : Nat) : (setReg r v s).slots = s.slots := rfl
@[simp] theorem setReg_refetch (r : Reg) (v : Nat) : (setReg r v s).refetch = s.refetch := rfl
@[simp] theorem setReg_semNow (r : Reg) (v : Nat) : (setReg r v s).semNow = s.semNow := rfl
@[simp] theorem setReg_qos (r : Reg) (v : Nat) : (setReg r v s).qos = s.qos := rfl
@[simp] theorem setReg_knc (r : Reg) (v : Nat) : (setReg r v s).knc = s.knc := rfl
@[simp] theorem setReg_cores (r : Reg) (v : Nat) : (setReg r v s).cores = s.cores := rfl
@[simp] theorem setReg_hp0 (r : Reg) (v : Nat) : (setReg r v s).hp0 = s.hp0 := rfl
@[simp] theorem setReg_engs (r : Reg) (v : Nat) : (setReg r v s).engs = s.engs := rfl
@[simp] theorem setReg_pool (r : Reg) (v : Nat) : (setReg r v s).pool = s.pool := rfl
@[simp] theorem setReg_plt (r : Reg) (v : Nat) : (setReg r v s).plt = s.plt := rfl
@[simp] theorem setReg_tags (r : Reg) (v : Nat) : (setReg r v s).tags = s.tags := rfl
@[simp] theorem setReg_fabQ (r : Reg) (v : Nat) : (setReg r v s).fabQ = s.fabQ := rfl
@[simp] theorem setReg_mgmt (r : Reg) (v : Nat) : (setReg r v s).mgmt = s.mgmt := rfl
@[simp] theorem setReg_persist (r : Reg) (v : Nat) : (setReg r v s).persist = s.persist := rfl
@[simp] theorem setReg_out (r : Reg) (v : Nat) : (setReg r v s).out = s.out := rfl

/-! ### `setFld` -/

@[simp] theorem setFld_pending (r : Reg) (f : Fld) (v : Nat) : (setFld r f v s).pending = s.pending := rfl
@[simp] theorem setFld_nclk (r : Reg) (f : Fld) (v : Nat) : (setFld r f v s).nclk = s.nclk := rfl
@[simp] theorem setFld_free (r : Reg) (f : Fld) (v : Nat) : (setFld r f v s).free = s.free := rfl
@[simp] theorem setFld_ctl (r : Reg) (f : Fld) (v : Nat) : (setFld r f v s).ctl = mapPut s.ctl r.off (BitVec.ofNat 64 (setBits (s.reg r) f.hi f.lo v)) := rfl
@[simp] theorem setFld_locks (r : Reg) (f : Fld) (v : Nat) : (setFld r f v s).locks = s.locks := rfl
@[simp] theorem setFld_latch (r : Reg) (f : Fld) (v : Nat) : (setFld r f v s).latch = s.latch := rfl
@[simp] theorem setFld_mem (r : Reg) (f : Fld) (v : Nat) : (setFld r f v s).mem = s.mem := rfl
@[simp] theorem setFld_ev (r : Reg) (f : Fld) (v : Nat) : (setFld r f v s).ev = s.ev := rfl
@[simp] theorem setFld_seams (r : Reg) (f : Fld) (v : Nat) : (setFld r f v s).seams = s.seams := rfl
@[simp] theorem setFld_ms (r : Reg) (f : Fld) (v : Nat) : (setFld r f v s).ms = s.ms := rfl
@[simp] theorem setFld_t3 (r : Reg) (f : Fld) (v : Nat) : (setFld r f v s).t3 = s.t3 := rfl
@[simp] theorem setFld_mxes (r : Reg) (f : Fld) (v : Nat) : (setFld r f v s).mxes = s.mxes := rfl
@[simp] theorem setFld_slots (r : Reg) (f : Fld) (v : Nat) : (setFld r f v s).slots = s.slots := rfl
@[simp] theorem setFld_refetch (r : Reg) (f : Fld) (v : Nat) : (setFld r f v s).refetch = s.refetch := rfl
@[simp] theorem setFld_semNow (r : Reg) (f : Fld) (v : Nat) : (setFld r f v s).semNow = s.semNow := rfl
@[simp] theorem setFld_qos (r : Reg) (f : Fld) (v : Nat) : (setFld r f v s).qos = s.qos := rfl
@[simp] theorem setFld_knc (r : Reg) (f : Fld) (v : Nat) : (setFld r f v s).knc = s.knc := rfl
@[simp] theorem setFld_cores (r : Reg) (f : Fld) (v : Nat) : (setFld r f v s).cores = s.cores := rfl
@[simp] theorem setFld_hp0 (r : Reg) (f : Fld) (v : Nat) : (setFld r f v s).hp0 = s.hp0 := rfl
@[simp] theorem setFld_engs (r : Reg) (f : Fld) (v : Nat) : (setFld r f v s).engs = s.engs := rfl
@[simp] theorem setFld_pool (r : Reg) (f : Fld) (v : Nat) : (setFld r f v s).pool = s.pool := rfl
@[simp] theorem setFld_plt (r : Reg) (f : Fld) (v : Nat) : (setFld r f v s).plt = s.plt := rfl
@[simp] theorem setFld_tags (r : Reg) (f : Fld) (v : Nat) : (setFld r f v s).tags = s.tags := rfl
@[simp] theorem setFld_fabQ (r : Reg) (f : Fld) (v : Nat) : (setFld r f v s).fabQ = s.fabQ := rfl
@[simp] theorem setFld_mgmt (r : Reg) (f : Fld) (v : Nat) : (setFld r f v s).mgmt = s.mgmt := rfl
@[simp] theorem setFld_persist (r : Reg) (f : Fld) (v : Nat) : (setFld r f v s).persist = s.persist := rfl
@[simp] theorem setFld_out (r : Reg) (f : Fld) (v : Nat) : (setFld r f v s).out = s.out := rfl

/-! ### `bump` -/

@[simp] theorem bump_pending (r : Reg) (n : Nat) : (bump r n s).pending = s.pending := rfl
@[simp] theorem bump_nclk (r : Reg) (n : Nat) : (bump r n s).nclk = s.nclk := rfl
@[simp] theorem bump_free (r : Reg) (n : Nat) : (bump r n s).free = s.free := rfl
@[simp] theorem bump_ctl (r : Reg) (n : Nat) : (bump r n s).ctl = mapPut s.ctl r.off (BitVec.ofNat 64 (min counterMax (s.reg r + n))) := rfl
@[simp] theorem bump_locks (r : Reg) (n : Nat) : (bump r n s).locks = s.locks := rfl
@[simp] theorem bump_latch (r : Reg) (n : Nat) : (bump r n s).latch = s.latch := rfl
@[simp] theorem bump_mem (r : Reg) (n : Nat) : (bump r n s).mem = s.mem := rfl
@[simp] theorem bump_ev (r : Reg) (n : Nat) : (bump r n s).ev = s.ev := rfl
@[simp] theorem bump_seams (r : Reg) (n : Nat) : (bump r n s).seams = s.seams := rfl
@[simp] theorem bump_ms (r : Reg) (n : Nat) : (bump r n s).ms = s.ms := rfl
@[simp] theorem bump_t3 (r : Reg) (n : Nat) : (bump r n s).t3 = s.t3 := rfl
@[simp] theorem bump_mxes (r : Reg) (n : Nat) : (bump r n s).mxes = s.mxes := rfl
@[simp] theorem bump_slots (r : Reg) (n : Nat) : (bump r n s).slots = s.slots := rfl
@[simp] theorem bump_refetch (r : Reg) (n : Nat) : (bump r n s).refetch = s.refetch := rfl
@[simp] theorem bump_semNow (r : Reg) (n : Nat) : (bump r n s).semNow = s.semNow := rfl
@[simp] theorem bump_qos (r : Reg) (n : Nat) : (bump r n s).qos = s.qos := rfl
@[simp] theorem bump_knc (r : Reg) (n : Nat) : (bump r n s).knc = s.knc := rfl
@[simp] theorem bump_cores (r : Reg) (n : Nat) : (bump r n s).cores = s.cores := rfl
@[simp] theorem bump_hp0 (r : Reg) (n : Nat) : (bump r n s).hp0 = s.hp0 := rfl
@[simp] theorem bump_engs (r : Reg) (n : Nat) : (bump r n s).engs = s.engs := rfl
@[simp] theorem bump_pool (r : Reg) (n : Nat) : (bump r n s).pool = s.pool := rfl
@[simp] theorem bump_plt (r : Reg) (n : Nat) : (bump r n s).plt = s.plt := rfl
@[simp] theorem bump_tags (r : Reg) (n : Nat) : (bump r n s).tags = s.tags := rfl
@[simp] theorem bump_fabQ (r : Reg) (n : Nat) : (bump r n s).fabQ = s.fabQ := rfl
@[simp] theorem bump_mgmt (r : Reg) (n : Nat) : (bump r n s).mgmt = s.mgmt := rfl
@[simp] theorem bump_persist (r : Reg) (n : Nat) : (bump r n s).persist = s.persist := rfl
@[simp] theorem bump_out (r : Reg) (n : Nat) : (bump r n s).out = s.out := rfl

/-! ### `updEv` -/

@[simp] theorem updEv_pending (f : Recorder → Recorder) : (updEv f s).pending = s.pending := rfl
@[simp] theorem updEv_nclk (f : Recorder → Recorder) : (updEv f s).nclk = s.nclk := rfl
@[simp] theorem updEv_free (f : Recorder → Recorder) : (updEv f s).free = s.free := rfl
@[simp] theorem updEv_ctl (f : Recorder → Recorder) : (updEv f s).ctl = s.ctl := rfl
@[simp] theorem updEv_locks (f : Recorder → Recorder) : (updEv f s).locks = s.locks := rfl
@[simp] theorem updEv_latch (f : Recorder → Recorder) : (updEv f s).latch = s.latch := rfl
@[simp] theorem updEv_mem (f : Recorder → Recorder) : (updEv f s).mem = s.mem := rfl
@[simp] theorem updEv_ev (f : Recorder → Recorder) : (updEv f s).ev = f s.ev := rfl
@[simp] theorem updEv_seams (f : Recorder → Recorder) : (updEv f s).seams = s.seams := rfl
@[simp] theorem updEv_ms (f : Recorder → Recorder) : (updEv f s).ms = s.ms := rfl
@[simp] theorem updEv_t3 (f : Recorder → Recorder) : (updEv f s).t3 = s.t3 := rfl
@[simp] theorem updEv_mxes (f : Recorder → Recorder) : (updEv f s).mxes = s.mxes := rfl
@[simp] theorem updEv_slots (f : Recorder → Recorder) : (updEv f s).slots = s.slots := rfl
@[simp] theorem updEv_refetch (f : Recorder → Recorder) : (updEv f s).refetch = s.refetch := rfl
@[simp] theorem updEv_semNow (f : Recorder → Recorder) : (updEv f s).semNow = s.semNow := rfl
@[simp] theorem updEv_qos (f : Recorder → Recorder) : (updEv f s).qos = s.qos := rfl
@[simp] theorem updEv_knc (f : Recorder → Recorder) : (updEv f s).knc = s.knc := rfl
@[simp] theorem updEv_cores (f : Recorder → Recorder) : (updEv f s).cores = s.cores := rfl
@[simp] theorem updEv_hp0 (f : Recorder → Recorder) : (updEv f s).hp0 = s.hp0 := rfl
@[simp] theorem updEv_engs (f : Recorder → Recorder) : (updEv f s).engs = s.engs := rfl
@[simp] theorem updEv_pool (f : Recorder → Recorder) : (updEv f s).pool = s.pool := rfl
@[simp] theorem updEv_plt (f : Recorder → Recorder) : (updEv f s).plt = s.plt := rfl
@[simp] theorem updEv_tags (f : Recorder → Recorder) : (updEv f s).tags = s.tags := rfl
@[simp] theorem updEv_fabQ (f : Recorder → Recorder) : (updEv f s).fabQ = s.fabQ := rfl
@[simp] theorem updEv_mgmt (f : Recorder → Recorder) : (updEv f s).mgmt = s.mgmt := rfl
@[simp] theorem updEv_persist (f : Recorder → Recorder) : (updEv f s).persist = s.persist := rfl
@[simp] theorem updEv_out (f : Recorder → Recorder) : (updEv f s).out = s.out := rfl

/-! ### `updSeams` -/

@[simp] theorem updSeams_pending (f : Seams → Seams) : (updSeams f s).pending = s.pending := rfl
@[simp] theorem updSeams_nclk (f : Seams → Seams) : (updSeams f s).nclk = s.nclk := rfl
@[simp] theorem updSeams_free (f : Seams → Seams) : (updSeams f s).free = s.free := rfl
@[simp] theorem updSeams_ctl (f : Seams → Seams) : (updSeams f s).ctl = s.ctl := rfl
@[simp] theorem updSeams_locks (f : Seams → Seams) : (updSeams f s).locks = s.locks := rfl
@[simp] theorem updSeams_latch (f : Seams → Seams) : (updSeams f s).latch = s.latch := rfl
@[simp] theorem updSeams_mem (f : Seams → Seams) : (updSeams f s).mem = s.mem := rfl
@[simp] theorem updSeams_ev (f : Seams → Seams) : (updSeams f s).ev = s.ev := rfl
@[simp] theorem updSeams_seams (f : Seams → Seams) : (updSeams f s).seams = f s.seams := rfl
@[simp] theorem updSeams_ms (f : Seams → Seams) : (updSeams f s).ms = s.ms := rfl
@[simp] theorem updSeams_t3 (f : Seams → Seams) : (updSeams f s).t3 = s.t3 := rfl
@[simp] theorem updSeams_mxes (f : Seams → Seams) : (updSeams f s).mxes = s.mxes := rfl
@[simp] theorem updSeams_slots (f : Seams → Seams) : (updSeams f s).slots = s.slots := rfl
@[simp] theorem updSeams_refetch (f : Seams → Seams) : (updSeams f s).refetch = s.refetch := rfl
@[simp] theorem updSeams_semNow (f : Seams → Seams) : (updSeams f s).semNow = s.semNow := rfl
@[simp] theorem updSeams_qos (f : Seams → Seams) : (updSeams f s).qos = s.qos := rfl
@[simp] theorem updSeams_knc (f : Seams → Seams) : (updSeams f s).knc = s.knc := rfl
@[simp] theorem updSeams_cores (f : Seams → Seams) : (updSeams f s).cores = s.cores := rfl
@[simp] theorem updSeams_hp0 (f : Seams → Seams) : (updSeams f s).hp0 = s.hp0 := rfl
@[simp] theorem updSeams_engs (f : Seams → Seams) : (updSeams f s).engs = s.engs := rfl
@[simp] theorem updSeams_pool (f : Seams → Seams) : (updSeams f s).pool = s.pool := rfl
@[simp] theorem updSeams_plt (f : Seams → Seams) : (updSeams f s).plt = s.plt := rfl
@[simp] theorem updSeams_tags (f : Seams → Seams) : (updSeams f s).tags = s.tags := rfl
@[simp] theorem updSeams_fabQ (f : Seams → Seams) : (updSeams f s).fabQ = s.fabQ := rfl
@[simp] theorem updSeams_mgmt (f : Seams → Seams) : (updSeams f s).mgmt = s.mgmt := rfl
@[simp] theorem updSeams_persist (f : Seams → Seams) : (updSeams f s).persist = s.persist := rfl
@[simp] theorem updSeams_out (f : Seams → Seams) : (updSeams f s).out = s.out := rfl

/-! ### `setMx` -/

@[simp] theorem setMx_pending (m : Nat) (x : Mxe) : (setMx m x s).pending = s.pending := rfl
@[simp] theorem setMx_nclk (m : Nat) (x : Mxe) : (setMx m x s).nclk = s.nclk := rfl
@[simp] theorem setMx_free (m : Nat) (x : Mxe) : (setMx m x s).free = s.free := rfl
@[simp] theorem setMx_ctl (m : Nat) (x : Mxe) : (setMx m x s).ctl = s.ctl := rfl
@[simp] theorem setMx_locks (m : Nat) (x : Mxe) : (setMx m x s).locks = s.locks := rfl
@[simp] theorem setMx_latch (m : Nat) (x : Mxe) : (setMx m x s).latch = s.latch := rfl
@[simp] theorem setMx_mem (m : Nat) (x : Mxe) : (setMx m x s).mem = s.mem := rfl
@[simp] theorem setMx_ev (m : Nat) (x : Mxe) : (setMx m x s).ev = s.ev := rfl
@[simp] theorem setMx_seams (m : Nat) (x : Mxe) : (setMx m x s).seams = s.seams := rfl
@[simp] theorem setMx_ms (m : Nat) (x : Mxe) : (setMx m x s).ms = s.ms := rfl
@[simp] theorem setMx_t3 (m : Nat) (x : Mxe) : (setMx m x s).t3 = s.t3 := rfl
@[simp] theorem setMx_mxes (m : Nat) (x : Mxe) : (setMx m x s).mxes = mapPut s.mxes m x := rfl
@[simp] theorem setMx_slots (m : Nat) (x : Mxe) : (setMx m x s).slots = s.slots := rfl
@[simp] theorem setMx_refetch (m : Nat) (x : Mxe) : (setMx m x s).refetch = s.refetch := rfl
@[simp] theorem setMx_semNow (m : Nat) (x : Mxe) : (setMx m x s).semNow = s.semNow := rfl
@[simp] theorem setMx_qos (m : Nat) (x : Mxe) : (setMx m x s).qos = s.qos := rfl
@[simp] theorem setMx_knc (m : Nat) (x : Mxe) : (setMx m x s).knc = s.knc := rfl
@[simp] theorem setMx_cores (m : Nat) (x : Mxe) : (setMx m x s).cores = s.cores := rfl
@[simp] theorem setMx_hp0 (m : Nat) (x : Mxe) : (setMx m x s).hp0 = s.hp0 := rfl
@[simp] theorem setMx_engs (m : Nat) (x : Mxe) : (setMx m x s).engs = s.engs := rfl
@[simp] theorem setMx_pool (m : Nat) (x : Mxe) : (setMx m x s).pool = s.pool := rfl
@[simp] theorem setMx_plt (m : Nat) (x : Mxe) : (setMx m x s).plt = s.plt := rfl
@[simp] theorem setMx_tags (m : Nat) (x : Mxe) : (setMx m x s).tags = s.tags := rfl
@[simp] theorem setMx_fabQ (m : Nat) (x : Mxe) : (setMx m x s).fabQ = s.fabQ := rfl
@[simp] theorem setMx_mgmt (m : Nat) (x : Mxe) : (setMx m x s).mgmt = s.mgmt := rfl
@[simp] theorem setMx_persist (m : Nat) (x : Mxe) : (setMx m x s).persist = s.persist := rfl
@[simp] theorem setMx_out (m : Nat) (x : Mxe) : (setMx m x s).out = s.out := rfl

/-! ### `updQ` -/

@[simp] theorem updQ_pending (m q : Nat) (f : MQueue → MQueue) : (updQ m q f s).pending = s.pending := rfl
@[simp] theorem updQ_nclk (m q : Nat) (f : MQueue → MQueue) : (updQ m q f s).nclk = s.nclk := rfl
@[simp] theorem updQ_free (m q : Nat) (f : MQueue → MQueue) : (updQ m q f s).free = s.free := rfl
@[simp] theorem updQ_ctl (m q : Nat) (f : MQueue → MQueue) : (updQ m q f s).ctl = s.ctl := rfl
@[simp] theorem updQ_locks (m q : Nat) (f : MQueue → MQueue) : (updQ m q f s).locks = s.locks := rfl
@[simp] theorem updQ_latch (m q : Nat) (f : MQueue → MQueue) : (updQ m q f s).latch = s.latch := rfl
@[simp] theorem updQ_mem (m q : Nat) (f : MQueue → MQueue) : (updQ m q f s).mem = s.mem := rfl
@[simp] theorem updQ_ev (m q : Nat) (f : MQueue → MQueue) : (updQ m q f s).ev = s.ev := rfl
@[simp] theorem updQ_seams (m q : Nat) (f : MQueue → MQueue) : (updQ m q f s).seams = s.seams := rfl
@[simp] theorem updQ_ms (m q : Nat) (f : MQueue → MQueue) : (updQ m q f s).ms = s.ms := rfl
@[simp] theorem updQ_t3 (m q : Nat) (f : MQueue → MQueue) : (updQ m q f s).t3 = s.t3 := rfl
@[simp] theorem updQ_mxes (m q : Nat) (f : MQueue → MQueue) : (updQ m q f s).mxes = mapPut s.mxes m ((s.mx m).setQ q (f (s.mq m q))) := rfl
@[simp] theorem updQ_slots (m q : Nat) (f : MQueue → MQueue) : (updQ m q f s).slots = s.slots := rfl
@[simp] theorem updQ_refetch (m q : Nat) (f : MQueue → MQueue) : (updQ m q f s).refetch = s.refetch := rfl
@[simp] theorem updQ_semNow (m q : Nat) (f : MQueue → MQueue) : (updQ m q f s).semNow = s.semNow := rfl
@[simp] theorem updQ_qos (m q : Nat) (f : MQueue → MQueue) : (updQ m q f s).qos = s.qos := rfl
@[simp] theorem updQ_knc (m q : Nat) (f : MQueue → MQueue) : (updQ m q f s).knc = s.knc := rfl
@[simp] theorem updQ_cores (m q : Nat) (f : MQueue → MQueue) : (updQ m q f s).cores = s.cores := rfl
@[simp] theorem updQ_hp0 (m q : Nat) (f : MQueue → MQueue) : (updQ m q f s).hp0 = s.hp0 := rfl
@[simp] theorem updQ_engs (m q : Nat) (f : MQueue → MQueue) : (updQ m q f s).engs = s.engs := rfl
@[simp] theorem updQ_pool (m q : Nat) (f : MQueue → MQueue) : (updQ m q f s).pool = s.pool := rfl
@[simp] theorem updQ_plt (m q : Nat) (f : MQueue → MQueue) : (updQ m q f s).plt = s.plt := rfl
@[simp] theorem updQ_tags (m q : Nat) (f : MQueue → MQueue) : (updQ m q f s).tags = s.tags := rfl
@[simp] theorem updQ_fabQ (m q : Nat) (f : MQueue → MQueue) : (updQ m q f s).fabQ = s.fabQ := rfl
@[simp] theorem updQ_mgmt (m q : Nat) (f : MQueue → MQueue) : (updQ m q f s).mgmt = s.mgmt := rfl
@[simp] theorem updQ_persist (m q : Nat) (f : MQueue → MQueue) : (updQ m q f s).persist = s.persist := rfl
@[simp] theorem updQ_out (m q : Nat) (f : MQueue → MQueue) : (updQ m q f s).out = s.out := rfl

/-! ### `updCtx` -/

@[simp] theorem updCtx_pending (c : Nat) (f : Ctx → Ctx) : (updCtx c f s).pending = s.pending := rfl
@[simp] theorem updCtx_nclk (c : Nat) (f : Ctx → Ctx) : (updCtx c f s).nclk = s.nclk := rfl
@[simp] theorem updCtx_free (c : Nat) (f : Ctx → Ctx) : (updCtx c f s).free = s.free := rfl
@[simp] theorem updCtx_ctl (c : Nat) (f : Ctx → Ctx) : (updCtx c f s).ctl = s.ctl := rfl
@[simp] theorem updCtx_locks (c : Nat) (f : Ctx → Ctx) : (updCtx c f s).locks = s.locks := rfl
@[simp] theorem updCtx_latch (c : Nat) (f : Ctx → Ctx) : (updCtx c f s).latch = s.latch := rfl
@[simp] theorem updCtx_mem (c : Nat) (f : Ctx → Ctx) : (updCtx c f s).mem = s.mem := rfl
@[simp] theorem updCtx_ev (c : Nat) (f : Ctx → Ctx) : (updCtx c f s).ev = s.ev := rfl
@[simp] theorem updCtx_seams (c : Nat) (f : Ctx → Ctx) : (updCtx c f s).seams = s.seams := rfl
@[simp] theorem updCtx_ms (c : Nat) (f : Ctx → Ctx) : (updCtx c f s).ms = s.ms := rfl
@[simp] theorem updCtx_t3 (c : Nat) (f : Ctx → Ctx) : (updCtx c f s).t3 = s.t3 := rfl
@[simp] theorem updCtx_mxes (c : Nat) (f : Ctx → Ctx) : (updCtx c f s).mxes = s.mxes := rfl
@[simp] theorem updCtx_slots (c : Nat) (f : Ctx → Ctx) : (updCtx c f s).slots = s.slots := rfl
@[simp] theorem updCtx_refetch (c : Nat) (f : Ctx → Ctx) : (updCtx c f s).refetch = s.refetch := rfl
@[simp] theorem updCtx_semNow (c : Nat) (f : Ctx → Ctx) : (updCtx c f s).semNow = s.semNow := rfl
@[simp] theorem updCtx_qos (c : Nat) (f : Ctx → Ctx) : (updCtx c f s).qos = s.qos := rfl
@[simp] theorem updCtx_knc (c : Nat) (f : Ctx → Ctx) : (updCtx c f s).knc = mapPut s.knc c (f (s.kc c)) := rfl
@[simp] theorem updCtx_cores (c : Nat) (f : Ctx → Ctx) : (updCtx c f s).cores = s.cores := rfl
@[simp] theorem updCtx_hp0 (c : Nat) (f : Ctx → Ctx) : (updCtx c f s).hp0 = s.hp0 := rfl
@[simp] theorem updCtx_engs (c : Nat) (f : Ctx → Ctx) : (updCtx c f s).engs = s.engs := rfl
@[simp] theorem updCtx_pool (c : Nat) (f : Ctx → Ctx) : (updCtx c f s).pool = s.pool := rfl
@[simp] theorem updCtx_plt (c : Nat) (f : Ctx → Ctx) : (updCtx c f s).plt = s.plt := rfl
@[simp] theorem updCtx_tags (c : Nat) (f : Ctx → Ctx) : (updCtx c f s).tags = s.tags := rfl
@[simp] theorem updCtx_fabQ (c : Nat) (f : Ctx → Ctx) : (updCtx c f s).fabQ = s.fabQ := rfl
@[simp] theorem updCtx_mgmt (c : Nat) (f : Ctx → Ctx) : (updCtx c f s).mgmt = s.mgmt := rfl
@[simp] theorem updCtx_persist (c : Nat) (f : Ctx → Ctx) : (updCtx c f s).persist = s.persist := rfl
@[simp] theorem updCtx_out (c : Nat) (f : Ctx → Ctx) : (updCtx c f s).out = s.out := rfl

/-! ### `updHp0` -/

@[simp] theorem updHp0_pending (g : Hp0 → Hp0) : (updHp0 g s).pending = s.pending := rfl
@[simp] theorem updHp0_nclk (g : Hp0 → Hp0) : (updHp0 g s).nclk = s.nclk := rfl
@[simp] theorem updHp0_free (g : Hp0 → Hp0) : (updHp0 g s).free = s.free := rfl
@[simp] theorem updHp0_ctl (g : Hp0 → Hp0) : (updHp0 g s).ctl = s.ctl := rfl
@[simp] theorem updHp0_locks (g : Hp0 → Hp0) : (updHp0 g s).locks = s.locks := rfl
@[simp] theorem updHp0_latch (g : Hp0 → Hp0) : (updHp0 g s).latch = s.latch := rfl
@[simp] theorem updHp0_mem (g : Hp0 → Hp0) : (updHp0 g s).mem = s.mem := rfl
@[simp] theorem updHp0_ev (g : Hp0 → Hp0) : (updHp0 g s).ev = s.ev := rfl
@[simp] theorem updHp0_seams (g : Hp0 → Hp0) : (updHp0 g s).seams = s.seams := rfl
@[simp] theorem updHp0_ms (g : Hp0 → Hp0) : (updHp0 g s).ms = s.ms := rfl
@[simp] theorem updHp0_t3 (g : Hp0 → Hp0) : (updHp0 g s).t3 = s.t3 := rfl
@[simp] theorem updHp0_mxes (g : Hp0 → Hp0) : (updHp0 g s).mxes = s.mxes := rfl
@[simp] theorem updHp0_slots (g : Hp0 → Hp0) : (updHp0 g s).slots = s.slots := rfl
@[simp] theorem updHp0_refetch (g : Hp0 → Hp0) : (updHp0 g s).refetch = s.refetch := rfl
@[simp] theorem updHp0_semNow (g : Hp0 → Hp0) : (updHp0 g s).semNow = s.semNow := rfl
@[simp] theorem updHp0_qos (g : Hp0 → Hp0) : (updHp0 g s).qos = s.qos := rfl
@[simp] theorem updHp0_knc (g : Hp0 → Hp0) : (updHp0 g s).knc = s.knc := rfl
@[simp] theorem updHp0_cores (g : Hp0 → Hp0) : (updHp0 g s).cores = s.cores := rfl
@[simp] theorem updHp0_hp0 (g : Hp0 → Hp0) : (updHp0 g s).hp0 = g s.hp0 := rfl
@[simp] theorem updHp0_engs (g : Hp0 → Hp0) : (updHp0 g s).engs = s.engs := rfl
@[simp] theorem updHp0_pool (g : Hp0 → Hp0) : (updHp0 g s).pool = s.pool := rfl
@[simp] theorem updHp0_plt (g : Hp0 → Hp0) : (updHp0 g s).plt = s.plt := rfl
@[simp] theorem updHp0_tags (g : Hp0 → Hp0) : (updHp0 g s).tags = s.tags := rfl
@[simp] theorem updHp0_fabQ (g : Hp0 → Hp0) : (updHp0 g s).fabQ = s.fabQ := rfl
@[simp] theorem updHp0_mgmt (g : Hp0 → Hp0) : (updHp0 g s).mgmt = s.mgmt := rfl
@[simp] theorem updHp0_persist (g : Hp0 → Hp0) : (updHp0 g s).persist = s.persist := rfl
@[simp] theorem updHp0_out (g : Hp0 → Hp0) : (updHp0 g s).out = s.out := rfl

/-! ### `updEng` -/

@[simp] theorem updEng_pending (e : Nat) (f : Eng → Eng) : (updEng e f s).pending = s.pending := rfl
@[simp] theorem updEng_nclk (e : Nat) (f : Eng → Eng) : (updEng e f s).nclk = s.nclk := rfl
@[simp] theorem updEng_free (e : Nat) (f : Eng → Eng) : (updEng e f s).free = s.free := rfl
@[simp] theorem updEng_ctl (e : Nat) (f : Eng → Eng) : (updEng e f s).ctl = s.ctl := rfl
@[simp] theorem updEng_locks (e : Nat) (f : Eng → Eng) : (updEng e f s).locks = s.locks := rfl
@[simp] theorem updEng_latch (e : Nat) (f : Eng → Eng) : (updEng e f s).latch = s.latch := rfl
@[simp] theorem updEng_mem (e : Nat) (f : Eng → Eng) : (updEng e f s).mem = s.mem := rfl
@[simp] theorem updEng_ev (e : Nat) (f : Eng → Eng) : (updEng e f s).ev = s.ev := rfl
@[simp] theorem updEng_seams (e : Nat) (f : Eng → Eng) : (updEng e f s).seams = s.seams := rfl
@[simp] theorem updEng_ms (e : Nat) (f : Eng → Eng) : (updEng e f s).ms = s.ms := rfl
@[simp] theorem updEng_t3 (e : Nat) (f : Eng → Eng) : (updEng e f s).t3 = s.t3 := rfl
@[simp] theorem updEng_mxes (e : Nat) (f : Eng → Eng) : (updEng e f s).mxes = s.mxes := rfl
@[simp] theorem updEng_slots (e : Nat) (f : Eng → Eng) : (updEng e f s).slots = s.slots := rfl
@[simp] theorem updEng_refetch (e : Nat) (f : Eng → Eng) : (updEng e f s).refetch = s.refetch := rfl
@[simp] theorem updEng_semNow (e : Nat) (f : Eng → Eng) : (updEng e f s).semNow = s.semNow := rfl
@[simp] theorem updEng_qos (e : Nat) (f : Eng → Eng) : (updEng e f s).qos = s.qos := rfl
@[simp] theorem updEng_knc (e : Nat) (f : Eng → Eng) : (updEng e f s).knc = s.knc := rfl
@[simp] theorem updEng_cores (e : Nat) (f : Eng → Eng) : (updEng e f s).cores = s.cores := rfl
@[simp] theorem updEng_hp0 (e : Nat) (f : Eng → Eng) : (updEng e f s).hp0 = s.hp0 := rfl
@[simp] theorem updEng_engs (e : Nat) (f : Eng → Eng) : (updEng e f s).engs = mapPut s.engs e (f (s.eng e)) := rfl
@[simp] theorem updEng_pool (e : Nat) (f : Eng → Eng) : (updEng e f s).pool = s.pool := rfl
@[simp] theorem updEng_plt (e : Nat) (f : Eng → Eng) : (updEng e f s).plt = s.plt := rfl
@[simp] theorem updEng_tags (e : Nat) (f : Eng → Eng) : (updEng e f s).tags = s.tags := rfl
@[simp] theorem updEng_fabQ (e : Nat) (f : Eng → Eng) : (updEng e f s).fabQ = s.fabQ := rfl
@[simp] theorem updEng_mgmt (e : Nat) (f : Eng → Eng) : (updEng e f s).mgmt = s.mgmt := rfl
@[simp] theorem updEng_persist (e : Nat) (f : Eng → Eng) : (updEng e f s).persist = s.persist := rfl
@[simp] theorem updEng_out (e : Nat) (f : Eng → Eng) : (updEng e f s).out = s.out := rfl

/-! ### `updPool` -/

@[simp] theorem updPool_pending (f : Pool → Pool) : (updPool f s).pending = s.pending := rfl
@[simp] theorem updPool_nclk (f : Pool → Pool) : (updPool f s).nclk = s.nclk := rfl
@[simp] theorem updPool_free (f : Pool → Pool) : (updPool f s).free = s.free := rfl
@[simp] theorem updPool_ctl (f : Pool → Pool) : (updPool f s).ctl = s.ctl := rfl
@[simp] theorem updPool_locks (f : Pool → Pool) : (updPool f s).locks = s.locks := rfl
@[simp] theorem updPool_latch (f : Pool → Pool) : (updPool f s).latch = s.latch := rfl
@[simp] theorem updPool_mem (f : Pool → Pool) : (updPool f s).mem = s.mem := rfl
@[simp] theorem updPool_ev (f : Pool → Pool) : (updPool f s).ev = s.ev := rfl
@[simp] theorem updPool_seams (f : Pool → Pool) : (updPool f s).seams = s.seams := rfl
@[simp] theorem updPool_ms (f : Pool → Pool) : (updPool f s).ms = s.ms := rfl
@[simp] theorem updPool_t3 (f : Pool → Pool) : (updPool f s).t3 = s.t3 := rfl
@[simp] theorem updPool_mxes (f : Pool → Pool) : (updPool f s).mxes = s.mxes := rfl
@[simp] theorem updPool_slots (f : Pool → Pool) : (updPool f s).slots = s.slots := rfl
@[simp] theorem updPool_refetch (f : Pool → Pool) : (updPool f s).refetch = s.refetch := rfl
@[simp] theorem updPool_semNow (f : Pool → Pool) : (updPool f s).semNow = s.semNow := rfl
@[simp] theorem updPool_qos (f : Pool → Pool) : (updPool f s).qos = s.qos := rfl
@[simp] theorem updPool_knc (f : Pool → Pool) : (updPool f s).knc = s.knc := rfl
@[simp] theorem updPool_cores (f : Pool → Pool) : (updPool f s).cores = s.cores := rfl
@[simp] theorem updPool_hp0 (f : Pool → Pool) : (updPool f s).hp0 = s.hp0 := rfl
@[simp] theorem updPool_engs (f : Pool → Pool) : (updPool f s).engs = s.engs := rfl
@[simp] theorem updPool_pool (f : Pool → Pool) : (updPool f s).pool = f s.pool := rfl
@[simp] theorem updPool_plt (f : Pool → Pool) : (updPool f s).plt = s.plt := rfl
@[simp] theorem updPool_tags (f : Pool → Pool) : (updPool f s).tags = s.tags := rfl
@[simp] theorem updPool_fabQ (f : Pool → Pool) : (updPool f s).fabQ = s.fabQ := rfl
@[simp] theorem updPool_mgmt (f : Pool → Pool) : (updPool f s).mgmt = s.mgmt := rfl
@[simp] theorem updPool_persist (f : Pool → Pool) : (updPool f s).persist = s.persist := rfl
@[simp] theorem updPool_out (f : Pool → Pool) : (updPool f s).out = s.out := rfl

/-! ### `updPlt` -/

@[simp] theorem updPlt_pending (f : Plotre → Plotre) : (updPlt f s).pending = s.pending := rfl
@[simp] theorem updPlt_nclk (f : Plotre → Plotre) : (updPlt f s).nclk = s.nclk := rfl
@[simp] theorem updPlt_free (f : Plotre → Plotre) : (updPlt f s).free = s.free := rfl
@[simp] theorem updPlt_ctl (f : Plotre → Plotre) : (updPlt f s).ctl = s.ctl := rfl
@[simp] theorem updPlt_locks (f : Plotre → Plotre) : (updPlt f s).locks = s.locks := rfl
@[simp] theorem updPlt_latch (f : Plotre → Plotre) : (updPlt f s).latch = s.latch := rfl
@[simp] theorem updPlt_mem (f : Plotre → Plotre) : (updPlt f s).mem = s.mem := rfl
@[simp] theorem updPlt_ev (f : Plotre → Plotre) : (updPlt f s).ev = s.ev := rfl
@[simp] theorem updPlt_seams (f : Plotre → Plotre) : (updPlt f s).seams = s.seams := rfl
@[simp] theorem updPlt_ms (f : Plotre → Plotre) : (updPlt f s).ms = s.ms := rfl
@[simp] theorem updPlt_t3 (f : Plotre → Plotre) : (updPlt f s).t3 = s.t3 := rfl
@[simp] theorem updPlt_mxes (f : Plotre → Plotre) : (updPlt f s).mxes = s.mxes := rfl
@[simp] theorem updPlt_slots (f : Plotre → Plotre) : (updPlt f s).slots = s.slots := rfl
@[simp] theorem updPlt_refetch (f : Plotre → Plotre) : (updPlt f s).refetch = s.refetch := rfl
@[simp] theorem updPlt_semNow (f : Plotre → Plotre) : (updPlt f s).semNow = s.semNow := rfl
@[simp] theorem updPlt_qos (f : Plotre → Plotre) : (updPlt f s).qos = s.qos := rfl
@[simp] theorem updPlt_knc (f : Plotre → Plotre) : (updPlt f s).knc = s.knc := rfl
@[simp] theorem updPlt_cores (f : Plotre → Plotre) : (updPlt f s).cores = s.cores := rfl
@[simp] theorem updPlt_hp0 (f : Plotre → Plotre) : (updPlt f s).hp0 = s.hp0 := rfl
@[simp] theorem updPlt_engs (f : Plotre → Plotre) : (updPlt f s).engs = s.engs := rfl
@[simp] theorem updPlt_pool (f : Plotre → Plotre) : (updPlt f s).pool = s.pool := rfl
@[simp] theorem updPlt_plt (f : Plotre → Plotre) : (updPlt f s).plt = f s.plt := rfl
@[simp] theorem updPlt_tags (f : Plotre → Plotre) : (updPlt f s).tags = s.tags := rfl
@[simp] theorem updPlt_fabQ (f : Plotre → Plotre) : (updPlt f s).fabQ = s.fabQ := rfl
@[simp] theorem updPlt_mgmt (f : Plotre → Plotre) : (updPlt f s).mgmt = s.mgmt := rfl
@[simp] theorem updPlt_persist (f : Plotre → Plotre) : (updPlt f s).persist = s.persist := rfl
@[simp] theorem updPlt_out (f : Plotre → Plotre) : (updPlt f s).out = s.out := rfl

/-! ### `updMgmt` -/

@[simp] theorem updMgmt_pending (f : Mgmt → Mgmt) : (updMgmt f s).pending = s.pending := rfl
@[simp] theorem updMgmt_nclk (f : Mgmt → Mgmt) : (updMgmt f s).nclk = s.nclk := rfl
@[simp] theorem updMgmt_free (f : Mgmt → Mgmt) : (updMgmt f s).free = s.free := rfl
@[simp] theorem updMgmt_ctl (f : Mgmt → Mgmt) : (updMgmt f s).ctl = s.ctl := rfl
@[simp] theorem updMgmt_locks (f : Mgmt → Mgmt) : (updMgmt f s).locks = s.locks := rfl
@[simp] theorem updMgmt_latch (f : Mgmt → Mgmt) : (updMgmt f s).latch = s.latch := rfl
@[simp] theorem updMgmt_mem (f : Mgmt → Mgmt) : (updMgmt f s).mem = s.mem := rfl
@[simp] theorem updMgmt_ev (f : Mgmt → Mgmt) : (updMgmt f s).ev = s.ev := rfl
@[simp] theorem updMgmt_seams (f : Mgmt → Mgmt) : (updMgmt f s).seams = s.seams := rfl
@[simp] theorem updMgmt_ms (f : Mgmt → Mgmt) : (updMgmt f s).ms = s.ms := rfl
@[simp] theorem updMgmt_t3 (f : Mgmt → Mgmt) : (updMgmt f s).t3 = s.t3 := rfl
@[simp] theorem updMgmt_mxes (f : Mgmt → Mgmt) : (updMgmt f s).mxes = s.mxes := rfl
@[simp] theorem updMgmt_slots (f : Mgmt → Mgmt) : (updMgmt f s).slots = s.slots := rfl
@[simp] theorem updMgmt_refetch (f : Mgmt → Mgmt) : (updMgmt f s).refetch = s.refetch := rfl
@[simp] theorem updMgmt_semNow (f : Mgmt → Mgmt) : (updMgmt f s).semNow = s.semNow := rfl
@[simp] theorem updMgmt_qos (f : Mgmt → Mgmt) : (updMgmt f s).qos = s.qos := rfl
@[simp] theorem updMgmt_knc (f : Mgmt → Mgmt) : (updMgmt f s).knc = s.knc := rfl
@[simp] theorem updMgmt_cores (f : Mgmt → Mgmt) : (updMgmt f s).cores = s.cores := rfl
@[simp] theorem updMgmt_hp0 (f : Mgmt → Mgmt) : (updMgmt f s).hp0 = s.hp0 := rfl
@[simp] theorem updMgmt_engs (f : Mgmt → Mgmt) : (updMgmt f s).engs = s.engs := rfl
@[simp] theorem updMgmt_pool (f : Mgmt → Mgmt) : (updMgmt f s).pool = s.pool := rfl
@[simp] theorem updMgmt_plt (f : Mgmt → Mgmt) : (updMgmt f s).plt = s.plt := rfl
@[simp] theorem updMgmt_tags (f : Mgmt → Mgmt) : (updMgmt f s).tags = s.tags := rfl
@[simp] theorem updMgmt_fabQ (f : Mgmt → Mgmt) : (updMgmt f s).fabQ = s.fabQ := rfl
@[simp] theorem updMgmt_mgmt (f : Mgmt → Mgmt) : (updMgmt f s).mgmt = f s.mgmt := rfl
@[simp] theorem updMgmt_persist (f : Mgmt → Mgmt) : (updMgmt f s).persist = s.persist := rfl
@[simp] theorem updMgmt_out (f : Mgmt → Mgmt) : (updMgmt f s).out = s.out := rfl

/-! ### `queuePacket` -/

@[simp] theorem queuePacket_pending (k : Nat) (p : Packet) : (queuePacket k p s).pending = s.pending := rfl
@[simp] theorem queuePacket_nclk (k : Nat) (p : Packet) : (queuePacket k p s).nclk = s.nclk := rfl
@[simp] theorem queuePacket_free (k : Nat) (p : Packet) : (queuePacket k p s).free = s.free := rfl
@[simp] theorem queuePacket_ctl (k : Nat) (p : Packet) : (queuePacket k p s).ctl = s.ctl := rfl
@[simp] theorem queuePacket_locks (k : Nat) (p : Packet) : (queuePacket k p s).locks = s.locks := rfl
@[simp] theorem queuePacket_latch (k : Nat) (p : Packet) : (queuePacket k p s).latch = s.latch := rfl
@[simp] theorem queuePacket_mem (k : Nat) (p : Packet) : (queuePacket k p s).mem = s.mem := rfl
@[simp] theorem queuePacket_ev (k : Nat) (p : Packet) : (queuePacket k p s).ev = s.ev := rfl
@[simp] theorem queuePacket_seams (k : Nat) (p : Packet) : (queuePacket k p s).seams = s.seams := rfl
@[simp] theorem queuePacket_ms (k : Nat) (p : Packet) : (queuePacket k p s).ms = s.ms := rfl
@[simp] theorem queuePacket_t3 (k : Nat) (p : Packet) : (queuePacket k p s).t3 = s.t3 := rfl
@[simp] theorem queuePacket_mxes (k : Nat) (p : Packet) : (queuePacket k p s).mxes = s.mxes := rfl
@[simp] theorem queuePacket_slots (k : Nat) (p : Packet) : (queuePacket k p s).slots = s.slots := rfl
@[simp] theorem queuePacket_refetch (k : Nat) (p : Packet) : (queuePacket k p s).refetch = s.refetch := rfl
@[simp] theorem queuePacket_semNow (k : Nat) (p : Packet) : (queuePacket k p s).semNow = s.semNow := rfl
@[simp] theorem queuePacket_qos (k : Nat) (p : Packet) : (queuePacket k p s).qos = s.qos := rfl
@[simp] theorem queuePacket_knc (k : Nat) (p : Packet) : (queuePacket k p s).knc = s.knc := rfl
@[simp] theorem queuePacket_cores (k : Nat) (p : Packet) : (queuePacket k p s).cores = s.cores := rfl
@[simp] theorem queuePacket_hp0 (k : Nat) (p : Packet) : (queuePacket k p s).hp0 = s.hp0 := rfl
@[simp] theorem queuePacket_engs (k : Nat) (p : Packet) : (queuePacket k p s).engs = s.engs := rfl
@[simp] theorem queuePacket_pool (k : Nat) (p : Packet) : (queuePacket k p s).pool = s.pool := rfl
@[simp] theorem queuePacket_plt (k : Nat) (p : Packet) : (queuePacket k p s).plt = s.plt := rfl
@[simp] theorem queuePacket_tags (k : Nat) (p : Packet) : (queuePacket k p s).tags = s.tags := rfl
@[simp] theorem queuePacket_fabQ (k : Nat) (p : Packet) : (queuePacket k p s).fabQ = s.fabQ ++ [(k, p)] := rfl
@[simp] theorem queuePacket_mgmt (k : Nat) (p : Packet) : (queuePacket k p s).mgmt = s.mgmt := rfl
@[simp] theorem queuePacket_persist (k : Nat) (p : Packet) : (queuePacket k p s).persist = s.persist := rfl
@[simp] theorem queuePacket_out (k : Nat) (p : Packet) : (queuePacket k p s).out = s.out := rfl

/-! ### `send` -/

@[simp] theorem send_pending (o : Out) : (send o s).pending = s.pending := rfl
@[simp] theorem send_nclk (o : Out) : (send o s).nclk = s.nclk := rfl
@[simp] theorem send_free (o : Out) : (send o s).free = s.free := rfl
@[simp] theorem send_ctl (o : Out) : (send o s).ctl = s.ctl := rfl
@[simp] theorem send_locks (o : Out) : (send o s).locks = s.locks := rfl
@[simp] theorem send_latch (o : Out) : (send o s).latch = s.latch := rfl
@[simp] theorem send_mem (o : Out) : (send o s).mem = s.mem := rfl
@[simp] theorem send_ev (o : Out) : (send o s).ev = s.ev := rfl
@[simp] theorem send_seams (o : Out) : (send o s).seams = s.seams := rfl
@[simp] theorem send_ms (o : Out) : (send o s).ms = s.ms := rfl
@[simp] theorem send_t3 (o : Out) : (send o s).t3 = s.t3 := rfl
@[simp] theorem send_mxes (o : Out) : (send o s).mxes = s.mxes := rfl
@[simp] theorem send_slots (o : Out) : (send o s).slots = s.slots := rfl
@[simp] theorem send_refetch (o : Out) : (send o s).refetch = s.refetch := rfl
@[simp] theorem send_semNow (o : Out) : (send o s).semNow = s.semNow := rfl
@[simp] theorem send_qos (o : Out) : (send o s).qos = s.qos := rfl
@[simp] theorem send_knc (o : Out) : (send o s).knc = s.knc := rfl
@[simp] theorem send_cores (o : Out) : (send o s).cores = s.cores := rfl
@[simp] theorem send_hp0 (o : Out) : (send o s).hp0 = s.hp0 := rfl
@[simp] theorem send_engs (o : Out) : (send o s).engs = s.engs := rfl
@[simp] theorem send_pool (o : Out) : (send o s).pool = s.pool := rfl
@[simp] theorem send_plt (o : Out) : (send o s).plt = s.plt := rfl
@[simp] theorem send_tags (o : Out) : (send o s).tags = s.tags := rfl
@[simp] theorem send_fabQ (o : Out) : (send o s).fabQ = s.fabQ := rfl
@[simp] theorem send_mgmt (o : Out) : (send o s).mgmt = s.mgmt := rfl
@[simp] theorem send_persist (o : Out) : (send o s).persist = s.persist := rfl
@[simp] theorem send_out (o : Out) : (send o s).out = s.out ++ [o] := rfl

/-! ### Reading a register -/

theorem reg_setReg (r q : Reg) (v : Nat) : (setReg r v s).reg q = if q.off = r.off then v % 2 ^ 64 else s.reg q := by
  simp only [State.reg, setReg_ctl, mapFind_mapPut]
  by_cases h : q.off = r.off <;> simp [h]

@[simp] theorem reg_setReg_self (r : Reg) (v : Nat) : (setReg r v s).reg r = v % 2 ^ 64 := by simp [reg_setReg]

theorem reg_setReg_ne {r q : Reg} (v : Nat) (h : q.off ≠ r.off) : (setReg r v s).reg q = s.reg q := by simp [reg_setReg, h]

@[simp] theorem reg_setFld_self (r : Reg) (f : Fld) (v : Nat) :
    (setFld r f v s).reg r = setBits (s.reg r) f.hi f.lo v % 2 ^ 64 := reg_setReg_self ..

theorem reg_setFld_ne {r q : Reg} (f : Fld) (v : Nat) (h : q.off ≠ r.off) : (setFld r f v s).reg q = s.reg q :=
  reg_setReg_ne s _ h

@[simp] theorem reg_bump_self (r : Reg) (n : Nat) : (bump r n s).reg r = min counterMax (s.reg r + n) := by
  have : min counterMax (s.reg r + n) < 2 ^ 64 := by unfold counterMax; omega
  rw [bump, reg_setReg_self, Nat.mod_eq_of_lt this]

theorem reg_bump_ne {r q : Reg} (n : Nat) (h : q.off ≠ r.off) : (bump r n s).reg q = s.reg q := reg_setReg_ne s _ h

theorem reg_of_ctl {s t : State} (h : t.ctl = s.ctl) (r : Reg) : t.reg r = s.reg r := by simp [State.reg, h]

theorem fld_of_ctl {s t : State} (h : t.ctl = s.ctl) (r : Reg) (f : Fld) : t.fld r f = s.fld r f := by
  simp [State.fld, reg_of_ctl h]

theorem reg_lt {s : State} {r : Reg} (h : r.rst < 2 ^ 64) : s.reg r < 2 ^ 64 := by
  unfold State.reg
  split
  · exact BitVec.isLt _
  · exact h

@[simp] theorem reg_updEv (f : Recorder → Recorder) (r : Reg) : (updEv f s).reg r = s.reg r := rfl
@[simp] theorem fld_updEv (f : Recorder → Recorder) (r : Reg) (y : Fld) : (updEv f s).fld r y = s.fld r y := rfl
@[simp] theorem flag_updEv (f : Recorder → Recorder) (r : Reg) (y : Fld) : (updEv f s).flag r y = s.flag r y := rfl
@[simp] theorem reg_updSeams (f : Seams → Seams) (r : Reg) : (updSeams f s).reg r = s.reg r := rfl
@[simp] theorem fld_updSeams (f : Seams → Seams) (r : Reg) (y : Fld) : (updSeams f s).fld r y = s.fld r y := rfl
@[simp] theorem flag_updSeams (f : Seams → Seams) (r : Reg) (y : Fld) : (updSeams f s).flag r y = s.flag r y := rfl
@[simp] theorem reg_setMx (m : Nat) (x : Mxe) (r : Reg) : (setMx m x s).reg r = s.reg r := rfl
@[simp] theorem fld_setMx (m : Nat) (x : Mxe) (r : Reg) (y : Fld) : (setMx m x s).fld r y = s.fld r y := rfl
@[simp] theorem flag_setMx (m : Nat) (x : Mxe) (r : Reg) (y : Fld) : (setMx m x s).flag r y = s.flag r y := rfl
@[simp] theorem reg_updQ (m q : Nat) (f : MQueue → MQueue) (r : Reg) : (updQ m q f s).reg r = s.reg r := rfl
@[simp] theorem fld_updQ (m q : Nat) (f : MQueue → MQueue) (r : Reg) (y : Fld) : (updQ m q f s).fld r y = s.fld r y := rfl
@[simp] theorem flag_updQ (m q : Nat) (f : MQueue → MQueue) (r : Reg) (y : Fld) : (updQ m q f s).flag r y = s.flag r y := rfl
@[simp] theorem reg_updCtx (c : Nat) (f : Ctx → Ctx) (r : Reg) : (updCtx c f s).reg r = s.reg r := rfl
@[simp] theorem fld_updCtx (c : Nat) (f : Ctx → Ctx) (r : Reg) (y : Fld) : (updCtx c f s).fld r y = s.fld r y := rfl
@[simp] theorem flag_updCtx (c : Nat) (f : Ctx → Ctx) (r : Reg) (y : Fld) : (updCtx c f s).flag r y = s.flag r y := rfl
@[simp] theorem reg_updHp0 (g : Hp0 → Hp0) (r : Reg) : (updHp0 g s).reg r = s.reg r := rfl
@[simp] theorem fld_updHp0 (g : Hp0 → Hp0) (r : Reg) (y : Fld) : (updHp0 g s).fld r y = s.fld r y := rfl
@[simp] theorem flag_updHp0 (g : Hp0 → Hp0) (r : Reg) (y : Fld) : (updHp0 g s).flag r y = s.flag r y := rfl
@[simp] theorem reg_updEng (e : Nat) (f : Eng → Eng) (r : Reg) : (updEng e f s).reg r = s.reg r := rfl
@[simp] theorem fld_updEng (e : Nat) (f : Eng → Eng) (r : Reg) (y : Fld) : (updEng e f s).fld r y = s.fld r y := rfl
@[simp] theorem flag_updEng (e : Nat) (f : Eng → Eng) (r : Reg) (y : Fld) : (updEng e f s).flag r y = s.flag r y := rfl
@[simp] theorem reg_updPool (f : Pool → Pool) (r : Reg) : (updPool f s).reg r = s.reg r := rfl
@[simp] theorem fld_updPool (f : Pool → Pool) (r : Reg) (y : Fld) : (updPool f s).fld r y = s.fld r y := rfl
@[simp] theorem flag_updPool (f : Pool → Pool) (r : Reg) (y : Fld) : (updPool f s).flag r y = s.flag r y := rfl
@[simp] theorem reg_updPlt (f : Plotre → Plotre) (r : Reg) : (updPlt f s).reg r = s.reg r := rfl
@[simp] theorem fld_updPlt (f : Plotre → Plotre) (r : Reg) (y : Fld) : (updPlt f s).fld r y = s.fld r y := rfl
@[simp] theorem flag_updPlt (f : Plotre → Plotre) (r : Reg) (y : Fld) : (updPlt f s).flag r y = s.flag r y := rfl
@[simp] theorem reg_updMgmt (f : Mgmt → Mgmt) (r : Reg) : (updMgmt f s).reg r = s.reg r := rfl
@[simp] theorem fld_updMgmt (f : Mgmt → Mgmt) (r : Reg) (y : Fld) : (updMgmt f s).fld r y = s.fld r y := rfl
@[simp] theorem flag_updMgmt (f : Mgmt → Mgmt) (r : Reg) (y : Fld) : (updMgmt f s).flag r y = s.flag r y := rfl
@[simp] theorem reg_queuePacket (k : Nat) (p : Packet) (r : Reg) : (queuePacket k p s).reg r = s.reg r := rfl
@[simp] theorem fld_queuePacket (k : Nat) (p : Packet) (r : Reg) (y : Fld) : (queuePacket k p s).fld r y = s.fld r y := rfl
@[simp] theorem flag_queuePacket (k : Nat) (p : Packet) (r : Reg) (y : Fld) : (queuePacket k p s).flag r y = s.flag r y := rfl
@[simp] theorem reg_send (o : Out) (r : Reg) : (send o s).reg r = s.reg r := rfl
@[simp] theorem fld_send (o : Out) (r : Reg) (y : Fld) : (send o s).fld r y = s.fld r y := rfl
@[simp] theorem flag_send (o : Out) (r : Reg) (y : Fld) : (send o s).flag r y = s.flag r y := rfl
@[simp] theorem kc_setReg (r : Reg) (v : Nat) (i : Nat) : (setReg r v s).kc i = s.kc i := rfl
@[simp] theorem mx_setReg (r : Reg) (v : Nat) (i : Nat) : (setReg r v s).mx i = s.mx i := rfl
@[simp] theorem mq_setReg (r : Reg) (v : Nat) (i j : Nat) : (setReg r v s).mq i j = s.mq i j := rfl
@[simp] theorem eng_setReg (r : Reg) (v : Nat) (i : Nat) : (setReg r v s).eng i = s.eng i := rfl
@[simp] theorem kc_setFld (r : Reg) (f : Fld) (v : Nat) (i : Nat) : (setFld r f v s).kc i = s.kc i := rfl
@[simp] theorem mx_setFld (r : Reg) (f : Fld) (v : Nat) (i : Nat) : (setFld r f v s).mx i = s.mx i := rfl
@[simp] theorem mq_setFld (r : Reg) (f : Fld) (v : Nat) (i j : Nat) : (setFld r f v s).mq i j = s.mq i j := rfl
@[simp] theorem eng_setFld (r : Reg) (f : Fld) (v : Nat) (i : Nat) : (setFld r f v s).eng i = s.eng i := rfl
@[simp] theorem kc_bump (r : Reg) (n : Nat) (i : Nat) : (bump r n s).kc i = s.kc i := rfl
@[simp] theorem mx_bump (r : Reg) (n : Nat) (i : Nat) : (bump r n s).mx i = s.mx i := rfl
@[simp] theorem mq_bump (r : Reg) (n : Nat) (i j : Nat) : (bump r n s).mq i j = s.mq i j := rfl
@[simp] theorem eng_bump (r : Reg) (n : Nat) (i : Nat) : (bump r n s).eng i = s.eng i := rfl
@[simp] theorem kc_updEv (f : Recorder → Recorder) (i : Nat) : (updEv f s).kc i = s.kc i := rfl
@[simp] theorem mx_updEv (f : Recorder → Recorder) (i : Nat) : (updEv f s).mx i = s.mx i := rfl
@[simp] theorem mq_updEv (f : Recorder → Recorder) (i j : Nat) : (updEv f s).mq i j = s.mq i j := rfl
@[simp] theorem eng_updEv (f : Recorder → Recorder) (i : Nat) : (updEv f s).eng i = s.eng i := rfl
@[simp] theorem kc_updSeams (f : Seams → Seams) (i : Nat) : (updSeams f s).kc i = s.kc i := rfl
@[simp] theorem mx_updSeams (f : Seams → Seams) (i : Nat) : (updSeams f s).mx i = s.mx i := rfl
@[simp] theorem mq_updSeams (f : Seams → Seams) (i j : Nat) : (updSeams f s).mq i j = s.mq i j := rfl
@[simp] theorem eng_updSeams (f : Seams → Seams) (i : Nat) : (updSeams f s).eng i = s.eng i := rfl
@[simp] theorem kc_setMx (m : Nat) (x : Mxe) (i : Nat) : (setMx m x s).kc i = s.kc i := rfl
@[simp] theorem eng_setMx (m : Nat) (x : Mxe) (i : Nat) : (setMx m x s).eng i = s.eng i := rfl
@[simp] theorem kc_updQ (m q : Nat) (f : MQueue → MQueue) (i : Nat) : (updQ m q f s).kc i = s.kc i := rfl
@[simp] theorem eng_updQ (m q : Nat) (f : MQueue → MQueue) (i : Nat) : (updQ m q f s).eng i = s.eng i := rfl
@[simp] theorem mx_updCtx (c : Nat) (f : Ctx → Ctx) (i : Nat) : (updCtx c f s).mx i = s.mx i := rfl
@[simp] theorem mq_updCtx (c : Nat) (f : Ctx → Ctx) (i j : Nat) : (updCtx c f s).mq i j = s.mq i j := rfl
@[simp] theorem eng_updCtx (c : Nat) (f : Ctx → Ctx) (i : Nat) : (updCtx c f s).eng i = s.eng i := rfl
@[simp] theorem kc_updHp0 (g : Hp0 → Hp0) (i : Nat) : (updHp0 g s).kc i = s.kc i := rfl
@[simp] theorem mx_updHp0 (g : Hp0 → Hp0) (i : Nat) : (updHp0 g s).mx i = s.mx i := rfl
@[simp] theorem mq_updHp0 (g : Hp0 → Hp0) (i j : Nat) : (updHp0 g s).mq i j = s.mq i j := rfl
@[simp] theorem eng_updHp0 (g : Hp0 → Hp0) (i : Nat) : (updHp0 g s).eng i = s.eng i := rfl
@[simp] theorem kc_updEng (e : Nat) (f : Eng → Eng) (i : Nat) : (updEng e f s).kc i = s.kc i := rfl
@[simp] theorem mx_updEng (e : Nat) (f : Eng → Eng) (i : Nat) : (updEng e f s).mx i = s.mx i := rfl
@[simp] theorem mq_updEng (e : Nat) (f : Eng → Eng) (i j : Nat) : (updEng e f s).mq i j = s.mq i j := rfl
@[simp] theorem kc_updPool (f : Pool → Pool) (i : Nat) : (updPool f s).kc i = s.kc i := rfl
@[simp] theorem mx_updPool (f : Pool → Pool) (i : Nat) : (updPool f s).mx i = s.mx i := rfl
@[simp] theorem mq_updPool (f : Pool → Pool) (i j : Nat) : (updPool f s).mq i j = s.mq i j := rfl
@[simp] theorem eng_updPool (f : Pool → Pool) (i : Nat) : (updPool f s).eng i = s.eng i := rfl
@[simp] theorem kc_updPlt (f : Plotre → Plotre) (i : Nat) : (updPlt f s).kc i = s.kc i := rfl
@[simp] theorem mx_updPlt (f : Plotre → Plotre) (i : Nat) : (updPlt f s).mx i = s.mx i := rfl
@[simp] theorem mq_updPlt (f : Plotre → Plotre) (i j : Nat) : (updPlt f s).mq i j = s.mq i j := rfl
@[simp] theorem eng_updPlt (f : Plotre → Plotre) (i : Nat) : (updPlt f s).eng i = s.eng i := rfl
@[simp] theorem kc_updMgmt (f : Mgmt → Mgmt) (i : Nat) : (updMgmt f s).kc i = s.kc i := rfl
@[simp] theorem mx_updMgmt (f : Mgmt → Mgmt) (i : Nat) : (updMgmt f s).mx i = s.mx i := rfl
@[simp] theorem mq_updMgmt (f : Mgmt → Mgmt) (i j : Nat) : (updMgmt f s).mq i j = s.mq i j := rfl
@[simp] theorem eng_updMgmt (f : Mgmt → Mgmt) (i : Nat) : (updMgmt f s).eng i = s.eng i := rfl
@[simp] theorem kc_queuePacket (k : Nat) (p : Packet) (i : Nat) : (queuePacket k p s).kc i = s.kc i := rfl
@[simp] theorem mx_queuePacket (k : Nat) (p : Packet) (i : Nat) : (queuePacket k p s).mx i = s.mx i := rfl
@[simp] theorem mq_queuePacket (k : Nat) (p : Packet) (i j : Nat) : (queuePacket k p s).mq i j = s.mq i j := rfl
@[simp] theorem eng_queuePacket (k : Nat) (p : Packet) (i : Nat) : (queuePacket k p s).eng i = s.eng i := rfl
@[simp] theorem kc_send (o : Out) (i : Nat) : (send o s).kc i = s.kc i := rfl
@[simp] theorem mx_send (o : Out) (i : Nat) : (send o s).mx i = s.mx i := rfl
@[simp] theorem mq_send (o : Out) (i j : Nat) : (send o s).mq i j = s.mq i j := rfl
@[simp] theorem eng_send (o : Out) (i : Nat) : (send o s).eng i = s.eng i := rfl

/-! ### Reading the tables by their accessors -/

@[simp] theorem kc_updCtx_self (c : Nat) (f : Ctx → Ctx) : (updCtx c f s).kc c = f (s.kc c) := by simp [State.kc]
theorem kc_updCtx_ne {c d : Nat} (f : Ctx → Ctx) (h : d ≠ c) : (updCtx c f s).kc d = s.kc d := by
  simp [State.kc, mapGet_mapPut_ne _ _ _ h]
@[simp] theorem mx_setMx_self (m : Nat) (x : Mxe) : (setMx m x s).mx m = x := by simp [State.mx]
theorem mx_setMx_ne {m n : Nat} (x : Mxe) (h : n ≠ m) : (setMx m x s).mx n = s.mx n := by
  simp [State.mx, mapGet_mapPut_ne _ _ _ h]
@[simp] theorem mq_updQ_self (m q : Nat) (f : MQueue → MQueue) : (updQ m q f s).mq m q = f (s.mq m q) := by
  simp [State.mq, State.mx, Mxe.setQ, Mxe.q]
theorem mx_updQ_ne {m n : Nat} (q : Nat) (f : MQueue → MQueue) (h : n ≠ m) : (updQ m q f s).mx n = s.mx n :=
  mx_setMx_ne s _ h
@[simp] theorem eng_updEng_self (e : Nat) (f : Eng → Eng) : (updEng e f s).eng e = f (s.eng e) := by simp [State.eng]
theorem eng_updEng_ne {e d : Nat} (f : Eng → Eng) (h : d ≠ e) : (updEng e f s).eng d = s.eng d := by
  simp [State.eng, mapGet_mapPut_ne _ _ _ h]

end Sys2Proof.Machine
end

