-- ==== Sys2Proof/Laws/Context.lean ====
section
/-! SUPPORT. What the operations of a kneader context read and write: its registers, the registers of the part that only they change,
and what a retired or faulted instruction leaves. -/

namespace Sys2Proof.Machine


variable {s t : State}

theorem onlyRegs_refl (rs : List Reg) (s : State) : OnlyRegs rs s s := fun _ _ => rfl

theorem onlyRegs_of_ctl {rs : List Reg} (h : t.ctl = s.ctl) : OnlyRegs rs s t := fun r _ => reg_of_ctl h r

theorem OnlyRegs.mono {rs qs : List Reg} (h : OnlyRegs rs s t) (k : ∀ r ∈ rs, r ∈ qs) : OnlyRegs qs s t := fun r hr =>
  h r fun hm => hr (by
    obtain ⟨q, hq, e⟩ := List.mem_map.1 hm
    exact List.mem_map.2 ⟨q, k q hq, e⟩)

theorem OnlyRegs.trans {rs : List Reg} {u : State} (h : OnlyRegs rs s t) (k : OnlyRegs rs t u) : OnlyRegs rs s u :=
  fun r hr => (k r hr).trans (h r hr)

theorem onlyRegs_setReg {rs : List Reg} {r : Reg} (h : OnlyRegs rs s t) (v : Nat) (m : r ∈ rs) :
    OnlyRegs rs s (setReg r v t) := fun q hq => by
  rw [reg_setReg_ne t v fun e => hq (List.mem_map.2 ⟨r, m, e.symm⟩)]
  exact h q hq

theorem onlyRegs_setFld {rs : List Reg} {r : Reg} (h : OnlyRegs rs s t) (f : Fld) (v : Nat) (m : r ∈ rs) :
    OnlyRegs rs s (setFld r f v t) := onlyRegs_setReg h _ m

theorem onlyRegs_bump {rs : List Reg} {r : Reg} (h : OnlyRegs rs s t) (n : Nat) (m : r ∈ rs) :
    OnlyRegs rs s (bump r n t) := onlyRegs_setReg h _ m

theorem onlyRegs_foldl {α : Type} {rs : List Reg} {f : State → α → State} (l : List α) (h : OnlyRegs rs s t)
    (hf : ∀ u x, x ∈ l → OnlyRegs rs s u → OnlyRegs rs s (f u x)) : OnlyRegs rs s (l.foldl f t) := by
  induction l generalizing t with
  | nil => exact h
  | cons x l ih => exact ih (hf t x List.mem_cons_self h) fun u y m k => hf u y (List.mem_cons_of_mem _ m) k

/-! ### An instruction that issues -/

theorem issue_of {c : Nat} {u : Use} (eff : State → Eff) (h : s.issues c u) :
    issue c u eff s = match eff (bump (R.KNC_CNT_ISSUE (coreOf c)) 1 s) with
      | .done t => retire c (s.reg (ctxPc c) + 4) t
      | .jump pc t => retire c pc t
      | .exc e a t => excCtx c e (s.reg (ctxPc c)) a t
      | .excFree e t => excFree c e t
      | .away t => t
      | .hold => s := by
  obtain ⟨h1, h2, h3, h4⟩ := h
  unfold issue
  simp only [h1, h2, h3, h4, Bool.not_true, Bool.false_eq_true, if_false]
  all_goals cases eff (bump (R.KNC_CNT_ISSUE (coreOf c)) 1 s) <;> rfl

theorem reg_wroteReg (c d : Nat) (s : State) (r : Reg) : (wroteReg c d s).reg r = s.reg r := by
  unfold wroteReg
  dsimp only
  split <;> rfl

theorem ctl_wroteReg (c d : Nat) (s : State) : (wroteReg c d s).ctl = s.ctl := by
  unfold wroteReg
  dsimp only
  split <;> rfl

theorem kc_wroteReg_ne {c d e : Nat} (h : e ≠ c) : (wroteReg c d s).kc e = s.kc e := by
  unfold wroteReg
  dsimp only
  split
  · exact kc_updCtx_ne _ _ h
  · rfl

theorem kc_wroteReg_same {c d : Nat} : { (wroteReg c d s).kc c with errs := [], parity := [] } =
    { s.kc c with errs := [], parity := [] } := by
  unfold wroteReg
  dsimp only
  split
  · rw [kc_updCtx_self]
  · rfl

/-- What an effect that ends in `done` or `jump` may be between the issue and the retirement of an instruction. -/
structure Acted (c : Nat) (rs : List Reg) (s t : State) : Prop where
  pc     : t.reg (ctxPc c) = s.reg (ctxPc c)
  issued : t.reg (R.KNC_CNT_ISSUE (coreOf c)) = s.reg (R.KNC_CNT_ISSUE (coreOf c))
  count  : (t.kc c).instret = (s.kc c).instret
  regs   : OnlyRegs rs s t
  others : ∀ d, d ≠ c → t.kc d = s.kc d

theorem acted_refl (c : Nat) (rs : List Reg) (s : State) : Acted c rs s s := ⟨rfl, rfl, rfl, onlyRegs_refl _ _, fun _ _ => rfl⟩

theorem pc_ne_issue (c k : Nat) : (ctxPc c).off ≠ (R.KNC_CNT_ISSUE k).off := by simp only [ne_eq]; omega

theorem retired_of {c next : Nat} {rs : List Reg} (h : Acted c rs (bump (R.KNC_CNT_ISSUE (coreOf c)) 1 s) t) :
    Retired c next rs s (retire c next t) := by
  obtain ⟨-, h2, h3, h4, h5⟩ := h
  refine ⟨by simp [retire], ?_, ?_, ?_, ?_⟩
  · rw [retire, reg_setReg_ne _ _ (pc_ne_issue c (coreOf c)).symm, reg_updCtx, h2, reg_bump_self]
  · simp [retire, h3]
  · intro r hr
    simp only [List.map_cons, List.mem_cons, not_or] at hr
    rw [retire, reg_setReg_ne _ _ hr.1, reg_updCtx, h4 r hr.2.2, reg_bump_ne _ _ hr.2.1]
  · intro d hd
    rw [retire, kc_setReg, kc_updCtx_ne _ _ hd, h5 d hd, kc_bump]

theorem ctxSame_retire {c next : Nat} (h : CtxSame c s t) : CtxSame c s (retire c next t) := by
  unfold CtxSame at h ⊢
  simpa [retire] using h

theorem acted_setG {c rd : Nat} (hr : rd < 32) (v : Nat) (s : State) : Acted c (destG c rd) s (setG c rd v s) := by
  unfold setG destG
  by_cases h : rd = 0
  · simp only [h, if_true]; exact acted_refl ..
  · simp only [h, if_false]
    refine ⟨?_, ?_, ?_, ?_, ?_⟩
    · rw [reg_wroteReg, reg_setReg_ne]
      simp only [ne_eq]; omega
    · rw [reg_wroteReg, reg_setReg_ne]
      simp only [ne_eq, coreOf]; omega
    · have := congrArg Ctx.instret (kc_wroteReg_same (s := setReg (ctxG c rd) v s) (c := c) (d := rd))
      exact this
    · intro r hr
      rw [reg_wroteReg]
      exact onlyRegs_setReg (onlyRegs_refl _ s) v List.mem_cons_self r hr
    · intro d hd
      exact kc_wroteReg_ne hd

theorem ctxSame_setG {c rd : Nat} (v : Nat) (s : State) : CtxSame c s (setG c rd v s) := by
  unfold setG
  split
  · rfl
  · have h := kc_wroteReg_same (s := setReg (ctxG c rd) v s) (c := c) (d := rd)
    have := congrArg (fun x => { x with instret := 0 }) h
    exact this

theorem g_setG {c rd : Nat} (v : Nat) : (setG c rd v s).g c rd = if rd = 0 then 0 else v % 2 ^ 64 := by
  unfold setG State.g
  split
  · rfl
  · rw [reg_wroteReg, reg_setReg_self]

theorem g_retire {c next d i : Nat} (hi : i < 32) : (retire c next s).g d i = s.g d i := by
  unfold State.g
  split
  · rfl
  · rw [retire, reg_setReg_ne, reg_updCtx]
    simp only [ne_eq]; omega

theorem g_bump {c d i k : Nat} (hi : i < 32) : (bump (R.KNC_CNT_ISSUE k) 1 s).g d i = s.g d i := by
  unfold State.g
  split
  · rfl
  · rw [reg_bump_ne]
    simp only [ne_eq]; omega

theorem g_lt (s : State) (c i : Nat) : s.g c i < 2 ^ 64 := by
  unfold State.g
  split
  · omega
  · exact reg_lt (by simp)

/-- An instruction whose effect is to write a general register. -/
theorem regDone_setG {c rd v : Nat} (hr : rd < 32) :
    let t := retire c (s.reg (ctxPc c) + 4) (setG c rd v (bump (R.KNC_CNT_ISSUE (coreOf c)) 1 s))
    t.g c rd = (if rd = 0 then 0 else v % 2 ^ 64) ∧ RegDone c (destG c rd) s t := by
  refine ⟨?_, retired_of (acted_setG hr v _), ?_, ?_⟩
  · rw [g_retire hr, g_setG]
  · exact ctxSame_retire (ctxSame_setG v (bump (R.KNC_CNT_ISSUE (coreOf c)) 1 s))
  · exact kept_retire (by decide) (kept_setG (by decide) (kept_bump (by decide) (keeps_refl _ _)))

/-! ### Events -/

theorem reg_evDrop {r : Reg} (e : EvRec) (s : State) (h : r.off ≠ R.EVR_CNT_SRC_DROP.off) : (evDrop e s).reg r = s.reg r := by
  unfold evDrop evSuppress evSuppressTr
  split <;> exact reg_bump_ne s 1 h

theorem reg_evEnqueue {r : Reg} (e : EvRec) (s : State) (h : r.off ≠ R.EVR_CNT_SRC_DROP.off) :
    (evEnqueue e s).reg r = s.reg r := by
  unfold evEnqueue
  dsimp only
  split
  · split
    · rfl
    · split
      · exact reg_evDrop _ _ h
      · rfl
  · split
    · rfl
    · exact reg_evDrop _ _ h

/-- An event writes no register outside the event recorder's block. -/
theorem reg_raise {r : Reg} (e : EvRec) (s : State) (h : r.off < 0x19000000 ∨ 0x1A000000 ≤ r.off) :
    (raise e s).reg r = s.reg r := by
  have : e.code % 4096 < 4096 := Nat.mod_lt _ (by decide)
  rw [raise, reg_evEnqueue _ _ (by simp only [ne_eq]; omega), reg_bump_ne _ _ (by simp only [ne_eq]; omega)]

theorem reg_event {r : Reg} (code kind inst p0 p1 p2 p3 : Nat) (s : State) (h : r.off < 0x19000000 ∨ 0x1A000000 ≤ r.off) :
    (event code kind inst p0 p1 p2 p3 s).reg r = s.reg r := reg_raise _ _ h

theorem reg_tenantEvent {r : Reg} (code kind inst t p0 p1 p2 p3 : Nat) (s : State)
    (h : r.off < 0x19000000 ∨ 0x1A000000 ≤ r.off) : (tenantEvent code kind inst t p0 p1 p2 p3 s).reg r = s.reg r :=
  reg_raise _ _ h

/-- R371: an event counts one occurrence of its code. -/
theorem count_raise (e : EvRec) (s : State) (h : e.code < 4096) :
    (raise e s).reg (R.EVR_CODE_CNT e.code) = min counterMax (s.reg (R.EVR_CODE_CNT e.code) + 1) := by
  rw [raise, Nat.mod_eq_of_lt h, reg_evEnqueue _ _ (by simp only [ne_eq]; omega), reg_bump_self]

theorem recorded_event (code kind inst p0 p1 p2 p3 : Nat) (s : State) (h : code < 4096) :
    Recorded code s (event code kind inst p0 p1 p2 p3 s) :=
  ⟨count_raise _ s h, fun _ hr => reg_event _ _ _ _ _ _ _ _ hr, kept_event (by decide) (keeps_refl _ _)⟩

theorem recorded_tenantEvent (code kind inst t p0 p1 p2 p3 : Nat) (s : State) (h : code < 4096) :
    Recorded code s (tenantEvent code kind inst t p0 p1 p2 p3 s) :=
  ⟨count_raise _ s h, fun _ hr => reg_tenantEvent _ _ _ _ _ _ _ _ _ hr, kept_tenantEvent (by decide) (keeps_refl _ _)⟩

/-- R386: a write from a requester whose gate is open that is ignored is recorded. -/
theorem recorded_ignoredWrite {who : Who} (off : Nat) (s : State) (h : s.whoOpen who = true) :
    Recorded 0x102 s (ignoredWrite who off s) := by
  unfold ignoredWrite
  simp only [h, Bool.not_true, Bool.false_eq_true, if_false]
  exact recorded_event _ _ _ _ _ _ _ _ (by decide)

/-! ### Bit fields -/

theorem bitsOf_lt (v hi lo : Nat) : bitsOf v hi lo < 2 ^ (hi + 1 - lo) := Nat.mod_lt _ (Nat.two_pow_pos _)

theorem bitsOf_eq (v hi lo : Nat) : bitsOf v hi lo = v / 2 ^ lo % 2 ^ (hi + 1 - lo) := by
  rw [bitsOf, Nat.shiftRight_eq_div_pow]

theorem split_bits (v : Nat) {hi lo : Nat} (h : lo ≤ hi) :
    v = v % 2 ^ lo + 2 ^ lo * (bitsOf v hi lo + 2 ^ (hi + 1 - lo) * (v / 2 ^ (hi + 1))) := by
  have h1 : 2 ^ (hi + 1) = 2 ^ lo * 2 ^ (hi + 1 - lo) := by rw [← pow_add]; congr 1; omega
  rw [bitsOf_eq, h1, ← Nat.div_div_eq_div_mul, Nat.mod_add_div, Nat.mod_add_div]

theorem setBits_eq (v x : Nat) {hi lo : Nat} (h : lo ≤ hi) :
    setBits v hi lo x = v % 2 ^ lo + 2 ^ lo * (x % 2 ^ (hi + 1 - lo) + 2 ^ (hi + 1 - lo) * (v / 2 ^ (hi + 1))) := by
  rw [setBits]
  have := split_bits v h
  generalize bitsOf v hi lo = b at *
  generalize v / 2 ^ (hi + 1) = c at *
  generalize v % 2 ^ lo = a at *
  generalize 2 ^ lo = p at *
  generalize x % 2 ^ (hi + 1 - lo) = y at *
  generalize 2 ^ (hi + 1 - lo) = q at *
  rw [this, show a + p * (b + q * c) = a + p * (q * c) + b * p by ring, Nat.add_sub_cancel]
  ring

/-- A field that has just been set reads as what was written. -/
theorem bitsOf_setBits_self {v hi lo x : Nat} (h : lo ≤ hi) : bitsOf (setBits v hi lo x) hi lo = x % 2 ^ (hi + 1 - lo) := by
  rw [setBits_eq v x h, bitsOf_eq, Nat.add_mul_div_left _ _ (Nat.two_pow_pos _),
    Nat.div_eq_of_lt (Nat.mod_lt _ (Nat.two_pow_pos _)), Nat.zero_add, Nat.add_mul_mod_self_left, Nat.mod_mod]

/-- Setting a field leaves a field above or below it as it was. -/
theorem bitsOf_setBits_ne {v hi lo x a b : Nat} (h : lo ≤ hi) (hd : a < lo ∨ hi < b) :
    bitsOf (setBits v hi lo x) a b = bitsOf v a b := by
  rcases hd with hd | hd
  · have key : ∀ n : Nat, n % 2 ^ lo = v % 2 ^ lo → bitsOf n a b = bitsOf v a b := by
      intro n hn
      rw [bitsOf_eq, bitsOf_eq]
      by_cases hb : b ≤ a + 1
      · have e : ∀ m : Nat, m / 2 ^ b % 2 ^ (a + 1 - b) = m % 2 ^ (a + 1) / 2 ^ b := by
          intro m
          rw [show 2 ^ (a + 1) = 2 ^ b * 2 ^ (a + 1 - b) by rw [← pow_add]; congr 1; omega, Nat.mod_mul_right_div_self]
        have d : (2 : Nat) ^ (a + 1) ∣ 2 ^ lo := pow_dvd_pow 2 (by omega)
        rw [e, e, ← Nat.mod_mod_of_dvd n d, ← Nat.mod_mod_of_dvd v d, hn]
      · rw [show a + 1 - b = 0 by omega]; simp [Nat.mod_one]
    apply key
    rw [setBits_eq v x h, Nat.add_mul_mod_self_left, Nat.mod_mod]
  · have h1 : (2 : Nat) ^ (hi + 1) = 2 ^ lo * 2 ^ (hi + 1 - lo) := by rw [← pow_add]; congr 1; omega
    have e : setBits v hi lo x / 2 ^ (hi + 1) = v / 2 ^ (hi + 1) := by
      rw [setBits_eq v x h, h1, ← Nat.div_div_eq_div_mul, Nat.add_mul_div_left _ _ (Nat.two_pow_pos _),
        Nat.div_eq_of_lt (Nat.mod_lt _ (Nat.two_pow_pos _)), Nat.zero_add, Nat.add_mul_div_left _ _ (Nat.two_pow_pos _),
        Nat.div_eq_of_lt (Nat.mod_lt _ (Nat.two_pow_pos _)), Nat.zero_add, ← h1]
    have h2 : (2 : Nat) ^ b = 2 ^ (hi + 1) * 2 ^ (b - (hi + 1)) := by rw [← pow_add]; congr 1; omega
    rw [bitsOf_eq, bitsOf_eq, h2, ← Nat.div_div_eq_div_mul, ← Nat.div_div_eq_div_mul, e]

theorem setBits_lt {v hi lo x n : Nat} (h : lo ≤ hi) (hv : v < 2 ^ n) (hn : hi < n) : setBits v hi lo x < 2 ^ n := by
  have h0 : setBits v hi lo x / 2 ^ (hi + 1) = v / 2 ^ (hi + 1) := by
    have := bitsOf_setBits_ne (v := v) (x := x) (a := hi + n) (b := hi + 1) h (Or.inr (Nat.lt_succ_self _))
    have h1 : (2 : Nat) ^ (hi + 1) = 2 ^ lo * 2 ^ (hi + 1 - lo) := by rw [← pow_add]; congr 1; omega
    rw [setBits_eq v x h, h1, ← Nat.div_div_eq_div_mul, Nat.add_mul_div_left _ _ (Nat.two_pow_pos _),
      Nat.div_eq_of_lt (Nat.mod_lt _ (Nat.two_pow_pos _)), Nat.zero_add, Nat.add_mul_div_left _ _ (Nat.two_pow_pos _),
      Nat.div_eq_of_lt (Nat.mod_lt _ (Nat.two_pow_pos _)), Nat.zero_add, ← h1]
  have h2 : (2 : Nat) ^ n = 2 ^ (hi + 1) * 2 ^ (n - (hi + 1)) := by rw [← pow_add]; congr 1; omega
  rw [h2] at hv ⊢
  have := Nat.div_lt_of_lt_mul hv
  rw [← h0] at this
  rwa [Nat.div_lt_iff_lt_mul (Nat.two_pow_pos _), Nat.mul_comm] at this

theorem fld_lt (s : State) (r : Reg) (f : Fld) : s.fld r f < 2 ^ (f.hi + 1 - f.lo) := bitsOf_lt _ _ _

/-- A field just set. -/
theorem fld_setFld_self {r : Reg} {f : Fld} (v : Nat) (s : State) (hr : r.rst < 2 ^ 64) (h : f.lo ≤ f.hi) (hf : f.hi < 64) :
    (setFld r f v s).fld r f = v % 2 ^ (f.hi + 1 - f.lo) := by
  rw [State.fld, reg_setFld_self, Nat.mod_eq_of_lt (setBits_lt h (reg_lt hr) hf), bitsOf_setBits_self h]

/-- Another field of the register just changed. -/
theorem fld_setFld_ne {r : Reg} {f g : Fld} (v : Nat) (s : State) (hr : r.rst < 2 ^ 64) (h : f.lo ≤ f.hi) (hf : f.hi < 64)
    (hd : g.hi < f.lo ∨ f.hi < g.lo) : (setFld r f v s).fld r g = s.fld r g := by
  rw [State.fld, reg_setFld_self, Nat.mod_eq_of_lt (setBits_lt h (reg_lt hr) hf), bitsOf_setBits_ne h hd, State.fld]

/-- A field of another register. -/
theorem fld_setFld_other {r q : Reg} {f g : Fld} (v : Nat) (s : State) (h : q.off ≠ r.off) :
    (setFld r f v s).fld q g = s.fld q g := by
  rw [State.fld, reg_setFld_ne s f v h, State.fld]

theorem fld_setReg_other {r q : Reg} {g : Fld} (v : Nat) (s : State) (h : q.off ≠ r.off) :
    (setReg r v s).fld q g = s.fld q g := by
  rw [State.fld, reg_setReg_ne s v h, State.fld]

/-! ### Exceptions -/

/-- The registers that stopping a context writes. -/
def stopRegs (c : Nat) : List Reg := [ctxStat c, ctxEpc c, ctxExcaddr c]

theorem reg_tellSupervisor (c : Nat) (s : State) (r : Reg) : (tellSupervisor c s).reg r = s.reg r := by
  unfold tellSupervisor
  split <;> rfl

theorem onlyRegs_stopCtx (c st cause epc addr : Nat) (s : State) : OnlyRegs (stopRegs c) s (stopCtx c st cause epc addr s) := by
  intro r hr
  have h : r.off ≠ (ctxStat c).off ∧ r.off ≠ (ctxEpc c).off ∧ r.off ≠ (ctxExcaddr c).off := by
    simpa [stopRegs] using hr
  unfold stopCtx setCtxState
  dsimp only
  rw [reg_tellSupervisor, reg_setReg_ne _ _ h.2.2, reg_setReg_ne _ _ h.2.1, reg_setFld_ne _ _ _ h.1, reg_setFld_ne _ _ _ h.1,
    reg_updCtx]

theorem stat_epc (c : Nat) : (ctxStat c).off ≠ (ctxEpc c).off ∧ (ctxStat c).off ≠ (ctxExcaddr c).off ∧
    (ctxEpc c).off ≠ (ctxExcaddr c).off := by
  refine ⟨?_, ?_, ?_⟩ <;> simp only [ne_eq] <;> omega

theorem stopCtx_state {c st cause epc addr : Nat} {s : State} (h : st < 16) :
    (stopCtx c st cause epc addr s).ctxState c = st := by
  unfold stopCtx setCtxState State.ctxState State.fld
  dsimp only
  rw [reg_tellSupervisor, reg_setReg_ne _ _ (stat_epc c).2.1, reg_setReg_ne _ _ (stat_epc c).1]
  show State.fld _ (ctxStat c) F.KNC_CTX_STAT_STATE = st
  rw [fld_setFld_ne _ _ (Nat.two_pow_pos 64) (by decide) (by decide) (by decide), fld_setFld_self _ _ (Nat.two_pow_pos 64) (by decide) (by decide)]
  exact Nat.mod_eq_of_lt h

theorem stopCtx_cause {c st cause epc addr : Nat} {s : State} (h : cause < 256) :
    (stopCtx c st cause epc addr s).fld (ctxStat c) F.KNC_CTX_STAT_CAUSE = cause := by
  unfold stopCtx setCtxState State.fld
  dsimp only
  rw [reg_tellSupervisor, reg_setReg_ne _ _ (stat_epc c).2.1, reg_setReg_ne _ _ (stat_epc c).1]
  show State.fld _ (ctxStat c) F.KNC_CTX_STAT_CAUSE = cause
  rw [fld_setFld_self _ _ (Nat.two_pow_pos 64) (by decide) (by decide)]
  exact Nat.mod_eq_of_lt h

theorem stopCtx_epc {c st cause epc addr : Nat} {s : State} (h : epc < 2 ^ 64) :
    (stopCtx c st cause epc addr s).reg (ctxEpc c) = epc := by
  unfold stopCtx
  dsimp only
  rw [reg_tellSupervisor, reg_setReg_ne _ _ (stat_epc c).2.2, reg_setReg_self, Nat.mod_eq_of_lt h]

theorem stopCtx_excaddr {c st cause epc addr : Nat} {s : State} (h : addr < 2 ^ 64) :
    (stopCtx c st cause epc addr s).reg (ctxExcaddr c) = addr := by
  unfold stopCtx
  dsimp only
  rw [reg_tellSupervisor, reg_setReg_self, Nat.mod_eq_of_lt h]

/-- The offset of a register in the kneader's block, so that an event does not reach it. -/
theorem reg_excCtx {c cause epc addr : Nat} {s : State} (r : Reg) (h : r.off < 0x19000000) :
    (excCtx c cause epc addr s).reg r = (stopCtx c 4 cause epc addr s).reg r := reg_tenantEvent _ _ _ _ _ _ _ _ _ (Or.inl h)

/-- States that agree on what an exception must preserve. -/
structure ExcBase (c : Nat) (s u : State) : Prop where
  pc    : u.reg (ctxPc c) = s.reg (ctxPc c)
  g     : ∀ d < 1024, ∀ i < 32, u.reg (ctxG d i) = s.reg (ctxG d i)
  p     : ∀ d < 1024, ∀ i < 8, u.reg (ctxP d i) = s.reg (ctxP d i)
  v     : ∀ d < 1024, ∀ i < 16, ∀ w < 8, u.reg (ctxV d i w) = s.reg (ctxV d i w)
  keeps : Keeps [.free, .ctl, .ev, .knc] s u

theorem v_congr {s u : State} {d i : Nat} (h : ∀ w < 8, u.reg (ctxV d i w) = s.reg (ctxV d i w)) : u.v d i = s.v d i := by
  unfold State.v
  apply List.flatMap_congr
  intro w hw
  rw [h w (List.mem_range.1 hw)]

theorem excepted_of {c cause addr : Nat} {s u : State} (hc : c < 1024) (hk : cause < 256) (h : ExcBase c s u) :
    Excepted c cause s (excCtx c cause (s.reg (ctxPc c)) addr u) := by
  have hpc : s.reg (ctxPc c) < 2 ^ 64 := reg_lt (by simp)
  have hs := onlyRegs_stopCtx c 4 cause (s.reg (ctxPc c)) addr u
  have hg : ∀ d < 1024, ∀ i < 32, (excCtx c cause (s.reg (ctxPc c)) addr u).reg (ctxG d i) = s.reg (ctxG d i) := by
    intro d hd i hi
    rw [reg_excCtx _ (by simp only; omega), hs _ (by simp [stopRegs]; omega), h.g d hd i hi]
  have hp : ∀ d < 1024, ∀ i < 8, (excCtx c cause (s.reg (ctxPc c)) addr u).reg (ctxP d i) = s.reg (ctxP d i) := by
    intro d hd i hi
    rw [reg_excCtx _ (by simp only; omega), hs _ (by simp [stopRegs]; omega), h.p d hd i hi]
  refine ⟨?_, ?_, ?_, ?_, ?_, ?_, ?_, ?_⟩
  · unfold State.ctxState State.fld
    rw [reg_excCtx _ (by simp only; omega)]
    exact stopCtx_state (by decide)
  · unfold State.fld
    rw [reg_excCtx _ (by simp only; omega)]
    exact stopCtx_cause hk
  · rw [reg_excCtx _ (by simp only; omega), stopCtx_epc hpc]
  · rw [reg_excCtx _ (by simp only; omega), hs _ (by simp [stopRegs]), h.pc]
  · intro d hd i hi
    unfold State.g
    rw [hg d hd i hi]
  · intro d hd i hi
    unfold State.p
    rw [hp d hd i hi]
  · intro d hd i hi
    refine v_congr fun w hw => ?_
    rw [reg_excCtx _ (by simp only; omega), hs _ (by simp [stopRegs]; omega), h.v d hd i hi w hw]
  · exact kept_excCtx (by decide) h.keeps

theorem exceptedAt_of {c cause addr : Nat} {s u : State} (hc : c < 1024) (hk : cause < 256) (ha : addr < 2 ^ 64)
    (h : ExcBase c s u) : ExceptedAt c cause addr s (excCtx c cause (s.reg (ctxPc c)) addr u) := by
  refine ⟨excepted_of hc hk h, ?_⟩
  rw [reg_excCtx _ (by simp only; omega), stopCtx_excaddr ha]

theorem excBase_bump {c k : Nat} (s : State) : ExcBase c s (bump (R.KNC_CNT_ISSUE k) 1 s) := by
  refine ⟨?_, ?_, ?_, ?_, kept_bump (by decide) (keeps_refl _ _)⟩
  · rw [reg_bump_ne]; simp only [ne_eq]; omega
  · intro d _ i _; rw [reg_bump_ne]; simp only [ne_eq]; omega
  · intro d _ i _; rw [reg_bump_ne]; simp only [ne_eq]; omega
  · intro d _ i _ w _; rw [reg_bump_ne]; simp only [ne_eq]; omega

/-- An exception whose EXCADDR is a free value. -/
theorem excepted_excFree {c cause k : Nat} {s : State} (hc : c < 1024) (hk : cause < 256) :
    Excepted c cause s (excFree c cause (bump (R.KNC_CNT_ISSUE k) 1 s)) := by
  have hb := excBase_bump (c := c) (k := k) s
  unfold excFree freshWord
  dsimp only
  rw [show State.reg { (bump (R.KNC_CNT_ISSUE k) 1 s) with free := (bump (R.KNC_CNT_ISSUE k) 1 s).free + 1 } (ctxPc c) =
    s.reg (ctxPc c) from hb.pc]
  exact excepted_of hc hk ⟨hb.pc, hb.g, hb.p, hb.v, keeps_with_free (by decide) hb.keeps⟩

end Sys2Proof.Machine
end

