-- ==== Sys2Proof/Laws/Events.lean ====
section
/-! SUPPORT. For each operation of Machine/Events.lean, which parts of the state it may change: `kept_f` says that `f` keeps
everything but the parts listed in its first hypothesis, from any state that the states it is given were kept from. -/

namespace Sys2Proof.Machine

theorem kept_updEv {P : List Part} {base : State} {f : Recorder → Recorder} {s : State} (hP : sub [.ev] P) (h_s : Keeps P base s) :
    Keeps P base (updEv f s) := by
  unfold updEv
  try dsimp only
  with_reducible repeat' first
    | assumption
    | refine keeps_ite ?_ ?_
    | split
  all_goals try (with_reducible refine keeps_with_ev (sub_trans (by decide) hP) ?_)
  all_goals with_reducible repeat' first
    | assumption
    | refine keeps_ite ?_ ?_
    | split

theorem kept_clearSuppressed {P : List Part} {base : State} {k : Nat} {s : State} (hP : sub [.ev] P) (h_s : Keeps P base s) :
    Keeps P base (clearSuppressed k s) := by
  unfold clearSuppressed
  try dsimp only
  with_reducible repeat' first
    | assumption
    | refine keeps_ite ?_ ?_
    | refine kept_updEv (sub_trans (by decide) hP) ?_
    | split

theorem kept_writeRecord {P : List Part} {base : State} {a : Nat} {bs : List Byte} {s : State} (hP : sub [.ctl, .mem, .ev, .ms, .mxes, .persist] P) (h_s : Keeps P base s) :
    Keeps P base (writeRecord a bs s) := by
  unfold writeRecord
  try dsimp only
  with_reducible repeat' first
    | assumption
    | refine keeps_ite ?_ ?_
    | refine kept_poke (sub_trans (by decide) hP) ?_
    | split

theorem kept_mainWrite {P : List Part} {base : State} {e : EvRec} {suppressed : Nat} {tenant : Bool} {s : State} (hP : sub [.ctl, .mem, .ev, .ms, .mxes, .hp0, .persist, .out] P) (h_s : Keeps P base s) :
    PairKeeps P base (mainWrite e suppressed tenant s) := by
  unfold mainWrite
  try dsimp only
  with_reducible repeat' first
    | assumption
    | refine keeps_ite ?_ ?_
    | refine pairKeeps_ite ?_ ?_
    | refine snd_of ?_
    | refine kept_bump (sub_trans (by decide) hP) ?_
    | refine kept_sendMsix (sub_trans (by decide) hP) ?_
    | refine kept_setReg (sub_trans (by decide) hP) ?_
    | refine kept_writeRecord (sub_trans (by decide) hP) ?_
    | refine of_pair ?_ (by assumption)
    | split
    | refine keeps_pair ?_

theorem kept_toMain {P : List Part} {base : State} {e : EvRec} {tenant : Bool} {s : State} (hP : sub [.ctl, .mem, .ev, .ms, .mxes, .hp0, .persist, .out] P) (h_s : Keeps P base s) :
    Keeps P base (toMain e tenant s) := by
  unfold toMain
  try dsimp only
  with_reducible repeat' first
    | assumption
    | refine keeps_ite ?_ ?_
    | refine pairKeeps_ite ?_ ?_
    | refine snd_of ?_
    | refine kept_bump (sub_trans (by decide) hP) ?_
    | refine kept_clearSuppressed (sub_trans (by decide) hP) ?_
    | refine kept_mainWrite (sub_trans (by decide) hP) ?_
    | refine kept_updEv (sub_trans (by decide) hP) ?_
    | refine of_pair ?_ (by assumption)
    | split
    | refine keeps_pair ?_

theorem kept_trRdWrite {P : List Part} {base : State} {who : Who} {f : Nat} {val : Nat} {s : State} (hP : sub [.ctl, .ev] P) (h_s : Keeps P base s) :
    Keeps P base (trRdWrite who f val s) := by
  unfold trRdWrite
  try dsimp only
  with_reducible repeat' first
    | assumption
    | refine keeps_ite ?_ ?_
    | refine kept_ignoredWrite (sub_trans (by decide) hP) ?_
    | refine kept_setReg (sub_trans (by decide) hP) ?_
    | split

theorem kept_zeroRing {P : List Part} {base : State} {a : Nat} {n : Nat} {s : State} (hP : sub [.mem, .ms] P) (h_s : Keeps P base s) :
    Keeps P base (zeroRing a n s) := by
  unfold zeroRing
  try dsimp only
  with_reducible repeat' first
    | assumption
    | refine keeps_ite ?_ ?_
    | refine kept_rewriteFlips (sub_trans (by decide) hP) ?_
    | split
  all_goals try (with_reducible refine keeps_with_mem (sub_trans (by decide) hP) ?_ (fun q => by first | exact q | exact wf_memPuts _ _ q | exact wf_memZero _ _ q | exact wf_filter _ q))
  all_goals with_reducible repeat' first
    | assumption
    | refine keeps_ite ?_ ?_
    | refine kept_rewriteFlips (sub_trans (by decide) hP) ?_
    | split

theorem kept_mainBaseWrite {P : List Part} {base : State} {who : Who} {mask : Nat} {val : Nat} {s : State} (hP : sub [.ctl, .locks, .mem, .ev, .ms, .mxes, .hp0, .persist, .out] P) (h_s : Keeps P base s) :
    Keeps P base (mainBaseWrite who mask val s) := by
  unfold mainBaseWrite
  try dsimp only
  with_reducible repeat' first
    | assumption
    | refine keeps_ite ?_ ?_
    | refine pairKeeps_ite ?_ ?_
    | refine snd_of ?_
    | refine kept_ignoredWrite (sub_trans (by decide) hP) ?_
    | refine kept_lockBits (sub_trans (by decide) hP) ?_
    | refine kept_mainWrite (sub_trans (by decide) hP) ?_
    | refine kept_setReg (sub_trans (by decide) hP) ?_
    | refine kept_updEv (sub_trans (by decide) hP) ?_
    | refine kept_zeroRing (sub_trans (by decide) hP) ?_
    | refine keeps_foldl _ (fun _ _ _ => ?_) ?_
    | refine keeps_foldlP _ (fun _ _ _ => ?_) ?_
    | refine tripleKeeps_foldl _ (fun _ _ _ => ?_) ?_
    | refine objStepKeeps_foldl _ (fun _ _ _ => ?_) ?_
    | refine of_pair ?_ (by assumption)
    | split
    | refine keeps_pair ?_

theorem kept_evrCntClear {P : List Part} {base : State} {who : Who} {s : State} (hP : sub [.ctl, .ev] P) (h_s : Keeps P base s) :
    Keeps P base (evrCntClear who s) := by
  unfold evrCntClear
  try dsimp only
  with_reducible repeat' first
    | assumption
    | refine keeps_ite ?_ ?_
    | refine kept_ignoredWrite (sub_trans (by decide) hP) ?_
    | refine kept_zeroRegs (sub_trans (by decide) hP) ?_
    | refine optKeeps_map (fun _ => ?_)
    | split

theorem kept_codeCfgWrite {P : List Part} {base : State} {who : Who} {k : Nat} {val : Nat} {s : State} (hP : sub [.ctl, .ev] P) (h_s : Keeps P base s) :
    Keeps P base (codeCfgWrite who k val s) := by
  unfold codeCfgWrite
  try dsimp only
  with_reducible repeat' first
    | assumption
    | refine keeps_ite ?_ ?_
    | refine kept_ignoredWrite (sub_trans (by decide) hP) ?_
    | refine kept_setReg (sub_trans (by decide) hP) ?_
    | refine kept_updEv (sub_trans (by decide) hP) ?_
    | refine keeps_foldl _ (fun _ _ _ => ?_) ?_
    | refine keeps_foldlP _ (fun _ _ _ => ?_) ?_
    | refine tripleKeeps_foldl _ (fun _ _ _ => ?_) ?_
    | refine objStepKeeps_foldl _ (fun _ _ _ => ?_) ?_
    | split

theorem kept_trBaseWrite {P : List Part} {base : State} {who : Who} {t : Nat} {val : Nat} {s : State} (hP : sub [.ctl, .ev] P) (h_s : Keeps P base s) :
    Keeps P base (trBaseWrite who t val s) := by
  unfold trBaseWrite
  try dsimp only
  with_reducible repeat' first
    | assumption
    | refine keeps_ite ?_ ?_
    | refine kept_ignoredWrite (sub_trans (by decide) hP) ?_
    | refine kept_setReg (sub_trans (by decide) hP) ?_
    | split

theorem kept_trCtlWrite {P : List Part} {base : State} {who : Who} {t : Nat} {val : Nat} {s : State} (hP : sub [.ctl, .ev] P) (h_s : Keeps P base s) :
    Keeps P base (trCtlWrite who t val s) := by
  unfold trCtlWrite
  try dsimp only
  with_reducible repeat' first
    | assumption
    | refine keeps_ite ?_ ?_
    | refine kept_ignoredWrite (sub_trans (by decide) hP) ?_
    | refine kept_setReg (sub_trans (by decide) hP) ?_
    | refine kept_updEv (sub_trans (by decide) hP) ?_
    | split

theorem kept_dropRing {P : List Part} {base : State} {t : Nat} {s : State} (hP : sub [.ctl, .ev] P) (h_s : Keeps P base s) :
    Keeps P base (dropRing t s) := by
  unfold dropRing
  try dsimp only
  with_reducible repeat' first
    | assumption
    | refine keeps_ite ?_ ?_
    | refine kept_evSuppressTr (sub_trans (by decide) hP) ?_
    | refine kept_setFld (sub_trans (by decide) hP) ?_
    | split

theorem kept_toTenant {P : List Part} {base : State} {e : EvRec} {t : Nat} {s : State} (hP : sub [.ctl, .mem, .ev, .ms, .mxes, .hp0, .persist, .out] P) (h_s : Keeps P base s) :
    Keeps P base (toTenant e t s) := by
  unfold toTenant
  try dsimp only
  with_reducible repeat' first
    | assumption
    | refine keeps_ite ?_ ?_
    | refine kept_dropRing (sub_trans (by decide) hP) ?_
    | refine kept_evSuppressTr (sub_trans (by decide) hP) ?_
    | refine kept_sendMsix (sub_trans (by decide) hP) ?_
    | refine kept_setReg (sub_trans (by decide) hP) ?_
    | refine kept_updEv (sub_trans (by decide) hP) ?_
    | refine kept_writeRecord (sub_trans (by decide) hP) ?_
    | split

theorem kept_noteFatal {P : List Part} {base : State} {e : EvRec} {s : State} (hP : sub [.ev, .mgmt] P) (h_s : Keeps P base s) :
    Keeps P base (noteFatal e s) := by
  unfold noteFatal
  try dsimp only
  with_reducible repeat' first
    | assumption
    | refine keeps_ite ?_ ?_
    | refine kept_updEv (sub_trans (by decide) hP) ?_
    | split
  all_goals try (with_reducible refine keeps_with_mgmt (sub_trans (by decide) hP) ?_ (fun q => by first | exact q | exact wf_memPuts _ _ q | exact wf_memZero _ _ q | exact wf_filter _ q))
  all_goals with_reducible repeat' first
    | assumption
    | refine keeps_ite ?_ ?_
    | refine kept_updEv (sub_trans (by decide) hP) ?_
    | split
  all_goals try (with_reducible refine keeps_with_mgmt (sub_trans (by decide) hP) ?_ (fun q => by first | exact q | exact wf_memPuts _ _ q | exact wf_memZero _ _ q | exact wf_filter _ q))
  all_goals with_reducible repeat' first
    | assumption
    | refine keeps_ite ?_ ?_
    | refine kept_updEv (sub_trans (by decide) hP) ?_
    | split

theorem kept_acceptRecord {P : List Part} {base : State} {e : EvRec} {s : State} (hP : sub [.ctl, .mem, .ev, .ms, .mxes, .hp0, .mgmt, .persist, .out] P) (h_s : Keeps P base s) :
    Keeps P base (acceptRecord e s) := by
  unfold acceptRecord
  try dsimp only
  with_reducible repeat' first
    | assumption
    | refine keeps_ite ?_ ?_
    | refine kept_evSuppress (sub_trans (by decide) hP) ?_
    | refine kept_noteFatal (sub_trans (by decide) hP) ?_
    | refine kept_toMain (sub_trans (by decide) hP) ?_
    | refine kept_toTenant (sub_trans (by decide) hP) ?_
    | refine kept_updEv (sub_trans (by decide) hP) ?_
    | split

end Sys2Proof.Machine
end

