-- ==== Sys2Proof/Laws/Ports.lean ====
section
/-! SUPPORT. For each operation of Machine/Ports.lean, which parts of the state it may change: `kept_f` says that `f` keeps
everything but the parts listed in its first hypothesis, from any state that the states it is given were kept from. -/

namespace Sys2Proof.Machine

theorem kept_pltSysWrite {P : List Part} {base : State} {who : Who} {mask : Nat} {val : Nat} {s : State} (hP : sub [.ctl, .locks, .ev] P) (h_s : Keeps P base s) :
    Keeps P base (pltSysWrite who mask val s) := by
  unfold pltSysWrite
  try dsimp only
  with_reducible repeat' first
    | assumption
    | refine keeps_ite ?_ ?_
    | refine kept_ignoredWrite (sub_trans (by decide) hP) ?_
    | refine kept_lockBits (sub_trans (by decide) hP) ?_
    | refine kept_setPortState (sub_trans (by decide) hP) ?_
    | refine kept_setReg (sub_trans (by decide) hP) ?_
    | refine keeps_foldl _ (fun _ _ _ => ?_) ?_
    | refine keeps_foldlP _ (fun _ _ _ => ?_) ?_
    | refine tripleKeeps_foldl _ (fun _ _ _ => ?_) ?_
    | refine objStepKeeps_foldl _ (fun _ _ _ => ?_) ?_
    | split

theorem kept_portLost {P : List Part} {base : State} {p : Nat} {st : Nat} {s : State} (hP : sub [.ctl, .mem, .ev, .ms, .mxes, .plt, .fabQ, .persist] P) (h_s : Keeps P base s) :
    Keeps P base (portLost p st s) := by
  unfold portLost
  try dsimp only
  with_reducible repeat' first
    | assumption
    | refine keeps_ite ?_ ?_
    | refine kept_collCheck (sub_trans (by decide) hP) ?_
    | refine kept_portStop (sub_trans (by decide) hP) ?_
    | split

theorem kept_portStep {P : List Part} {base : State} {p : Nat} {k : Nat} {s : State} (hP : sub [.plt] P) (h_s : Keeps P base s) :
    Keeps P base (portStep p k s) := by
  unfold portStep
  try dsimp only
  with_reducible repeat' first
    | assumption
    | refine keeps_ite ?_ ?_
    | refine kept_updPort (sub_trans (by decide) hP) ?_
    | split

theorem kept_pltCtlWrite {P : List Part} {base : State} {who : Who} {val : Nat} {s : State} (hP : sub [.ctl, .mem, .ev, .ms, .mxes, .plt, .fabQ, .persist] P) (h_s : Keeps P base s) :
    Keeps P base (pltCtlWrite who val s) := by
  unfold pltCtlWrite
  try dsimp only
  with_reducible repeat' first
    | assumption
    | refine keeps_ite ?_ ?_
    | refine kept_ignoredWrite (sub_trans (by decide) hP) ?_
    | refine kept_portLost (sub_trans (by decide) hP) ?_
    | refine kept_portStep (sub_trans (by decide) hP) ?_
    | refine kept_setReg (sub_trans (by decide) hP) ?_
    | refine keeps_foldl _ (fun _ _ _ => ?_) ?_
    | refine keeps_foldlP _ (fun _ _ _ => ?_) ?_
    | refine tripleKeeps_foldl _ (fun _ _ _ => ?_) ?_
    | refine objStepKeeps_foldl _ (fun _ _ _ => ?_) ?_
    | split

theorem kept_replayRetry {P : List Part} {base : State} {p : Nat} {s : State} (hP : sub [.ctl] P) (h_s : Keeps P base s) :
    Keeps P base (replayRetry p s) := by
  unfold replayRetry
  try dsimp only
  with_reducible repeat' first
    | assumption
    | refine keeps_ite ?_ ?_
    | refine kept_bump (sub_trans (by decide) hP) ?_
    | split

theorem kept_sendControl {P : List Part} {base : State} {p : Nat} {s : State} (hP : sub [.ctl, .out] P) (h_s : Keeps P base s) :
    Keeps P base (sendControl p s) := by
  unfold sendControl
  try dsimp only
  with_reducible repeat' first
    | assumption
    | refine keeps_ite ?_ ?_
    | refine kept_bump (sub_trans (by decide) hP) ?_
    | refine kept_send (sub_trans (by decide) hP) ?_
    | refine optKeeps_map (fun _ => ?_)
    | split

theorem kept_sendNak {P : List Part} {base : State} {p : Nat} {s : State} (hP : sub [.ctl, .plt, .out] P) (h_s : Keeps P base s) :
    Keeps P base (sendNak p s) := by
  unfold sendNak
  try dsimp only
  with_reducible repeat' first
    | assumption
    | refine keeps_ite ?_ ?_
    | refine kept_sendControl (sub_trans (by decide) hP) ?_
    | refine kept_updPort (sub_trans (by decide) hP) ?_
    | split

theorem kept_portDown {P : List Part} {base : State} {p : Nat} {s : State} (hP : sub [.ctl, .mem, .ev, .ms, .mxes, .plt, .fabQ, .persist] P) (h_s : Keeps P base s) :
    Keeps P base (portDown p s) := by
  unfold portDown
  try dsimp only
  with_reducible repeat' first
    | assumption
    | refine keeps_ite ?_ ?_
    | refine kept_portEvent (sub_trans (by decide) hP) ?_
    | refine kept_portLost (sub_trans (by decide) hP) ?_
    | split

theorem kept_portDecide {P : List Part} {base : State} {p : Nat} {rec : ExchRecord} {s : State} (hP : sub [.ctl, .mem, .ev, .ms, .mxes, .plt, .fabQ, .persist] P) (h_s : Keeps P base s) :
    Keeps P base (portDecide p rec s) := by
  unfold portDecide
  try dsimp only
  with_reducible repeat' first
    | assumption
    | refine keeps_ite ?_ ?_
    | refine kept_portDown (sub_trans (by decide) hP) ?_
    | refine kept_portEvent (sub_trans (by decide) hP) ?_
    | refine kept_portLost (sub_trans (by decide) hP) ?_
    | refine kept_portStep (sub_trans (by decide) hP) ?_
    | refine kept_qosRefresh (sub_trans (by decide) hP) ?_
    | refine kept_setFld (sub_trans (by decide) hP) ?_
    | refine kept_setPortState (sub_trans (by decide) hP) ?_
    | refine kept_updPort (sub_trans (by decide) hP) ?_
    | split

theorem kept_arrivePacket {P : List Part} {base : State} {port : Nat} {s : State} {q : Packet} (hP : sub [.plt, .fabQ] P) (h_s : Keeps P base s) :
    Keeps P base (arrivePacket port s q) := by
  unfold arrivePacket
  try dsimp only
  with_reducible repeat' first
    | assumption
    | refine keeps_ite ?_ ?_
    | refine kept_queuePacket (sub_trans (by decide) hP) ?_
    | refine kept_updPlt (sub_trans (by decide) hP) ?_
    | split

theorem kept_windowFlit {P : List Part} {base : State} {p : Nat} {bad : Bool} {s : State} (hP : sub [.plt] P) (h_s : Keeps P base s) :
    Keeps P base (windowFlit p bad s) := by
  unfold windowFlit
  try dsimp only
  with_reducible repeat' first
    | assumption
    | refine keeps_ite ?_ ?_
    | refine kept_updPort (sub_trans (by decide) hP) ?_
    | split

theorem kept_portRetrain {P : List Part} {base : State} {p : Nat} {s : State} (hP : sub [.ctl, .ev] P) (h_s : Keeps P base s) :
    Keeps P base (portRetrain p s) := by
  unfold portRetrain
  try dsimp only
  with_reducible repeat' first
    | assumption
    | refine keeps_ite ?_ ?_
    | refine kept_bump (sub_trans (by decide) hP) ?_
    | refine kept_event (sub_trans (by decide) hP) ?_
    | refine kept_qosRefresh (sub_trans (by decide) hP) ?_
    | refine kept_setPortState (sub_trans (by decide) hP) ?_
    | split

end Sys2Proof.Machine
end

