-- ==== Sys2Proof/Laws/Leases.lean ====
section
/-! SUPPORT. For each operation of Machine/Leases.lean, which parts of the state it may change: `kept_f` says that `f` keeps
everything but the parts listed in its first hypothesis, from any state that the states it is given were kept from. -/

namespace Sys2Proof.Machine

theorem kept_takeLeaseMsg {P : List Part} {base : State} {type : Nat} {m : LeaseMsg} {s : State} (hP : sub [.plt] P) (h_s : Keeps P base s) :
    Keeps P base (takeLeaseMsg type m s) := by
  unfold takeLeaseMsg
  try dsimp only
  with_reducible repeat' first
    | assumption
    | refine keeps_ite ?_ ?_
    | refine kept_freeCredit (sub_trans (by decide) hP) ?_
    | refine kept_updPlt (sub_trans (by decide) hP) ?_
    | split

theorem kept_leaseMsg {P : List Part} {base : State} {lo : Nat} {type : Nat} {m : LeaseMsg} {f : Nat → State → State} {s : State} (hP : sub [.ctl, .plt] P) (h_f : ∀ x0 x1, Keeps P base x1 → Keeps P base (f x0 x1)) (h_s : Keeps P base s) :
    Keeps P base (leaseMsg lo type m f s) := by
  unfold leaseMsg
  try dsimp only
  with_reducible repeat' first
    | assumption
    | refine keeps_ite ?_ ?_
    | refine kept_bump (sub_trans (by decide) hP) ?_
    | refine kept_takeLeaseMsg (sub_trans (by decide) hP) ?_
    | refine h_f _ _ ?_
    | split

theorem kept_leaseSend {P : List Part} {base : State} {i : Nat} {msg : Nat} {s : State} (hP : sub [.plt, .fabQ] P) (h_s : Keeps P base s) :
    Keeps P base (leaseSend i msg s) := by
  unfold leaseSend
  try dsimp only
  with_reducible repeat' first
    | assumption
    | refine keeps_ite ?_ ?_
    | refine kept_queuePacket (sub_trans (by decide) hP) ?_
    | refine kept_updLease (sub_trans (by decide) hP) ?_
    | split

theorem kept_loutSizeWrite {P : List Part} {base : State} {who : Who} {i : Nat} {val : Nat} {s : State} (hP : sub [.ctl, .ev, .plt, .fabQ] P) (h_s : Keeps P base s) :
    Keeps P base (loutSizeWrite who i val s) := by
  unfold loutSizeWrite
  try dsimp only
  with_reducible repeat' first
    | assumption
    | refine keeps_ite ?_ ?_
    | refine kept_ignoredWrite (sub_trans (by decide) hP) ?_
    | refine kept_leaseSend (sub_trans (by decide) hP) ?_
    | refine kept_setReg (sub_trans (by decide) hP) ?_
    | split

theorem kept_borrowerNotice {P : List Part} {base : State} {i : Nat} {s : State} (hP : sub [.ctl, .ev, .plt] P) (h_s : Keeps P base s) :
    Keeps P base (borrowerNotice i s) := by
  unfold borrowerNotice
  try dsimp only
  with_reducible repeat' first
    | assumption
    | refine keeps_ite ?_ ?_
    | refine kept_event (sub_trans (by decide) hP) ?_
    | refine kept_setLeaseState (sub_trans (by decide) hP) ?_
    | refine kept_updLease (sub_trans (by decide) hP) ?_
    | split

theorem kept_linCtlWrite {P : List Part} {base : State} {who : Who} {i : Nat} {val : Nat} {s : State} (hP : sub [.ctl, .ev, .plt, .fabQ] P) (h_s : Keeps P base s) :
    Keeps P base (linCtlWrite who i val s) := by
  unfold linCtlWrite
  try dsimp only
  with_reducible repeat' first
    | assumption
    | refine keeps_ite ?_ ?_
    | refine kept_borrowerNotice (sub_trans (by decide) hP) ?_
    | refine kept_ignoredWrite (sub_trans (by decide) hP) ?_
    | refine kept_leaseSend (sub_trans (by decide) hP) ?_
    | refine kept_setFld (sub_trans (by decide) hP) ?_
    | refine kept_setLeaseState (sub_trans (by decide) hP) ?_
    | split

theorem kept_linDirtyWrite {P : List Part} {base : State} {who : Who} {i : Nat} {val : Nat} {s : State} (hP : sub [.ctl, .ev] P) (h_s : Keeps P base s) :
    Keeps P base (linDirtyWrite who i val s) := by
  unfold linDirtyWrite
  try dsimp only
  with_reducible repeat' first
    | assumption
    | refine keeps_ite ?_ ?_
    | refine kept_ignoredWrite (sub_trans (by decide) hP) ?_
    | refine kept_setFld (sub_trans (by decide) hP) ?_
    | split

theorem kept_loutCtlWrite {P : List Part} {base : State} {who : Who} {i : Nat} {val : Nat} {s : State} (hP : sub [.ctl, .ev, .plt, .fabQ] P) (h_s : Keeps P base s) :
    Keeps P base (loutCtlWrite who i val s) := by
  unfold loutCtlWrite
  try dsimp only
  with_reducible repeat' first
    | assumption
    | refine keeps_ite ?_ ?_
    | refine kept_ignoredWrite (sub_trans (by decide) hP) ?_
    | refine kept_leaseSend (sub_trans (by decide) hP) ?_
    | refine kept_setFld (sub_trans (by decide) hP) ?_
    | refine kept_setLeaseState (sub_trans (by decide) hP) ?_
    | refine kept_updLease (sub_trans (by decide) hP) ?_
    | split

theorem kept_loutBaseWrite {P : List Part} {base : State} {who : Who} {i : Nat} {val : Nat} {s : State} (hP : sub [.ctl, .ev] P) (h_s : Keeps P base s) :
    Keeps P base (loutBaseWrite who i val s) := by
  unfold loutBaseWrite
  try dsimp only
  with_reducible repeat' first
    | assumption
    | refine keeps_ite ?_ ?_
    | refine kept_ignoredWrite (sub_trans (by decide) hP) ?_
    | refine kept_setReg (sub_trans (by decide) hP) ?_
    | split

theorem kept_closeLease {P : List Part} {base : State} {i : Nat} {s : State} (hP : sub [.ctl, .mem, .ms, .plt] P) (h_s : Keeps P base s) :
    Keeps P base (closeLease i s) := by
  unfold closeLease
  try dsimp only
  with_reducible repeat' first
    | assumption
    | refine keeps_ite ?_ ?_
    | refine kept_setFld (sub_trans (by decide) hP) ?_
    | refine kept_setLeaseState (sub_trans (by decide) hP) ?_
    | refine kept_updLease (sub_trans (by decide) hP) ?_
    | split
  all_goals try (with_reducible refine keeps_mk ?_ rfl (Or.inl rfl) (Or.inl rfl) (Or.inl rfl) (Or.inl rfl) (Or.inl rfl) (Or.inr (sub_trans (by decide) hP)) (Or.inl rfl) (Or.inl rfl) (Or.inr (sub_trans (by decide) hP)) (Or.inl rfl) (Or.inl rfl) (Or.inl rfl) (Or.inl rfl) (Or.inl rfl) (Or.inl rfl) (Or.inl rfl) (Or.inl rfl) (Or.inl rfl) (Or.inl rfl) (Or.inl rfl) (Or.inl rfl) (Or.inl rfl) (Or.inl rfl) (Or.inl rfl) (Or.inl rfl) (Or.inl rfl) (by first | exact bytesWf_same | (intro q; have q := bytesWf_parts q; refine bytesWf_of ?_ ?_ ?_ ?_ <;> first | exact q.1 | exact q.2.1 | exact q.2.2.1 | exact q.2.2.2 | exact wf_memPuts _ _ q.1 | exact wf_memZero _ _ q.1 | exact wf_filter _ q.1 | exact wf_memPuts _ _ q.2.1 | exact wf_memZero _ _ q.2.1 | exact wf_filter _ q.2.1 | exact wf_memPuts _ _ q.2.2.1 | exact wf_memZero _ _ q.2.2.1 | exact wf_filter _ q.2.2.1 | exact wf_memPuts _ _ q.2.2.2 | exact wf_memZero _ _ q.2.2.2 | exact wf_filter _ q.2.2.2)))
  all_goals with_reducible repeat' first
    | assumption
    | refine keeps_ite ?_ ?_
    | refine kept_setFld (sub_trans (by decide) hP) ?_
    | refine kept_setLeaseState (sub_trans (by decide) hP) ?_
    | refine kept_updLease (sub_trans (by decide) hP) ?_
    | split
  all_goals try (with_reducible refine keeps_mk ?_ rfl (Or.inl rfl) (Or.inl rfl) (Or.inl rfl) (Or.inl rfl) (Or.inl rfl) (Or.inr (sub_trans (by decide) hP)) (Or.inl rfl) (Or.inl rfl) (Or.inr (sub_trans (by decide) hP)) (Or.inl rfl) (Or.inl rfl) (Or.inl rfl) (Or.inl rfl) (Or.inl rfl) (Or.inl rfl) (Or.inl rfl) (Or.inl rfl) (Or.inl rfl) (Or.inl rfl) (Or.inl rfl) (Or.inl rfl) (Or.inl rfl) (Or.inl rfl) (Or.inl rfl) (Or.inl rfl) (Or.inl rfl) (by first | exact bytesWf_same | (intro q; have q := bytesWf_parts q; refine bytesWf_of ?_ ?_ ?_ ?_ <;> first | exact q.1 | exact q.2.1 | exact q.2.2.1 | exact q.2.2.2 | exact wf_memPuts _ _ q.1 | exact wf_memZero _ _ q.1 | exact wf_filter _ q.1 | exact wf_memPuts _ _ q.2.1 | exact wf_memZero _ _ q.2.1 | exact wf_filter _ q.2.1 | exact wf_memPuts _ _ q.2.2.1 | exact wf_memZero _ _ q.2.2.1 | exact wf_filter _ q.2.2.1 | exact wf_memPuts _ _ q.2.2.2 | exact wf_memZero _ _ q.2.2.2 | exact wf_filter _ q.2.2.2)))
  all_goals with_reducible repeat' first
    | assumption
    | refine keeps_ite ?_ ?_
    | refine kept_setFld (sub_trans (by decide) hP) ?_
    | refine kept_setLeaseState (sub_trans (by decide) hP) ?_
    | refine kept_updLease (sub_trans (by decide) hP) ?_
    | split

theorem kept_leaseAnswered {P : List Part} {base : State} {i : Nat} {msg : Nat} {s : State} (hP : sub [.plt] P) (h_s : Keeps P base s) :
    Keeps P base (leaseAnswered i msg s) := by
  unfold leaseAnswered
  try dsimp only
  with_reducible repeat' first
    | assumption
    | refine keeps_ite ?_ ?_
    | refine kept_updLease (sub_trans (by decide) hP) ?_
    | split

theorem kept_closeBorrowed {P : List Part} {base : State} {i : Nat} {s : State} (hP : sub [.ctl, .mem, .ev, .ms, .t3, .mxes, .slots, .refetch, .engs, .plt, .persist] P) (h_s : Keeps P base s) :
    Keeps P base (closeBorrowed i s) := by
  unfold closeBorrowed
  try dsimp only
  with_reducible repeat' first
    | assumption
    | refine keeps_ite ?_ ?_
    | refine kept_closeLease (sub_trans (by decide) hP) ?_
    | refine kept_cutDrain (sub_trans (by decide) hP) ?_
    | refine kept_endLeaseObjects (sub_trans (by decide) hP) ?_
    | split

end Sys2Proof.Machine
end

