-- ==== Sys2Proof/Laws/Hp0.lean ====
section
/-! SUPPORT. For each operation of Machine/Hp0.lean, which parts of the state it may change: `kept_f` says that `f` keeps
everything but the parts listed in its first hypothesis, from any state that the states it is given were kept from. -/

namespace Sys2Proof.Machine

theorem kept_flrStopHp0 {P : List Part} {base : State} {f : Nat} {s : State} (hP : sub [.ctl, .knc, .hp0] P) (h_s : Keeps P base s) :
    Keeps P base (flrStopHp0 f s) := by
  unfold flrStopHp0
  try dsimp only
  with_reducible repeat' first
    | assumption
    | refine keeps_ite ?_ ?_
    | refine kept_updCfg (sub_trans (by decide) hP) ?_
    | refine kept_updHp0 (sub_trans (by decide) hP) ?_
    | refine kept_zeroRegs (sub_trans (by decide) hP) ?_
    | refine optKeeps_map (fun _ => ?_)
    | split
  all_goals try (with_reducible refine keeps_with_knc (sub_trans (by decide) hP) ?_)
  all_goals with_reducible repeat' first
    | assumption
    | refine keeps_ite ?_ ?_
    | refine kept_updCfg (sub_trans (by decide) hP) ?_
    | refine kept_updHp0 (sub_trans (by decide) hP) ?_
    | refine kept_zeroRegs (sub_trans (by decide) hP) ?_
    | refine optKeeps_map (fun _ => ?_)
    | split
  all_goals try (with_reducible refine keeps_with_knc (sub_trans (by decide) hP) ?_)
  all_goals with_reducible repeat' first
    | assumption
    | refine keeps_ite ?_ ?_
    | refine kept_updCfg (sub_trans (by decide) hP) ?_
    | refine kept_updHp0 (sub_trans (by decide) hP) ?_
    | refine kept_zeroRegs (sub_trans (by decide) hP) ?_
    | refine optKeeps_map (fun _ => ?_)
    | split

theorem kept_flrQueues {P : List Part} {base : State} {f : Nat} {s : State} (hP : sub [.ctl] P) (h_s : Keeps P base s) :
    Keeps P base (flrQueues f s) := by
  unfold flrQueues
  try dsimp only
  with_reducible repeat' first
    | assumption
    | refine keeps_ite ?_ ?_
    | refine kept_setReg (sub_trans (by decide) hP) ?_
    | refine kept_zeroRegs (sub_trans (by decide) hP) ?_
    | refine keeps_foldl _ (fun _ _ _ => ?_) ?_
    | refine keeps_foldlP _ (fun _ _ _ => ?_) ?_
    | refine tripleKeeps_foldl _ (fun _ _ _ => ?_) ?_
    | refine objStepKeeps_foldl _ (fun _ _ _ => ?_) ?_
    | split

theorem kept_flrTokens {P : List Part} {base : State} {f : Nat} {s : State} (hP : sub [.ctl, .knc, .hp0] P) (h_s : Keeps P base s) :
    Keeps P base (flrTokens f s) := by
  unfold flrTokens
  try dsimp only
  with_reducible repeat' first
    | assumption
    | refine keeps_ite ?_ ?_
    | refine kept_giveNotice (sub_trans (by decide) hP) ?_
    | refine kept_updHp0 (sub_trans (by decide) hP) ?_
    | refine keeps_foldl _ (fun _ _ _ => ?_) ?_
    | refine keeps_foldlP _ (fun _ _ _ => ?_) ?_
    | refine tripleKeeps_foldl _ (fun _ _ _ => ?_) ?_
    | refine objStepKeeps_foldl _ (fun _ _ _ => ?_) ?_
    | split

theorem kept_flrVf {P : List Part} {base : State} {s : State} {v : Nat} (hP : sub [.free, .ctl, .mem, .ev, .ms, .mxes, .slots, .refetch, .knc, .hp0, .engs, .tags, .persist] P) (h_s : Keeps P base s) :
    Keeps P base (flrVf s v) := by
  unfold flrVf
  try dsimp only
  with_reducible repeat' first
    | assumption
    | refine keeps_ite ?_ ?_
    | refine kept_bump (sub_trans (by decide) hP) ?_
    | refine kept_ctxFlr (sub_trans (by decide) hP) ?_
    | refine kept_engAbort (sub_trans (by decide) hP) ?_
    | refine kept_flrQueues (sub_trans (by decide) hP) ?_
    | refine kept_flrStopHp0 (sub_trans (by decide) hP) ?_
    | refine kept_flrTokens (sub_trans (by decide) hP) ?_
    | refine kept_updHp0 (sub_trans (by decide) hP) ?_
    | refine keeps_foldl _ (fun _ _ _ => ?_) ?_
    | refine keeps_foldlP _ (fun _ _ _ => ?_) ?_
    | refine tripleKeeps_foldl _ (fun _ _ _ => ?_) ?_
    | refine objStepKeeps_foldl _ (fun _ _ _ => ?_) ?_
    | split

theorem kept_flrPf0 {P : List Part} {base : State} {s : State} (hP : sub [.free, .ctl, .mem, .ev, .ms, .mxes, .slots, .refetch, .knc, .hp0, .engs, .tags, .mgmt, .persist, .out] P) (h_s : Keeps P base s) :
    Keeps P base (flrPf0 s) := by
  unfold flrPf0
  try dsimp only
  with_reducible repeat' first
    | assumption
    | refine keeps_ite ?_ ?_
    | refine kept_bump (sub_trans (by decide) hP) ?_
    | refine kept_flrQueues (sub_trans (by decide) hP) ?_
    | refine kept_flrStopHp0 (sub_trans (by decide) hP) ?_
    | refine kept_flrTokens (sub_trans (by decide) hP) ?_
    | refine kept_flrVf (sub_trans (by decide) hP) ?_
    | refine kept_updCfg (sub_trans (by decide) hP) ?_
    | refine kept_updHp0 (sub_trans (by decide) hP) ?_
    | refine kept_winRun (sub_trans (by decide) hP) ?_
    | refine keeps_foldl _ (fun _ _ _ => ?_) ?_
    | refine keeps_foldlP _ (fun _ _ _ => ?_) ?_
    | refine tripleKeeps_foldl _ (fun _ _ _ => ?_) ?_
    | refine objStepKeeps_foldl _ (fun _ _ _ => ?_) ?_
    | refine optKeeps_map (fun _ => ?_)
    | split
  all_goals try (with_reducible refine keeps_mk ?_ rfl (Or.inl rfl) (Or.inl rfl) (Or.inr (sub_trans (by decide) hP)) (Or.inl rfl) (Or.inl rfl) (Or.inl rfl) (Or.inl rfl) (Or.inl rfl) (Or.inl rfl) (Or.inl rfl) (Or.inl rfl) (Or.inl rfl) (Or.inl rfl) (Or.inl rfl) (Or.inl rfl) (Or.inl rfl) (Or.inl rfl) (Or.inl rfl) (Or.inl rfl) (Or.inl rfl) (Or.inl rfl) (Or.inl rfl) (Or.inl rfl) (Or.inr (sub_trans (by decide) hP)) (Or.inl rfl) (Or.inl rfl) (by first | exact bytesWf_same | (intro q; have q := bytesWf_parts q; refine bytesWf_of ?_ ?_ ?_ ?_ <;> first | exact q.1 | exact q.2.1 | exact q.2.2.1 | exact q.2.2.2 | exact wf_memPuts _ _ q.1 | exact wf_memZero _ _ q.1 | exact wf_filter _ q.1 | exact wf_memPuts _ _ q.2.1 | exact wf_memZero _ _ q.2.1 | exact wf_filter _ q.2.1 | exact wf_memPuts _ _ q.2.2.1 | exact wf_memZero _ _ q.2.2.1 | exact wf_filter _ q.2.2.1 | exact wf_memPuts _ _ q.2.2.2 | exact wf_memZero _ _ q.2.2.2 | exact wf_filter _ q.2.2.2)))
  all_goals with_reducible repeat' first
    | assumption
    | refine keeps_ite ?_ ?_
    | refine kept_bump (sub_trans (by decide) hP) ?_
    | refine kept_flrQueues (sub_trans (by decide) hP) ?_
    | refine kept_flrStopHp0 (sub_trans (by decide) hP) ?_
    | refine kept_flrTokens (sub_trans (by decide) hP) ?_
    | refine kept_flrVf (sub_trans (by decide) hP) ?_
    | refine kept_updCfg (sub_trans (by decide) hP) ?_
    | refine kept_updHp0 (sub_trans (by decide) hP) ?_
    | refine kept_winRun (sub_trans (by decide) hP) ?_
    | refine keeps_foldl _ (fun _ _ _ => ?_) ?_
    | refine keeps_foldlP _ (fun _ _ _ => ?_) ?_
    | refine tripleKeeps_foldl _ (fun _ _ _ => ?_) ?_
    | refine objStepKeeps_foldl _ (fun _ _ _ => ?_) ?_
    | refine optKeeps_map (fun _ => ?_)
    | split
  all_goals try (with_reducible refine keeps_mk ?_ rfl (Or.inl rfl) (Or.inl rfl) (Or.inr (sub_trans (by decide) hP)) (Or.inl rfl) (Or.inl rfl) (Or.inl rfl) (Or.inl rfl) (Or.inl rfl) (Or.inl rfl) (Or.inl rfl) (Or.inl rfl) (Or.inl rfl) (Or.inl rfl) (Or.inl rfl) (Or.inl rfl) (Or.inl rfl) (Or.inl rfl) (Or.inl rfl) (Or.inl rfl) (Or.inl rfl) (Or.inl rfl) (Or.inl rfl) (Or.inl rfl) (Or.inr (sub_trans (by decide) hP)) (Or.inl rfl) (Or.inl rfl) (by first | exact bytesWf_same | (intro q; have q := bytesWf_parts q; refine bytesWf_of ?_ ?_ ?_ ?_ <;> first | exact q.1 | exact q.2.1 | exact q.2.2.1 | exact q.2.2.2 | exact wf_memPuts _ _ q.1 | exact wf_memZero _ _ q.1 | exact wf_filter _ q.1 | exact wf_memPuts _ _ q.2.1 | exact wf_memZero _ _ q.2.1 | exact wf_filter _ q.2.1 | exact wf_memPuts _ _ q.2.2.1 | exact wf_memZero _ _ q.2.2.1 | exact wf_filter _ q.2.2.1 | exact wf_memPuts _ _ q.2.2.2 | exact wf_memZero _ _ q.2.2.2 | exact wf_filter _ q.2.2.2)))
  all_goals with_reducible repeat' first
    | assumption
    | refine keeps_ite ?_ ?_
    | refine kept_bump (sub_trans (by decide) hP) ?_
    | refine kept_flrQueues (sub_trans (by decide) hP) ?_
    | refine kept_flrStopHp0 (sub_trans (by decide) hP) ?_
    | refine kept_flrTokens (sub_trans (by decide) hP) ?_
    | refine kept_flrVf (sub_trans (by decide) hP) ?_
    | refine kept_updCfg (sub_trans (by decide) hP) ?_
    | refine kept_updHp0 (sub_trans (by decide) hP) ?_
    | refine kept_winRun (sub_trans (by decide) hP) ?_
    | refine keeps_foldl _ (fun _ _ _ => ?_) ?_
    | refine keeps_foldlP _ (fun _ _ _ => ?_) ?_
    | refine tripleKeeps_foldl _ (fun _ _ _ => ?_) ?_
    | refine objStepKeeps_foldl _ (fun _ _ _ => ?_) ?_
    | refine optKeeps_map (fun _ => ?_)
    | split

theorem kept_holdQueue {P : List Part} {base : State} {f : Nat} {q : Nat} {why : Nat} {s : State} (hP : sub [.ctl, .ev] P) (h_s : Keeps P base s) :
    Keeps P base (holdQueue f q why s) := by
  unfold holdQueue
  try dsimp only
  with_reducible repeat' first
    | assumption
    | refine keeps_ite ?_ ?_
    | refine kept_fnEvent (sub_trans (by decide) hP) ?_
    | refine kept_setFld (sub_trans (by decide) hP) ?_
    | split

theorem kept_hotReset {P : List Part} {base : State} {s : State} (hP : sub [.free, .ctl, .mem, .ev, .ms, .mxes, .slots, .refetch, .knc, .hp0, .engs, .tags, .mgmt, .persist, .out] P) (h_s : Keeps P base s) :
    Keeps P base (hotReset s) := by
  unfold hotReset
  try dsimp only
  with_reducible repeat' first
    | assumption
    | refine keeps_ite ?_ ?_
    | refine kept_flrPf0 (sub_trans (by decide) hP) ?_
    | refine kept_setFld (sub_trans (by decide) hP) ?_
    | refine kept_updHp0 (sub_trans (by decide) hP) ?_
    | split

theorem kept_linkChange {P : List Part} {base : State} {link : PcieLink} {st : Nat} {speed : Nat} {width : Nat} {mode : Bool} {s : State} (hP : sub [.free, .ctl, .mem, .ev, .ms, .t3, .mxes, .slots, .refetch, .knc, .hp0, .engs, .tags, .mgmt, .persist, .out] P) (h_s : Keeps P base s) :
    Keeps P base (linkChange link st speed width mode s) := by
  unfold linkChange
  try dsimp only
  with_reducible repeat' first
    | assumption
    | refine keeps_ite ?_ ?_
    | refine kept_flushMsix (sub_trans (by decide) hP) ?_
    | refine kept_hotReset (sub_trans (by decide) hP) ?_
    | refine kept_qosRefresh (sub_trans (by decide) hP) ?_
    | refine kept_setReg (sub_trans (by decide) hP) ?_
    | refine keeps_foldl _ (fun _ _ _ => ?_) ?_
    | refine keeps_foldlP _ (fun _ _ _ => ?_) ?_
    | refine tripleKeeps_foldl _ (fun _ _ _ => ?_) ?_
    | refine objStepKeeps_foldl _ (fun _ _ _ => ?_) ?_
    | split
  all_goals try (with_reducible refine keeps_with_t3 (sub_trans (by decide) hP) ?_ (fun q => by first | exact q | exact wf_memPuts _ _ q | exact wf_memZero _ _ q | exact wf_filter _ q))
  all_goals with_reducible repeat' first
    | assumption
    | refine keeps_ite ?_ ?_
    | refine kept_flushMsix (sub_trans (by decide) hP) ?_
    | refine kept_hotReset (sub_trans (by decide) hP) ?_
    | refine kept_qosRefresh (sub_trans (by decide) hP) ?_
    | refine kept_setReg (sub_trans (by decide) hP) ?_
    | refine keeps_foldl _ (fun _ _ _ => ?_) ?_
    | refine keeps_foldlP _ (fun _ _ _ => ?_) ?_
    | refine tripleKeeps_foldl _ (fun _ _ _ => ?_) ?_
    | refine objStepKeeps_foldl _ (fun _ _ _ => ?_) ?_
    | split
  all_goals try (with_reducible refine keeps_with_t3 (sub_trans (by decide) hP) ?_ (fun q => by first | exact q | exact wf_memPuts _ _ q | exact wf_memZero _ _ q | exact wf_filter _ q))
  all_goals with_reducible repeat' first
    | assumption
    | refine keeps_ite ?_ ?_
    | refine kept_flushMsix (sub_trans (by decide) hP) ?_
    | refine kept_hotReset (sub_trans (by decide) hP) ?_
    | refine kept_qosRefresh (sub_trans (by decide) hP) ?_
    | refine kept_setReg (sub_trans (by decide) hP) ?_
    | refine keeps_foldl _ (fun _ _ _ => ?_) ?_
    | refine keeps_foldlP _ (fun _ _ _ => ?_) ?_
    | refine tripleKeeps_foldl _ (fun _ _ _ => ?_) ?_
    | refine objStepKeeps_foldl _ (fun _ _ _ => ?_) ?_
    | split

theorem kept_takeEntry {P : List Part} {base : State} {f : Nat} {q : Nat} {ctx : Option Nat} {e : List Byte} {s : State} (hP : sub [.free, .ctl, .knc, .hp0] P) (h_s : Keeps P base s) :
    Keeps P base (takeEntry f q ctx e s) := by
  unfold takeEntry
  try dsimp only
  with_reducible repeat' first
    | assumption
    | refine keeps_ite ?_ ?_
    | refine kept_bump (sub_trans (by decide) hP) ?_
    | refine kept_chargeInflight (sub_trans (by decide) hP) ?_
    | refine kept_dropToken (sub_trans (by decide) hP) ?_
    | refine kept_ownCompletion (sub_trans (by decide) hP) ?_
    | refine kept_pushIntake (sub_trans (by decide) hP) ?_
    | refine kept_setFld (sub_trans (by decide) hP) ?_
    | refine kept_updHp0 (sub_trans (by decide) hP) ?_
    | split

end Sys2Proof.Machine
end

