-- ==== Sys2Proof/Laws/PoolOps.lean ====
section
/-! SUPPORT. For each operation of Machine/PoolOps.lean, which parts of the state it may change: `kept_f` says that `f` keeps
everything but the parts listed in its first hypothesis, from any state that the states it is given were kept from. -/

namespace Sys2Proof.Machine

theorem kept_updPool {P : List Part} {base : State} {f : Pool → Pool} {s : State} (hP : sub [.pool] P) (h_s : Keeps P base s) :
    Keeps P base (updPool f s) := by
  unfold updPool
  try dsimp only
  with_reducible repeat' first
    | assumption
    | refine keeps_ite ?_ ?_
    | split
  all_goals try (with_reducible refine keeps_with_pool (sub_trans (by decide) hP) ?_)
  all_goals with_reducible repeat' first
    | assumption
    | refine keeps_ite ?_ ?_
    | split

theorem kept_uncache {P : List Part} {base : State} {page : Nat} {s : State} (hP : sub [.pool] P) (h_s : Keeps P base s) :
    Keeps P base (uncache page s) := by
  unfold uncache
  try dsimp only
  with_reducible repeat' first
    | assumption
    | refine keeps_ite ?_ ?_
    | refine kept_updPool (sub_trans (by decide) hP) ?_
    | split

theorem kept_putDir {P : List Part} {base : State} {page : Nat} {d : DirEnt} {s : State} (hP : sub [.pool] P) (h_s : Keeps P base s) :
    Keeps P base (putDir page d s) := by
  unfold putDir
  try dsimp only
  with_reducible repeat' first
    | assumption
    | refine keeps_ite ?_ ?_
    | refine kept_updPool (sub_trans (by decide) hP) ?_
    | split

theorem kept_movedBytes {P : List Part} {base : State} {n : Nat} {s : State} (hP : sub [.ctl] P) (h_s : Keeps P base s) :
    Keeps P base (movedBytes n s) := by
  unfold movedBytes
  try dsimp only
  with_reducible repeat' first
    | assumption
    | refine keeps_ite ?_ ?_
    | refine kept_bump (sub_trans (by decide) hP) ?_
    | split

theorem kept_poolTouch {P : List Part} {base : State} {t : RegTarget} {s : State} (hP : sub [.qos] P) (h_s : Keeps P base s) :
    Keeps P base (poolTouch t s) := by
  unfold poolTouch
  try dsimp only
  with_reducible repeat' first
    | assumption
    | refine keeps_ite ?_ ?_
    | refine kept_poolUses (sub_trans (by decide) hP) ?_
    | refine keeps_foldl _ (fun _ _ _ => ?_) ?_
    | refine keeps_foldlP _ (fun _ _ _ => ?_) ?_
    | refine tripleKeeps_foldl _ (fun _ _ _ => ?_) ?_
    | refine objStepKeeps_foldl _ (fun _ _ _ => ?_) ?_
    | split

theorem kept_writeHome {P : List Part} {base : State} {page : Nat} {f : List Byte} {s : State} (hP : sub [.ctl, .mem, .ev, .ms, .mxes, .qos, .pool, .persist] P) (h_s : Keeps P base s) :
    OptKeeps P base (writeHome page f s) := by
  unfold writeHome
  try dsimp only
  with_reducible repeat' first
    | assumption
    | refine keeps_ite ?_ ?_
    | refine pairKeeps_ite ?_ ?_
    | refine optKeeps_ite ?_ ?_
    | refine optPairKeeps_ite ?_ ?_
    | refine keeps_some ?_
    | refine keeps_none
    | refine keeps_someP ?_
    | refine keeps_noneP
    | refine snd_of ?_
    | refine kept_movedBytes (sub_trans (by decide) hP) ?_
    | refine kept_poolTouch (sub_trans (by decide) hP) ?_
    | refine kept_putDir (sub_trans (by decide) hP) ?_
    | refine kept_writeRangeBy (sub_trans (by decide) hP) ?_
    | refine of_pair ?_ (by assumption)
    | refine of_some ?_ (by assumption)
    | refine of_someP ?_ (by assumption)
    | split
    | refine keeps_pair ?_

theorem kept_evict {P : List Part} {base : State} {page : Nat} {s : State} (hP : sub [.ctl, .mem, .ev, .ms, .t3, .mxes, .qos, .pool, .persist] P) (h_s : Keeps P base s) :
    Keeps P base (evict page s) := by
  unfold evict
  try dsimp only
  with_reducible repeat' first
    | assumption
    | refine keeps_ite ?_ ?_
    | refine optKeeps_ite ?_ ?_
    | refine optPairKeeps_ite ?_ ?_
    | refine keeps_some ?_
    | refine keeps_none
    | refine keeps_someP ?_
    | refine keeps_noneP
    | refine kept_movedBytes (sub_trans (by decide) hP) ?_
    | refine kept_nvmeSubmitAt (sub_trans (by decide) hP) ?_
    | refine kept_poolTouch (sub_trans (by decide) hP) ?_
    | refine kept_putDir (sub_trans (by decide) hP) ?_
    | refine kept_uncache (sub_trans (by decide) hP) ?_
    | refine kept_writeHome (sub_trans (by decide) hP) ?_
    | refine of_some ?_ (by assumption)
    | refine of_someP ?_ (by assumption)
    | split

theorem kept_makeRoom {P : List Part} {base : State} {keep : Nat} {s : State} (hP : sub [.ctl, .mem, .ev, .ms, .t3, .mxes, .qos, .pool, .persist] P) (h_s : Keeps P base s) :
    Keeps P base (makeRoom keep s) := by
  unfold makeRoom
  try dsimp only
  with_reducible repeat' first
    | assumption
    | refine keeps_ite ?_ ?_
    | refine kept_evict (sub_trans (by decide) hP) ?_
    | refine keeps_foldl _ (fun _ _ _ => ?_) ?_
    | refine keeps_foldlP _ (fun _ _ _ => ?_) ?_
    | refine tripleKeeps_foldl _ (fun _ _ _ => ?_) ?_
    | refine objStepKeeps_foldl _ (fun _ _ _ => ?_) ?_
    | refine optKeeps_map (fun _ => ?_)
    | split

theorem kept_install {P : List Part} {base : State} {page : Nat} {dirty : Bool} {f : List Byte} {s : State} (hP : sub [.ctl, .mem, .ev, .ms, .t3, .mxes, .qos, .pool, .persist] P) (h_s : Keeps P base s) :
    Keeps P base (install page dirty f s) := by
  unfold install
  try dsimp only
  with_reducible repeat' first
    | assumption
    | refine keeps_ite ?_ ?_
    | refine kept_makeRoom (sub_trans (by decide) hP) ?_
    | refine kept_updPool (sub_trans (by decide) hP) ?_
    | split

theorem kept_landFrame {P : List Part} {base : State} {page : Nat} {f : List Byte} {damaged : Bool} {s : State} (hP : sub [.free, .ctl, .mem, .ev, .ms, .t3, .mxes, .qos, .pool, .persist] P) (h_s : Keeps P base s) :
    Keeps P base (landFrame page f damaged s) := by
  unfold landFrame
  try dsimp only
  with_reducible repeat' first
    | assumption
    | refine keeps_ite ?_ ?_
    | refine pairKeeps_ite ?_ ?_
    | refine snd_of ?_
    | refine kept_freshWord (sub_trans (by decide) hP) ?_
    | refine kept_install (sub_trans (by decide) hP) ?_
    | refine of_pair ?_ (by assumption)
    | split
    | refine keeps_pair ?_

theorem kept_readTable {P : List Part} {base : State} {r : Reg} {f : Fld} {off : Nat} {s : State} (hP : sub [.ctl, .mem, .ev, .ms, .persist] P) (h_s : Keeps P base s) :
    TripleKeeps P base (readTable r f off s) := by
  unfold readTable
  try dsimp only
  with_reducible repeat' first
    | assumption
    | refine keeps_ite ?_ ?_
    | refine tripleKeeps_ite ?_ ?_
    | refine snd2_of ?_
    | refine kept_readWords (sub_trans (by decide) hP) ?_
    | refine of_triple ?_ (by assumption)
    | split
    | refine keeps_triple ?_

theorem kept_syncSnap {P : List Part} {base : State} {r : Nat} {s : State} (hP : sub [.ctl] P) (h_s : Keeps P base s) :
    Keeps P base (syncSnap r s) := by
  unfold syncSnap
  try dsimp only
  with_reducible repeat' first
    | assumption
    | refine keeps_ite ?_ ?_
    | refine kept_setReg (sub_trans (by decide) hP) ?_
    | split

theorem kept_updSnap {P : List Part} {base : State} {r : Nat} {f : Snap → Snap} {s : State} (hP : sub [.ctl, .pool] P) (h_s : Keeps P base s) :
    Keeps P base (updSnap r f s) := by
  unfold updSnap
  try dsimp only
  with_reducible repeat' first
    | assumption
    | refine keeps_ite ?_ ?_
    | refine kept_syncSnap (sub_trans (by decide) hP) ?_
    | refine kept_updPool (sub_trans (by decide) hP) ?_
    | split

theorem kept_updSnapHost {P : List Part} {base : State} {r : Nat} {spid : Nat} {f : SnapHost → SnapHost} {s : State} (hP : sub [.ctl, .pool] P) (h_s : Keeps P base s) :
    Keeps P base (updSnapHost r spid f s) := by
  unfold updSnapHost
  try dsimp only
  with_reducible repeat' first
    | assumption
    | refine keeps_ite ?_ ?_
    | refine kept_updSnap (sub_trans (by decide) hP) ?_
    | split

theorem kept_readDir {P : List Part} {base : State} {page : Nat} {s : State} (hP : sub [.ctl, .mem, .ev, .ms, .persist] P) (h_s : Keeps P base s) :
    Keeps P base (readDir page s) := by
  unfold readDir
  try dsimp only
  with_reducible repeat' first
    | assumption
    | refine keeps_ite ?_ ?_
    | refine tripleKeeps_ite ?_ ?_
    | refine snd2_of ?_
    | refine kept_readTable (sub_trans (by decide) hP) ?_
    | refine kept_restoreWords (sub_trans (by decide) hP) ?_
    | refine of_triple ?_ (by assumption)
    | split
    | refine keeps_triple ?_

theorem kept_foldPage {P : List Part} {base : State} {s : State} {p : Nat × List Byte} (hP : sub [.ctl, .mem, .ev, .ms, .t3, .mxes, .qos, .pool, .persist] P) (h_s : Keeps P base s) :
    Keeps P base (foldPage s p) := by
  unfold foldPage
  try dsimp only
  with_reducible repeat' first
    | assumption
    | refine keeps_ite ?_ ?_
    | refine optKeeps_ite ?_ ?_
    | refine optPairKeeps_ite ?_ ?_
    | refine keeps_some ?_
    | refine keeps_none
    | refine keeps_someP ?_
    | refine keeps_noneP
    | refine kept_install (sub_trans (by decide) hP) ?_
    | refine kept_uncache (sub_trans (by decide) hP) ?_
    | refine kept_writeHome (sub_trans (by decide) hP) ?_
    | refine keeps_getD ?_ ?_
    | refine of_some ?_ (by assumption)
    | refine of_someP ?_ (by assumption)
    | split

theorem kept_checkCached {P : List Part} {base : State} {page : Nat} {s : State} (hP : sub [.free, .ctl, .mem, .ev, .ms, .t3, .mxes, .qos, .pool, .persist] P) (h_s : Keeps P base s) :
    Keeps P base (checkCached page s) := by
  unfold checkCached
  try dsimp only
  with_reducible repeat' first
    | assumption
    | refine keeps_ite ?_ ?_
    | refine pairKeeps_ite ?_ ?_
    | refine snd_of ?_
    | refine kept_freshBool (sub_trans (by decide) hP) ?_
    | refine kept_freshWord (sub_trans (by decide) hP) ?_
    | refine kept_install (sub_trans (by decide) hP) ?_
    | refine kept_uncache (sub_trans (by decide) hP) ?_
    | refine of_pair ?_ (by assumption)
    | split
    | refine keeps_pair ?_

theorem kept_snapDone {P : List Part} {base : State} {r : Nat} {spid : Nat} {seq : Nat} {n : Nat} {st : Nat} {s : State} (hP : sub [.free, .ctl, .pool] P) (h_s : Keeps P base s) :
    Keeps P base (snapDone r spid seq n st s) := by
  unfold snapDone
  try dsimp only
  with_reducible repeat' first
    | assumption
    | refine keeps_ite ?_ ?_
    | refine pairKeeps_ite ?_ ?_
    | refine snd_of ?_
    | refine kept_freshWord (sub_trans (by decide) hP) ?_
    | refine kept_updSnapHost (sub_trans (by decide) hP) ?_
    | refine of_pair ?_ (by assumption)
    | split
    | refine keeps_pair ?_

theorem kept_takeBucket {P : List Part} {base : State} {h : Nat} {s : State} (hP : sub [.pool] P) (h_s : Keeps P base s) :
    Keeps P base (takeBucket h s) := by
  unfold takeBucket
  try dsimp only
  with_reducible repeat' first
    | assumption
    | refine keeps_ite ?_ ?_
    | refine kept_updPool (sub_trans (by decide) hP) ?_
    | split

theorem kept_poolReply {P : List Part} {base : State} {q : PoolReq} {data : List Byte} {poison : Bool} {s : State} (hP : sub [.ctl, .out] P) (h_s : Keeps P base s) :
    Keeps P base (poolReply q data poison s) := by
  unfold poolReply
  try dsimp only
  with_reducible repeat' first
    | assumption
    | refine keeps_ite ?_ ?_
    | refine kept_bump (sub_trans (by decide) hP) ?_
    | refine kept_send (sub_trans (by decide) hP) ?_
    | split

theorem kept_poolAnswer {P : List Part} {base : State} {p : PoolPend} {data : List Byte} {poison : Bool} {s : State} (hP : sub [.ctl, .out] P) (h_s : Keeps P base s) :
    Keeps P base (poolAnswer p data poison s) := by
  unfold poolAnswer
  try dsimp only
  with_reducible repeat' first
    | assumption
    | refine keeps_ite ?_ ?_
    | refine kept_poolReply (sub_trans (by decide) hP) ?_
    | split

theorem kept_poolRefuse {P : List Part} {base : State} {q : PoolReq} {s : State} (hP : sub [.ctl, .out] P) (h_s : Keeps P base s) :
    Keeps P base (poolRefuse q s) := by
  unfold poolRefuse
  try dsimp only
  with_reducible repeat' first
    | assumption
    | refine keeps_ite ?_ ?_
    | refine kept_poolReply (sub_trans (by decide) hP) ?_
    | split

theorem kept_snapTrim {P : List Part} {base : State} {r : Nat} {s : State} (hP : sub [.ctl, .mem, .ev, .ms, .t3, .mxes, .qos, .pool, .persist] P) (h_s : Keeps P base s) :
    Keeps P base (snapTrim r s) := by
  unfold snapTrim
  try dsimp only
  with_reducible repeat' first
    | assumption
    | refine keeps_ite ?_ ?_
    | refine kept_foldPage (sub_trans (by decide) hP) ?_
    | refine kept_updSnap (sub_trans (by decide) hP) ?_
    | refine keeps_foldl _ (fun _ _ _ => ?_) ?_
    | refine keeps_foldlP _ (fun _ _ _ => ?_) ?_
    | refine tripleKeeps_foldl _ (fun _ _ _ => ?_) ?_
    | refine objStepKeeps_foldl _ (fun _ _ _ => ?_) ?_
    | split

theorem kept_snapCommand {P : List Part} {base : State} {r : Nat} {spid : Nat} {e : Nat} {op : Nat} {seq : Nat} {s : State} (hP : sub [.free, .ctl, .mem, .ev, .ms, .t3, .mxes, .qos, .pool, .persist] P) (h_s : Keeps P base s) :
    Keeps P base (snapCommand r spid e op seq s) := by
  unfold snapCommand
  try dsimp only
  with_reducible repeat' first
    | assumption
    | refine keeps_ite ?_ ?_
    | refine kept_blockEventOpen (sub_trans (by decide) hP) ?_
    | refine kept_bump (sub_trans (by decide) hP) ?_
    | refine kept_snapDone (sub_trans (by decide) hP) ?_
    | refine kept_snapTrim (sub_trans (by decide) hP) ?_
    | refine kept_updSnap (sub_trans (by decide) hP) ?_
    | refine kept_updSnapHost (sub_trans (by decide) hP) ?_
    | split

theorem kept_poolReadLine {P : List Part} {base : State} {q : PoolReq} {p : PoolPage} {l : Nat} {s : State} (hP : sub [.free, .ctl, .out] P) (h_s : Keeps P base s) :
    Keeps P base (poolReadLine q p l s) := by
  unfold poolReadLine
  try dsimp only
  with_reducible repeat' first
    | assumption
    | refine keeps_ite ?_ ?_
    | refine pairKeeps_ite ?_ ?_
    | refine snd_of ?_
    | refine kept_freshBytes (sub_trans (by decide) hP) ?_
    | refine kept_poolReply (sub_trans (by decide) hP) ?_
    | refine of_pair ?_ (by assumption)
    | split
    | refine keeps_pair ?_

theorem kept_setRangeState {P : List Part} {base : State} {e : Nat} {v : Nat} {s : State} (hP : sub [.ctl] P) (h_s : Keeps P base s) :
    Keeps P base (setRangeState e v s) := by
  unfold setRangeState
  try dsimp only
  with_reducible repeat' first
    | assumption
    | refine keeps_ite ?_ ?_
    | refine kept_setFld (sub_trans (by decide) hP) ?_
    | split

theorem kept_snapDrop {P : List Part} {base : State} {r : Nat} {spid : Nat} {s : State} (hP : sub [.ctl, .mem, .ev, .ms, .t3, .mxes, .qos, .pool, .persist] P) (h_s : Keeps P base s) :
    Keeps P base (snapDrop r spid s) := by
  unfold snapDrop
  try dsimp only
  with_reducible repeat' first
    | assumption
    | refine keeps_ite ?_ ?_
    | refine kept_snapTrim (sub_trans (by decide) hP) ?_
    | refine kept_updSnapHost (sub_trans (by decide) hP) ?_
    | split

end Sys2Proof.Machine
end

