-- ==== Sys2Proof/Laws/Pool.lean ====
section
/-! SUPPORT. For each operation of Machine/Pool.lean, which parts of the state it may change: `kept_f` says that `f` keeps
everything but the parts listed in its first hypothesis, from any state that the states it is given were kept from. -/

namespace Sys2Proof.Machine

theorem kept_dropExtent {P : List Part} {base : State} {x : Nat} {s : State} (hP : sub [.ctl, .pool] P) (h_s : Keeps P base s) :
    Keeps P base (dropExtent x s) := by
  unfold dropExtent
  try dsimp only
  with_reducible repeat' first
    | assumption
    | refine keeps_ite ?_ ?_
    | refine kept_syncSnap (sub_trans (by decide) hP) ?_
    | refine kept_updPool (sub_trans (by decide) hP) ?_
    | refine keeps_foldl _ (fun _ _ _ => ?_) ?_
    | refine keeps_foldlP _ (fun _ _ _ => ?_) ?_
    | refine tripleKeeps_foldl _ (fun _ _ _ => ?_) ?_
    | refine objStepKeeps_foldl _ (fun _ _ _ => ?_) ?_
    | refine optKeeps_map (fun _ => ?_)
    | split

theorem kept_extWrite {P : List Part} {base : State} {who : Who} {x : Nat} {val : Nat} {s : State} (hP : sub [.ctl, .ev, .pool] P) (h_s : Keeps P base s) :
    Keeps P base (extWrite who x val s) := by
  unfold extWrite
  try dsimp only
  with_reducible repeat' first
    | assumption
    | refine keeps_ite ?_ ?_
    | refine kept_dropExtent (sub_trans (by decide) hP) ?_
    | refine kept_ignoredWrite (sub_trans (by decide) hP) ?_
    | refine kept_setReg (sub_trans (by decide) hP) ?_
    | split

theorem kept_parkPool {P : List Part} {base : State} {p : PoolPend} {s : State} (hP : sub [.pool] P) (h_s : Keeps P base s) :
    Keeps P base (parkPool p s) := by
  unfold parkPool
  try dsimp only
  with_reducible repeat' first
    | assumption
    | refine keeps_ite ?_ ?_
    | refine kept_updPool (sub_trans (by decide) hP) ?_
    | split

theorem kept_noteCache {P : List Part} {base : State} {r : Reg} {p : PoolPend} {s : State} (hP : sub [.ctl] P) (h_s : Keeps P base s) :
    Keeps P base (noteCache r p s) := by
  unfold noteCache
  try dsimp only
  with_reducible repeat' first
    | assumption
    | refine keeps_ite ?_ ?_
    | refine kept_bump (sub_trans (by decide) hP) ?_
    | split

theorem kept_fetchT2 {P : List Part} {base : State} {p : PoolPend} {page : Nat} {d : DirEnt} {s : State} (hP : sub [.free, .ctl, .mem, .ev, .ms, .t3, .mxes, .qos, .pool, .persist] P) (h_s : Keeps P base s) :
    PairKeeps P base (fetchT2 p page d s) := by
  unfold fetchT2
  try dsimp only
  with_reducible repeat' first
    | assumption
    | refine keeps_ite ?_ ?_
    | refine pairKeeps_ite ?_ ?_
    | refine snd_of ?_
    | refine kept_install (sub_trans (by decide) hP) ?_
    | refine kept_landFrame (sub_trans (by decide) hP) ?_
    | refine kept_movedBytes (sub_trans (by decide) hP) ?_
    | refine kept_parkPool (sub_trans (by decide) hP) ?_
    | refine kept_poolTouch (sub_trans (by decide) hP) ?_
    | refine kept_rcvAttach (sub_trans (by decide) hP) ?_
    | refine kept_readRangeBy (sub_trans (by decide) hP) ?_
    | refine of_pair ?_ (by assumption)
    | split
    | refine keeps_pair ?_

theorem kept_fetchT3 {P : List Part} {base : State} {p : PoolPend} {page : Nat} {s : State} (hP : sub [.ms, .t3, .qos, .pool] P) (h_s : Keeps P base s) :
    Keeps P base (fetchT3 p page s) := by
  unfold fetchT3
  try dsimp only
  with_reducible repeat' first
    | assumption
    | refine keeps_ite ?_ ?_
    | refine kept_nvmeSubmitAt (sub_trans (by decide) hP) ?_
    | refine kept_parkPool (sub_trans (by decide) hP) ?_
    | refine kept_poolTouch (sub_trans (by decide) hP) ?_
    | refine kept_rcvAttach (sub_trans (by decide) hP) ?_
    | split

theorem kept_fetchHome {P : List Part} {base : State} {p : PoolPend} {page : Nat} {s : State} (hP : sub [.free, .ctl, .mem, .ev, .ms, .t3, .mxes, .qos, .pool, .persist] P) (h_s : Keeps P base s) :
    PairKeeps P base (fetchHome p page s) := by
  unfold fetchHome
  try dsimp only
  with_reducible repeat' first
    | assumption
    | refine keeps_ite ?_ ?_
    | refine pairKeeps_ite ?_ ?_
    | refine snd_of ?_
    | refine kept_fetchT2 (sub_trans (by decide) hP) ?_
    | refine kept_fetchT3 (sub_trans (by decide) hP) ?_
    | refine kept_install (sub_trans (by decide) hP) ?_
    | refine of_pair ?_ (by assumption)
    | split
    | refine keeps_pair ?_

theorem kept_fetchCached {P : List Part} {base : State} {p : PoolPend} {page : Nat} {s : State} (hP : sub [.free, .ctl, .mem, .ev, .ms, .t3, .mxes, .qos, .pool, .persist] P) (h_s : Keeps P base s) :
    PairKeeps P base (fetchCached p page s) := by
  unfold fetchCached
  try dsimp only
  with_reducible repeat' first
    | assumption
    | refine keeps_ite ?_ ?_
    | refine pairKeeps_ite ?_ ?_
    | refine snd_of ?_
    | refine kept_fetchHome (sub_trans (by decide) hP) ?_
    | refine kept_install (sub_trans (by decide) hP) ?_
    | refine kept_noteCache (sub_trans (by decide) hP) ?_
    | refine of_pair ?_ (by assumption)
    | split
    | refine keeps_pair ?_

theorem kept_fetchPage {P : List Part} {base : State} {p : PoolPend} {page : Nat} {s : State} (hP : sub [.free, .ctl, .mem, .ev, .ms, .t3, .mxes, .qos, .pool, .persist] P) (h_s : Keeps P base s) :
    PairKeeps P base (fetchPage p page s) := by
  unfold fetchPage
  try dsimp only
  with_reducible repeat' first
    | assumption
    | refine keeps_ite ?_ ?_
    | refine pairKeeps_ite ?_ ?_
    | refine snd_of ?_
    | refine kept_checkCached (sub_trans (by decide) hP) ?_
    | refine kept_fetchCached (sub_trans (by decide) hP) ?_
    | refine kept_noteCache (sub_trans (by decide) hP) ?_
    | refine kept_parkPool (sub_trans (by decide) hP) ?_
    | refine kept_poolTouch (sub_trans (by decide) hP) ?_
    | refine kept_readDir (sub_trans (by decide) hP) ?_
    | refine of_pair ?_ (by assumption)
    | split
    | refine keeps_pair ?_

theorem kept_setHolders {P : List Part} {base : State} {line : Nat} {h : Option Sharers} {s : State} (hP : sub [.pool] P) (h_s : Keeps P base s) :
    Keeps P base (setHolders line h s) := by
  unfold setHolders
  try dsimp only
  with_reducible repeat' first
    | assumption
    | refine keeps_ite ?_ ?_
    | refine kept_updPool (sub_trans (by decide) hP) ?_
    | split

theorem kept_snoop {P : List Part} {base : State} {line : Nat} {s : State} {spid : Nat} (hP : sub [.ctl, .pool, .out] P) (h_s : Keeps P base s) :
    Keeps P base (snoop line s spid) := by
  unfold snoop
  try dsimp only
  with_reducible repeat' first
    | assumption
    | refine keeps_ite ?_ ?_
    | refine kept_bump (sub_trans (by decide) hP) ?_
    | refine kept_send (sub_trans (by decide) hP) ?_
    | refine kept_updPool (sub_trans (by decide) hP) ?_
    | split

theorem kept_makeWay {P : List Part} {base : State} {line : Nat} {q : PoolReq} {s : State} (hP : sub [.ctl, .pool, .out] P) (h_s : Keeps P base s) :
    Keeps P base (makeWay line q s) := by
  unfold makeWay
  try dsimp only
  with_reducible repeat' first
    | assumption
    | refine keeps_ite ?_ ?_
    | refine kept_setHolders (sub_trans (by decide) hP) ?_
    | refine kept_snoop (sub_trans (by decide) hP) ?_
    | refine keeps_foldl _ (fun _ _ _ => ?_) ?_
    | refine keeps_foldlP _ (fun _ _ _ => ?_) ?_
    | refine tripleKeeps_foldl _ (fun _ _ _ => ?_) ?_
    | refine objStepKeeps_foldl _ (fun _ _ _ => ?_) ?_
    | split

theorem kept_rangeAWrite {P : List Part} {base : State} {who : Who} {e : Nat} {val : Nat} {s : State} (hP : sub [.ctl, .ev] P) (h_s : Keeps P base s) :
    Keeps P base (rangeAWrite who e val s) := by
  unfold rangeAWrite
  try dsimp only
  with_reducible repeat' first
    | assumption
    | refine keeps_ite ?_ ?_
    | refine kept_ignoredWrite (sub_trans (by decide) hP) ?_
    | refine kept_setReg (sub_trans (by decide) hP) ?_
    | split

theorem kept_hp1CntClear {P : List Part} {base : State} {who : Who} {s : State} (hP : sub [.ctl, .ev] P) (h_s : Keeps P base s) :
    Keeps P base (hp1CntClear who s) := by
  unfold hp1CntClear
  try dsimp only
  with_reducible repeat' first
    | assumption
    | refine keeps_ite ?_ ?_
    | refine kept_ignoredWrite (sub_trans (by decide) hP) ?_
    | refine kept_zeroRegs (sub_trans (by decide) hP) ?_
    | split

theorem kept_poolCfgWrite {P : List Part} {base : State} {who : Who} {r : Reg} {mask : Nat} {val : Nat} {s : State} (hP : sub [.ctl, .locks, .ev] P) (h_s : Keeps P base s) :
    Keeps P base (poolCfgWrite who r mask val s) := by
  unfold poolCfgWrite
  try dsimp only
  with_reducible repeat' first
    | assumption
    | refine keeps_ite ?_ ?_
    | refine kept_ignoredWrite (sub_trans (by decide) hP) ?_
    | refine kept_lockBits (sub_trans (by decide) hP) ?_
    | refine kept_setReg (sub_trans (by decide) hP) ?_
    | split

theorem kept_poolStale {P : List Part} {base : State} {p : PoolPend} {s : State} (hP : sub [.ctl, .out] P) (h_s : Keeps P base s) :
    Keeps P base (poolStale p s) := by
  unfold poolStale
  try dsimp only
  with_reducible repeat' first
    | assumption
    | refine keeps_ite ?_ ?_
    | refine kept_bump (sub_trans (by decide) hP) ?_
    | refine kept_poolRefuse (sub_trans (by decide) hP) ?_
    | split

theorem kept_draftWrite {P : List Part} {base : State} {p : PoolPend} {r : Nat} {page : Nat} {g : PoolPage} {s : State} (hP : sub [.ctl, .pool, .out] P) (h_s : Keeps P base s) :
    Keeps P base (draftWrite p r page g s) := by
  unfold draftWrite
  try dsimp only
  with_reducible repeat' first
    | assumption
    | refine keeps_ite ?_ ?_
    | refine kept_poolReply (sub_trans (by decide) hP) ?_
    | refine kept_updSnapHost (sub_trans (by decide) hP) ?_
    | refine keeps_getD ?_ ?_
    | split

theorem kept_snapWrite {P : List Part} {base : State} {p : PoolPend} {r : Nat} {page : Nat} {s : State} (hP : sub [.free, .ctl, .mem, .ev, .ms, .t3, .mxes, .qos, .pool, .persist, .out] P) (h_s : Keeps P base s) :
    OptKeeps P base (snapWrite p r page s) := by
  unfold snapWrite
  try dsimp only
  with_reducible repeat' first
    | assumption
    | refine keeps_ite ?_ ?_
    | refine optKeeps_ite ?_ ?_
    | refine optPairKeeps_ite ?_ ?_
    | refine keeps_some ?_
    | refine keeps_none
    | refine keeps_someP ?_
    | refine keeps_noneP
    | refine kept_bump (sub_trans (by decide) hP) ?_
    | refine kept_draftWrite (sub_trans (by decide) hP) ?_
    | refine kept_poolReply (sub_trans (by decide) hP) ?_
    | refine kept_snapCommand (sub_trans (by decide) hP) ?_
    | refine kept_updSnapHost (sub_trans (by decide) hP) ?_
    | refine optKeeps_map (fun _ => ?_)
    | refine keeps_getD ?_ ?_
    | refine of_some ?_ (by assumption)
    | refine of_someP ?_ (by assumption)
    | split

theorem kept_sidePoison {P : List Part} {base : State} {s : State} (hP : sub [.free] P) (h_s : Keeps P base s) :
    PairKeeps P base (sidePoison s) := by
  unfold sidePoison
  try dsimp only
  with_reducible repeat' first
    | assumption
    | refine keeps_ite ?_ ?_
    | refine pairKeeps_ite ?_ ?_
    | refine snd_of ?_
    | refine kept_freshWord (sub_trans (by decide) hP) ?_
    | refine of_pair ?_ (by assumption)
    | split
    | refine keeps_pair ?_

theorem kept_snapRead {P : List Part} {base : State} {p : PoolPend} {r : Nat} {page : Nat} {s : State} (hP : sub [.free, .ctl, .out] P) (h_s : Keeps P base s) :
    OptKeeps P base (snapRead p r page s) := by
  unfold snapRead
  try dsimp only
  with_reducible repeat' first
    | assumption
    | refine keeps_ite ?_ ?_
    | refine pairKeeps_ite ?_ ?_
    | refine optKeeps_ite ?_ ?_
    | refine optPairKeeps_ite ?_ ?_
    | refine keeps_some ?_
    | refine keeps_none
    | refine keeps_someP ?_
    | refine keeps_noneP
    | refine snd_of ?_
    | refine kept_poolReadLine (sub_trans (by decide) hP) ?_
    | refine kept_poolReply (sub_trans (by decide) hP) ?_
    | refine kept_sidePoison (sub_trans (by decide) hP) ?_
    | refine optKeeps_map (fun _ => ?_)
    | refine keeps_getD ?_ ?_
    | refine of_pair ?_ (by assumption)
    | refine of_some ?_ (by assumption)
    | refine of_someP ?_ (by assumption)
    | split
    | refine keeps_pair ?_

theorem kept_snapHome {P : List Part} {base : State} {p : PoolPend} {r : Nat} {page : Nat} {s : State} (hP : sub [.free, .ctl, .pool, .out] P) (h_s : Keeps P base s) :
    Keeps P base (snapHome p r page s) := by
  unfold snapHome
  try dsimp only
  with_reducible repeat' first
    | assumption
    | refine keeps_ite ?_ ?_
    | refine kept_draftWrite (sub_trans (by decide) hP) ?_
    | refine kept_poolReadLine (sub_trans (by decide) hP) ?_
    | refine kept_poolStale (sub_trans (by decide) hP) ?_
    | split

theorem kept_snapRequest {P : List Part} {base : State} {p : PoolPend} {s : State} (hP : sub [.free, .ctl, .mem, .ev, .ms, .t3, .mxes, .qos, .pool, .persist, .out] P) (h_s : Keeps P base s) :
    Keeps P base (snapRequest p s) := by
  unfold snapRequest
  try dsimp only
  with_reducible repeat' first
    | assumption
    | refine keeps_ite ?_ ?_
    | refine pairKeeps_ite ?_ ?_
    | refine optKeeps_ite ?_ ?_
    | refine optPairKeeps_ite ?_ ?_
    | refine keeps_some ?_
    | refine keeps_none
    | refine keeps_someP ?_
    | refine keeps_noneP
    | refine snd_of ?_
    | refine kept_fetchPage (sub_trans (by decide) hP) ?_
    | refine kept_poolAnswer (sub_trans (by decide) hP) ?_
    | refine kept_poolStale (sub_trans (by decide) hP) ?_
    | refine kept_snapHome (sub_trans (by decide) hP) ?_
    | refine kept_snapRead (sub_trans (by decide) hP) ?_
    | refine kept_snapWrite (sub_trans (by decide) hP) ?_
    | refine of_pair ?_ (by assumption)
    | refine of_some ?_ (by assumption)
    | refine of_someP ?_ (by assumption)
    | split
    | refine keeps_pair ?_

theorem kept_dirAsk {P : List Part} {base : State} {p : PoolPend} {s : State} (hP : sub [.ctl, .pool, .out] P) (h_s : Keeps P base s) :
    Keeps P base (dirAsk p s) := by
  unfold dirAsk
  try dsimp only
  with_reducible repeat' first
    | assumption
    | refine keeps_ite ?_ ?_
    | refine kept_makeWay (sub_trans (by decide) hP) ?_
    | refine kept_snoop (sub_trans (by decide) hP) ?_
    | refine keeps_foldl _ (fun _ _ _ => ?_) ?_
    | refine keeps_foldlP _ (fun _ _ _ => ?_) ?_
    | refine tripleKeeps_foldl _ (fun _ _ _ => ?_) ?_
    | refine objStepKeeps_foldl _ (fun _ _ _ => ?_) ?_
    | split

theorem kept_checkSharer {P : List Part} {base : State} {line : Nat} {s : State} (hP : sub [.ctl, .mem, .ev, .ms, .pool, .persist] P) (h_s : Keeps P base s) :
    Keeps P base (checkSharer line s) := by
  unfold checkSharer
  try dsimp only
  with_reducible repeat' first
    | assumption
    | refine keeps_ite ?_ ?_
    | refine tripleKeeps_ite ?_ ?_
    | refine snd2_of ?_
    | refine kept_readTable (sub_trans (by decide) hP) ?_
    | refine kept_rewriteWords (sub_trans (by decide) hP) ?_
    | refine kept_setHolders (sub_trans (by decide) hP) ?_
    | refine of_triple ?_ (by assumption)
    | split
    | refine keeps_triple ?_

theorem kept_onPage {P : List Part} {base : State} {p : PoolPend} {page : Nat} {s : State} (hP : sub [.free, .ctl, .mem, .ev, .ms, .t3, .mxes, .qos, .pool, .persist, .out] P) (h_s : Keeps P base s) :
    Keeps P base (onPage p page s) := by
  unfold onPage
  try dsimp only
  with_reducible repeat' first
    | assumption
    | refine keeps_ite ?_ ?_
    | refine kept_install (sub_trans (by decide) hP) ?_
    | refine kept_poolAnswer (sub_trans (by decide) hP) ?_
    | refine kept_poolReadLine (sub_trans (by decide) hP) ?_
    | refine kept_poolStale (sub_trans (by decide) hP) ?_
    | split

theorem kept_pageRequest {P : List Part} {base : State} {p : PoolPend} {s : State} (hP : sub [.free, .ctl, .mem, .ev, .ms, .t3, .mxes, .qos, .pool, .persist, .out] P) (h_s : Keeps P base s) :
    Keeps P base (pageRequest p s) := by
  unfold pageRequest
  try dsimp only
  with_reducible repeat' first
    | assumption
    | refine keeps_ite ?_ ?_
    | refine pairKeeps_ite ?_ ?_
    | refine snd_of ?_
    | refine kept_fetchPage (sub_trans (by decide) hP) ?_
    | refine kept_onPage (sub_trans (by decide) hP) ?_
    | refine kept_poolAnswer (sub_trans (by decide) hP) ?_
    | refine of_pair ?_ (by assumption)
    | split
    | refine keeps_pair ?_

theorem kept_touchLine {P : List Part} {base : State} {line : Nat} {s : State} (hP : sub [.pool] P) (h_s : Keeps P base s) :
    Keeps P base (touchLine line s) := by
  unfold touchLine
  try dsimp only
  with_reducible repeat' first
    | assumption
    | refine keeps_ite ?_ ?_
    | refine kept_updPool (sub_trans (by decide) hP) ?_
    | split

theorem kept_forgetHolder {P : List Part} {base : State} {line : Nat} {spid : Nat} {s : State} (hP : sub [.pool] P) (h_s : Keeps P base s) :
    Keeps P base (forgetHolder line spid s) := by
  unfold forgetHolder
  try dsimp only
  with_reducible repeat' first
    | assumption
    | refine keeps_ite ?_ ?_
    | refine kept_setHolders (sub_trans (by decide) hP) ?_
    | split

theorem kept_admitHolder {P : List Part} {base : State} {line : Nat} {q : PoolReq} {s : State} (hP : sub [.pool] P) (h_s : Keeps P base s) :
    Keeps P base (admitHolder line q s) := by
  unfold admitHolder
  try dsimp only
  with_reducible repeat' first
    | assumption
    | refine keeps_ite ?_ ?_
    | refine kept_forgetHolder (sub_trans (by decide) hP) ?_
    | refine kept_setHolders (sub_trans (by decide) hP) ?_
    | split

theorem kept_dirServe {P : List Part} {base : State} {p : PoolPend} {s : State} (hP : sub [.free, .ctl, .mem, .ev, .ms, .t3, .mxes, .qos, .pool, .persist, .out] P) (h_s : Keeps P base s) :
    Keeps P base (dirServe p s) := by
  unfold dirServe
  try dsimp only
  with_reducible repeat' first
    | assumption
    | refine keeps_ite ?_ ?_
    | refine kept_admitHolder (sub_trans (by decide) hP) ?_
    | refine kept_pageRequest (sub_trans (by decide) hP) ?_
    | refine kept_touchLine (sub_trans (by decide) hP) ?_
    | split

theorem kept_dirRequest {P : List Part} {base : State} {p : PoolPend} {s : State} (hP : sub [.free, .ctl, .mem, .ev, .ms, .t3, .mxes, .qos, .pool, .persist, .out] P) (h_s : Keeps P base s) :
    Keeps P base (dirRequest p s) := by
  unfold dirRequest
  try dsimp only
  with_reducible repeat' first
    | assumption
    | refine keeps_ite ?_ ?_
    | refine kept_checkSharer (sub_trans (by decide) hP) ?_
    | refine kept_dirAsk (sub_trans (by decide) hP) ?_
    | refine kept_dirServe (sub_trans (by decide) hP) ?_
    | refine kept_updPool (sub_trans (by decide) hP) ?_
    | split

theorem kept_poolServe {P : List Part} {base : State} {p : PoolPend} {s : State} (hP : sub [.free, .ctl, .mem, .ev, .ms, .t3, .mxes, .qos, .pool, .persist, .out] P) (h_s : Keeps P base s) :
    Keeps P base (poolServe p s) := by
  unfold poolServe
  try dsimp only
  with_reducible repeat' first
    | assumption
    | refine keeps_ite ?_ ?_
    | refine kept_dirRequest (sub_trans (by decide) hP) ?_
    | refine kept_pageRequest (sub_trans (by decide) hP) ?_
    | refine kept_snapRequest (sub_trans (by decide) hP) ?_
    | refine kept_takeBucket (sub_trans (by decide) hP) ?_
    | split

theorem kept_drainHost {P : List Part} {base : State} {h : Nat} {a : Nat} {ax : State} (hP : sub [.free, .ctl, .mem, .ev, .ms, .t3, .mxes, .qos, .pool, .persist, .out] P) (h_ax : Keeps P base ax) :
    Keeps P base (drainHost h a ax) := by
  induction a generalizing ax with
  | zero =>
    unfold drainHost
    try dsimp only
    with_reducible repeat' first
      | assumption
      | refine keeps_ite ?_ ?_
      | refine kept_poolServe (sub_trans (by decide) hP) ?_
      | refine kept_updPool (sub_trans (by decide) hP) ?_
      | split
  | succ n ih =>
    unfold drainHost
    try dsimp only
    with_reducible repeat' first
      | assumption
      | refine keeps_ite ?_ ?_
      | refine kept_poolServe (sub_trans (by decide) hP) ?_
      | refine kept_updPool (sub_trans (by decide) hP) ?_
      | refine ih ?_
      | split

theorem kept_poolNoMatch {P : List Part} {base : State} {q : PoolReq} {s : State} (hP : sub [.ctl, .ev, .pool, .out] P) (h_s : Keeps P base s) :
    Keeps P base (poolNoMatch q s) := by
  unfold poolNoMatch
  try dsimp only
  with_reducible repeat' first
    | assumption
    | refine keeps_ite ?_ ?_
    | refine kept_bump (sub_trans (by decide) hP) ?_
    | refine kept_event (sub_trans (by decide) hP) ?_
    | refine kept_poolRefuse (sub_trans (by decide) hP) ?_
    | refine kept_takeBucket (sub_trans (by decide) hP) ?_
    | split

theorem kept_poolHold {P : List Part} {base : State} {p : PoolPend} {s : State} (hP : sub [.ctl, .pool] P) (h_s : Keeps P base s) :
    Keeps P base (poolHold p s) := by
  unfold poolHold
  try dsimp only
  with_reducible repeat' first
    | assumption
    | refine keeps_ite ?_ ?_
    | refine kept_bump (sub_trans (by decide) hP) ?_
    | refine kept_updPool (sub_trans (by decide) hP) ?_
    | split

theorem kept_poolTake {P : List Part} {base : State} {q : PoolReq} {s : State} (hP : sub [.free, .ctl, .mem, .ev, .ms, .t3, .mxes, .qos, .pool, .persist, .out] P) (h_s : Keeps P base s) :
    Keeps P base (poolTake q s) := by
  unfold poolTake
  try dsimp only
  with_reducible repeat' first
    | assumption
    | refine keeps_ite ?_ ?_
    | refine kept_bump (sub_trans (by decide) hP) ?_
    | refine kept_poolHold (sub_trans (by decide) hP) ?_
    | refine kept_poolNoMatch (sub_trans (by decide) hP) ?_
    | refine kept_poolRefuse (sub_trans (by decide) hP) ?_
    | refine kept_poolServe (sub_trans (by decide) hP) ?_
    | refine kept_takeBucket (sub_trans (by decide) hP) ?_
    | split

theorem kept_runLink {P : List Part} {base : State} {a : Nat} {ax : State} (hP : sub [.free, .ctl, .mem, .ev, .ms, .t3, .mxes, .qos, .pool, .persist, .out] P) (h_ax : Keeps P base ax) :
    Keeps P base (runLink a ax) := by
  induction a generalizing ax with
  | zero =>
    unfold runLink
    try dsimp only
    with_reducible repeat' first
      | assumption
      | refine keeps_ite ?_ ?_
      | refine kept_poolTake (sub_trans (by decide) hP) ?_
      | refine kept_updPool (sub_trans (by decide) hP) ?_
      | split
  | succ n ih =>
    unfold runLink
    try dsimp only
    with_reducible repeat' first
      | assumption
      | refine keeps_ite ?_ ?_
      | refine kept_poolTake (sub_trans (by decide) hP) ?_
      | refine kept_updPool (sub_trans (by decide) hP) ?_
      | refine ih ?_
      | split

theorem kept_drainPool {P : List Part} {base : State} {h : Nat} {s : State} (hP : sub [.free, .ctl, .mem, .ev, .ms, .t3, .mxes, .qos, .pool, .persist, .out] P) (h_s : Keeps P base s) :
    Keeps P base (drainPool h s) := by
  unfold drainPool
  try dsimp only
  with_reducible repeat' first
    | assumption
    | refine keeps_ite ?_ ?_
    | refine kept_drainHost (sub_trans (by decide) hP) ?_
    | refine kept_runLink (sub_trans (by decide) hP) ?_
    | split

theorem kept_hp1HostWrite {P : List Part} {base : State} {who : Who} {h : Nat} {val : Nat} {s : State} (hP : sub [.free, .ctl, .mem, .ev, .ms, .t3, .mxes, .qos, .pool, .persist, .out] P) (h_s : Keeps P base s) :
    Keeps P base (hp1HostWrite who h val s) := by
  unfold hp1HostWrite
  try dsimp only
  with_reducible repeat' first
    | assumption
    | refine keeps_ite ?_ ?_
    | refine kept_drainPool (sub_trans (by decide) hP) ?_
    | refine kept_ignoredWrite (sub_trans (by decide) hP) ?_
    | refine kept_setReg (sub_trans (by decide) hP) ?_
    | split

theorem kept_regionCfgWrite {P : List Part} {base : State} {who : Who} {i : Nat} {val : Nat} {s : State} (hP : sub [.ctl, .ev, .pool] P) (h_s : Keeps P base s) :
    Keeps P base (regionCfgWrite who i val s) := by
  unfold regionCfgWrite
  try dsimp only
  with_reducible repeat' first
    | assumption
    | refine keeps_ite ?_ ?_
    | refine kept_ignoredWrite (sub_trans (by decide) hP) ?_
    | refine kept_setReg (sub_trans (by decide) hP) ?_
    | refine kept_updPool (sub_trans (by decide) hP) ?_
    | refine kept_updSnap (sub_trans (by decide) hP) ?_
    | split

theorem kept_withdraw {P : List Part} {base : State} {e : Nat} {cause : Nat} {s : State} (hP : sub [.ctl, .pool, .out] P) (h_s : Keeps P base s) :
    Keeps P base (withdraw e cause s) := by
  unfold withdraw
  try dsimp only
  with_reducible repeat' first
    | assumption
    | refine keeps_ite ?_ ?_
    | refine kept_setRangeState (sub_trans (by decide) hP) ?_
    | refine kept_snoop (sub_trans (by decide) hP) ?_
    | refine kept_updPool (sub_trans (by decide) hP) ?_
    | refine keeps_foldl _ (fun _ _ _ => ?_) ?_
    | refine keeps_foldlP _ (fun _ _ _ => ?_) ?_
    | refine tripleKeeps_foldl _ (fun _ _ _ => ?_) ?_
    | refine objStepKeeps_foldl _ (fun _ _ _ => ?_) ?_
    | split

theorem kept_rangeWithdraw {P : List Part} {base : State} {e : Nat} {cause : Nat} {s : State} (hP : sub [.ctl, .pool, .out] P) (h_s : Keeps P base s) :
    Keeps P base (rangeWithdraw e cause s) := by
  unfold rangeWithdraw
  try dsimp only
  with_reducible repeat' first
    | assumption
    | refine keeps_ite ?_ ?_
    | refine kept_setRangeState (sub_trans (by decide) hP) ?_
    | refine kept_withdraw (sub_trans (by decide) hP) ?_
    | split

theorem kept_rangeOffer {P : List Part} {base : State} {who : Who} {e : Nat} {s : State} (hP : sub [.ctl, .ev, .out] P) (h_s : Keeps P base s) :
    Keeps P base (rangeOffer who e s) := by
  unfold rangeOffer
  try dsimp only
  with_reducible repeat' first
    | assumption
    | refine keeps_ite ?_ ?_
    | refine kept_ignoredWrite (sub_trans (by decide) hP) ?_
    | refine kept_send (sub_trans (by decide) hP) ?_
    | refine kept_setRangeState (sub_trans (by decide) hP) ?_
    | split

theorem kept_rangeBWrite {P : List Part} {base : State} {who : Who} {e : Nat} {val : Nat} {s : State} (hP : sub [.ctl, .ev, .pool, .out] P) (h_s : Keeps P base s) :
    Keeps P base (rangeBWrite who e val s) := by
  unfold rangeBWrite
  try dsimp only
  with_reducible repeat' first
    | assumption
    | refine keeps_ite ?_ ?_
    | refine kept_ignoredWrite (sub_trans (by decide) hP) ?_
    | refine kept_rangeOffer (sub_trans (by decide) hP) ?_
    | refine kept_rangeWithdraw (sub_trans (by decide) hP) ?_
    | refine kept_setFld (sub_trans (by decide) hP) ?_
    | split

theorem kept_performPend {P : List Part} {base : State} {p : PoolPend} {s : State} (hP : sub [.free, .ctl, .mem, .ev, .ms, .t3, .mxes, .qos, .pool, .persist, .out] P) (h_s : Keeps P base s) :
    Keeps P base (performPend p s) := by
  unfold performPend
  try dsimp only
  with_reducible repeat' first
    | assumption
    | refine keeps_ite ?_ ?_
    | refine optKeeps_ite ?_ ?_
    | refine optPairKeeps_ite ?_ ?_
    | refine keeps_some ?_
    | refine keeps_none
    | refine keeps_someP ?_
    | refine keeps_noneP
    | refine kept_onPage (sub_trans (by decide) hP) ?_
    | refine kept_snapHome (sub_trans (by decide) hP) ?_
    | refine kept_snapRead (sub_trans (by decide) hP) ?_
    | refine kept_snapWrite (sub_trans (by decide) hP) ?_
    | refine of_some ?_ (by assumption)
    | refine of_someP ?_ (by assumption)
    | split

theorem kept_wakePage {P : List Part} {base : State} {page : Nat} {s : State} (hP : sub [.free, .ctl, .mem, .ev, .ms, .t3, .mxes, .qos, .pool, .persist, .out] P) (h_s : Keeps P base s) :
    Keeps P base (wakePage page s) := by
  unfold wakePage
  try dsimp only
  with_reducible repeat' first
    | assumption
    | refine keeps_ite ?_ ?_
    | refine kept_performPend (sub_trans (by decide) hP) ?_
    | refine kept_updPool (sub_trans (by decide) hP) ?_
    | refine keeps_foldl _ (fun _ _ _ => ?_) ?_
    | refine keeps_foldlP _ (fun _ _ _ => ?_) ?_
    | refine tripleKeeps_foldl _ (fun _ _ _ => ?_) ?_
    | refine objStepKeeps_foldl _ (fun _ _ _ => ?_) ?_
    | split

theorem kept_poolNvmeEnd {P : List Part} {base : State} {c : NvmeCmd} {ok : Bool} {s : State} (hP : sub [.free, .ctl, .mem, .ev, .ms, .t3, .mxes, .qos, .pool, .persist, .out] P) (h_s : Keeps P base s) :
    Keeps P base (poolNvmeEnd c ok s) := by
  unfold poolNvmeEnd
  try dsimp only
  with_reducible repeat' first
    | assumption
    | refine keeps_ite ?_ ?_
    | refine kept_landFrame (sub_trans (by decide) hP) ?_
    | refine kept_movedBytes (sub_trans (by decide) hP) ?_
    | refine kept_putDir (sub_trans (by decide) hP) ?_
    | refine kept_rcvAttach (sub_trans (by decide) hP) ?_
    | refine kept_uncache (sub_trans (by decide) hP) ?_
    | refine kept_wakePage (sub_trans (by decide) hP) ?_
    | split

theorem kept_lineBack {P : List Part} {base : State} {spid : Nat} {line : Nat} {bs : List Byte} {s : State} (hP : sub [.free, .ctl, .mem, .ev, .ms, .t3, .mxes, .qos, .pool, .persist, .out] P) (h_s : Keeps P base s) :
    Keeps P base (lineBack spid line bs s) := by
  unfold lineBack
  try dsimp only
  with_reducible repeat' first
    | assumption
    | refine keeps_ite ?_ ?_
    | refine kept_bump (sub_trans (by decide) hP) ?_
    | refine kept_pageRequest (sub_trans (by decide) hP) ?_
    | split

theorem kept_dirRetry {P : List Part} {base : State} {s : State} (hP : sub [.free, .ctl, .mem, .ev, .ms, .t3, .mxes, .qos, .pool, .persist, .out] P) (h_s : Keeps P base s) :
    Keeps P base (dirRetry s) := by
  unfold dirRetry
  try dsimp only
  with_reducible repeat' first
    | assumption
    | refine keeps_ite ?_ ?_
    | refine kept_dirAsk (sub_trans (by decide) hP) ?_
    | refine kept_dirServe (sub_trans (by decide) hP) ?_
    | refine kept_updPool (sub_trans (by decide) hP) ?_
    | refine keeps_foldl _ (fun _ _ _ => ?_) ?_
    | refine keeps_foldlP _ (fun _ _ _ => ?_) ?_
    | refine tripleKeeps_foldl _ (fun _ _ _ => ?_) ?_
    | refine objStepKeeps_foldl _ (fun _ _ _ => ?_) ?_
    | split

theorem kept_snoopEnded {P : List Part} {base : State} {line : Nat} {spid : Nat} {s : State} (hP : sub [.pool] P) (h_s : Keeps P base s) :
    Keeps P base (snoopEnded line spid s) := by
  unfold snoopEnded
  try dsimp only
  with_reducible repeat' first
    | assumption
    | refine keeps_ite ?_ ?_
    | refine kept_forgetHolder (sub_trans (by decide) hP) ?_
    | refine kept_updPool (sub_trans (by decide) hP) ?_
    | split

theorem kept_biResponse {P : List Part} {base : State} {spid : Nat} {line : Nat} {data : Option (List Byte)} {s : State} (hP : sub [.free, .ctl, .mem, .ev, .ms, .t3, .mxes, .qos, .pool, .persist, .out] P) (h_s : Keeps P base s) :
    Keeps P base (biResponse spid line data s) := by
  unfold biResponse
  try dsimp only
  with_reducible repeat' first
    | assumption
    | refine keeps_ite ?_ ?_
    | refine kept_bump (sub_trans (by decide) hP) ?_
    | refine kept_dirRetry (sub_trans (by decide) hP) ?_
    | refine kept_lineBack (sub_trans (by decide) hP) ?_
    | refine kept_snoopEnded (sub_trans (by decide) hP) ?_
    | refine kept_takeBucket (sub_trans (by decide) hP) ?_
    | split

theorem kept_failPoolPage {P : List Part} {base : State} {page : Nat} {s : State} (hP : sub [.free, .ctl, .mem, .ev, .ms, .t3, .mxes, .qos, .pool, .persist, .out] P) (h_s : Keeps P base s) :
    Keeps P base (failPoolPage page s) := by
  unfold failPoolPage
  try dsimp only
  with_reducible repeat' first
    | assumption
    | refine keeps_ite ?_ ?_
    | refine kept_install (sub_trans (by decide) hP) ?_
    | refine kept_wakePage (sub_trans (by decide) hP) ?_
    | split

theorem kept_poolRetry {P : List Part} {base : State} {s : State} (hP : sub [.free, .ctl, .mem, .ev, .ms, .t3, .mxes, .qos, .pool, .persist, .out] P) (h_s : Keeps P base s) :
    Keeps P base (poolRetry s) := by
  unfold poolRetry
  try dsimp only
  with_reducible repeat' first
    | assumption
    | refine keeps_ite ?_ ?_
    | refine kept_pageRequest (sub_trans (by decide) hP) ?_
    | refine kept_snapRequest (sub_trans (by decide) hP) ?_
    | refine kept_updPool (sub_trans (by decide) hP) ?_
    | refine keeps_foldl _ (fun _ _ _ => ?_) ?_
    | refine keeps_foldlP _ (fun _ _ _ => ?_) ?_
    | refine tripleKeeps_foldl _ (fun _ _ _ => ?_) ?_
    | refine objStepKeeps_foldl _ (fun _ _ _ => ?_) ?_
    | split

theorem kept_withdrawCutoff {P : List Part} {base : State} {e : Nat} {d : Drawn} {s : State} (hP : sub [.free, .ctl, .mem, .ev, .ms, .t3, .mxes, .qos, .pool, .persist, .out] P) (h_s : Keeps P base s) :
    Keeps P base (withdrawCutoff e d s) := by
  unfold withdrawCutoff
  try dsimp only
  with_reducible repeat' first
    | assumption
    | refine keeps_ite ?_ ?_
    | refine kept_dirRetry (sub_trans (by decide) hP) ?_
    | refine kept_forgetHolder (sub_trans (by decide) hP) ?_
    | refine kept_poolStale (sub_trans (by decide) hP) ?_
    | refine kept_runLink (sub_trans (by decide) hP) ?_
    | refine kept_setFld (sub_trans (by decide) hP) ?_
    | refine kept_snapDrop (sub_trans (by decide) hP) ?_
    | refine kept_snoopEnded (sub_trans (by decide) hP) ?_
    | refine kept_updPool (sub_trans (by decide) hP) ?_
    | refine keeps_foldl _ (fun _ _ _ => ?_) ?_
    | refine keeps_foldlP _ (fun _ _ _ => ?_) ?_
    | refine tripleKeeps_foldl _ (fun _ _ _ => ?_) ?_
    | refine objStepKeeps_foldl _ (fun _ _ _ => ?_) ?_
    | split

theorem kept_poolArrive {P : List Part} {base : State} {q : PoolReq} {s : State} (hP : sub [.free, .ctl, .mem, .ev, .ms, .t3, .mxes, .qos, .pool, .persist, .out] P) (h_s : Keeps P base s) :
    Keeps P base (poolArrive q s) := by
  unfold poolArrive
  try dsimp only
  with_reducible repeat' first
    | assumption
    | refine keeps_ite ?_ ?_
    | refine kept_poolTake (sub_trans (by decide) hP) ?_
    | refine kept_updPool (sub_trans (by decide) hP) ?_
    | split

end Sys2Proof.Machine
end

