-- ==== Sys2Proof/Laws/Recovery.lean ====
section
/-! SUPPORT. For each operation of Machine/Recovery.lean, which parts of the state it may change: `kept_f` says that `f` keeps
everything but the parts listed in its first hypothesis, from any state that the states it is given were kept from. -/

namespace Sys2Proof.Machine

theorem kept_fillHalt {P : List Part} {base : State} {h : Nat} {st : Nat} {dir : Nat} {a : Nat} {s : State} (hP : sub [.ctl, .mem, .ev, .ms, .mxes, .slots, .engs, .tags, .fabQ, .persist] P) (h_s : Keeps P base s) :
    Keeps P base (fillHalt h st dir a s) := by
  unfold fillHalt
  try dsimp only
  with_reducible repeat' first
    | assumption
    | refine keeps_ite ?_ ?_
    | refine kept_engHaltAt (sub_trans (by decide) hP) ?_
    | split

theorem kept_fillRead {P : List Part} {base : State} {h : Nat} {slot : Nat} {ly : Layout} {off : Nat} {n : Nat} {s : State} (hP : sub [.ctl, .mem, .ev, .ms, .persist] P) (h_s : Keeps P base s) :
    PairKeeps P base (fillRead h slot ly off n s) := by
  unfold fillRead
  try dsimp only
  with_reducible repeat' first
    | assumption
    | refine keeps_ite ?_ ?_
    | refine pairKeeps_ite ?_ ?_
    | refine snd_of ?_
    | refine kept_clearFailed (sub_trans (by decide) hP) ?_
    | refine kept_objRead (sub_trans (by decide) hP) ?_
    | refine keeps_getD ?_ ?_
    | refine of_pair ?_ (by assumption)
    | split
    | refine keeps_pair ?_

theorem kept_fillSource {P : List Part} {base : State} {h : Nat} {slot : Nat} {ly : Layout} {d : HSlot} {s : State} (hP : sub [.ctl, .mem, .ev, .ms, .persist] P) (h_s : Keeps P base s) :
    PairKeeps P base (fillSource h slot ly d s) := by
  unfold fillSource
  try dsimp only
  with_reducible repeat' first
    | assumption
    | refine keeps_ite ?_ ?_
    | refine pairKeeps_ite ?_ ?_
    | refine snd_of ?_
    | refine kept_fillRead (sub_trans (by decide) hP) ?_
    | refine of_pair ?_ (by assumption)
    | split
    | refine keeps_pair ?_

theorem kept_refetchEnded {P : List Part} {base : State} {h : Nat} {slot : Nat} {tile : Nat} {s : State} (hP : sub [.ctl, .mem, .ev, .ms, .mxes, .slots, .refetch, .persist] P) (h_s : Keeps P base s) :
    Keeps P base (refetchEnded h slot tile s) := by
  unfold refetchEnded
  try dsimp only
  with_reducible repeat' first
    | assumption
    | refine keeps_ite ?_ ?_
    | refine kept_pumpCrew (sub_trans (by decide) hP) ?_
    | refine optKeeps_map (fun _ => ?_)
    | split
  all_goals try (with_reducible refine keeps_with_refetch (sub_trans (by decide) hP) ?_)
  all_goals with_reducible repeat' first
    | assumption
    | refine keeps_ite ?_ ?_
    | refine kept_pumpCrew (sub_trans (by decide) hP) ?_
    | refine optKeeps_map (fun _ => ?_)
    | split
  all_goals try (with_reducible refine keeps_with_refetch (sub_trans (by decide) hP) ?_)
  all_goals with_reducible repeat' first
    | assumption
    | refine keeps_ite ?_ ?_
    | refine kept_pumpCrew (sub_trans (by decide) hP) ?_
    | refine optKeeps_map (fun _ => ?_)
    | split

theorem kept_failWaiter {P : List Part} {base : State} {k : UnitKey} {s : State} {w : Waiter} (hP : sub [.free, .ctl, .mem, .ev, .ms, .t3, .mxes, .slots, .refetch, .qos, .knc, .hp0, .pool, .plt, .fabQ, .persist, .out] P) (h_s : Keeps P base s) :
    Keeps P base (failWaiter k s w) := by
  unfold failWaiter
  try dsimp only
  with_reducible repeat' first
    | assumption
    | refine keeps_ite ?_ ?_
    | refine kept_collFail (sub_trans (by decide) hP) ?_
    | refine kept_ctxFailUnit (sub_trans (by decide) hP) ?_
    | refine kept_failPoolPage (sub_trans (by decide) hP) ?_
    | refine kept_poisonReply (sub_trans (by decide) hP) ?_
    | refine kept_refetchEnded (sub_trans (by decide) hP) ?_
    | refine kept_winOut (sub_trans (by decide) hP) ?_
    | refine kept_winRun (sub_trans (by decide) hP) ?_
    | refine keeps_id ?_
    | split
  all_goals try (with_reducible refine keeps_with_ms (sub_trans (by decide) hP) ?_)
  all_goals with_reducible repeat' first
    | assumption
    | refine keeps_ite ?_ ?_
    | refine kept_collFail (sub_trans (by decide) hP) ?_
    | refine kept_ctxFailUnit (sub_trans (by decide) hP) ?_
    | refine kept_failPoolPage (sub_trans (by decide) hP) ?_
    | refine kept_poisonReply (sub_trans (by decide) hP) ?_
    | refine kept_refetchEnded (sub_trans (by decide) hP) ?_
    | refine kept_winOut (sub_trans (by decide) hP) ?_
    | refine kept_winRun (sub_trans (by decide) hP) ?_
    | refine keeps_id ?_
    | split

theorem kept_fillStale {P : List Part} {base : State} {h : Nat} {slot : Nat} {s : State} (hP : sub [.free, .ctl, .ev, .ms, .slots, .refetch, .engs] P) (h_s : Keeps P base s) :
    Keeps P base (fillStale h slot s) := by
  unfold fillStale
  try dsimp only
  with_reducible repeat' first
    | assumption
    | refine keeps_ite ?_ ?_
    | refine kept_blockEventOpen (sub_trans (by decide) hP) ?_
    | refine kept_fillEnded (sub_trans (by decide) hP) ?_
    | refine kept_slotLoss (sub_trans (by decide) hP) ?_
    | split

theorem kept_fillResident {P : List Part} {base : State} {h : Nat} {slot : Nat} {s : State} (hP : sub [.free, .ctl, .ev, .ms, .slots, .refetch, .engs] P) (h_s : Keeps P base s) :
    Keeps P base (fillResident h slot s) := by
  unfold fillResident
  try dsimp only
  with_reducible repeat' first
    | assumption
    | refine keeps_ite ?_ ?_
    | refine kept_fillStale (sub_trans (by decide) hP) ?_
    | split
  all_goals try (with_reducible refine keeps_with_slots (sub_trans (by decide) hP) ?_)
  all_goals with_reducible repeat' first
    | assumption
    | refine keeps_ite ?_ ?_
    | refine kept_fillStale (sub_trans (by decide) hP) ?_
    | split
  all_goals try (with_reducible refine keeps_with_slots (sub_trans (by decide) hP) ?_)
  all_goals with_reducible repeat' first
    | assumption
    | refine keeps_ite ?_ ?_
    | refine kept_fillStale (sub_trans (by decide) hP) ?_
    | split

theorem kept_putSlot {P : List Part} {base : State} {h : Nat} {slot : Nat} {idx : List Byte} {area : List Byte} {s : State} (hP : sub [.ctl, .mem, .ev, .ms, .mxes, .tags, .fabQ, .persist] P) (h_s : Keeps P base s) :
    PairKeeps P base (putSlot h slot idx area s) := by
  unfold putSlot
  try dsimp only
  with_reducible repeat' first
    | assumption
    | refine keeps_ite ?_ ?_
    | refine pairKeeps_ite ?_ ?_
    | refine snd_of ?_
    | refine kept_engWrite (sub_trans (by decide) hP) ?_
    | refine of_pair ?_ (by assumption)
    | split
    | refine keeps_pair ?_

theorem kept_noteSlotDamage {P : List Part} {base : State} {h : Nat} {s : State} {x : Nat × Nat × Nat} (hP : sub [.ctl, .ev] P) (h_s : Keeps P base s) :
    Keeps P base (noteSlotDamage h s x) := by
  unfold noteSlotDamage
  try dsimp only
  with_reducible repeat' first
    | assumption
    | refine keeps_ite ?_ ?_
    | refine kept_tenantEvent (sub_trans (by decide) hP) ?_
    | split

theorem kept_checkLanded {P : List Part} {base : State} {h : Nat} {v : SlotView} {tile : Nat} {s : State} (hP : sub [.ctl, .ev] P) (h_s : Keeps P base s) :
    Keeps P base (checkLanded h v tile s) := by
  unfold checkLanded
  try dsimp only
  with_reducible repeat' first
    | assumption
    | refine keeps_ite ?_ ?_
    | refine kept_noteSlotDamage (sub_trans (by decide) hP) ?_
    | split

theorem kept_giveUnit {P : List Part} {base : State} {e : RcvEntry} {s : State} (hP : sub [.ms] P) (h_s : Keeps P base s) :
    Keeps P base (giveUnit e s) := by
  unfold giveUnit
  try dsimp only
  with_reducible repeat' first
    | assumption
    | refine keeps_ite ?_ ?_
    | refine optKeeps_map (fun _ => ?_)
    | split
  all_goals try (with_reducible refine keeps_with_ms (sub_trans (by decide) hP) ?_)
  all_goals with_reducible repeat' first
    | assumption
    | refine keeps_ite ?_ ?_
    | refine optKeeps_map (fun _ => ?_)
    | split

theorem kept_fillDone {P : List Part} {base : State} {h : Nat} {slot : Nat} {n : Nat} {s : State} (hP : sub [.ctl, .ms, .slots, .refetch, .engs] P) (h_s : Keeps P base s) :
    Keeps P base (fillDone h slot n s) := by
  unfold fillDone
  try dsimp only
  with_reducible repeat' first
    | assumption
    | refine keeps_ite ?_ ?_
    | refine kept_bump (sub_trans (by decide) hP) ?_
    | refine kept_fillEnded (sub_trans (by decide) hP) ?_
    | refine kept_setFld (sub_trans (by decide) hP) ?_
    | split

theorem kept_noteRefetched {P : List Part} {base : State} {h : Nat} {slot : Nat} {s : State} {x : Nat × Nat × Nat} (hP : sub [.refetch] P) (h_s : Keeps P base s) :
    Keeps P base (noteRefetched h slot s x) := by
  unfold noteRefetched
  try dsimp only
  with_reducible repeat' first
    | assumption
    | refine keeps_ite ?_ ?_
    | split
  all_goals try (with_reducible refine keeps_with_refetch (sub_trans (by decide) hP) ?_)
  all_goals with_reducible repeat' first
    | assumption
    | refine keeps_ite ?_ ?_
    | split

theorem kept_landSlot {P : List Part} {base : State} {h : Nat} {slot : Nat} {d : HSlot} {ly : Layout} {idx : List Byte} {area : List Byte} {s : State} (hP : sub [.ctl, .mem, .ev, .ms, .mxes, .slots, .refetch, .engs, .tags, .fabQ, .persist] P) (h_s : Keeps P base s) :
    Keeps P base (landSlot h slot d ly idx area s) := by
  unfold landSlot
  try dsimp only
  with_reducible repeat' first
    | assumption
    | refine keeps_ite ?_ ?_
    | refine pairKeeps_ite ?_ ?_
    | refine snd_of ?_
    | refine kept_fillDone (sub_trans (by decide) hP) ?_
    | refine kept_fillHalt (sub_trans (by decide) hP) ?_
    | refine kept_fillSource (sub_trans (by decide) hP) ?_
    | refine kept_noteRefetched (sub_trans (by decide) hP) ?_
    | refine kept_noteSlotDamage (sub_trans (by decide) hP) ?_
    | refine kept_putSlot (sub_trans (by decide) hP) ?_
    | refine keeps_foldl _ (fun _ _ _ => ?_) ?_
    | refine keeps_foldlP _ (fun _ _ _ => ?_) ?_
    | refine tripleKeeps_foldl _ (fun _ _ _ => ?_) ?_
    | refine objStepKeeps_foldl _ (fun _ _ _ => ?_) ?_
    | refine of_pair ?_ (by assumption)
    | split
    | refine keeps_pair ?_

theorem kept_fillLand {P : List Part} {base : State} {h : Nat} {slot : Nat} {d : HSlot} {s : State} (hP : sub [.free, .ctl, .mem, .ev, .ms, .mxes, .slots, .refetch, .engs, .tags, .fabQ, .persist] P) (h_s : Keeps P base s) :
    Keeps P base (fillLand h slot d s) := by
  unfold fillLand
  try dsimp only
  with_reducible repeat' first
    | assumption
    | refine keeps_ite ?_ ?_
    | refine pairKeeps_ite ?_ ?_
    | refine snd_of ?_
    | refine kept_fillHalt (sub_trans (by decide) hP) ?_
    | refine kept_fillSource (sub_trans (by decide) hP) ?_
    | refine kept_fillStale (sub_trans (by decide) hP) ?_
    | refine kept_landSlot (sub_trans (by decide) hP) ?_
    | refine of_pair ?_ (by assumption)
    | split
    | refine keeps_pair ?_

theorem kept_healUnit {P : List Part} {base : State} {k : UnitKey} {s : State} (hP : sub [.ctl, .ev, .ms, .t3, .persist] P) (h_s : Keeps P base s) :
    Keeps P base (healUnit k s) := by
  unfold healUnit
  try dsimp only
  with_reducible repeat' first
    | assumption
    | refine keeps_ite ?_ ?_
    | refine kept_restoreWords (sub_trans (by decide) hP) ?_
    | split
  all_goals try (with_reducible refine keeps_with_t3 (sub_trans (by decide) hP) ?_ (fun q => by first | exact q | exact wf_memPuts _ _ q | exact wf_memZero _ _ q | exact wf_filter _ q))
  all_goals with_reducible repeat' first
    | assumption
    | refine keeps_ite ?_ ?_
    | refine kept_restoreWords (sub_trans (by decide) hP) ?_
    | split

theorem kept_answerWaiter {P : List Part} {base : State} {s : State} {w : Waiter} (hP : sub [.free, .ctl, .mem, .ev, .ms, .t3, .mxes, .qos, .knc, .hp0, .pool, .plt, .fabQ, .persist, .out] P) (h_s : Keeps P base s) :
    Keeps P base (answerWaiter s w) := by
  unfold answerWaiter
  try dsimp only
  with_reducible repeat' first
    | assumption
    | refine keeps_ite ?_ ?_
    | refine kept_collFeed (sub_trans (by decide) hP) ?_
    | refine kept_ctxServe (sub_trans (by decide) hP) ?_
    | refine kept_poolRetry (sub_trans (by decide) hP) ?_
    | refine kept_winServe (sub_trans (by decide) hP) ?_
    | refine keeps_id ?_
    | split

theorem kept_applyHeld {P : List Part} {base : State} {ws : List Held} {s : State} (hP : sub [.ctl, .mem, .ev, .ms, .mxes, .persist] P) (h_s : Keeps P base s) :
    Keeps P base (applyHeld ws s) := by
  unfold applyHeld
  try dsimp only
  with_reducible repeat' first
    | assumption
    | refine keeps_ite ?_ ?_
    | refine kept_writePieces (sub_trans (by decide) hP) ?_
    | refine keeps_foldl _ (fun _ _ _ => ?_) ?_
    | refine keeps_foldlP _ (fun _ _ _ => ?_) ?_
    | refine tripleKeeps_foldl _ (fun _ _ _ => ?_) ?_
    | refine objStepKeeps_foldl _ (fun _ _ _ => ?_) ?_
    | split

theorem kept_srLand {P : List Part} {base : State} {c : Nat} {s : State} (hP : sub [.ctl, .mem, .ev, .ms, .mxes, .persist] P) (h_s : Keeps P base s) :
    Keeps P base (srLand c s) := by
  unfold srLand
  try dsimp only
  with_reducible repeat' first
    | assumption
    | refine keeps_ite ?_ ?_
    | refine kept_applyHeld (sub_trans (by decide) hP) ?_
    | split
  all_goals try (with_reducible refine keeps_with_ms (sub_trans (by decide) hP) ?_)
  all_goals with_reducible repeat' first
    | assumption
    | refine keeps_ite ?_ ?_
    | refine kept_applyHeld (sub_trans (by decide) hP) ?_
    | split

theorem kept_putView {P : List Part} {base : State} {h : Nat} {v : SlotView} {off : Nat} {bs : List Byte} {s : State} (hP : sub [.ctl, .mem, .ev, .ms, .mxes, .persist] P) (h_s : Keeps P base s) :
    Keeps P base (putView h v off bs s) := by
  unfold putView
  try dsimp only
  with_reducible repeat' first
    | assumption
    | refine keeps_ite ?_ ?_
    | refine pairKeeps_ite ?_ ?_
    | refine snd_of ?_
    | refine kept_writeRange (sub_trans (by decide) hP) ?_
    | refine keeps_foldl _ (fun _ _ _ => ?_) ?_
    | refine keeps_foldlP _ (fun _ _ _ => ?_) ?_
    | refine tripleKeeps_foldl _ (fun _ _ _ => ?_) ?_
    | refine objStepKeeps_foldl _ (fun _ _ _ => ?_) ?_
    | refine of_pair ?_ (by assumption)
    | split
    | refine keeps_pair ?_

theorem kept_syncRcv {P : List Part} {base : State} {hd : Nat} {s : State} (hP : sub [.ctl] P) (h_s : Keeps P base s) :
    Keeps P base (syncRcv hd s) := by
  unfold syncRcv
  try dsimp only
  with_reducible repeat' first
    | assumption
    | refine keeps_ite ?_ ?_
    | refine kept_setFld (sub_trans (by decide) hP) ?_
    | split

theorem kept_closeEntry {P : List Part} {base : State} {e : RcvEntry} {s : State} (hP : sub [.ctl, .ms] P) (h_s : Keeps P base s) :
    Keeps P base (closeEntry e s) := by
  unfold closeEntry
  try dsimp only
  with_reducible repeat' first
    | assumption
    | refine keeps_ite ?_ ?_
    | refine kept_syncRcv (sub_trans (by decide) hP) ?_
    | split
  all_goals try (with_reducible refine keeps_with_ms (sub_trans (by decide) hP) ?_)
  all_goals with_reducible repeat' first
    | assumption
    | refine keeps_ite ?_ ?_
    | refine kept_syncRcv (sub_trans (by decide) hP) ?_
    | split

theorem kept_retryStalled {P : List Part} {base : State} {s : State} (hP : sub [.free, .ctl, .mem, .ev, .ms, .t3, .mxes, .qos, .knc, .hp0, .pool, .plt, .fabQ, .persist, .out] P) (h_s : Keeps P base s) :
    Keeps P base (retryStalled s) := by
  unfold retryStalled
  try dsimp only
  with_reducible repeat' first
    | assumption
    | refine keeps_ite ?_ ?_
    | refine kept_answerWaiter (sub_trans (by decide) hP) ?_
    | refine kept_winRun (sub_trans (by decide) hP) ?_
    | refine keeps_foldl _ (fun _ _ _ => ?_) ?_
    | refine keeps_foldlP _ (fun _ _ _ => ?_) ?_
    | refine tripleKeeps_foldl _ (fun _ _ _ => ?_) ?_
    | refine objStepKeeps_foldl _ (fun _ _ _ => ?_) ?_
    | split
  all_goals try (with_reducible refine keeps_with_ms (sub_trans (by decide) hP) ?_)
  all_goals with_reducible repeat' first
    | assumption
    | refine keeps_ite ?_ ?_
    | refine kept_answerWaiter (sub_trans (by decide) hP) ?_
    | refine kept_winRun (sub_trans (by decide) hP) ?_
    | refine keeps_foldl _ (fun _ _ _ => ?_) ?_
    | refine keeps_foldlP _ (fun _ _ _ => ?_) ?_
    | refine tripleKeeps_foldl _ (fun _ _ _ => ?_) ?_
    | refine objStepKeeps_foldl _ (fun _ _ _ => ?_) ?_
    | split

theorem kept_repairEvent {P : List Part} {base : State} {e : RcvEntry} {s : State} (hP : sub [.ctl, .ev] P) (h_s : Keeps P base s) :
    Keeps P base (repairEvent e s) := by
  unfold repairEvent
  try dsimp only
  with_reducible repeat' first
    | assumption
    | refine keeps_ite ?_ ?_
    | refine kept_event (sub_trans (by decide) hP) ?_
    | split

end Sys2Proof.Machine
end

