-- ==== Sys2Proof/Laws/Seams.lean ====
section
/-! SUPPORT. For each operation of Machine/Seams.lean, which parts of the state it may change: `kept_f` says that `f` keeps
everything but the parts listed in its first hypothesis, from any state that the states it is given were kept from. -/

namespace Sys2Proof.Machine

theorem kept_instanceLost {P : List Part} {base : State} {kind : Nat} {num : Nat} {s : State} (hP : sub [.ctl, .ev] P) (h_s : Keeps P base s) :
    Keeps P base (instanceLost kind num s) := by
  unfold instanceLost
  try dsimp only
  with_reducible repeat' first
    | assumption
    | refine keeps_ite ?_ ?_
    | refine kept_event (sub_trans (by decide) hP) ?_
    | split

theorem kept_engStop {P : List Part} {base : State} {e : Nat} {s : State} (hP : sub [.ctl, .ms, .slots, .refetch, .engs, .tags] P) (h_s : Keeps P base s) :
    Keeps P base (engStop e s) := by
  unfold engStop
  try dsimp only
  with_reducible repeat' first
    | assumption
    | refine keeps_ite ?_ ?_
    | refine kept_engAbort (sub_trans (by decide) hP) ?_
    | split

theorem kept_loseCrew {P : List Part} {base : State} {s : State} {n : Nat} (hP : sub [.ctl, .ev, .ms, .mxes, .slots, .refetch, .engs, .tags] P) (h_s : Keeps P base s) :
    Keeps P base (loseCrew s n) := by
  unfold loseCrew
  try dsimp only
  with_reducible repeat' first
    | assumption
    | refine keeps_ite ?_ ?_
    | refine kept_abortRuns (sub_trans (by decide) hP) ?_
    | refine kept_engStop (sub_trans (by decide) hP) ?_
    | refine kept_instanceLost (sub_trans (by decide) hP) ?_
    | refine kept_setReg (sub_trans (by decide) hP) ?_
    | refine keeps_foldl _ (fun _ _ _ => ?_) ?_
    | refine keeps_foldlP _ (fun _ _ _ => ?_) ?_
    | refine tripleKeeps_foldl _ (fun _ _ _ => ?_) ?_
    | refine objStepKeeps_foldl _ (fun _ _ _ => ?_) ?_
    | refine optKeeps_map (fun _ => ?_)
    | split

theorem kept_splitHalves {P : List Part} {base : State} {s : State} (hP : sub [.free, .ctl, .ev, .ms, .slots, .refetch, .hp0, .engs, .tags, .mgmt] P) (h_s : Keeps P base s) :
    Keeps P base (splitHalves s) := by
  unfold splitHalves
  try dsimp only
  with_reducible repeat' first
    | assumption
    | refine keeps_ite ?_ ?_
    | refine kept_engStop (sub_trans (by decide) hP) ?_
    | refine kept_event (sub_trans (by decide) hP) ?_
    | refine kept_ownCompletion (sub_trans (by decide) hP) ?_
    | refine keeps_foldl _ (fun _ _ _ => ?_) ?_
    | refine keeps_foldlP _ (fun _ _ _ => ?_) ?_
    | refine tripleKeeps_foldl _ (fun _ _ _ => ?_) ?_
    | refine objStepKeeps_foldl _ (fun _ _ _ => ?_) ?_
    | refine optKeeps_map (fun _ => ?_)
    | split
  all_goals try (with_reducible refine keeps_with_mgmt (sub_trans (by decide) hP) ?_ (fun q => by first | exact q | exact wf_memPuts _ _ q | exact wf_memZero _ _ q | exact wf_filter _ q))
  all_goals with_reducible repeat' first
    | assumption
    | refine keeps_ite ?_ ?_
    | refine kept_engStop (sub_trans (by decide) hP) ?_
    | refine kept_event (sub_trans (by decide) hP) ?_
    | refine kept_ownCompletion (sub_trans (by decide) hP) ?_
    | refine keeps_foldl _ (fun _ _ _ => ?_) ?_
    | refine keeps_foldlP _ (fun _ _ _ => ?_) ?_
    | refine tripleKeeps_foldl _ (fun _ _ _ => ?_) ?_
    | refine objStepKeeps_foldl _ (fun _ _ _ => ?_) ?_
    | refine optKeeps_map (fun _ => ?_)
    | split

theorem kept_clearDie {P : List Part} {base : State} {d : Nat} {s : State} (hP : sub [.ctl] P) (h_s : Keeps P base s) :
    Keeps P base (clearDie d s) := by
  unfold clearDie
  try dsimp only
  with_reducible repeat' first
    | assumption
    | refine keeps_ite ?_ ?_
    | refine kept_setFld (sub_trans (by decide) hP) ?_
    | split

theorem kept_loseCtrl {P : List Part} {base : State} {s : State} {c : Nat} (hP : sub [.ctl, .ev, .ms] P) (h_s : Keeps P base s) :
    Keeps P base (loseCtrl s c) := by
  unfold loseCtrl
  try dsimp only
  with_reducible repeat' first
    | assumption
    | refine keeps_ite ?_ ?_
    | refine kept_clearStackPresent (sub_trans (by decide) hP) ?_
    | refine kept_instanceLost (sub_trans (by decide) hP) ?_
    | refine kept_setMemState (sub_trans (by decide) hP) ?_
    | split

theorem kept_losePort {P : List Part} {base : State} {s : State} {p : Nat} (hP : sub [.ctl, .ev, .t3] P) (h_s : Keeps P base s) :
    Keeps P base (losePort s p) := by
  unfold losePort
  try dsimp only
  with_reducible repeat' first
    | assumption
    | refine keeps_ite ?_ ?_
    | refine kept_instanceLost (sub_trans (by decide) hP) ?_
    | refine kept_qosRefresh (sub_trans (by decide) hP) ?_
    | refine kept_updSsd (sub_trans (by decide) hP) ?_
    | split

theorem kept_loseDie {P : List Part} {base : State} {s : State} {d : Nat} (hP : sub [.free, .ctl, .mem, .ev, .ms, .t3, .mxes, .slots, .refetch, .knc, .hp0, .engs, .plt, .tags, .fabQ, .mgmt, .persist, .out] P) (h_s : Keeps P base s) :
    Keeps P base (loseDie s d) := by
  unfold loseDie
  try dsimp only
  with_reducible repeat' first
    | assumption
    | refine keeps_ite ?_ ?_
    | refine kept_clearDie (sub_trans (by decide) hP) ?_
    | refine kept_linkChange (sub_trans (by decide) hP) ?_
    | refine kept_loseCrew (sub_trans (by decide) hP) ?_
    | refine kept_loseCtrl (sub_trans (by decide) hP) ?_
    | refine kept_losePort (sub_trans (by decide) hP) ?_
    | refine kept_portDown (sub_trans (by decide) hP) ?_
    | refine kept_setFld (sub_trans (by decide) hP) ?_
    | refine keeps_foldl _ (fun _ _ _ => ?_) ?_
    | refine keeps_foldlP _ (fun _ _ _ => ?_) ?_
    | refine tripleKeeps_foldl _ (fun _ _ _ => ?_) ?_
    | refine objStepKeeps_foldl _ (fun _ _ _ => ?_) ?_
    | refine optKeeps_map (fun _ => ?_)
    | split

theorem kept_loseOthers {P : List Part} {base : State} {dies : List Nat} {s : State} (hP : sub [.free, .ctl, .mem, .ev, .ms, .t3, .mxes, .slots, .refetch, .knc, .hp0, .engs, .plt, .tags, .fabQ, .mgmt, .persist, .out] P) (h_s : Keeps P base s) :
    Keeps P base (loseOthers dies s) := by
  unfold loseOthers
  try dsimp only
  with_reducible repeat' first
    | assumption
    | refine keeps_ite ?_ ?_
    | refine kept_loseDie (sub_trans (by decide) hP) ?_
    | refine keeps_foldl _ (fun _ _ _ => ?_) ?_
    | refine keeps_foldlP _ (fun _ _ _ => ?_) ?_
    | refine tripleKeeps_foldl _ (fun _ _ _ => ?_) ?_
    | refine objStepKeeps_foldl _ (fun _ _ _ => ?_) ?_
    | split

theorem kept_seamReplay {P : List Part} {base : State} {link : Nat} {s : State} (hP : sub [.ctl] P) (h_s : Keeps P base s) :
    Keeps P base (seamReplay link s) := by
  unfold seamReplay
  try dsimp only
  with_reducible repeat' first
    | assumption
    | refine keeps_ite ?_ ?_
    | refine kept_setReg (sub_trans (by decide) hP) ?_
    | split

theorem kept_updSeams {P : List Part} {base : State} {f : Seams → Seams} {s : State} (hP : sub [.seams] P) (h_s : Keeps P base s) :
    Keeps P base (updSeams f s) := by
  unfold updSeams
  try dsimp only
  with_reducible repeat' first
    | assumption
    | refine keeps_ite ?_ ?_
    | split
  all_goals try (with_reducible refine keeps_with_seams (sub_trans (by decide) hP) ?_)
  all_goals with_reducible repeat' first
    | assumption
    | refine keeps_ite ?_ ?_
    | split

theorem kept_setSeam {P : List Part} {base : State} {link : Nat} {v : Nat} {s : State} (hP : sub [.ctl] P) (h_s : Keeps P base s) :
    Keeps P base (setSeam link v s) := by
  unfold setSeam
  try dsimp only
  with_reducible repeat' first
    | assumption
    | refine keeps_ite ?_ ?_
    | refine kept_setReg (sub_trans (by decide) hP) ?_
    | split

theorem kept_isolate {P : List Part} {base : State} {s : State} (hP : sub [.free, .ctl, .mem, .ev, .ms, .t3, .mxes, .slots, .refetch, .knc, .hp0, .engs, .plt, .tags, .fabQ, .mgmt, .persist, .out] P) (h_s : Keeps P base s) :
    Keeps P base (isolate s) := by
  unfold isolate
  try dsimp only
  with_reducible repeat' first
    | assumption
    | refine keeps_ite ?_ ?_
    | refine kept_loseOthers (sub_trans (by decide) hP) ?_
    | refine kept_splitHalves (sub_trans (by decide) hP) ?_
    | split

theorem kept_updDir {P : List Part} {base : State} {link : Nat} {dir : Bool} {f : SeamDir → SeamDir} {s : State} (hP : sub [.seams] P) (h_s : Keeps P base s) :
    Keeps P base (updDir link dir f s) := by
  unfold updDir
  try dsimp only
  with_reducible repeat' first
    | assumption
    | refine keeps_ite ?_ ?_
    | refine kept_updSeams (sub_trans (by decide) hP) ?_
    | split

end Sys2Proof.Machine
end

