-- ==== Sys2Proof/Laws/Mgmt.lean ====
section
/-! SUPPORT. For each operation of Machine/Mgmt.lean, which parts of the state it may change: `kept_f` says that `f` keeps
everything but the parts listed in its first hypothesis, from any state that the states it is given were kept from. -/

namespace Sys2Proof.Machine

theorem kept_thermWrite {P : List Part} {base : State} {who : Who} {val : Nat} {s : State} (hP : sub [.ctl, .ev] P) (h_s : Keeps P base s) :
    Keeps P base (thermWrite who val s) := by
  unfold thermWrite
  try dsimp only
  with_reducible repeat' first
    | assumption
    | refine keeps_ite ?_ ?_
    | refine kept_ignoredWrite (sub_trans (by decide) hP) ?_
    | refine kept_setReg (sub_trans (by decide) hP) ?_
    | split

theorem kept_fuseProgWrite {P : List Part} {base : State} {who : Who} {val : Nat} {s : State} (hP : sub [.ctl, .ev] P) (h_s : Keeps P base s) :
    Keeps P base (fuseProgWrite who val s) := by
  unfold fuseProgWrite
  try dsimp only
  with_reducible repeat' first
    | assumption
    | refine keeps_ite ?_ ?_
    | refine kept_ignoredWrite (sub_trans (by decide) hP) ?_
    | refine kept_setReg (sub_trans (by decide) hP) ?_
    | split

theorem kept_capWrite {P : List Part} {base : State} {who : Who} {val : Nat} {s : State} (hP : sub [.ctl, .ev] P) (h_s : Keeps P base s) :
    Keeps P base (capWrite who val s) := by
  unfold capWrite
  try dsimp only
  with_reducible repeat' first
    | assumption
    | refine keeps_ite ?_ ?_
    | refine kept_ignoredWrite (sub_trans (by decide) hP) ?_
    | refine kept_setReg (sub_trans (by decide) hP) ?_
    | split

theorem kept_updMgmt {P : List Part} {base : State} {f : Mgmt → Mgmt} {s : State} (hP : sub [.mgmt] P) (h_f : ∀ m, Memory.wf m.flash = true → Memory.wf (f m).flash = true) (h_s : Keeps P base s) :
    Keeps P base (updMgmt f s) := by
  unfold updMgmt
  exact keeps_mk h_s rfl (Or.inl rfl) (Or.inl rfl) (Or.inl rfl) (Or.inl rfl) (Or.inl rfl) (Or.inl rfl) (Or.inl rfl) (Or.inl rfl) (Or.inl rfl) (Or.inl rfl) (Or.inl rfl) (Or.inl rfl) (Or.inl rfl) (Or.inl rfl) (Or.inl rfl) (Or.inl rfl) (Or.inl rfl) (Or.inl rfl) (Or.inl rfl) (Or.inl rfl) (Or.inl rfl) (Or.inl rfl) (Or.inl rfl) (Or.inr (sub_trans (by decide) hP)) (Or.inl rfl) (Or.inl rfl)
    (fun q => bytesWf_of (bytesWf_parts q).1 (bytesWf_parts q).2.1 (bytesWf_parts q).2.2.1 (h_f _ (bytesWf_parts q).2.2.2))

theorem kept_updHalf {P : List Part} {base : State} {h : Nat} {g : HalfCtl → HalfCtl} {s : State} (hP : sub [.ctl, .mgmt] P) (h_s : Keeps P base s) :
    Keeps P base (updHalf h g s) := by
  unfold updHalf
  try dsimp only
  with_reducible repeat' first
    | assumption
    | refine keeps_ite ?_ ?_
    | refine kept_setFld (sub_trans (by decide) hP) ?_
    | refine kept_setReg (sub_trans (by decide) hP) ?_
    | refine kept_updMgmt (sub_trans (by decide) hP) (by first | exact fun _ q => q | exact fun _ q => wf_memPuts _ _ q) ?_
    | split

theorem kept_halfCtlWrite {P : List Part} {base : State} {who : Who} {h : Nat} {val : Nat} {s : State} (hP : sub [.ctl, .ev, .mgmt] P) (h_s : Keeps P base s) :
    Keeps P base (halfCtlWrite who h val s) := by
  unfold halfCtlWrite
  try dsimp only
  with_reducible repeat' first
    | assumption
    | refine keeps_ite ?_ ?_
    | refine kept_ignoredWrite (sub_trans (by decide) hP) ?_
    | refine kept_updHalf (sub_trans (by decide) hP) ?_
    | split

theorem kept_abortForemanEngines {P : List Part} {base : State} {s : State} (hP : sub [.ctl, .ms, .slots, .refetch, .engs, .tags] P) (h_s : Keeps P base s) :
    Keeps P base (abortForemanEngines s) := by
  unfold abortForemanEngines
  try dsimp only
  with_reducible repeat' first
    | assumption
    | refine keeps_ite ?_ ?_
    | refine kept_engAbort (sub_trans (by decide) hP) ?_
    | refine keeps_foldl _ (fun _ _ _ => ?_) ?_
    | refine keeps_foldlP _ (fun _ _ _ => ?_) ?_
    | refine tripleKeeps_foldl _ (fun _ _ _ => ?_) ?_
    | refine objStepKeeps_foldl _ (fun _ _ _ => ?_) ?_
    | split

theorem kept_abortAdmin {P : List Part} {base : State} {s : State} (hP : sub [.free, .ctl, .hp0] P) (h_s : Keeps P base s) :
    Keeps P base (abortAdmin s) := by
  unfold abortAdmin
  try dsimp only
  with_reducible repeat' first
    | assumption
    | refine keeps_ite ?_ ?_
    | refine kept_dropToken (sub_trans (by decide) hP) ?_
    | refine kept_ownCompletion (sub_trans (by decide) hP) ?_
    | refine kept_updHp0 (sub_trans (by decide) hP) ?_
    | refine keeps_foldl _ (fun _ _ _ => ?_) ?_
    | refine keeps_foldlP _ (fun _ _ _ => ?_) ?_
    | refine tripleKeeps_foldl _ (fun _ _ _ => ?_) ?_
    | refine objStepKeeps_foldl _ (fun _ _ _ => ?_) ?_
    | split

theorem kept_becomeLeader {P : List Part} {base : State} {f : Nat} {note : State → State} {s : State} (hP : sub [.free, .ctl, .ev, .ms, .slots, .refetch, .hp0, .engs, .tags, .mgmt] P) (h_note : ∀ x0, Keeps P base x0 → Keeps P base (note x0)) (h_s : Keeps P base s) :
    Keeps P base (becomeLeader f note s) := by
  unfold becomeLeader
  try dsimp only
  with_reducible repeat' first
    | assumption
    | refine keeps_ite ?_ ?_
    | refine kept_abortAdmin (sub_trans (by decide) hP) ?_
    | refine kept_abortForemanEngines (sub_trans (by decide) hP) ?_
    | refine kept_event (sub_trans (by decide) hP) ?_
    | refine kept_setFld (sub_trans (by decide) hP) ?_
    | refine kept_setReg (sub_trans (by decide) hP) ?_
    | refine kept_updMgmt (sub_trans (by decide) hP) (by first | exact fun _ q => q | exact fun _ q => wf_memPuts _ _ q) ?_
    | refine h_note _ ?_
    | split

theorem kept_setClaim {P : List Part} {base : State} {f : Nat} {x : Fld} {v : Nat} {s : State} (hP : sub [.ctl] P) (h_s : Keeps P base s) :
    Keeps P base (setClaim f x v s) := by
  unfold setClaim
  try dsimp only
  with_reducible repeat' first
    | assumption
    | refine keeps_ite ?_ ?_
    | refine kept_setFld (sub_trans (by decide) hP) ?_
    | split

theorem kept_updForeman {P : List Part} {base : State} {f : Nat} {g : Foreman → Foreman} {s : State} (hP : sub [.mgmt] P) (h_s : Keeps P base s) :
    Keeps P base (updForeman f g s) := by
  unfold updForeman
  try dsimp only
  with_reducible repeat' first
    | assumption
    | refine keeps_ite ?_ ?_
    | refine kept_updMgmt (sub_trans (by decide) hP) (by first | exact fun _ q => q | exact fun _ q => wf_memPuts _ _ q) ?_
    | split

theorem kept_stand {P : List Part} {base : State} {f : Nat} {s : State} (hP : sub [.ctl, .mgmt] P) (h_s : Keeps P base s) :
    Keeps P base (stand f s) := by
  unfold stand
  try dsimp only
  with_reducible repeat' first
    | assumption
    | refine keeps_ite ?_ ?_
    | refine kept_setClaim (sub_trans (by decide) hP) ?_
    | refine kept_updForeman (sub_trans (by decide) hP) ?_
    | split

theorem kept_bootClaim {P : List Part} {base : State} {f : Nat} {ok : Bool} {s : State} (hP : sub [.ctl, .mgmt] P) (h_s : Keeps P base s) :
    Keeps P base (bootClaim f ok s) := by
  unfold bootClaim
  try dsimp only
  with_reducible repeat' first
    | assumption
    | refine keeps_ite ?_ ?_
    | refine kept_setClaim (sub_trans (by decide) hP) ?_
    | refine kept_stand (sub_trans (by decide) hP) ?_
    | split

theorem kept_bootWith {P : List Part} {base : State} {f : Nat} {slot : Option Nat} {s : State} (hP : sub [.ctl, .mgmt] P) (h_s : Keeps P base s) :
    Keeps P base (bootWith f slot s) := by
  unfold bootWith
  try dsimp only
  with_reducible repeat' first
    | assumption
    | refine keeps_ite ?_ ?_
    | refine kept_bootClaim (sub_trans (by decide) hP) ?_
    | refine kept_setFld (sub_trans (by decide) hP) ?_
    | refine kept_updForeman (sub_trans (by decide) hP) ?_
    | refine optKeeps_map (fun _ => ?_)
    | split

theorem kept_rejectSlot {P : List Part} {base : State} {f : Nat} {k : Nat} {reason : Nat} {s : State} (hP : sub [.ctl, .ev] P) (h_s : Keeps P base s) :
    Keeps P base (rejectSlot f k reason s) := by
  unfold rejectSlot
  try dsimp only
  with_reducible repeat' first
    | assumption
    | refine keeps_ite ?_ ?_
    | refine kept_event (sub_trans (by decide) hP) ?_
    | refine kept_setFld (sub_trans (by decide) hP) ?_
    | split

theorem kept_thermalTrip {P : List Part} {base : State} {d : Nat} {temp : Option Nat} {s : State} (hP : sub [.free, .ctl, .mem, .ev, .ms, .mxes, .plt, .fabQ, .mgmt, .persist] P) (h_s : Keeps P base s) :
    Keeps P base (thermalTrip d temp s) := by
  unfold thermalTrip
  try dsimp only
  with_reducible repeat' first
    | assumption
    | refine keeps_ite ?_ ?_
    | refine pairKeeps_ite ?_ ?_
    | refine snd_of ?_
    | refine kept_event (sub_trans (by decide) hP) ?_
    | refine kept_freshWord (sub_trans (by decide) hP) ?_
    | refine kept_portEvent (sub_trans (by decide) hP) ?_
    | refine kept_portLost (sub_trans (by decide) hP) ?_
    | refine kept_updMgmt (sub_trans (by decide) hP) (by first | exact fun _ q => q | exact fun _ q => wf_memPuts _ _ q) ?_
    | refine keeps_foldl _ (fun _ _ _ => ?_) ?_
    | refine keeps_foldlP _ (fun _ _ _ => ?_) ?_
    | refine tripleKeeps_foldl _ (fun _ _ _ => ?_) ?_
    | refine objStepKeeps_foldl _ (fun _ _ _ => ?_) ?_
    | refine of_pair ?_ (by assumption)
    | split
    | refine keeps_pair ?_

theorem kept_loadIdentity {P : List Part} {base : State} {s : State} (hP : sub [.free, .ctl] P) (h_s : Keeps P base s) :
    Keeps P base (loadIdentity s) := by
  unfold loadIdentity
  try dsimp only
  with_reducible repeat' first
    | assumption
    | refine keeps_ite ?_ ?_
    | refine pairKeeps_ite ?_ ?_
    | refine snd_of ?_
    | refine kept_freshWord (sub_trans (by decide) hP) ?_
    | refine kept_setReg (sub_trans (by decide) hP) ?_
    | refine keeps_foldl _ (fun _ _ _ => ?_) ?_
    | refine keeps_foldlP _ (fun _ _ _ => ?_) ?_
    | refine tripleKeeps_foldl _ (fun _ _ _ => ?_) ?_
    | refine objStepKeeps_foldl _ (fun _ _ _ => ?_) ?_
    | refine of_pair ?_ (by assumption)
    | split
    | refine keeps_pair ?_

theorem kept_resetForeman {P : List Part} {base : State} {f : Nat} {s : State} (hP : sub [.ctl, .mgmt] P) (h_s : Keeps P base s) :
    Keeps P base (resetForeman f s) := by
  unfold resetForeman
  try dsimp only
  with_reducible repeat' first
    | assumption
    | refine keeps_ite ?_ ?_
    | refine kept_setClaim (sub_trans (by decide) hP) ?_
    | refine kept_setFld (sub_trans (by decide) hP) ?_
    | refine kept_updForeman (sub_trans (by decide) hP) ?_
    | split

theorem kept_powerControl {P : List Part} {base : State} {watts : Nat} {avg : Nat} {s : State} {h : Nat} (hP : sub [.free, .ctl, .ev, .mgmt] P) (h_s : Keeps P base s) :
    Keeps P base (powerControl watts avg s h) := by
  unfold powerControl
  try dsimp only
  with_reducible repeat' first
    | assumption
    | refine keeps_ite ?_ ?_
    | refine kept_event (sub_trans (by decide) hP) ?_
    | refine kept_updHalf (sub_trans (by decide) hP) ?_
    | split
  all_goals try (with_reducible refine keeps_with_free (sub_trans (by decide) hP) ?_)
  all_goals with_reducible repeat' first
    | assumption
    | refine keeps_ite ?_ ?_
    | refine kept_event (sub_trans (by decide) hP) ?_
    | refine kept_updHalf (sub_trans (by decide) hP) ?_
    | split
  all_goals try (with_reducible refine keeps_with_free (sub_trans (by decide) hP) ?_)
  all_goals with_reducible repeat' first
    | assumption
    | refine keeps_ite ?_ ?_
    | refine kept_event (sub_trans (by decide) hP) ?_
    | refine kept_updHalf (sub_trans (by decide) hP) ?_
    | split

theorem kept_watchClaims {P : List Part} {base : State} {s : State} (hP : sub [.ctl, .mgmt] P) (h_s : Keeps P base s) :
    Keeps P base (watchClaims s) := by
  unfold watchClaims
  try dsimp only
  with_reducible repeat' first
    | assumption
    | refine keeps_ite ?_ ?_
    | refine kept_bump (sub_trans (by decide) hP) ?_
    | refine kept_resetForeman (sub_trans (by decide) hP) ?_
    | refine kept_setFld (sub_trans (by decide) hP) ?_
    | refine kept_updMgmt (sub_trans (by decide) hP) (by first | exact fun _ q => q | exact fun _ q => wf_memPuts _ _ q) ?_
    | split

theorem kept_loadFuseStat {P : List Part} {base : State} {s : State} (hP : sub [.ctl] P) (h_s : Keeps P base s) :
    Keeps P base (loadFuseStat s) := by
  unfold loadFuseStat
  try dsimp only
  with_reducible repeat' first
    | assumption
    | refine keeps_ite ?_ ?_
    | refine kept_setReg (sub_trans (by decide) hP) ?_
    | split

theorem kept_haltMismatch {P : List Part} {base : State} {s : State} (hP : sub [.ctl] P) (h_s : Keeps P base s) :
    Keeps P base (haltMismatch s) := by
  unfold haltMismatch
  try dsimp only
  with_reducible repeat' first
    | assumption
    | refine keeps_ite ?_ ?_
    | refine kept_loadFuseStat (sub_trans (by decide) hP) ?_
    | refine kept_setFld (sub_trans (by decide) hP) ?_
    | split

theorem kept_thermalControl {P : List Part} {base : State} {h : Nat} {d : Nat} {t : Nat} {s : State} (hP : sub [.ctl, .ev, .mgmt] P) (h_s : Keeps P base s) :
    Keeps P base (thermalControl h d t s) := by
  unfold thermalControl
  try dsimp only
  with_reducible repeat' first
    | assumption
    | refine keeps_ite ?_ ?_
    | refine kept_event (sub_trans (by decide) hP) ?_
    | refine kept_updHalf (sub_trans (by decide) hP) ?_
    | split

theorem kept_bootSlots {P : List Part} {base : State} {f : Nat} {unread : List Nat} {s : State} (hP : sub [.ctl, .ev] P) (h_s : Keeps P base s) :
    PairKeeps P base (bootSlots f unread s) := by
  unfold bootSlots
  try dsimp only
  with_reducible repeat' first
    | assumption
    | refine keeps_ite ?_ ?_
    | refine pairKeeps_ite ?_ ?_
    | refine snd_of ?_
    | refine kept_rejectSlot (sub_trans (by decide) hP) ?_
    | refine of_pair ?_ (by assumption)
    | split
    | refine keeps_pair ?_

theorem kept_readDie {P : List Part} {base : State} {dies : List (Option Nat)} {s : State} {d : Nat} (hP : sub [.free, .ctl, .mem, .ev, .ms, .mxes, .plt, .fabQ, .mgmt, .persist] P) (h_s : Keeps P base s) :
    Keeps P base (readDie dies s d) := by
  unfold readDie
  try dsimp only
  with_reducible repeat' first
    | assumption
    | refine keeps_ite ?_ ?_
    | refine kept_setReg (sub_trans (by decide) hP) ?_
    | refine kept_thermalTrip (sub_trans (by decide) hP) ?_
    | split

end Sys2Proof.Machine
end

