-- ==== Sys2Proof/Laws/Startup.lean ====
section
/-! SUPPORT. For each operation of Machine/Startup.lean, which parts of the state it may change: `kept_f` says that `f` keeps
everything but the parts listed in its first hypothesis, from any state that the states it is given were kept from. -/

namespace Sys2Proof.Machine

theorem kept_cutFuses {P : List Part} {base : State} {s : State} (hP : sub [.free, .mgmt] P) (h_s : Keeps P base s) :
    Keeps P base (cutFuses s) := by
  unfold cutFuses
  try dsimp only
  with_reducible repeat' first
    | assumption
    | refine keeps_ite ?_ ?_
    | refine pairKeeps_ite ?_ ?_
    | refine snd_of ?_
    | refine kept_freshWord (sub_trans (by decide) hP) ?_
    | refine kept_updMgmt (sub_trans (by decide) hP) (by first | exact fun _ q => q | exact fun _ q => wf_memPuts _ _ q) ?_
    | refine of_pair ?_ (by assumption)
    | split
    | refine keeps_pair ?_

theorem kept_fundamentalReset {P : List Part} {base : State} {cause : Nat} {die : Nat} {rails : Nat} {s : State} (hP : sub [.nclk, .free, .ctl, .locks, .latch, .mem, .ev, .seams, .ms, .t3, .mxes, .semNow, .slots, .refetch, .qos, .knc, .cores, .hp0, .engs, .pool, .plt, .tags, .fabQ, .mgmt, .persist, .out] P) (h_s : Keeps P base s) :
    Keeps P base (fundamentalReset cause die rails s) := by
  unfold fundamentalReset
  dsimp only
  refine kept_setReg (sub_trans (by decide) hP) (kept_setReg (sub_trans (by decide) hP) ?_)
  have hc : Keeps P base (cutFuses s) := kept_cutFuses (sub_trans (by decide) hP) h_s
  exact keeps_mk hc rfl (Or.inr (sub_trans (by decide) hP)) (Or.inr (sub_trans (by decide) hP)) (Or.inr (sub_trans (by decide) hP)) (Or.inr (sub_trans (by decide) hP)) (Or.inr (sub_trans (by decide) hP)) (Or.inr (sub_trans (by decide) hP)) (Or.inr (sub_trans (by decide) hP)) (Or.inr (sub_trans (by decide) hP)) (Or.inr (sub_trans (by decide) hP)) (Or.inr (sub_trans (by decide) hP)) (Or.inr (sub_trans (by decide) hP)) (Or.inr (sub_trans (by decide) hP)) (Or.inr (sub_trans (by decide) hP)) (Or.inr (sub_trans (by decide) hP)) (Or.inr (sub_trans (by decide) hP)) (Or.inr (sub_trans (by decide) hP)) (Or.inr (sub_trans (by decide) hP)) (Or.inr (sub_trans (by decide) hP)) (Or.inr (sub_trans (by decide) hP)) (Or.inr (sub_trans (by decide) hP)) (Or.inr (sub_trans (by decide) hP)) (Or.inr (sub_trans (by decide) hP)) (Or.inr (sub_trans (by decide) hP)) (Or.inr (sub_trans (by decide) hP)) (Or.inr (sub_trans (by decide) hP)) (Or.inr (sub_trans (by decide) hP)) (fun q => bytesWf_of rfl rfl (bytesWf_parts q).2.2.1 (bytesWf_parts q).2.2.2)

end Sys2Proof.Machine
end

