-- ==== Sys2Proof/Laws/Control.lean ====
section
/-! SUPPORT. For each operation of Machine/Control.lean, which parts of the state it may change: `kept_f` says that `f` keeps
everything but the parts listed in its first hypothesis, from any state that the states it is given were kept from. -/

namespace Sys2Proof.Machine

theorem kept_plainWrite {P : List Part} {base : State} {ok : Bool} {who : Who} {r : CtlRef} {val : Nat} {s : State} (hP : sub [.ctl, .ev] P) (h_s : Keeps P base s) :
    Keeps P base (plainWrite ok who r val s) := by
  unfold plainWrite
  try dsimp only
  with_reducible repeat' first
    | assumption
    | refine keeps_ite ?_ ?_
    | refine kept_ignoredWrite (sub_trans (by decide) hP) ?_
    | refine kept_setReg (sub_trans (by decide) hP) ?_
    | split

theorem kept_lutCfgWrite {P : List Part} {base : State} {who : Who} {r : CtlRef} {val : Nat} {s : State} (hP : sub [.ctl, .ev] P) (h_s : Keeps P base s) :
    Keeps P base (lutCfgWrite who r val s) := by
  unfold lutCfgWrite
  try dsimp only
  with_reducible repeat' first
    | assumption
    | refine keeps_ite ?_ ?_
    | refine kept_plainWrite (sub_trans (by decide) hP) ?_
    | split

theorem kept_msixWrite {P : List Part} {base : State} {who : Who} {f : Nat} {off : Nat} {mask : Nat} {val : Nat} {table : Bool} {s : State} (hP : sub [.ctl, .ev, .hp0, .out] P) (h_s : Keeps P base s) :
    Keeps P base (msixWrite who f off mask val table s) := by
  unfold msixWrite
  try dsimp only
  with_reducible repeat' first
    | assumption
    | refine keeps_ite ?_ ?_
    | refine kept_flushMsix (sub_trans (by decide) hP) ?_
    | refine kept_ignoredWrite (sub_trans (by decide) hP) ?_
    | refine kept_setReg (sub_trans (by decide) hP) ?_
    | split

theorem kept_mxeCntClear {P : List Part} {base : State} {who : Who} {m : Nat} {val : Nat} {s : State} (hP : sub [.ctl, .ev] P) (h_s : Keeps P base s) :
    Keeps P base (mxeCntClear who m val s) := by
  unfold mxeCntClear
  try dsimp only
  with_reducible repeat' first
    | assumption
    | refine keeps_ite ?_ ?_
    | refine kept_blockDo (sub_trans (by decide) hP) (fun _ _ => ?_) ?_
    | refine kept_mxeClearCycles (sub_trans (by decide) hP) ?_
    | refine kept_mxeClearEvents (sub_trans (by decide) hP) ?_
    | split

theorem kept_ctxRegWrite {P : List Part} {base : State} {who : Who} {r : CtlRef} {val : Nat} {s : State} (hP : sub [.ctl, .ev, .knc] P) (h_s : Keeps P base s) :
    Keeps P base (ctxRegWrite who r val s) := by
  unfold ctxRegWrite
  try dsimp only
  with_reducible repeat' first
    | assumption
    | refine keeps_ite ?_ ?_
    | refine kept_ignoredWrite (sub_trans (by decide) hP) ?_
    | refine kept_plainWrite (sub_trans (by decide) hP) ?_
    | refine kept_setG (sub_trans (by decide) hP) ?_
    | refine kept_setP (sub_trans (by decide) hP) ?_
    | refine kept_setReg (sub_trans (by decide) hP) ?_
    | refine kept_wroteReg (sub_trans (by decide) hP) ?_
    | refine keeps_getD ?_ ?_
    | split

theorem kept_crewWrite {P : List Part} {base : State} {who : Who} {r : CtlRef} {val : Nat} {s : State} (hP : sub [.free, .ctl, .ev, .mxes, .semNow, .knc] P) (h_s : Keeps P base s) :
    OptKeeps P base (crewWrite who r val s) := by
  unfold crewWrite
  try dsimp only
  with_reducible repeat' first
    | assumption
    | refine keeps_ite ?_ ?_
    | refine optKeeps_ite ?_ ?_
    | refine optPairKeeps_ite ?_ ?_
    | refine keeps_some ?_
    | refine keeps_none
    | refine keeps_someP ?_
    | refine keeps_noneP
    | refine kept_blockDo (sub_trans (by decide) hP) (fun _ _ => ?_) ?_
    | refine kept_ctxCmdWrite (sub_trans (by decide) hP) ?_
    | refine kept_ctxRegWrite (sub_trans (by decide) hP) ?_
    | refine kept_kncCntClear (sub_trans (by decide) hP) ?_
    | refine kept_kncCtlWrite (sub_trans (by decide) hP) ?_
    | refine kept_lutCfgWrite (sub_trans (by decide) hP) ?_
    | refine kept_mxeCntClear (sub_trans (by decide) hP) ?_
    | refine kept_plainWrite (sub_trans (by decide) hP) ?_
    | refine kept_qctlWrite (sub_trans (by decide) hP) ?_
    | refine kept_semAddWrite (sub_trans (by decide) hP) ?_
    | refine kept_semWrite (sub_trans (by decide) hP) ?_
    | refine kept_setFld (sub_trans (by decide) hP) ?_
    | refine kept_xpClear (sub_trans (by decide) hP) ?_
    | refine keeps_getD ?_ ?_
    | refine of_some ?_ (by assumption)
    | refine of_someP ?_ (by assumption)
    | split

theorem kept_engBlockWrite {P : List Part} {base : State} {who : Who} {r : CtlRef} {val : Nat} {s : State} (hP : sub [.ctl, .mem, .ev, .ms, .mxes, .slots, .refetch, .engs, .tags, .persist] P) (h_s : Keeps P base s) :
    OptKeeps P base (engBlockWrite who r val s) := by
  unfold engBlockWrite
  try dsimp only
  with_reducible repeat' first
    | assumption
    | refine keeps_ite ?_ ?_
    | refine optKeeps_ite ?_ ?_
    | refine optPairKeeps_ite ?_ ?_
    | refine keeps_some ?_
    | refine keeps_none
    | refine keeps_someP ?_
    | refine keeps_noneP
    | refine kept_engCmdWrite (sub_trans (by decide) hP) ?_
    | refine kept_engCtlWrite (sub_trans (by decide) hP) ?_
    | refine kept_engHeadWrite (sub_trans (by decide) hP) ?_
    | refine kept_layerNextWrite (sub_trans (by decide) hP) ?_
    | refine kept_slotCfgWrite (sub_trans (by decide) hP) ?_
    | refine kept_slotDiscard (sub_trans (by decide) hP) ?_
    | refine keeps_getD ?_ ?_
    | refine of_some ?_ (by assumption)
    | refine of_someP ?_ (by assumption)
    | split

theorem kept_objRegWrite {P : List Part} {base : State} {who : Who} {r : CtlRef} {val : Nat} {s : State} (hP : sub [.ctl, .locks, .ev] P) (h_s : Keeps P base s) :
    Keeps P base (objRegWrite who r val s) := by
  unfold objRegWrite
  try dsimp only
  with_reducible repeat' first
    | assumption
    | refine keeps_ite ?_ ?_
    | refine kept_ignoredWrite (sub_trans (by decide) hP) ?_
    | refine kept_lockBits (sub_trans (by decide) hP) ?_
    | refine kept_setReg (sub_trans (by decide) hP) ?_
    | split

theorem kept_memBlockWrite {P : List Part} {base : State} {who : Who} {r : CtlRef} {val : Nat} {s : State} (hP : sub [.ctl, .locks, .ev, .ms, .plt, .fabQ] P) (h_s : Keeps P base s) :
    OptKeeps P base (memBlockWrite who r val s) := by
  unfold memBlockWrite
  try dsimp only
  with_reducible repeat' first
    | assumption
    | refine keeps_ite ?_ ?_
    | refine optKeeps_ite ?_ ?_
    | refine optPairKeeps_ite ?_ ?_
    | refine keeps_some ?_
    | refine keeps_none
    | refine keeps_someP ?_
    | refine keeps_noneP
    | refine kept_injAddrWrite (sub_trans (by decide) hP) ?_
    | refine kept_injCtlWrite (sub_trans (by decide) hP) ?_
    | refine kept_linCtlWrite (sub_trans (by decide) hP) ?_
    | refine kept_linDirtyWrite (sub_trans (by decide) hP) ?_
    | refine kept_loutBaseWrite (sub_trans (by decide) hP) ?_
    | refine kept_loutCtlWrite (sub_trans (by decide) hP) ?_
    | refine kept_loutSizeWrite (sub_trans (by decide) hP) ?_
    | refine kept_lpWrite (sub_trans (by decide) hP) ?_
    | refine kept_memCntClear (sub_trans (by decide) hP) ?_
    | refine kept_memCtlWrite (sub_trans (by decide) hP) ?_
    | refine kept_objRegWrite (sub_trans (by decide) hP) ?_
    | refine kept_plainWrite (sub_trans (by decide) hP) ?_
    | refine keeps_getD ?_ ?_
    | refine of_some ?_ (by assumption)
    | refine of_someP ?_ (by assumption)
    | split

theorem kept_hostBlockWrite {P : List Part} {base : State} {who : Who} {r : CtlRef} {val : Nat} {s : State} (hP : sub [.free, .ctl, .locks, .mem, .ev, .ms, .mxes, .knc, .hp0, .persist, .out] P) (h_s : Keeps P base s) :
    OptKeeps P base (hostBlockWrite who r val s) := by
  unfold hostBlockWrite
  try dsimp only
  with_reducible repeat' first
    | assumption
    | refine keeps_ite ?_ ?_
    | refine optKeeps_ite ?_ ?_
    | refine optPairKeeps_ite ?_ ?_
    | refine keeps_some ?_
    | refine keeps_none
    | refine keeps_someP ?_
    | refine keeps_noneP
    | refine kept_codeCfgWrite (sub_trans (by decide) hP) ?_
    | refine kept_evrCntClear (sub_trans (by decide) hP) ?_
    | refine kept_fnAbort (sub_trans (by decide) hP) ?_
    | refine kept_hp0CntClear (sub_trans (by decide) hP) ?_
    | refine kept_mainBaseWrite (sub_trans (by decide) hP) ?_
    | refine kept_plainWrite (sub_trans (by decide) hP) ?_
    | refine kept_qpBaseWrite (sub_trans (by decide) hP) ?_
    | refine kept_qpCfgWrite (sub_trans (by decide) hP) ?_
    | refine kept_qrouteWrite (sub_trans (by decide) hP) ?_
    | refine kept_trBaseWrite (sub_trans (by decide) hP) ?_
    | refine kept_trCtlWrite (sub_trans (by decide) hP) ?_
    | refine kept_trRdWrite (sub_trans (by decide) hP) ?_
    | refine kept_winBaseWrite (sub_trans (by decide) hP) ?_
    | refine kept_winCtlWrite (sub_trans (by decide) hP) ?_
    | refine keeps_getD ?_ ?_
    | refine of_some ?_ (by assumption)
    | refine of_someP ?_ (by assumption)
    | split

theorem kept_portBlockWrite {P : List Part} {base : State} {who : Who} {r : CtlRef} {val : Nat} {s : State} (hP : sub [.free, .ctl, .locks, .mem, .ev, .ms, .t3, .mxes, .qos, .pool, .plt, .fabQ, .persist, .out] P) (h_s : Keeps P base s) :
    OptKeeps P base (portBlockWrite who r val s) := by
  unfold portBlockWrite
  try dsimp only
  with_reducible repeat' first
    | assumption
    | refine keeps_ite ?_ ?_
    | refine optKeeps_ite ?_ ?_
    | refine optPairKeeps_ite ?_ ?_
    | refine keeps_some ?_
    | refine keeps_none
    | refine keeps_someP ?_
    | refine keeps_noneP
    | refine kept_collCtlWrite (sub_trans (by decide) hP) ?_
    | refine kept_collRegWrite (sub_trans (by decide) hP) ?_
    | refine kept_extWrite (sub_trans (by decide) hP) ?_
    | refine kept_hp1CntClear (sub_trans (by decide) hP) ?_
    | refine kept_hp1HostWrite (sub_trans (by decide) hP) ?_
    | refine kept_ignoredWrite (sub_trans (by decide) hP) ?_
    | refine kept_latCfgWrite (sub_trans (by decide) hP) ?_
    | refine kept_pltCntClear (sub_trans (by decide) hP) ?_
    | refine kept_pltCtlWrite (sub_trans (by decide) hP) ?_
    | refine kept_pltSysWrite (sub_trans (by decide) hP) ?_
    | refine kept_pltTestCtlWrite (sub_trans (by decide) hP) ?_
    | refine kept_poolCfgWrite (sub_trans (by decide) hP) ?_
    | refine kept_qosCntClear (sub_trans (by decide) hP) ?_
    | refine kept_qosGuarWrite (sub_trans (by decide) hP) ?_
    | refine kept_qosResCfgWrite (sub_trans (by decide) hP) ?_
    | refine kept_qosTenCtlWrite (sub_trans (by decide) hP) ?_
    | refine kept_rangeAWrite (sub_trans (by decide) hP) ?_
    | refine kept_rangeBWrite (sub_trans (by decide) hP) ?_
    | refine kept_regionCfgWrite (sub_trans (by decide) hP) ?_
    | refine keeps_getD ?_ ?_
    | refine of_some ?_ (by assumption)
    | refine of_someP ?_ (by assumption)
    | split

theorem kept_mgmtBlockWrite {P : List Part} {base : State} {who : Who} {r : CtlRef} {val : Nat} {s : State} (hP : sub [.ctl, .ev, .mgmt] P) (h_s : Keeps P base s) :
    OptKeeps P base (mgmtBlockWrite who r val s) := by
  unfold mgmtBlockWrite
  try dsimp only
  with_reducible repeat' first
    | assumption
    | refine keeps_ite ?_ ?_
    | refine optKeeps_ite ?_ ?_
    | refine optPairKeeps_ite ?_ ?_
    | refine keeps_some ?_
    | refine keeps_none
    | refine keeps_someP ?_
    | refine keeps_noneP
    | refine kept_capWrite (sub_trans (by decide) hP) ?_
    | refine kept_fuseProgWrite (sub_trans (by decide) hP) ?_
    | refine kept_halfCtlWrite (sub_trans (by decide) hP) ?_
    | refine kept_ignoredWrite (sub_trans (by decide) hP) ?_
    | refine kept_setFld (sub_trans (by decide) hP) ?_
    | refine kept_thermWrite (sub_trans (by decide) hP) ?_
    | refine keeps_getD ?_ ?_
    | refine of_some ?_ (by assumption)
    | refine of_someP ?_ (by assumption)
    | split

theorem kept_regWrite {P : List Part} {base : State} {who : Who} {r : CtlRef} {data : Nat} {s : State} (hP : sub [.free, .ctl, .locks, .mem, .ev, .ms, .t3, .mxes, .semNow, .slots, .refetch, .qos, .knc, .hp0, .engs, .pool, .plt, .tags, .fabQ, .mgmt, .persist, .out] P) (h_s : Keeps P base s) :
    Keeps P base (regWrite who r data s) := by
  unfold regWrite
  try dsimp only
  with_reducible repeat' first
    | assumption
    | refine keeps_ite ?_ ?_
    | refine optKeeps_ite ?_ ?_
    | refine optPairKeeps_ite ?_ ?_
    | refine keeps_some ?_
    | refine keeps_none
    | refine keeps_someP ?_
    | refine keeps_noneP
    | refine kept_crewWrite (sub_trans (by decide) hP) ?_
    | refine kept_engBlockWrite (sub_trans (by decide) hP) ?_
    | refine kept_hostBlockWrite (sub_trans (by decide) hP) ?_
    | refine kept_memBlockWrite (sub_trans (by decide) hP) ?_
    | refine kept_mgmtBlockWrite (sub_trans (by decide) hP) ?_
    | refine kept_portBlockWrite (sub_trans (by decide) hP) ?_
    | refine optKeeps_orElse ?_ (fun _ => ?_)
    | refine keeps_getD ?_ ?_
    | refine of_some ?_ (by assumption)
    | refine of_someP ?_ (by assumption)
    | split

theorem kept_ctlWrite {P : List Part} {base : State} {who : Who} {off : Nat} {width : Nat} {val : Nat} {s : State} (hP : sub [.free, .ctl, .locks, .mem, .ev, .ms, .t3, .mxes, .semNow, .slots, .refetch, .qos, .knc, .hp0, .engs, .pool, .plt, .tags, .fabQ, .mgmt, .persist, .out] P) (h_s : Keeps P base s) :
    Keeps P base (ctlWrite who off width val s) := by
  unfold ctlWrite
  try dsimp only
  with_reducible repeat' first
    | assumption
    | refine keeps_ite ?_ ?_
    | refine kept_badAccess (sub_trans (by decide) hP) ?_
    | refine kept_ignoredWrite (sub_trans (by decide) hP) ?_
    | refine kept_msixWrite (sub_trans (by decide) hP) ?_
    | refine kept_regWrite (sub_trans (by decide) hP) ?_
    | refine kept_stopWrite (sub_trans (by decide) hP) ?_
    | split

theorem kept_latchRead {P : List Part} {base : State} {r : CtlRef} {v : Nat} {s : State} (hP : sub [.latch] P) (h_s : Keeps P base s) :
    PairKeeps P base (latchRead r v s) := by
  unfold latchRead
  try dsimp only
  with_reducible repeat' first
    | assumption
    | refine keeps_ite ?_ ?_
    | refine pairKeeps_ite ?_ ?_
    | refine snd_of ?_
    | refine optKeeps_map (fun _ => ?_)
    | refine keeps_getD ?_ ?_
    | refine of_pair ?_ (by assumption)
    | split
    | refine keeps_pair ?_
  all_goals try (with_reducible refine keeps_with_latch (sub_trans (by decide) hP) ?_)
  all_goals with_reducible repeat' first
    | assumption
    | refine keeps_ite ?_ ?_
    | refine pairKeeps_ite ?_ ?_
    | refine snd_of ?_
    | refine optKeeps_map (fun _ => ?_)
    | refine keeps_getD ?_ ?_
    | refine of_pair ?_ (by assumption)
    | split
    | refine keeps_pair ?_

theorem kept_regRead {P : List Part} {base : State} {who : Who} {r : CtlRef} {s : State} (hP : sub [.free, .ctl, .latch, .ev] P) (h_s : Keeps P base s) :
    PairKeeps P base (regRead who r s) := by
  unfold regRead
  try dsimp only
  with_reducible repeat' first
    | assumption
    | refine keeps_ite ?_ ?_
    | refine pairKeeps_ite ?_ ?_
    | refine snd_of ?_
    | refine kept_freshWord (sub_trans (by decide) hP) ?_
    | refine kept_latchRead (sub_trans (by decide) hP) ?_
    | refine kept_semRefuse (sub_trans (by decide) hP) ?_
    | refine keeps_getD ?_ ?_
    | refine of_pair ?_ (by assumption)
    | split
    | refine keeps_pair ?_

theorem kept_ctlRead {P : List Part} {base : State} {who : Who} {off : Nat} {width : Nat} {s : State} (hP : sub [.free, .ctl, .latch, .ev] P) (h_s : Keeps P base s) :
    PairKeeps P base (ctlRead who off width s) := by
  unfold ctlRead
  try dsimp only
  with_reducible repeat' first
    | assumption
    | refine keeps_ite ?_ ?_
    | refine pairKeeps_ite ?_ ?_
    | refine snd_of ?_
    | refine kept_badAccess (sub_trans (by decide) hP) ?_
    | refine kept_regRead (sub_trans (by decide) hP) ?_
    | refine of_pair ?_ (by assumption)
    | split
    | refine keeps_pair ?_

end Sys2Proof.Machine
end

