-- ==== Sys2Proof/Laws/Engines.lean ====
section
/-! SUPPORT. For each operation of Machine/Engines.lean, which parts of the state it may change: `kept_f` says that `f` keeps
everything but the parts listed in its first hypothesis, from any state that the states it is given were kept from. -/

namespace Sys2Proof.Machine

theorem kept_engFail {P : List Part} {base : State} {e : Nat} {status : Nat} {detail : Nat} {dir : Nat} {addr : Nat} {s : State} (hP : sub [.ctl, .mem, .ev, .ms, .mxes, .slots, .engs, .tags, .fabQ, .persist] P) (h_s : Keeps P base s) :
    Keeps P base (engFail e status detail dir addr s) := by
  unfold engFail
  try dsimp only
  with_reducible repeat' first
    | assumption
    | refine keeps_ite ?_ ?_
    | refine kept_engHaltAt (sub_trans (by decide) hP) ?_
    | split

theorem kept_hostFail {P : List Part} {base : State} {e : Nat} {detail : Nat} {dir : Nat} {addr : Nat} {s : State} (hP : sub [.ctl, .mem, .ev, .ms, .mxes, .slots, .engs, .tags, .fabQ, .persist] P) (h_s : Keeps P base s) :
    Keeps P base (hostFail e detail dir addr s) := by
  unfold hostFail
  try dsimp only
  with_reducible repeat' first
    | assumption
    | refine keeps_ite ?_ ?_
    | refine kept_bump (sub_trans (by decide) hP) ?_
    | refine kept_engFail (sub_trans (by decide) hP) ?_
    | split

theorem kept_countBytes {P : List Part} {base : State} {e : Nat} {n : Nat} {s : State} (hP : sub [.ctl] P) (h_s : Keeps P base s) :
    Keeps P base (countBytes e n s) := by
  unfold countBytes
  try dsimp only
  with_reducible repeat' first
    | assumption
    | refine keeps_ite ?_ ?_
    | refine kept_bump (sub_trans (by decide) hP) ?_
    | split

theorem kept_spill {P : List Part} {base : State} {e : Nat} {dst : Nat} {ps : List (Nat × List Byte)} {s : State} (hP : sub [.free, .ctl, .mem, .ev, .ms, .mxes, .tags, .fabQ, .persist] P) (h_s : Keeps P base s) :
    Keeps P base (spill e dst ps s) := by
  unfold spill
  try dsimp only
  with_reducible repeat' first
    | assumption
    | refine keeps_ite ?_ ?_
    | refine pairKeeps_ite ?_ ?_
    | refine snd_of ?_
    | refine kept_countBytes (sub_trans (by decide) hP) ?_
    | refine kept_engWrite (sub_trans (by decide) hP) ?_
    | refine kept_freshBool (sub_trans (by decide) hP) ?_
    | refine keeps_foldl _ (fun _ _ _ => ?_) ?_
    | refine keeps_foldlP _ (fun _ _ _ => ?_) ?_
    | refine tripleKeeps_foldl _ (fun _ _ _ => ?_) ?_
    | refine objStepKeeps_foldl _ (fun _ _ _ => ?_) ?_
    | refine of_pair ?_ (by assumption)
    | split
    | refine keeps_pair ?_

theorem kept_engStore {P : List Part} {base : State} {e : Nat} {host : Bool} {a : Nat} {bs : List Byte} {det : Nat → Nat} {s : State} {k : State → State} (hP : sub [.free, .ctl, .mem, .ev, .ms, .mxes, .slots, .engs, .tags, .fabQ, .persist, .out] P) (h_s : Keeps P base s) (h_k : ∀ x0, Keeps P base x0 → Keeps P base (k x0)) :
    Keeps P base (engStore e host a bs det s k) := by
  unfold engStore
  try dsimp only
  with_reducible repeat' first
    | assumption
    | refine keeps_ite ?_ ?_
    | refine pairKeeps_ite ?_ ?_
    | refine snd_of ?_
    | refine kept_countBytes (sub_trans (by decide) hP) ?_
    | refine kept_engFail (sub_trans (by decide) hP) ?_
    | refine kept_engScatter (sub_trans (by decide) hP) ?_
    | refine kept_hostFail (sub_trans (by decide) hP) ?_
    | refine kept_hostStream (sub_trans (by decide) hP) ?_
    | refine kept_spill (sub_trans (by decide) hP) ?_
    | refine h_k _ ?_
    | refine optKeeps_map (fun _ => ?_)
    | refine of_pair ?_ (by assumption)
    | split
    | refine keeps_pair ?_

theorem kept_putFrames {P : List Part} {base : State} {e : Nat} {basex : Nat} {idx : List Nat} {area : List Byte} {s : State} {k : State → State} (hP : sub [.free, .ctl, .mem, .ev, .ms, .mxes, .slots, .engs, .tags, .fabQ, .persist, .out] P) (h_s : Keeps P base s) (h_k : ∀ x0, Keeps P base x0 → Keeps P base (k x0)) :
    Keeps P base (putFrames e basex idx area s k) := by
  unfold putFrames
  try dsimp only
  with_reducible repeat' first
    | assumption
    | refine keeps_ite ?_ ?_
    | refine kept_engStore (sub_trans (by decide) hP) ?_ (fun _ _ => ?_)
    | refine kept_updEng (sub_trans (by decide) hP) ?_
    | refine h_k _ ?_
    | split

theorem kept_putLoops {P : List Part} {base : State} {e : Nat} {soff : Nat} {doff : Nat} {l : List (Nat × Nat)} {s : State} (hP : sub [.ctl, .engs] P) (h_s : Keeps P base s) :
    Keeps P base (putLoops e soff doff l s) := by
  unfold putLoops
  try dsimp only
  with_reducible repeat' first
    | assumption
    | refine keeps_ite ?_ ?_
    | refine kept_setFld (sub_trans (by decide) hP) ?_
    | refine kept_setReg (sub_trans (by decide) hP) ?_
    | refine kept_updEng (sub_trans (by decide) hP) ?_
    | split

theorem kept_engChecks {P : List Part} {base : State} {e : Nat} {d : List Byte} {s : State} (hP : sub [.free, .ctl, .mem, .ev, .ms, .mxes, .slots, .engs, .tags, .fabQ, .persist] P) (h_s : Keeps P base s) :
    Keeps P base (engChecks e d s) := by
  unfold engChecks
  try dsimp only
  with_reducible repeat' first
    | assumption
    | refine keeps_ite ?_ ?_
    | refine kept_engHalt (sub_trans (by decide) hP) ?_
    | refine kept_updEng (sub_trans (by decide) hP) ?_
    | split

theorem kept_engAdmit {P : List Part} {base : State} {e : Nat} {d : List Byte} {s : State} (hP : sub [.free, .ctl, .mem, .ev, .ms, .mxes, .slots, .engs, .tags, .fabQ, .persist] P) (h_s : Keeps P base s) :
    Keeps P base (engAdmit e d s) := by
  unfold engAdmit
  try dsimp only
  with_reducible repeat' first
    | assumption
    | refine keeps_ite ?_ ?_
    | refine pairKeeps_ite ?_ ?_
    | refine snd_of ?_
    | refine kept_engChecks (sub_trans (by decide) hP) ?_
    | refine kept_engFail (sub_trans (by decide) hP) ?_
    | refine kept_engGather (sub_trans (by decide) hP) ?_
    | refine kept_updEng (sub_trans (by decide) hP) ?_
    | refine of_pair ?_ (by assumption)
    | split
    | refine keeps_pair ?_

theorem kept_waitRead {P : List Part} {base : State} {e : Nat} {a : Nat} {s : State} (hP : sub [.free, .ctl, .latch, .mem, .ev, .ms, .engs, .tags, .fabQ, .persist] P) (h_s : Keeps P base s) :
    PairKeeps P base (waitRead e a s) := by
  unfold waitRead
  try dsimp only
  with_reducible repeat' first
    | assumption
    | refine keeps_ite ?_ ?_
    | refine pairKeeps_ite ?_ ?_
    | refine snd_of ?_
    | refine kept_ctlRead (sub_trans (by decide) hP) ?_
    | refine kept_engRead (sub_trans (by decide) hP) ?_
    | refine of_pair ?_ (by assumption)
    | split
    | refine keeps_pair ?_

theorem kept_sideRead {P : List Part} {base : State} {e : Nat} {key : Nat} {side : FrameSide} {basex : Nat} {off : Nat} {n : Nat} {s : State} (hP : sub [.ctl, .mem, .ev, .ms, .engs, .tags, .fabQ, .persist] P) (h_s : Keeps P base s) :
    PairKeeps P base (sideRead e key side basex off n s) := by
  unfold sideRead
  try dsimp only
  with_reducible repeat' first
    | assumption
    | refine keeps_ite ?_ ?_
    | refine pairKeeps_ite ?_ ?_
    | refine snd_of ?_
    | refine kept_engGather (sub_trans (by decide) hP) ?_
    | refine of_pair ?_ (by assumption)
    | split
    | refine keeps_pair ?_

theorem kept_engDone {P : List Part} {base : State} {e : Nat} {status : Nat} {detail : Nat} {s : State} (hP : sub [.engs] P) (h_s : Keeps P base s) :
    Keeps P base (engDone e status detail s) := by
  unfold engDone
  try dsimp only
  with_reducible repeat' first
    | assumption
    | refine keeps_ite ?_ ?_
    | refine kept_engActed (sub_trans (by decide) hP) ?_
    | split

theorem kept_waitDone {P : List Part} {base : State} {e : Nat} {s : State} (hP : sub [.ctl, .engs] P) (h_s : Keeps P base s) :
    Keeps P base (waitDone e s) := by
  unfold waitDone
  try dsimp only
  with_reducible repeat' first
    | assumption
    | refine keeps_ite ?_ ?_
    | refine kept_engDone (sub_trans (by decide) hP) ?_
    | refine kept_setEngState (sub_trans (by decide) hP) ?_
    | split

theorem kept_waitAnswer {P : List Part} {base : State} {e : Nat} {s : State} (hP : sub [.ctl, .mem, .ev, .ms, .mxes, .slots, .engs, .tags, .fabQ, .persist] P) (h_s : Keeps P base s) :
    Keeps P base (waitAnswer e s) := by
  unfold waitAnswer
  try dsimp only
  with_reducible repeat' first
    | assumption
    | refine keeps_ite ?_ ?_
    | refine kept_engFail (sub_trans (by decide) hP) ?_
    | refine kept_updEng (sub_trans (by decide) hP) ?_
    | refine kept_waitDone (sub_trans (by decide) hP) ?_
    | split

theorem kept_tellFail {P : List Part} {base : State} {e : Nat} {a : Nat} {s : State} (hP : sub [.ctl, .mem, .ev, .ms, .mxes, .slots, .engs, .tags, .fabQ, .persist] P) (h_s : Keeps P base s) :
    Keeps P base (tellFail e a s) := by
  unfold tellFail
  try dsimp only
  with_reducible repeat' first
    | assumption
    | refine keeps_ite ?_ ?_
    | refine kept_engHaltAt (sub_trans (by decide) hP) ?_
    | split

theorem kept_engAdvance {P : List Part} {base : State} {e : Nat} {s : State} (hP : sub [.ctl, .engs] P) (h_s : Keeps P base s) :
    Keeps P base (engAdvance e s) := by
  unfold engAdvance
  try dsimp only
  with_reducible repeat' first
    | assumption
    | refine keeps_ite ?_ ?_
    | refine kept_bump (sub_trans (by decide) hP) ?_
    | refine kept_engIdleWork (sub_trans (by decide) hP) ?_
    | refine kept_setEngState (sub_trans (by decide) hP) ?_
    | refine kept_setReg (sub_trans (by decide) hP) ?_
    | split

theorem kept_noteAnswered {P : List Part} {base : State} {e : Nat} {d : List Byte} {s : State} (hP : sub [.ctl, .mem, .ev, .ms, .mxes, .slots, .engs, .tags, .fabQ, .persist] P) (h_s : Keeps P base s) :
    Keeps P base (noteAnswered e d s) := by
  unfold noteAnswered
  try dsimp only
  with_reducible repeat' first
    | assumption
    | refine keeps_ite ?_ ?_
    | refine kept_engAdvance (sub_trans (by decide) hP) ?_
    | refine kept_tellFail (sub_trans (by decide) hP) ?_
    | split

theorem kept_engPoke {P : List Part} {base : State} {e : Nat} {a : Nat} {ax : Nat} {axx : List Byte} {axxx : State} (hP : sub [.ctl, .mem, .ev, .ms, .mxes, .tags, .fabQ, .persist] P) (h_axxx : Keeps P base axxx) :
    PairKeeps P base (engPoke e a ax axx axxx) := by
  induction a generalizing ax axx axxx with
  | zero =>
    unfold engPoke
    try dsimp only
    with_reducible repeat' first
      | assumption
      | refine keeps_ite ?_ ?_
      | refine pairKeeps_ite ?_ ?_
      | refine snd_of ?_
      | refine kept_engWrite (sub_trans (by decide) hP) ?_
      | refine of_pair ?_ (by assumption)
      | split
      | refine keeps_pair ?_
  | succ n ih =>
    unfold engPoke
    try dsimp only
    with_reducible repeat' first
      | assumption
      | refine keeps_ite ?_ ?_
      | refine pairKeeps_ite ?_ ?_
      | refine snd_of ?_
      | refine kept_engWrite (sub_trans (by decide) hP) ?_
      | refine ih ?_
      | refine of_pair ?_ (by assumption)
      | split
      | refine keeps_pair ?_

theorem kept_passReport {P : List Part} {base : State} {e : Nat} {d : List Byte} {s : State} (hP : sub [.ctl, .mem, .ev, .ms, .mxes, .slots, .engs, .tags, .fabQ, .persist] P) (h_s : Keeps P base s) :
    Keeps P base (passReport e d s) := by
  unfold passReport
  try dsimp only
  with_reducible repeat' first
    | assumption
    | refine keeps_ite ?_ ?_
    | refine pairKeeps_ite ?_ ?_
    | refine snd_of ?_
    | refine kept_engDone (sub_trans (by decide) hP) ?_
    | refine kept_engFail (sub_trans (by decide) hP) ?_
    | refine kept_engPoke (sub_trans (by decide) hP) ?_
    | refine of_pair ?_ (by assumption)
    | split
    | refine keeps_pair ?_

theorem kept_decodePage {P : List Part} {base : State} {e : Nat} {side : FrameSide} {basex : Nat} {pages : Nat} {i : Nat} {idx : List Byte} {s : State} (hP : sub [.ctl, .mem, .ev, .ms, .engs, .tags, .fabQ, .persist] P) (h_s : Keeps P base s) :
    PairKeeps P base (decodePage e side basex pages i idx s) := by
  unfold decodePage
  try dsimp only
  with_reducible repeat' first
    | assumption
    | refine keeps_ite ?_ ?_
    | refine pairKeeps_ite ?_ ?_
    | refine snd_of ?_
    | refine kept_sideRead (sub_trans (by decide) hP) ?_
    | refine of_pair ?_ (by assumption)
    | split
    | refine keeps_pair ?_

theorem kept_decodePages {P : List Part} {base : State} {e : Nat} {side : FrameSide} {basex : Nat} {pages : Nat} {idx : List Byte} {a : Nat} {ax : Nat} {axx : List Byte} {axxx : State} (hP : sub [.ctl, .mem, .ev, .ms, .engs, .tags, .fabQ, .persist] P) (h_axxx : Keeps P base axxx) :
    TripleKeeps P base (decodePages e side basex pages idx a ax axx axxx) := by
  induction a generalizing ax axx axxx with
  | zero =>
    unfold decodePages
    try dsimp only
    with_reducible repeat' first
      | assumption
      | refine keeps_ite ?_ ?_
      | refine pairKeeps_ite ?_ ?_
      | refine tripleKeeps_ite ?_ ?_
      | refine snd_of ?_
      | refine snd2_of ?_
      | refine kept_decodePage (sub_trans (by decide) hP) ?_
      | refine of_pair ?_ (by assumption)
      | refine of_triple ?_ (by assumption)
      | split
      | refine keeps_pair ?_
      | refine keeps_triple ?_
  | succ n ih =>
    unfold decodePages
    try dsimp only
    with_reducible repeat' first
      | assumption
      | refine keeps_ite ?_ ?_
      | refine pairKeeps_ite ?_ ?_
      | refine tripleKeeps_ite ?_ ?_
      | refine snd_of ?_
      | refine snd2_of ?_
      | refine kept_decodePage (sub_trans (by decide) hP) ?_
      | refine ih ?_
      | refine of_pair ?_ (by assumption)
      | refine of_triple ?_ (by assumption)
      | split
      | refine keeps_pair ?_
      | refine keeps_triple ?_

theorem kept_codecDecode {P : List Part} {base : State} {e : Nat} {side : FrameSide} {d : List Byte} {s0 : State} (hP : sub [.free, .ctl, .mem, .ev, .ms, .mxes, .slots, .engs, .tags, .fabQ, .persist, .out] P) (h_s0 : Keeps P base s0) :
    Keeps P base (codecDecode e side d s0) := by
  unfold codecDecode
  extract_lets n bs dst fail
  have hfail : ∀ st det a t, Keeps P base t → Keeps P base (fail st det a t) := by
    intro st det a t h
    subst fail
    dsimp only
    split
    · exact kept_engFail (sub_trans (by decide) hP) h
    · exact keeps_ite (kept_engFail (sub_trans (by decide) hP) h) (kept_hostFail (sub_trans (by decide) hP) h)
  have hr : PairKeeps P base (sideRead e 0 side bs 0 (8 * n) s0) := kept_sideRead (sub_trans (by decide) hP) h_s0
  clear_value fail
  revert hr
  generalize sideRead e 0 side bs 0 (8 * n) s0 = r
  obtain ⟨o, t⟩ := r
  intro hr
  cases o with
  | wait => exact hr
  | fail st x => exact hfail _ _ _ _ hr
  | ok idx =>
    have hq : TripleKeeps P base (decodePages e side bs n idx n 0 [] t) := kept_decodePages (sub_trans (by decide) hP) hr
    revert hq
    dsimp only
    generalize decodePages e side bs n idx n 0 [] t = r2
    obtain ⟨out, bad, u⟩ := r2
    intro hq
    have hl : Keeps P base (if dstHost d then u else
        spill e dst ((chunksOf 4096 out).zipIdx.map fun p => (4096 * p.2, p.1)) u) :=
      keeps_ite hq (kept_spill (sub_trans (by decide) hP) hq)
    cases bad with
    | none => exact kept_engStore (sub_trans (by decide) hP) hq (fun _ h => kept_engDone (sub_trans (by decide) hP) h)
    | some w =>
      obtain ⟨i, r3⟩ := w
      cases r3 with
      | page _ => exact hq
      | wait => exact hq
      | damaged => exact hfail _ _ _ _ hl
      | fail st x => exact hfail _ _ _ _ hl

theorem kept_codecFrom {P : List Part} {base : State} {e : Nat} {src : HostRead} {d : List Byte} {s : State} (hP : sub [.free, .ctl, .mem, .ev, .ms, .mxes, .slots, .engs, .tags, .fabQ, .persist, .out] P) (h_s : Keeps P base s) :
    Keeps P base (codecFrom e src d s) := by
  unfold codecFrom
  try dsimp only
  with_reducible repeat' first
    | assumption
    | refine keeps_ite ?_ ?_
    | refine pairKeeps_ite ?_ ?_
    | refine snd_of ?_
    | refine kept_codecDecode (sub_trans (by decide) hP) ?_
    | refine kept_freshBytes (sub_trans (by decide) hP) ?_
    | refine kept_hostFail (sub_trans (by decide) hP) ?_
    | refine kept_hostReads (sub_trans (by decide) hP) ?_
    | refine of_pair ?_ (by assumption)
    | split
    | refine keeps_pair ?_

theorem kept_engFetch {P : List Part} {base : State} {e : Nat} {side : Nat} {host : Bool} {r : HostRead} {a : Nat} {n : Nat} {det : Nat → Nat} {lost : List Byte → State → State} {s0 : State} (hP : sub [.free, .ctl, .mem, .ev, .ms, .mxes, .slots, .engs, .tags, .fabQ, .persist, .out] P) (h_lost : ∀ x0 x1, Keeps P base x1 → Keeps P base (lost x0 x1)) (h_s0 : Keeps P base s0) :
    GotKeeps P base (engFetch e side host r a n det lost s0) := by
  unfold engFetch
  try dsimp only
  with_reducible repeat' first
    | assumption
    | refine keeps_ite ?_ ?_
    | refine pairKeeps_ite ?_ ?_
    | refine gotKeeps_ite ?_ ?_
    | refine keeps_go ?_
    | refine keeps_stop ?_
    | refine snd_of ?_
    | refine kept_engFail (sub_trans (by decide) hP) ?_
    | refine kept_engGather (sub_trans (by decide) hP) ?_
    | refine kept_engRead (sub_trans (by decide) hP) ?_
    | refine kept_freshBytes (sub_trans (by decide) hP) ?_
    | refine kept_hostFail (sub_trans (by decide) hP) ?_
    | refine kept_hostReads (sub_trans (by decide) hP) ?_
    | refine h_lost _ _ ?_
    | refine of_pair ?_ (by assumption)
    | refine of_go ?_ (by assumption)
    | refine of_stop ?_ (by assumption)
    | split
    | refine keeps_pair ?_

theorem kept_staleHandle {P : List Part} {base : State} {h : Nat} {s : State} (hP : sub [.free, .ctl, .ev] P) (h_s : Keeps P base s) :
    Keeps P base (staleHandle h s) := by
  unfold staleHandle
  try dsimp only
  with_reducible repeat' first
    | assumption
    | refine keeps_ite ?_ ?_
    | refine kept_blockEventOpen (sub_trans (by decide) hP) ?_
    | refine kept_countStale (sub_trans (by decide) hP) ?_
    | split

theorem kept_spillFrames {P : List Part} {base : State} {e : Nat} {basex : Nat} {n : Nat} {idx : List Byte} {area : List Byte} {s : State} (hP : sub [.free, .ctl, .mem, .ev, .ms, .mxes, .tags, .fabQ, .persist] P) (h_s : Keeps P base s) :
    Keeps P base (spillFrames e basex n idx area s) := by
  unfold spillFrames
  try dsimp only
  with_reducible repeat' first
    | assumption
    | refine keeps_ite ?_ ?_
    | refine kept_spill (sub_trans (by decide) hP) ?_
    | refine optKeeps_map (fun _ => ?_)
    | split

theorem kept_codecEncode {P : List Part} {base : State} {e : Nat} {src : HostRead} {d : List Byte} {s0 : State} (hP : sub [.free, .ctl, .mem, .ev, .ms, .mxes, .slots, .engs, .tags, .fabQ, .persist, .out] P) (h_s0 : Keeps P base s0) :
    Keeps P base (codecEncode e src d s0) := by
  unfold codecEncode
  try dsimp only
  with_reducible repeat' first
    | assumption
    | refine keeps_ite ?_ ?_
    | refine gotKeeps_ite ?_ ?_
    | refine keeps_go ?_
    | refine keeps_stop ?_
    | refine kept_engDone (sub_trans (by decide) hP) ?_
    | refine kept_engFetch (sub_trans (by decide) hP) (fun _ _ _ => ?_) ?_
    | refine kept_putFrames (sub_trans (by decide) hP) ?_ (fun _ _ => ?_)
    | refine kept_spillFrames (sub_trans (by decide) hP) ?_
    | refine keeps_id ?_
    | refine of_go ?_ (by assumption)
    | refine of_stop ?_ (by assumption)
    | split

theorem kept_waitAmo {P : List Part} {base : State} {e : Nat} {a : Nat} {w : Nat} {v : Nat} {s : State} (hP : sub [.ctl, .mem, .ev, .ms, .mxes, .slots, .engs, .tags, .fabQ, .persist] P) (h_s : Keeps P base s) :
    Keeps P base (waitAmo e a w v s) := by
  unfold waitAmo
  try dsimp only
  with_reducible repeat' first
    | assumption
    | refine keeps_ite ?_ ?_
    | refine pairKeeps_ite ?_ ?_
    | refine optKeeps_ite ?_ ?_
    | refine optPairKeeps_ite ?_ ?_
    | refine keeps_some ?_
    | refine keeps_none
    | refine keeps_someP ?_
    | refine keeps_noneP
    | refine snd_of ?_
    | refine kept_engFail (sub_trans (by decide) hP) ?_
    | refine kept_fabSend (sub_trans (by decide) hP) ?_
    | refine kept_updEng (sub_trans (by decide) hP) ?_
    | refine kept_writeRange (sub_trans (by decide) hP) ?_
    | refine of_pair ?_ (by assumption)
    | refine of_some ?_ (by assumption)
    | refine of_someP ?_ (by assumption)
    | split
    | refine keeps_pair ?_

theorem kept_fillBegin {P : List Part} {base : State} {h : Nat} {slot : Nat} {s : State} (hP : sub [.free, .ctl, .ev, .ms, .slots, .refetch, .engs] P) (h_s : Keeps P base s) :
    Keeps P base (fillBegin h slot s) := by
  unfold fillBegin
  try dsimp only
  with_reducible repeat' first
    | assumption
    | refine keeps_ite ?_ ?_
    | refine kept_fillResident (sub_trans (by decide) hP) ?_
    | refine kept_missDeadline (sub_trans (by decide) hP) ?_
    | refine kept_slotLoss (sub_trans (by decide) hP) ?_
    | refine kept_tenantEvent (sub_trans (by decide) hP) ?_
    | split
  all_goals try (with_reducible refine keeps_with_slots (sub_trans (by decide) hP) ?_)
  all_goals with_reducible repeat' first
    | assumption
    | refine keeps_ite ?_ ?_
    | refine kept_fillResident (sub_trans (by decide) hP) ?_
    | refine kept_missDeadline (sub_trans (by decide) hP) ?_
    | refine kept_slotLoss (sub_trans (by decide) hP) ?_
    | refine kept_tenantEvent (sub_trans (by decide) hP) ?_
    | split
  all_goals try (with_reducible refine keeps_with_slots (sub_trans (by decide) hP) ?_)
  all_goals with_reducible repeat' first
    | assumption
    | refine keeps_ite ?_ ?_
    | refine kept_fillResident (sub_trans (by decide) hP) ?_
    | refine kept_missDeadline (sub_trans (by decide) hP) ?_
    | refine kept_slotLoss (sub_trans (by decide) hP) ?_
    | refine kept_tenantEvent (sub_trans (by decide) hP) ?_
    | split

theorem kept_fillAgain {P : List Part} {base : State} {h : Nat} {slot : Nat} {old : HSlot} {d : HSlot} {s : State} (hP : sub [.free, .ctl, .ev, .ms, .slots, .refetch, .engs] P) (h_s : Keeps P base s) :
    Keeps P base (fillAgain h slot old d s) := by
  unfold fillAgain
  try dsimp only
  with_reducible repeat' first
    | assumption
    | refine keeps_ite ?_ ?_
    | refine kept_fillBegin (sub_trans (by decide) hP) ?_
    | refine kept_lfillOutcome (sub_trans (by decide) hP) ?_
    | split
  all_goals try (with_reducible refine keeps_with_slots (sub_trans (by decide) hP) ?_)
  all_goals with_reducible repeat' first
    | assumption
    | refine keeps_ite ?_ ?_
    | refine kept_fillBegin (sub_trans (by decide) hP) ?_
    | refine kept_lfillOutcome (sub_trans (by decide) hP) ?_
    | split
  all_goals try (with_reducible refine keeps_with_slots (sub_trans (by decide) hP) ?_)
  all_goals with_reducible repeat' first
    | assumption
    | refine keeps_ite ?_ ?_
    | refine kept_fillBegin (sub_trans (by decide) hP) ?_
    | refine kept_lfillOutcome (sub_trans (by decide) hP) ?_
    | split

theorem kept_waitTake {P : List Part} {base : State} {e : Nat} {d : List Byte} {w : Nat} {s : State} (hP : sub [.ctl, .mem, .ev, .ms, .mxes, .slots, .engs, .tags, .fabQ, .persist] P) (h_s : Keeps P base s) :
    Keeps P base (waitTake e d w s) := by
  unfold waitTake
  try dsimp only
  with_reducible repeat' first
    | assumption
    | refine keeps_ite ?_ ?_
    | refine pairKeeps_ite ?_ ?_
    | refine snd_of ?_
    | refine kept_engFail (sub_trans (by decide) hP) ?_
    | refine kept_engWrite (sub_trans (by decide) hP) ?_
    | refine kept_waitAmo (sub_trans (by decide) hP) ?_
    | refine kept_waitDone (sub_trans (by decide) hP) ?_
    | refine of_pair ?_ (by assumption)
    | split
    | refine keeps_pair ?_

theorem kept_passRun {P : List Part} {base : State} {e : Nat} {k : List Byte → Nat → Fmt → State → State} {s : State} (hP : sub [] P) (h_k : ∀ x0 x1 x2 x3, Keeps P base x3 → Keeps P base (k x0 x1 x2 x3)) (h_s : Keeps P base s) :
    Keeps P base (passRun e k s) := by
  unfold passRun
  try dsimp only
  with_reducible repeat' first
    | assumption
    | refine keeps_ite ?_ ?_
    | refine h_k _ _ _ _ ?_
    | refine keeps_getD ?_ ?_
    | split

theorem kept_engNotify {P : List Part} {base : State} {e : Nat} {d : List Byte} {full : Bool} {s : State} (hP : sub [.free, .ctl, .locks, .mem, .ev, .ms, .t3, .mxes, .semNow, .slots, .refetch, .qos, .knc, .hp0, .engs, .pool, .plt, .tags, .fabQ, .mgmt, .persist, .out] P) (h_s : Keeps P base s) :
    PairKeeps P base (engNotify e d full s) := by
  unfold engNotify
  try dsimp only
  with_reducible repeat' first
    | assumption
    | refine keeps_ite ?_ ?_
    | refine pairKeeps_ite ?_ ?_
    | refine snd_of ?_
    | refine kept_bump (sub_trans (by decide) hP) ?_
    | refine kept_ctlWrite (sub_trans (by decide) hP) ?_
    | refine kept_engPoke (sub_trans (by decide) hP) ?_
    | refine of_pair ?_ (by assumption)
    | split
    | refine keeps_pair ?_

theorem kept_statusAnswered {P : List Part} {base : State} {e : Nat} {d : List Byte} {s : State} (hP : sub [.free, .ctl, .locks, .mem, .ev, .ms, .t3, .mxes, .semNow, .slots, .refetch, .qos, .knc, .hp0, .engs, .pool, .plt, .tags, .fabQ, .mgmt, .persist, .out] P) (h_s : Keeps P base s) :
    Keeps P base (statusAnswered e d s) := by
  unfold statusAnswered
  try dsimp only
  with_reducible repeat' first
    | assumption
    | refine keeps_ite ?_ ?_
    | refine pairKeeps_ite ?_ ?_
    | refine snd_of ?_
    | refine kept_engAdvance (sub_trans (by decide) hP) ?_
    | refine kept_engNotify (sub_trans (by decide) hP) ?_
    | refine kept_noteAnswered (sub_trans (by decide) hP) ?_
    | refine kept_tellFail (sub_trans (by decide) hP) ?_
    | refine kept_updEng (sub_trans (by decide) hP) ?_
    | refine of_pair ?_ (by assumption)
    | split
    | refine keeps_pair ?_

theorem kept_writesAnswered {P : List Part} {base : State} {e : Nat} {d : List Byte} {s : State} (hP : sub [.free, .ctl, .locks, .mem, .ev, .ms, .t3, .mxes, .semNow, .slots, .refetch, .qos, .knc, .hp0, .engs, .pool, .plt, .tags, .fabQ, .mgmt, .persist, .out] P) (h_s : Keeps P base s) :
    Keeps P base (writesAnswered e d s) := by
  unfold writesAnswered
  try dsimp only
  with_reducible repeat' first
    | assumption
    | refine keeps_ite ?_ ?_
    | refine pairKeeps_ite ?_ ?_
    | refine snd_of ?_
    | refine kept_engHaltAt (sub_trans (by decide) hP) ?_
    | refine kept_putStatus (sub_trans (by decide) hP) ?_
    | refine kept_statusAnswered (sub_trans (by decide) hP) ?_
    | refine kept_tellFail (sub_trans (by decide) hP) ?_
    | refine kept_updEng (sub_trans (by decide) hP) ?_
    | refine of_pair ?_ (by assumption)
    | split
    | refine keeps_pair ?_

theorem kept_waitPoll {P : List Part} {base : State} {e : Nat} {d : List Byte} {s : State} (hP : sub [.free, .ctl, .latch, .mem, .ev, .ms, .mxes, .slots, .engs, .tags, .fabQ, .persist] P) (h_s : Keeps P base s) :
    Keeps P base (waitPoll e d s) := by
  unfold waitPoll
  try dsimp only
  with_reducible repeat' first
    | assumption
    | refine keeps_ite ?_ ?_
    | refine pairKeeps_ite ?_ ?_
    | refine snd_of ?_
    | refine kept_engFail (sub_trans (by decide) hP) ?_
    | refine kept_engHalt (sub_trans (by decide) hP) ?_
    | refine kept_waitAnswer (sub_trans (by decide) hP) ?_
    | refine kept_waitDone (sub_trans (by decide) hP) ?_
    | refine kept_waitRead (sub_trans (by decide) hP) ?_
    | refine kept_waitTake (sub_trans (by decide) hP) ?_
    | refine of_pair ?_ (by assumption)
    | split
    | refine keeps_pair ?_

theorem kept_runDesc {P : List Part} {base : State} {e : Nat} {op : Nat} {f : List Byte → State → State} {s : State} (hP : sub [] P) (h_f : ∀ x0 x1, Keeps P base x1 → Keeps P base (f x0 x1)) (h_s : Keeps P base s) :
    Keeps P base (runDesc e op f s) := by
  unfold runDesc
  try dsimp only
  with_reducible repeat' first
    | assumption
    | refine keeps_ite ?_ ?_
    | refine h_f _ _ ?_
    | split

theorem kept_fillNew {P : List Part} {base : State} {h : Nat} {slot : Nat} {d : HSlot} {s : State} (hP : sub [.free, .ctl, .ev, .ms, .slots, .refetch, .engs] P) (h_s : Keeps P base s) :
    Keeps P base (fillNew h slot d s) := by
  unfold fillNew
  try dsimp only
  with_reducible repeat' first
    | assumption
    | refine keeps_ite ?_ ?_
    | refine kept_fillBegin (sub_trans (by decide) hP) ?_
    | refine kept_setReg (sub_trans (by decide) hP) ?_
    | split
  all_goals try (with_reducible refine keeps_with_slots (sub_trans (by decide) hP) ?_)
  all_goals with_reducible repeat' first
    | assumption
    | refine keeps_ite ?_ ?_
    | refine kept_fillBegin (sub_trans (by decide) hP) ?_
    | refine kept_setReg (sub_trans (by decide) hP) ?_
    | split

theorem kept_engOneCmd {P : List Part} {base : State} {who : Who} {e : Nat} {f : State → State} {s : State} (hP : sub [.ctl, .ev] P) (h_f : ∀ x0, Keeps P base x0 → Keeps P base (f x0)) (h_s : Keeps P base s) :
    Keeps P base (engOneCmd who e f s) := by
  unfold engOneCmd
  try dsimp only
  with_reducible repeat' first
    | assumption
    | refine keeps_ite ?_ ?_
    | refine kept_ignoredWrite (sub_trans (by decide) hP) ?_
    | refine h_f _ ?_
    | split

theorem kept_keepReport {P : List Part} {base : State} {e : Nat} {report : List Byte} {s : State} (hP : sub [.engs] P) (h_s : Keeps P base s) :
    Keeps P base (keepReport e report s) := by
  unfold keepReport
  try dsimp only
  with_reducible repeat' first
    | assumption
    | refine keeps_ite ?_ ?_
    | refine kept_updEng (sub_trans (by decide) hP) ?_
    | split

end Sys2Proof.Machine
end

