-- ==== Sys2Proof/Laws/ObjEngine.lean ====
section
/-! SUPPORT. For each operation of Machine/ObjEngine.lean, which parts of the state it may change: `kept_f` says that `f` keeps
everything but the parts listed in its first hypothesis, from any state that the states it is given were kept from. -/

namespace Sys2Proof.Machine

theorem kept_setObjState {P : List Part} {base : State} {i : Nat} {st : Nat} {s : State} (hP : sub [.ctl, .mem, .ev, .ms, .mxes, .persist] P) (h_s : Keeps P base s) :
    Keeps P base (setObjState i st s) := by
  unfold setObjState
  try dsimp only
  with_reducible repeat' first
    | assumption
    | refine keeps_ite ?_ ?_
    | refine kept_putObj (sub_trans (by decide) hP) ?_
    | split

theorem kept_countUnits {P : List Part} {base : State} {e : Nat} {s : State} (hP : sub [.ctl] P) (h_s : Keeps P base s) :
    Keeps P base (countUnits e s) := by
  unfold countUnits
  try dsimp only
  with_reducible repeat' first
    | assumption
    | refine keeps_ite ?_ ?_
    | refine kept_countBytes (sub_trans (by decide) hP) ?_
    | refine optKeeps_map (fun _ => ?_)
    | split

theorem kept_storeDrift {P : List Part} {base : State} {e : Nat} {p : Place} {mark : Bool} {s : State} (hP : sub [.ctl, .mem, .ev, .ms, .mxes, .engs, .tags, .fabQ, .persist] P) (h_s : Keeps P base s) :
    ObjStepKeeps P base (storeDrift e p mark s) := by
  unfold storeDrift
  try dsimp only
  with_reducible repeat' first
    | assumption
    | refine keeps_ite ?_ ?_
    | refine tripleKeeps_ite ?_ ?_
    | refine objStepKeeps_ite ?_ ?_
    | refine keeps_more ?_
    | refine keeps_wait ?_
    | refine keeps_odone ?_
    | refine keeps_ofail ?_
    | refine snd2_of ?_
    | refine kept_countUnits (sub_trans (by decide) hP) ?_
    | refine kept_driftPut (sub_trans (by decide) hP) ?_
    | refine kept_updEng (sub_trans (by decide) hP) ?_
    | refine keeps_getD ?_ ?_
    | refine of_triple ?_ (by assumption)
    | refine of_more ?_ (by assumption)
    | refine of_wait ?_ (by assumption)
    | refine of_odone ?_ (by assumption)
    | refine of_ofail ?_ (by assumption)
    | split
    | refine keeps_triple ?_

theorem kept_keepUnit {P : List Part} {base : State} {e : Nat} {u : Nat} {bs : List Byte} {s : State} (hP : sub [.engs] P) (h_s : Keeps P base s) :
    Keeps P base (keepUnit e u bs s) := by
  unfold keepUnit
  try dsimp only
  with_reducible repeat' first
    | assumption
    | refine keeps_ite ?_ ?_
    | refine kept_updEng (sub_trans (by decide) hP) ?_
    | split

theorem kept_rehomeEnd {P : List Part} {base : State} {d : List Byte} {s : State} (hP : sub [.ctl, .mem, .ev, .ms, .mxes, .persist] P) (h_s : Keeps P base s) :
    Keeps P base (rehomeEnd d s) := by
  unfold rehomeEnd
  try dsimp only
  with_reducible repeat' first
    | assumption
    | refine keeps_ite ?_ ?_
    | refine kept_dropCharge (sub_trans (by decide) hP) ?_
    | refine kept_putObj (sub_trans (by decide) hP) ?_
    | split

theorem kept_loadDrift {P : List Part} {base : State} {e : Nat} {p : Place} {s : State} (hP : sub [.engs, .tags, .fabQ] P) (h_s : Keeps P base s) :
    ObjStepKeeps P base (loadDrift e p s) := by
  unfold loadDrift
  try dsimp only
  with_reducible repeat' first
    | assumption
    | refine keeps_ite ?_ ?_
    | refine pairKeeps_ite ?_ ?_
    | refine objStepKeeps_ite ?_ ?_
    | refine keeps_more ?_
    | refine keeps_wait ?_
    | refine keeps_odone ?_
    | refine keeps_ofail ?_
    | refine snd_of ?_
    | refine kept_engDriftRead (sub_trans (by decide) hP) ?_
    | refine kept_keepUnit (sub_trans (by decide) hP) ?_
    | refine keeps_getD ?_ ?_
    | refine of_pair ?_ (by assumption)
    | refine of_more ?_ (by assumption)
    | refine of_wait ?_ (by assumption)
    | refine of_odone ?_ (by assumption)
    | refine of_ofail ?_ (by assumption)
    | split
    | refine keeps_pair ?_

theorem kept_takeUnits {P : List Part} {base : State} {e : Nat} {us : List Nat} {s : State} (hP : sub [.engs] P) (h_s : Keeps P base s) :
    Keeps P base (takeUnits e us s) := by
  unfold takeUnits
  try dsimp only
  with_reducible repeat' first
    | assumption
    | refine keeps_ite ?_ ?_
    | refine kept_updEng (sub_trans (by decide) hP) ?_
    | refine keeps_foldl _ (fun _ _ _ => ?_) ?_
    | refine keeps_foldlP _ (fun _ _ _ => ?_) ?_
    | refine tripleKeeps_foldl _ (fun _ _ _ => ?_) ?_
    | refine objStepKeeps_foldl _ (fun _ _ _ => ?_) ?_
    | split

theorem kept_takeDirty {P : List Part} {base : State} {e : Nat} {i : Nat} {tier : Nat} {s : State} (hP : sub [.ctl, .ms, .engs] P) (h_s : Keeps P base s) :
    Keeps P base (takeDirty e i tier s) := by
  unfold takeDirty
  try dsimp only
  with_reducible repeat' first
    | assumption
    | refine keeps_ite ?_ ?_
    | refine kept_cleanUnit (sub_trans (by decide) hP) ?_
    | refine kept_takeUnits (sub_trans (by decide) hP) ?_
    | refine keeps_foldl _ (fun _ _ _ => ?_) ?_
    | refine keeps_foldlP _ (fun _ _ _ => ?_) ?_
    | refine tripleKeeps_foldl _ (fun _ _ _ => ?_) ?_
    | refine objStepKeeps_foldl _ (fun _ _ _ => ?_) ?_
    | refine optKeeps_map (fun _ => ?_)
    | refine keeps_getD ?_ ?_
    | split

theorem kept_toStage {P : List Part} {base : State} {e : Nat} {n : Nat} {s : State} (hP : sub [.t3, .engs] P) (h_s : Keeps P base s) :
    Keeps P base (toStage e n s) := by
  unfold toStage
  try dsimp only
  with_reducible repeat' first
    | assumption
    | refine keeps_ite ?_ ?_
    | refine kept_updEng (sub_trans (by decide) hP) ?_
    | split
  all_goals try (with_reducible refine keeps_with_t3 (sub_trans (by decide) hP) ?_ (fun q => by first | exact q | exact wf_memPuts _ _ q | exact wf_memZero _ _ q | exact wf_filter _ q))
  all_goals with_reducible repeat' first
    | assumption
    | refine keeps_ite ?_ ?_
    | refine kept_updEng (sub_trans (by decide) hP) ?_
    | split
  all_goals try (with_reducible refine keeps_with_t3 (sub_trans (by decide) hP) ?_ (fun q => by first | exact q | exact wf_memPuts _ _ q | exact wf_memZero _ _ q | exact wf_filter _ q))
  all_goals with_reducible repeat' first
    | assumption
    | refine keeps_ite ?_ ?_
    | refine kept_updEng (sub_trans (by decide) hP) ?_
    | split

theorem kept_deepWrite {P : List Part} {base : State} {e : Nat} {a : Nat} {bs : List Byte} {s : State} (hP : sub [.t3] P) (h_s : Keeps P base s) :
    Keeps P base (deepWrite e a bs s) := by
  unfold deepWrite
  try dsimp only
  with_reducible repeat' first
    | assumption
    | refine keeps_ite ?_ ?_
    | refine kept_nvmeSubmitAt (sub_trans (by decide) hP) ?_
    | split
  all_goals try (with_reducible refine keeps_with_t3 (sub_trans (by decide) hP) ?_ (fun q => by first | exact q | exact wf_memPuts _ _ q | exact wf_memZero _ _ q | exact wf_filter _ q))
  all_goals with_reducible repeat' first
    | assumption
    | refine keeps_ite ?_ ?_
    | refine kept_nvmeSubmitAt (sub_trans (by decide) hP) ?_
    | split

theorem kept_deepParity {P : List Part} {base : State} {e : Nat} {cells : List Host.Cell} {row : Nat} {st : Nat} {off : Nat} {s : State} (hP : sub [.t3] P) (h_s : Keeps P base s) :
    Keeps P base (deepParity e cells row st off s) := by
  unfold deepParity
  try dsimp only
  with_reducible repeat' first
    | assumption
    | refine keeps_ite ?_ ?_
    | refine kept_deepWrite (sub_trans (by decide) hP) ?_
    | refine optKeeps_map (fun _ => ?_)
    | split

theorem kept_submitRows {P : List Part} {base : State} {e : Nat} {rows : List Nat} {s : State} (hP : sub [.t3] P) (h_s : Keeps P base s) :
    Keeps P base (submitRows e rows s) := by
  unfold submitRows
  try dsimp only
  with_reducible repeat' first
    | assumption
    | refine keeps_ite ?_ ?_
    | refine kept_deepParity (sub_trans (by decide) hP) ?_
    | refine keeps_foldl _ (fun _ _ _ => ?_) ?_
    | refine keeps_foldlP _ (fun _ _ _ => ?_) ?_
    | refine tripleKeeps_foldl _ (fun _ _ _ => ?_) ?_
    | refine objStepKeeps_foldl _ (fun _ _ _ => ?_) ?_
    | split

theorem kept_submitDeep {P : List Part} {base : State} {e : Nat} {p : Place} {s : State} (hP : sub [.t3] P) (h_s : Keeps P base s) :
    Keeps P base (submitDeep e p s) := by
  unfold submitDeep
  try dsimp only
  with_reducible repeat' first
    | assumption
    | refine keeps_ite ?_ ?_
    | refine kept_deepParity (sub_trans (by decide) hP) ?_
    | refine kept_deepWrite (sub_trans (by decide) hP) ?_
    | refine keeps_foldl _ (fun _ _ _ => ?_) ?_
    | refine keeps_foldlP _ (fun _ _ _ => ?_) ?_
    | refine tripleKeeps_foldl _ (fun _ _ _ => ?_) ?_
    | refine objStepKeeps_foldl _ (fun _ _ _ => ?_) ?_
    | refine optKeeps_map (fun _ => ?_)
    | refine keeps_getD ?_ ?_
    | split

theorem kept_fixStripe {P : List Part} {base : State} {s : State} {r : Nat × Nat} (hP : sub [.ctl, .mem, .ev, .ms, .mxes, .persist] P) (h_s : Keeps P base s) :
    Keeps P base (fixStripe s r) := by
  unfold fixStripe
  try dsimp only
  with_reducible repeat' first
    | assumption
    | refine keeps_ite ?_ ?_
    | refine kept_writeParity (sub_trans (by decide) hP) ?_
    | split

theorem kept_loadChunks {P : List Part} {base : State} {e : Nat} {ly : Layout} {cs : List Nat} {s : State} (hP : sub [.ctl, .ms, .t3] P) (h_s : Keeps P base s) :
    ObjStepKeeps P base (loadChunks e ly cs s) := by
  unfold loadChunks
  try dsimp only
  with_reducible repeat' first
    | assumption
    | refine keeps_ite ?_ ?_
    | refine objStepKeeps_ite ?_ ?_
    | refine keeps_more ?_
    | refine keeps_wait ?_
    | refine keeps_odone ?_
    | refine keeps_ofail ?_
    | refine kept_bump (sub_trans (by decide) hP) ?_
    | refine kept_nvmeSubmit (sub_trans (by decide) hP) ?_
    | refine kept_rcvAttach (sub_trans (by decide) hP) ?_
    | refine keeps_foldl _ (fun _ _ _ => ?_) ?_
    | refine keeps_foldlP _ (fun _ _ _ => ?_) ?_
    | refine tripleKeeps_foldl _ (fun _ _ _ => ?_) ?_
    | refine objStepKeeps_foldl _ (fun _ _ _ => ?_) ?_
    | refine of_more ?_ (by assumption)
    | refine of_wait ?_ (by assumption)
    | refine of_odone ?_ (by assumption)
    | refine of_ofail ?_ (by assumption)
    | split

theorem kept_loadDeep {P : List Part} {base : State} {e : Nat} {p : Place} {s : State} (hP : sub [.ctl, .ms, .t3, .engs] P) (h_s : Keeps P base s) :
    ObjStepKeeps P base (loadDeep e p s) := by
  unfold loadDeep
  try dsimp only
  with_reducible repeat' first
    | assumption
    | refine keeps_ite ?_ ?_
    | refine objStepKeeps_ite ?_ ?_
    | refine keeps_more ?_
    | refine keeps_wait ?_
    | refine keeps_odone ?_
    | refine keeps_ofail ?_
    | refine kept_keepUnit (sub_trans (by decide) hP) ?_
    | refine kept_loadChunks (sub_trans (by decide) hP) ?_
    | refine keeps_foldl _ (fun _ _ _ => ?_) ?_
    | refine keeps_foldlP _ (fun _ _ _ => ?_) ?_
    | refine tripleKeeps_foldl _ (fun _ _ _ => ?_) ?_
    | refine objStepKeeps_foldl _ (fun _ _ _ => ?_) ?_
    | refine optKeeps_map (fun _ => ?_)
    | refine keeps_getD ?_ ?_
    | refine of_more ?_ (by assumption)
    | refine of_wait ?_ (by assumption)
    | refine of_odone ?_ (by assumption)
    | refine of_ofail ?_ (by assumption)
    | split

theorem kept_loadPart {P : List Part} {base : State} {e : Nat} {p : Place} {s : State} (hP : sub [.ctl, .mem, .ev, .ms, .engs, .persist] P) (h_s : Keeps P base s) :
    ObjStepKeeps P base (loadPart e p s) := by
  unfold loadPart
  try dsimp only
  with_reducible repeat' first
    | assumption
    | refine keeps_ite ?_ ?_
    | refine pairKeeps_ite ?_ ?_
    | refine objStepKeeps_ite ?_ ?_
    | refine objStepKeeps_foldl _ (fun _ _ _ => ?_) ?_
    | refine keeps_more ?_
    | refine keeps_wait ?_
    | refine keeps_odone ?_
    | refine keeps_ofail ?_
    | refine snd_of ?_
    | refine kept_keepUnit (sub_trans (by decide) hP) ?_
    | refine kept_readRange (sub_trans (by decide) hP) ?_
    | exact of_more (by assumption) rfl
    | refine of_pair ?_ (by assumption)
    | refine of_more ?_ (by assumption)
    | refine of_wait ?_ (by assumption)
    | refine of_odone ?_ (by assumption)
    | refine of_ofail ?_ (by assumption)
    | split
    | refine keeps_pair ?_

theorem kept_loadUnits {P : List Part} {base : State} {e : Nat} {p : Place} {s : State} (hP : sub [.ctl, .mem, .ev, .ms, .t3, .engs, .tags, .fabQ, .persist] P) (h_s : Keeps P base s) :
    ObjStepKeeps P base (loadUnits e p s) := by
  unfold loadUnits
  try dsimp only
  with_reducible repeat' first
    | assumption
    | refine keeps_ite ?_ ?_
    | refine objStepKeeps_ite ?_ ?_
    | refine keeps_more ?_
    | refine keeps_wait ?_
    | refine keeps_odone ?_
    | refine keeps_ofail ?_
    | refine kept_clearFailed (sub_trans (by decide) hP) ?_
    | refine kept_loadDeep (sub_trans (by decide) hP) ?_
    | refine kept_loadDrift (sub_trans (by decide) hP) ?_
    | refine kept_loadPart (sub_trans (by decide) hP) ?_
    | refine of_more ?_ (by assumption)
    | refine of_wait ?_ (by assumption)
    | refine of_odone ?_ (by assumption)
    | refine of_ofail ?_ (by assumption)
    | split

theorem kept_awaitDeep {P : List Part} {base : State} {e : Nat} {s : State} (hP : sub [] P) (h_s : Keeps P base s) :
    ObjStepKeeps P base (awaitDeep e s) := by
  unfold awaitDeep
  try dsimp only
  with_reducible repeat' first
    | assumption
    | refine keeps_ite ?_ ?_
    | refine objStepKeeps_ite ?_ ?_
    | refine keeps_more ?_
    | refine keeps_wait ?_
    | refine keeps_odone ?_
    | refine keeps_ofail ?_
    | refine of_more ?_ (by assumption)
    | refine of_wait ?_ (by assumption)
    | refine of_odone ?_ (by assumption)
    | refine of_ofail ?_ (by assumption)
    | split

theorem kept_storeDeep {P : List Part} {base : State} {e : Nat} {p : Place} {s : State} (hP : sub [.ctl, .t3, .engs] P) (h_s : Keeps P base s) :
    ObjStepKeeps P base (storeDeep e p s) := by
  unfold storeDeep
  try dsimp only
  with_reducible repeat' first
    | assumption
    | refine keeps_ite ?_ ?_
    | refine objStepKeeps_ite ?_ ?_
    | refine keeps_more ?_
    | refine keeps_wait ?_
    | refine keeps_odone ?_
    | refine keeps_ofail ?_
    | refine kept_awaitDeep (sub_trans (by decide) hP) ?_
    | refine kept_countUnits (sub_trans (by decide) hP) ?_
    | refine kept_submitDeep (sub_trans (by decide) hP) ?_
    | refine kept_updEng (sub_trans (by decide) hP) ?_
    | refine optKeeps_map (fun _ => ?_)
    | refine keeps_getD ?_ ?_
    | refine of_more ?_ (by assumption)
    | refine of_wait ?_ (by assumption)
    | refine of_odone ?_ (by assumption)
    | refine of_ofail ?_ (by assumption)
    | split

theorem kept_storePart {P : List Part} {base : State} {e : Nat} {p : Place} {mark : Bool} {s : State} (hP : sub [.ctl, .mem, .ev, .ms, .mxes, .persist] P) (h_s : Keeps P base s) :
    ObjStepKeeps P base (storePart e p mark s) := by
  unfold storePart
  try dsimp only
  with_reducible repeat' first
    | assumption
    | refine keeps_ite ?_ ?_
    | refine pairKeeps_ite ?_ ?_
    | refine objStepKeeps_ite ?_ ?_
    | refine objStepKeeps_foldl _ (fun _ _ _ => ?_) ?_
    | refine keeps_more ?_
    | refine keeps_wait ?_
    | refine keeps_odone ?_
    | refine keeps_ofail ?_
    | refine snd_of ?_
    | refine kept_countUnits (sub_trans (by decide) hP) ?_
    | refine kept_writeRange (sub_trans (by decide) hP) ?_
    | exact of_more (by assumption) rfl
    | refine of_pair ?_ (by assumption)
    | refine of_more ?_ (by assumption)
    | refine of_wait ?_ (by assumption)
    | refine of_odone ?_ (by assumption)
    | refine of_ofail ?_ (by assumption)
    | split
    | refine keeps_pair ?_

theorem kept_storeUnits {P : List Part} {base : State} {e : Nat} {p : Place} {mark : Bool} {s : State} (hP : sub [.ctl, .mem, .ev, .ms, .t3, .mxes, .engs, .tags, .fabQ, .persist] P) (h_s : Keeps P base s) :
    ObjStepKeeps P base (storeUnits e p mark s) := by
  unfold storeUnits
  try dsimp only
  with_reducible repeat' first
    | assumption
    | refine keeps_ite ?_ ?_
    | refine objStepKeeps_ite ?_ ?_
    | refine keeps_more ?_
    | refine keeps_wait ?_
    | refine keeps_odone ?_
    | refine keeps_ofail ?_
    | refine kept_storeDeep (sub_trans (by decide) hP) ?_
    | refine kept_storeDrift (sub_trans (by decide) hP) ?_
    | refine kept_storePart (sub_trans (by decide) hP) ?_
    | refine of_more ?_ (by assumption)
    | refine of_wait ?_ (by assumption)
    | refine of_odone ?_ (by assumption)
    | refine of_ofail ?_ (by assumption)
    | split

theorem kept_moveUnits {P : List Part} {base : State} {e : Nat} {src : Place} {dst : Place} {mark : Bool} {k : State → ObjStep} {s : State} (hP : sub [.ctl, .mem, .ev, .ms, .t3, .mxes, .engs, .tags, .fabQ, .persist] P) (h_k : ∀ x0, Keeps P base x0 → ObjStepKeeps P base (k x0)) (h_s : Keeps P base s) :
    ObjStepKeeps P base (moveUnits e src dst mark k s) := by
  unfold moveUnits
  try dsimp only
  with_reducible repeat' first
    | assumption
    | refine keeps_ite ?_ ?_
    | refine objStepKeeps_ite ?_ ?_
    | refine keeps_more ?_
    | refine keeps_wait ?_
    | refine keeps_odone ?_
    | refine keeps_ofail ?_
    | refine kept_loadUnits (sub_trans (by decide) hP) ?_
    | refine kept_storeUnits (sub_trans (by decide) hP) ?_
    | refine h_k _ ?_
    | refine of_more ?_ (by assumption)
    | refine of_wait ?_ (by assumption)
    | refine of_odone ?_ (by assumption)
    | refine of_ofail ?_ (by assumption)
    | split

theorem kept_objEnd {P : List Part} {base : State} {i : Nat} {s : State} {k : State → State} (hP : sub [.ctl, .mem, .ev, .ms, .mxes, .persist] P) (h_s : Keeps P base s) (h_k : ∀ x0, Keeps P base x0 → Keeps P base (k x0)) :
    ObjStepKeeps P base (objEnd i s k) := by
  unfold objEnd
  try dsimp only
  with_reducible repeat' first
    | assumption
    | refine keeps_ite ?_ ?_
    | refine objStepKeeps_ite ?_ ?_
    | refine keeps_more ?_
    | refine keeps_wait ?_
    | refine keeps_odone ?_
    | refine keeps_ofail ?_
    | refine kept_setObjState (sub_trans (by decide) hP) ?_
    | refine h_k _ ?_
    | refine of_more ?_ (by assumption)
    | refine of_wait ?_ (by assumption)
    | refine of_odone ?_ (by assumption)
    | refine of_ofail ?_ (by assumption)
    | split

theorem kept_copyStep {P : List Part} {base : State} {e : Nat} {d : List Byte} {s : State} (hP : sub [.ctl, .mem, .ev, .ms, .t3, .mxes, .engs, .tags, .fabQ, .persist] P) (h_s : Keeps P base s) :
    ObjStepKeeps P base (copyStep e d s) := by
  unfold copyStep
  try dsimp only
  with_reducible repeat' first
    | assumption
    | refine keeps_ite ?_ ?_
    | refine objStepKeeps_ite ?_ ?_
    | refine keeps_more ?_
    | refine keeps_wait ?_
    | refine keeps_odone ?_
    | refine keeps_ofail ?_
    | refine kept_cleanUnit (sub_trans (by decide) hP) ?_
    | refine kept_moveUnits (sub_trans (by decide) hP) (fun _ _ => ?_) ?_
    | refine kept_objEnd (sub_trans (by decide) hP) ?_ (fun _ _ => ?_)
    | refine kept_putObj (sub_trans (by decide) hP) ?_
    | refine keeps_foldl _ (fun _ _ _ => ?_) ?_
    | refine keeps_foldlP _ (fun _ _ _ => ?_) ?_
    | refine tripleKeeps_foldl _ (fun _ _ _ => ?_) ?_
    | refine objStepKeeps_foldl _ (fun _ _ _ => ?_) ?_
    | refine keeps_getD ?_ ?_
    | refine of_more ?_ (by assumption)
    | refine of_wait ?_ (by assumption)
    | refine of_odone ?_ (by assumption)
    | refine of_ofail ?_ (by assumption)
    | split

theorem kept_objUndo {P : List Part} {base : State} {e : Nat} {d : List Byte} {s : State} (hP : sub [.ctl, .mem, .ev, .ms, .t3, .mxes, .engs, .persist] P) (h_s : Keeps P base s) :
    Keeps P base (objUndo e d s) := by
  have hlive : ∀ t, Keeps P base t → Keeps P base (if (t.obj (oIdx d)).state = objMoving then setObjState (oIdx d) objLive t else t) :=
    fun t h => keeps_ite (kept_setObjState (sub_trans (by decide) hP) h) h
  have hagain : ∀ b t, Keeps P base t → Keeps P base (if (s.eng e).stage ≥ b + 10 ∧ (s.eng e).stage < b + 15 then
      remark e (oIdx d) ((s.eng e).stage - b - 10) t else t) :=
    fun b t h => keeps_ite (kept_remark (sub_trans (by decide) hP) h) h
  have hdrop : ∀ t a b c x, Keeps P base t → Keeps P base (dropCharge a b c x t) := fun _ _ _ _ _ h =>
    kept_dropCharge (sub_trans (by decide) hP) h
  have hput : ∀ o t, Keeps P base t → Keeps P base (putObj (oIdx d) o t) := fun _ _ h => kept_putObj (sub_trans (by decide) hP) h
  have hms : ∀ t x, Keeps P base t → Keeps P base { t with ms := { t.ms with stored := x } } := fun t x h =>
    keeps_with_ms (sub_trans (by decide) hP) h
  have ht3 : ∀ t x, Keeps P base t → Keeps P base { t with t3 := { t.t3 with cmds := x } } := fun t x h =>
    keeps_with_t3 (sub_trans (by decide) hP) h (fun q => q)
  unfold objUndo
  refine kept_toStage (sub_trans (by decide) hP) (ht3 _ _ ?_)
  split
  · exact hput _ _ (hms _ _ (hdrop _ _ _ _ _ h_s))
  · exact hlive _ (hput _ _ (hdrop _ _ _ _ _ h_s))
  · exact hlive _ (hagain 100 _ h_s)
  · exact hlive _ (hagain 100 _ h_s)
  · exact hlive _ (hagain 300 _ (hagain 100 _ (hdrop _ _ _ _ _ h_s)))
  · exact keeps_ite (kept_setObjState (sub_trans (by decide) hP) h_s) h_s
  · exact h_s

theorem kept_objPump {P : List Part} {base : State} {e : Nat} {d : List Byte} {step : State → ObjStep} {a : Nat} {ax : State} (hP : sub [.free, .ctl, .mem, .ev, .ms, .t3, .mxes, .slots, .engs, .tags, .fabQ, .persist] P) (h_step : ∀ x0, Keeps P base x0 → ObjStepKeeps P base (step x0)) (h_ax : Keeps P base ax) :
    Keeps P base (objPump e d step a ax) := by
  induction a generalizing ax with
  | zero =>
    unfold objPump
    try dsimp only
    with_reducible repeat' first
      | assumption
      | refine keeps_ite ?_ ?_
      | refine pairKeeps_ite ?_ ?_
      | refine snd_of ?_
      | refine kept_engDone (sub_trans (by decide) hP) ?_
      | refine kept_engHaltAt (sub_trans (by decide) hP) ?_
      | refine kept_freshWord (sub_trans (by decide) hP) ?_
      | refine kept_objUndo (sub_trans (by decide) hP) ?_
      | refine kept_toStage (sub_trans (by decide) hP) ?_
      | refine h_step _ ?_
      | refine of_pair ?_ (by assumption)
      | refine of_more ?_ (by assumption)
      | refine of_wait ?_ (by assumption)
      | refine of_odone ?_ (by assumption)
      | refine of_ofail ?_ (by assumption)
      | split
      | refine keeps_pair ?_
  | succ n ih =>
    unfold objPump
    try dsimp only
    with_reducible repeat' first
      | assumption
      | refine keeps_ite ?_ ?_
      | refine pairKeeps_ite ?_ ?_
      | refine snd_of ?_
      | refine kept_engDone (sub_trans (by decide) hP) ?_
      | refine kept_engHaltAt (sub_trans (by decide) hP) ?_
      | refine kept_freshWord (sub_trans (by decide) hP) ?_
      | refine kept_objUndo (sub_trans (by decide) hP) ?_
      | refine kept_toStage (sub_trans (by decide) hP) ?_
      | refine ih ?_
      | refine h_step _ ?_
      | refine of_pair ?_ (by assumption)
      | refine of_more ?_ (by assumption)
      | refine of_wait ?_ (by assumption)
      | refine of_odone ?_ (by assumption)
      | refine of_ofail ?_ (by assumption)
      | split
      | refine keeps_pair ?_

theorem kept_dropCopies {P : List Part} {base : State} {o : ObjEntry} {n : Nat} {s : State} (hP : sub [.ctl] P) (h_s : Keeps P base s) :
    Keeps P base (dropCopies o n s) := by
  unfold dropCopies
  try dsimp only
  with_reducible repeat' first
    | assumption
    | refine keeps_ite ?_ ?_
    | refine kept_dropCharge (sub_trans (by decide) hP) ?_
    | refine keeps_foldl _ (fun _ _ _ => ?_) ?_
    | refine keeps_foldlP _ (fun _ _ _ => ?_) ?_
    | refine tripleKeeps_foldl _ (fun _ _ _ => ?_) ?_
    | refine objStepKeeps_foldl _ (fun _ _ _ => ?_) ?_
    | split

theorem kept_freeObj {P : List Part} {base : State} {d : List Byte} {s : State} (hP : sub [.ctl, .mem, .ev, .ms, .mxes, .persist] P) (h_s : Keeps P base s) :
    Keeps P base (freeObj d s) := by
  unfold freeObj
  try dsimp only
  with_reducible repeat' first
    | assumption
    | refine keeps_ite ?_ ?_
    | refine kept_dropCharge (sub_trans (by decide) hP) ?_
    | refine kept_dropCopies (sub_trans (by decide) hP) ?_
    | refine kept_putObj (sub_trans (by decide) hP) ?_
    | split
  all_goals try (with_reducible refine keeps_with_ms (sub_trans (by decide) hP) ?_)
  all_goals with_reducible repeat' first
    | assumption
    | refine keeps_ite ?_ ?_
    | refine kept_dropCharge (sub_trans (by decide) hP) ?_
    | refine kept_dropCopies (sub_trans (by decide) hP) ?_
    | refine kept_putObj (sub_trans (by decide) hP) ?_
    | split
  all_goals try (with_reducible refine keeps_with_ms (sub_trans (by decide) hP) ?_)
  all_goals with_reducible repeat' first
    | assumption
    | refine keeps_ite ?_ ?_
    | refine kept_dropCharge (sub_trans (by decide) hP) ?_
    | refine kept_dropCopies (sub_trans (by decide) hP) ?_
    | refine kept_putObj (sub_trans (by decide) hP) ?_
    | split

theorem kept_objRefuse {P : List Part} {base : State} {e : Nat} {status : Nat} {s : State} (hP : sub [.free, .ctl, .mem, .ev, .ms, .mxes, .slots, .engs, .tags, .fabQ, .persist] P) (h_s : Keeps P base s) :
    Keeps P base (objRefuse e status s) := by
  unfold objRefuse
  try dsimp only
  with_reducible repeat' first
    | assumption
    | refine keeps_ite ?_ ?_
    | refine kept_engHalt (sub_trans (by decide) hP) ?_
    | split

theorem kept_dropStart {P : List Part} {base : State} {e : Nat} {d : List Byte} {o : ObjEntry} {s : State} (hP : sub [.free, .ctl, .mem, .ev, .ms, .t3, .mxes, .slots, .engs, .tags, .fabQ, .persist] P) (h_s : Keeps P base s) :
    Keeps P base (dropStart e d o s) := by
  unfold dropStart
  try dsimp only
  with_reducible repeat' first
    | assumption
    | refine keeps_ite ?_ ?_
    | refine kept_objRefuse (sub_trans (by decide) hP) ?_
    | refine kept_setObjState (sub_trans (by decide) hP) ?_
    | refine kept_toStage (sub_trans (by decide) hP) ?_
    | split

theorem kept_refillStart {P : List Part} {base : State} {e : Nat} {d : List Byte} {o : ObjEntry} {s : State} (hP : sub [.free, .ctl, .mem, .ev, .ms, .t3, .mxes, .slots, .engs, .tags, .fabQ, .persist] P) (h_s : Keeps P base s) :
    Keeps P base (refillStart e d o s) := by
  unfold refillStart
  try dsimp only
  with_reducible repeat' first
    | assumption
    | refine keeps_ite ?_ ?_
    | refine kept_objRefuse (sub_trans (by decide) hP) ?_
    | refine kept_setObjState (sub_trans (by decide) hP) ?_
    | refine kept_takeUnits (sub_trans (by decide) hP) ?_
    | refine kept_toStage (sub_trans (by decide) hP) ?_
    | split

theorem kept_rehomeStart {P : List Part} {base : State} {e : Nat} {d : List Byte} {o : ObjEntry} {s : State} (hP : sub [.free, .ctl, .mem, .ev, .ms, .t3, .mxes, .slots, .engs, .tags, .fabQ, .persist] P) (h_s : Keeps P base s) :
    Keeps P base (rehomeStart e d o s) := by
  unfold rehomeStart
  try dsimp only
  with_reducible repeat' first
    | assumption
    | refine keeps_ite ?_ ?_
    | refine kept_objRefuse (sub_trans (by decide) hP) ?_
    | refine kept_setObjState (sub_trans (by decide) hP) ?_
    | refine kept_takeCharge (sub_trans (by decide) hP) ?_
    | refine kept_toStage (sub_trans (by decide) hP) ?_
    | split
  all_goals try (with_reducible refine keeps_with_ms (sub_trans (by decide) hP) ?_)
  all_goals with_reducible repeat' first
    | assumption
    | refine keeps_ite ?_ ?_
    | refine kept_objRefuse (sub_trans (by decide) hP) ?_
    | refine kept_setObjState (sub_trans (by decide) hP) ?_
    | refine kept_takeCharge (sub_trans (by decide) hP) ?_
    | refine kept_toStage (sub_trans (by decide) hP) ?_
    | split

theorem kept_writeBack {P : List Part} {base : State} {e : Nat} {i : Nat} {basex : Nat} {tiers : List Nat} {k : State → ObjStep} {s : State} (hP : sub [.ctl, .mem, .ev, .ms, .t3, .mxes, .engs, .tags, .fabQ, .persist] P) (h_k : ∀ x0, Keeps P base x0 → ObjStepKeeps P base (k x0)) (h_s : Keeps P base s) :
    ObjStepKeeps P base (writeBack e i basex tiers k s) := by
  unfold writeBack
  try dsimp only
  with_reducible repeat' first
    | assumption
    | refine keeps_ite ?_ ?_
    | refine objStepKeeps_ite ?_ ?_
    | refine keeps_more ?_
    | refine keeps_wait ?_
    | refine keeps_odone ?_
    | refine keeps_ofail ?_
    | refine kept_moveUnits (sub_trans (by decide) hP) (fun _ _ => ?_) ?_
    | refine kept_takeDirty (sub_trans (by decide) hP) ?_
    | refine kept_toStage (sub_trans (by decide) hP) ?_
    | refine h_k _ ?_
    | refine keeps_getD ?_ ?_
    | refine of_more ?_ (by assumption)
    | refine of_wait ?_ (by assumption)
    | refine of_odone ?_ (by assumption)
    | refine of_ofail ?_ (by assumption)
    | split

theorem kept_refillEnd {P : List Part} {base : State} {i : Nat} {s : State} (hP : sub [.ctl, .mem, .ev, .ms, .mxes, .persist] P) (h_s : Keeps P base s) :
    Keeps P base (refillEnd i s) := by
  unfold refillEnd
  try dsimp only
  with_reducible repeat' first
    | assumption
    | refine keeps_ite ?_ ?_
    | refine kept_dropCopies (sub_trans (by decide) hP) ?_
    | refine kept_putObj (sub_trans (by decide) hP) ?_
    | split

theorem kept_buildParity {P : List Part} {base : State} {e : Nat} {p : Place} {k : State → ObjStep} {s : State} (hP : sub [.ctl, .mem, .ev, .ms, .t3, .mxes, .engs, .persist] P) (h_k : ∀ x0, Keeps P base x0 → ObjStepKeeps P base (k x0)) (h_s : Keeps P base s) :
    ObjStepKeeps P base (buildParity e p k s) := by
  unfold buildParity
  try dsimp only
  with_reducible repeat' first
    | assumption
    | refine keeps_ite ?_ ?_
    | refine objStepKeeps_ite ?_ ?_
    | refine keeps_more ?_
    | refine keeps_wait ?_
    | refine keeps_odone ?_
    | refine keeps_ofail ?_
    | refine kept_awaitDeep (sub_trans (by decide) hP) ?_
    | refine kept_fixStripe (sub_trans (by decide) hP) ?_
    | refine kept_submitRows (sub_trans (by decide) hP) ?_
    | refine kept_updEng (sub_trans (by decide) hP) ?_
    | refine h_k _ ?_
    | refine keeps_foldl _ (fun _ _ _ => ?_) ?_
    | refine keeps_foldlP _ (fun _ _ _ => ?_) ?_
    | refine tripleKeeps_foldl _ (fun _ _ _ => ?_) ?_
    | refine objStepKeeps_foldl _ (fun _ _ _ => ?_) ?_
    | refine of_more ?_ (by assumption)
    | refine of_wait ?_ (by assumption)
    | refine of_odone ?_ (by assumption)
    | refine of_ofail ?_ (by assumption)
    | split

theorem kept_refillStep {P : List Part} {base : State} {e : Nat} {d : List Byte} {s : State} (hP : sub [.ctl, .mem, .ev, .ms, .t3, .mxes, .engs, .tags, .fabQ, .persist] P) (h_s : Keeps P base s) :
    ObjStepKeeps P base (refillStep e d s) := by
  unfold refillStep
  try dsimp only
  with_reducible repeat' first
    | assumption
    | refine keeps_ite ?_ ?_
    | refine objStepKeeps_ite ?_ ?_
    | refine keeps_more ?_
    | refine keeps_wait ?_
    | refine keeps_odone ?_
    | refine keeps_ofail ?_
    | refine kept_buildParity (sub_trans (by decide) hP) (fun _ _ => ?_) ?_
    | refine kept_moveUnits (sub_trans (by decide) hP) (fun _ _ => ?_) ?_
    | refine kept_refillEnd (sub_trans (by decide) hP) ?_
    | refine kept_toStage (sub_trans (by decide) hP) ?_
    | refine of_more ?_ (by assumption)
    | refine of_wait ?_ (by assumption)
    | refine of_odone ?_ (by assumption)
    | refine of_ofail ?_ (by assumption)
    | split

theorem kept_createChunks {P : List Part} {base : State} {e : Nat} {ly : Layout} {s : State} (hP : sub [.t3] P) (h_s : Keeps P base s) :
    ObjStepKeeps P base (createChunks e ly s) := by
  unfold createChunks
  try dsimp only
  with_reducible repeat' first
    | assumption
    | refine keeps_ite ?_ ?_
    | refine objStepKeeps_ite ?_ ?_
    | refine keeps_more ?_
    | refine keeps_wait ?_
    | refine keeps_odone ?_
    | refine keeps_ofail ?_
    | refine kept_nvmeSubmit (sub_trans (by decide) hP) ?_
    | refine keeps_foldl _ (fun _ _ _ => ?_) ?_
    | refine keeps_foldlP _ (fun _ _ _ => ?_) ?_
    | refine tripleKeeps_foldl _ (fun _ _ _ => ?_) ?_
    | refine objStepKeeps_foldl _ (fun _ _ _ => ?_) ?_
    | refine optKeeps_map (fun _ => ?_)
    | refine of_more ?_ (by assumption)
    | refine of_wait ?_ (by assumption)
    | refine of_odone ?_ (by assumption)
    | refine of_ofail ?_ (by assumption)
    | split

theorem kept_dropStep {P : List Part} {base : State} {e : Nat} {d : List Byte} {s : State} (hP : sub [.ctl, .mem, .ev, .ms, .t3, .mxes, .engs, .tags, .fabQ, .persist] P) (h_s : Keeps P base s) :
    ObjStepKeeps P base (dropStep e d s) := by
  unfold dropStep
  try dsimp only
  with_reducible repeat' first
    | assumption
    | refine keeps_ite ?_ ?_
    | refine objStepKeeps_ite ?_ ?_
    | refine keeps_more ?_
    | refine keeps_wait ?_
    | refine keeps_odone ?_
    | refine keeps_ofail ?_
    | refine kept_dropCopy (sub_trans (by decide) hP) ?_
    | refine kept_objEnd (sub_trans (by decide) hP) ?_ (fun _ _ => ?_)
    | refine kept_writeBack (sub_trans (by decide) hP) (fun _ _ => ?_) ?_
    | refine of_more ?_ (by assumption)
    | refine of_wait ?_ (by assumption)
    | refine of_odone ?_ (by assumption)
    | refine of_ofail ?_ (by assumption)
    | split

theorem kept_createStep {P : List Part} {base : State} {e : Nat} {d : List Byte} {s : State} (hP : sub [.ctl, .mem, .ev, .ms, .t3, .mxes, .engs, .tags, .fabQ, .persist] P) (h_s : Keeps P base s) :
    ObjStepKeeps P base (createStep e d s) := by
  unfold createStep
  try dsimp only
  with_reducible repeat' first
    | assumption
    | refine keeps_ite ?_ ?_
    | refine objStepKeeps_ite ?_ ?_
    | refine keeps_more ?_
    | refine keeps_wait ?_
    | refine keeps_odone ?_
    | refine keeps_ofail ?_
    | refine kept_buildParity (sub_trans (by decide) hP) (fun _ _ => ?_) ?_
    | refine kept_createChunks (sub_trans (by decide) hP) ?_
    | refine kept_loadUnits (sub_trans (by decide) hP) ?_
    | refine kept_putObj (sub_trans (by decide) hP) ?_
    | refine kept_takeUnits (sub_trans (by decide) hP) ?_
    | refine kept_toStage (sub_trans (by decide) hP) ?_
    | refine of_more ?_ (by assumption)
    | refine of_wait ?_ (by assumption)
    | refine of_odone ?_ (by assumption)
    | refine of_ofail ?_ (by assumption)
    | split

theorem kept_flushStep {P : List Part} {base : State} {e : Nat} {d : List Byte} {s : State} (hP : sub [.ctl, .mem, .ev, .ms, .t3, .mxes, .engs, .tags, .fabQ, .persist] P) (h_s : Keeps P base s) :
    ObjStepKeeps P base (flushStep e d s) := by
  unfold flushStep
  try dsimp only
  with_reducible repeat' first
    | assumption
    | refine keeps_ite ?_ ?_
    | refine objStepKeeps_ite ?_ ?_
    | refine keeps_more ?_
    | refine keeps_wait ?_
    | refine keeps_odone ?_
    | refine keeps_ofail ?_
    | refine kept_objEnd (sub_trans (by decide) hP) ?_ (fun _ _ => ?_)
    | refine kept_writeBack (sub_trans (by decide) hP) (fun _ _ => ?_) ?_
    | refine keeps_id ?_
    | refine of_more ?_ (by assumption)
    | refine of_wait ?_ (by assumption)
    | refine of_odone ?_ (by assumption)
    | refine of_ofail ?_ (by assumption)
    | split

theorem kept_runObj {P : List Part} {base : State} {e : Nat} {op : Nat} {start : List Byte → ObjEntry → State → State} {step : List Byte → State → ObjStep} {s : State} (hP : sub [.free, .ctl, .mem, .ev, .ms, .t3, .mxes, .slots, .engs, .tags, .fabQ, .persist] P) (h_start : ∀ x0 x1 x2, Keeps P base x2 → Keeps P base (start x0 x1 x2)) (h_step : ∀ x0 x1, Keeps P base x1 → ObjStepKeeps P base (step x0 x1)) (h_s : Keeps P base s) :
    Keeps P base (runObj e op start step s) := by
  unfold runObj
  try dsimp only
  with_reducible repeat' first
    | assumption
    | refine keeps_ite ?_ ?_
    | refine objStepKeeps_ite ?_ ?_
    | refine keeps_more ?_
    | refine keeps_wait ?_
    | refine keeps_odone ?_
    | refine keeps_ofail ?_
    | refine kept_bump (sub_trans (by decide) hP) ?_
    | refine kept_engDone (sub_trans (by decide) hP) ?_
    | refine kept_objPump (sub_trans (by decide) hP) (fun _ _ => ?_) ?_
    | refine kept_objRefuse (sub_trans (by decide) hP) ?_
    | refine kept_runDesc (sub_trans (by decide) hP) (fun _ _ _ => ?_) ?_
    | refine kept_staleHandle (sub_trans (by decide) hP) ?_
    | refine kept_touchObj (sub_trans (by decide) hP) ?_
    | refine h_start _ _ _ ?_
    | refine h_step _ _ ?_
    | refine of_more ?_ (by assumption)
    | refine of_wait ?_ (by assumption)
    | refine of_odone ?_ (by assumption)
    | refine of_ofail ?_ (by assumption)
    | split

theorem kept_createStart {P : List Part} {base : State} {e : Nat} {d : List Byte} {s : State} (hP : sub [.free, .ctl, .mem, .ev, .ms, .t3, .mxes, .slots, .engs, .tags, .fabQ, .persist] P) (h_s : Keeps P base s) :
    Keeps P base (createStart e d s) := by
  unfold createStart
  try dsimp only
  with_reducible repeat' first
    | assumption
    | refine keeps_ite ?_ ?_
    | refine kept_objRefuse (sub_trans (by decide) hP) ?_
    | refine kept_putObj (sub_trans (by decide) hP) ?_
    | refine kept_takeCharge (sub_trans (by decide) hP) ?_
    | refine kept_toStage (sub_trans (by decide) hP) ?_
    | split
  all_goals try (with_reducible refine keeps_with_ms (sub_trans (by decide) hP) ?_)
  all_goals with_reducible repeat' first
    | assumption
    | refine keeps_ite ?_ ?_
    | refine kept_objRefuse (sub_trans (by decide) hP) ?_
    | refine kept_putObj (sub_trans (by decide) hP) ?_
    | refine kept_takeCharge (sub_trans (by decide) hP) ?_
    | refine kept_toStage (sub_trans (by decide) hP) ?_
    | split

theorem kept_copyStart {P : List Part} {base : State} {e : Nat} {d : List Byte} {o : ObjEntry} {s : State} (hP : sub [.free, .ctl, .mem, .ev, .ms, .t3, .mxes, .slots, .engs, .tags, .fabQ, .persist] P) (h_s : Keeps P base s) :
    Keeps P base (copyStart e d o s) := by
  unfold copyStart
  try dsimp only
  with_reducible repeat' first
    | assumption
    | refine keeps_ite ?_ ?_
    | refine kept_objRefuse (sub_trans (by decide) hP) ?_
    | refine kept_putObj (sub_trans (by decide) hP) ?_
    | refine kept_takeCharge (sub_trans (by decide) hP) ?_
    | refine kept_takeUnits (sub_trans (by decide) hP) ?_
    | refine kept_toStage (sub_trans (by decide) hP) ?_
    | refine kept_updEng (sub_trans (by decide) hP) ?_
    | split

theorem kept_rehomeStep {P : List Part} {base : State} {e : Nat} {d : List Byte} {s : State} (hP : sub [.ctl, .mem, .ev, .ms, .t3, .mxes, .engs, .tags, .fabQ, .persist] P) (h_s : Keeps P base s) :
    ObjStepKeeps P base (rehomeStep e d s) := by
  unfold rehomeStep
  try dsimp only
  with_reducible repeat' first
    | assumption
    | refine keeps_ite ?_ ?_
    | refine objStepKeeps_ite ?_ ?_
    | refine keeps_more ?_
    | refine keeps_wait ?_
    | refine keeps_odone ?_
    | refine keeps_ofail ?_
    | refine kept_buildParity (sub_trans (by decide) hP) (fun _ _ => ?_) ?_
    | refine kept_dropCopy (sub_trans (by decide) hP) ?_
    | refine kept_moveUnits (sub_trans (by decide) hP) (fun _ _ => ?_) ?_
    | refine kept_objEnd (sub_trans (by decide) hP) ?_ (fun _ _ => ?_)
    | refine kept_rehomeEnd (sub_trans (by decide) hP) ?_
    | refine kept_takeUnits (sub_trans (by decide) hP) ?_
    | refine kept_toStage (sub_trans (by decide) hP) ?_
    | refine kept_writeBack (sub_trans (by decide) hP) (fun _ _ => ?_) ?_
    | refine of_more ?_ (by assumption)
    | refine of_wait ?_ (by assumption)
    | refine of_odone ?_ (by assumption)
    | refine of_ofail ?_ (by assumption)
    | split

end Sys2Proof.Machine
end

