-- ==== Sys2Proof/Laws/Drain.lean ====
section
/-! SUPPORT. For each operation of Machine/Drain.lean, which parts of the state it may change: `kept_f` says that `f` keeps
everything but the parts listed in its first hypothesis, from any state that the states it is given were kept from. -/

namespace Sys2Proof.Machine

theorem kept_drainTake {P : List Part} {base : State} {i : Nat} {o : Nat} {s : State} (hP : sub [.ctl, .ms, .t3, .engs] P) (h_s : Keeps P base s) :
    Keeps P base (drainTake i o s) := by
  unfold drainTake
  try dsimp only
  with_reducible repeat' first
    | assumption
    | refine keeps_ite ?_ ?_
    | refine kept_takeDirty (sub_trans (by decide) hP) ?_
    | refine kept_toStage (sub_trans (by decide) hP) ?_
    | refine kept_updEng (sub_trans (by decide) hP) ?_
    | split

theorem kept_drainMove {P : List Part} {base : State} {i : Nat} {o : Nat} {s : State} (hP : sub [.ctl, .mem, .ev, .ms, .t3, .mxes, .engs, .tags, .fabQ, .persist] P) (h_s : Keeps P base s) :
    Keeps P base (drainMove i o s) := by
  unfold drainMove
  try dsimp only
  with_reducible repeat' first
    | assumption
    | refine keeps_ite ?_ ?_
    | refine objStepKeeps_ite ?_ ?_
    | refine keeps_more ?_
    | refine keeps_wait ?_
    | refine keeps_odone ?_
    | refine keeps_ofail ?_
    | refine kept_moveUnits (sub_trans (by decide) hP) (fun _ _ => ?_) ?_
    | refine kept_remark (sub_trans (by decide) hP) ?_
    | refine kept_toStage (sub_trans (by decide) hP) ?_
    | refine of_more ?_ (by assumption)
    | refine of_wait ?_ (by assumption)
    | refine of_odone ?_ (by assumption)
    | refine of_ofail ?_ (by assumption)
    | split

theorem kept_drainNext {P : List Part} {base : State} {i : Nat} {s : State} (hP : sub [.ctl, .mem, .ev, .ms, .t3, .mxes, .engs, .persist] P) (h_s : Keeps P base s) :
    Keeps P base (drainNext i s) := by
  unfold drainNext
  try dsimp only
  with_reducible repeat' first
    | assumption
    | refine keeps_ite ?_ ?_
    | refine kept_drainTake (sub_trans (by decide) hP) ?_
    | refine kept_dropCopy (sub_trans (by decide) hP) ?_
    | refine keeps_foldl _ (fun _ _ _ => ?_) ?_
    | refine keeps_foldlP _ (fun _ _ _ => ?_) ?_
    | refine tripleKeeps_foldl _ (fun _ _ _ => ?_) ?_
    | refine objStepKeeps_foldl _ (fun _ _ _ => ?_) ?_
    | split

theorem kept_drainStep {P : List Part} {base : State} {i : Nat} {s : State} (hP : sub [.ctl, .mem, .ev, .ms, .t3, .mxes, .engs, .tags, .fabQ, .persist] P) (h_s : Keeps P base s) :
    Keeps P base (drainStep i s) := by
  unfold drainStep
  try dsimp only
  with_reducible repeat' first
    | assumption
    | refine keeps_ite ?_ ?_
    | refine kept_drainMove (sub_trans (by decide) hP) ?_
    | refine kept_drainNext (sub_trans (by decide) hP) ?_
    | split

end Sys2Proof.Machine
end

