-- ==== Sys2Proof/Laws/KncAlu.lean ====
section
/-! SUPPORT. For each operation of Machine/KncAlu.lean, which parts of the state it may change: `kept_f` says that `f` keeps
everything but the parts listed in its first hypothesis, from any state that the states it is given were kept from. -/

namespace Sys2Proof.Machine

theorem kept_vdot {P : List Part} {base : State} {c : Nat} {vd : Nat} {va : Nat} {vb : Nat} {pg : Nat} {zm : Bool} {s : State} (hP : sub [.free, .ctl, .ev, .knc] P) (h_s : Keeps P base s) :
    Keeps P base (vdot c vd va vb pg zm s) := by
  unfold vdot
  try dsimp only
  with_reducible repeat' first
    | assumption
    | refine keeps_ite ?_ ?_
    | refine effKeeps_ite ?_ ?_
    | refine keeps_done ?_
    | refine keeps_jump ?_
    | refine keeps_exc ?_
    | refine keeps_excFree ?_
    | refine keeps_away ?_
    | refine keeps_hold
    | refine kept_bump (sub_trans (by decide) hP) ?_
    | refine kept_issue (sub_trans (by decide) hP) (fun _ _ => ?_) ?_
    | refine kept_setV (sub_trans (by decide) hP) ?_
    | refine optKeeps_map (fun _ => ?_)
    | refine of_done ?_ (by assumption)
    | refine of_jump ?_ (by assumption)
    | refine of_exc ?_ (by assumption)
    | refine of_excFree ?_ (by assumption)
    | refine of_away ?_ (by assumption)
    | split

theorem kept_pred2 {P : List Part} {base : State} {c : Nat} {pd : Nat} {pa : Nat} {pb : Nat} {f : Nat → Nat → Nat} {s : State} (hP : sub [.free, .ctl, .ev, .knc] P) (h_s : Keeps P base s) :
    Keeps P base (pred2 c pd pa pb f s) := by
  unfold pred2
  try dsimp only
  with_reducible repeat' first
    | assumption
    | refine keeps_ite ?_ ?_
    | refine effKeeps_ite ?_ ?_
    | refine keeps_done ?_
    | refine keeps_jump ?_
    | refine keeps_exc ?_
    | refine keeps_excFree ?_
    | refine keeps_away ?_
    | refine keeps_hold
    | refine kept_issue (sub_trans (by decide) hP) (fun _ _ => ?_) ?_
    | refine kept_setP (sub_trans (by decide) hP) ?_
    | refine of_done ?_ (by assumption)
    | refine of_jump ?_ (by assumption)
    | refine of_exc ?_ (by assumption)
    | refine of_excFree ?_ (by assumption)
    | refine of_away ?_ (by assumption)
    | split

theorem kept_scalar1 {P : List Part} {base : State} {c : Nat} {rd : Nat} {ra : Nat} {f : Nat → Nat} {s : State} (hP : sub [.free, .ctl, .ev, .knc] P) (h_s : Keeps P base s) :
    Keeps P base (scalar1 c rd ra f s) := by
  unfold scalar1
  try dsimp only
  with_reducible repeat' first
    | assumption
    | refine keeps_ite ?_ ?_
    | refine effKeeps_ite ?_ ?_
    | refine keeps_done ?_
    | refine keeps_jump ?_
    | refine keeps_exc ?_
    | refine keeps_excFree ?_
    | refine keeps_away ?_
    | refine keeps_hold
    | refine kept_issue (sub_trans (by decide) hP) (fun _ _ => ?_) ?_
    | refine kept_setG (sub_trans (by decide) hP) ?_
    | refine of_done ?_ (by assumption)
    | refine of_jump ?_ (by assumption)
    | refine of_exc ?_ (by assumption)
    | refine of_excFree ?_ (by assumption)
    | refine of_away ?_ (by assumption)
    | split

theorem kept_scrLoad {P : List Part} {base : State} {c : Nat} {rd : Nat} {ra : Nat} {imm : BitVec 16} {n : Nat} {s : State} (hP : sub [.free, .ctl, .ev, .knc, .cores] P) (h_s : Keeps P base s) :
    Keeps P base (scrLoad c rd ra imm n s) := by
  unfold scrLoad
  try dsimp only
  with_reducible repeat' first
    | assumption
    | refine keeps_ite ?_ ?_
    | refine effKeeps_ite ?_ ?_
    | refine pairKeeps_ite ?_ ?_
    | refine keeps_done ?_
    | refine keeps_jump ?_
    | refine keeps_exc ?_
    | refine keeps_excFree ?_
    | refine keeps_away ?_
    | refine keeps_hold
    | refine snd_of ?_
    | refine kept_issue (sub_trans (by decide) hP) (fun _ _ => ?_) ?_
    | refine kept_scrRead (sub_trans (by decide) hP) ?_
    | refine kept_setG (sub_trans (by decide) hP) ?_
    | refine of_pair ?_ (by assumption)
    | refine of_done ?_ (by assumption)
    | refine of_jump ?_ (by assumption)
    | refine of_exc ?_ (by assumption)
    | refine of_excFree ?_ (by assumption)
    | refine of_away ?_ (by assumption)
    | split
    | refine keeps_pair ?_

theorem kept_vec2 {P : List Part} {base : State} {c : Nat} {vd : Nat} {va : Nat} {vb : Nat} {pg : Nat} {es : Nat} {zm : Bool} {f : Nat → Nat → Nat} {s : State} (hP : sub [.free, .ctl, .ev, .knc] P) (h_s : Keeps P base s) :
    Keeps P base (vec2 c vd va vb pg es zm f s) := by
  unfold vec2
  try dsimp only
  with_reducible repeat' first
    | assumption
    | refine keeps_ite ?_ ?_
    | refine effKeeps_ite ?_ ?_
    | refine keeps_done ?_
    | refine keeps_jump ?_
    | refine keeps_exc ?_
    | refine keeps_excFree ?_
    | refine keeps_away ?_
    | refine keeps_hold
    | refine kept_issue (sub_trans (by decide) hP) (fun _ _ => ?_) ?_
    | refine kept_setV (sub_trans (by decide) hP) ?_
    | refine optKeeps_map (fun _ => ?_)
    | refine of_done ?_ (by assumption)
    | refine of_jump ?_ (by assumption)
    | refine of_exc ?_ (by assumption)
    | refine of_excFree ?_ (by assumption)
    | refine of_away ?_ (by assumption)
    | split

theorem kept_vred {P : List Part} {base : State} {c : Nat} {rd : Nat} {va : Nat} {pg : Nat} {es : Nat} {f : List (Nat × Int) → Nat} {s : State} (hP : sub [.free, .ctl, .ev, .knc] P) (h_s : Keeps P base s) :
    Keeps P base (vred c rd va pg es f s) := by
  unfold vred
  try dsimp only
  with_reducible repeat' first
    | assumption
    | refine keeps_ite ?_ ?_
    | refine effKeeps_ite ?_ ?_
    | refine keeps_done ?_
    | refine keeps_jump ?_
    | refine keeps_exc ?_
    | refine keeps_excFree ?_
    | refine keeps_away ?_
    | refine keeps_hold
    | refine kept_issue (sub_trans (by decide) hP) (fun _ _ => ?_) ?_
    | refine kept_setG (sub_trans (by decide) hP) ?_
    | refine of_done ?_ (by assumption)
    | refine of_jump ?_ (by assumption)
    | refine of_exc ?_ (by assumption)
    | refine of_excFree ?_ (by assumption)
    | refine of_away ?_ (by assumption)
    | split

theorem kept_scrStoreV {P : List Part} {base : State} {c : Nat} {v : Nat} {ga : Nat} {pg : Nat} {disp : BitVec 14} {s : State} (hP : sub [.free, .ctl, .ev, .knc, .cores] P) (h_s : Keeps P base s) :
    Keeps P base (scrStoreV c v ga pg disp s) := by
  unfold scrStoreV
  try dsimp only
  with_reducible repeat' first
    | assumption
    | refine keeps_ite ?_ ?_
    | refine effKeeps_ite ?_ ?_
    | refine keeps_done ?_
    | refine keeps_jump ?_
    | refine keeps_exc ?_
    | refine keeps_excFree ?_
    | refine keeps_away ?_
    | refine keeps_hold
    | refine kept_issue (sub_trans (by decide) hP) (fun _ _ => ?_) ?_
    | refine kept_scrWrite (sub_trans (by decide) hP) ?_
    | refine keeps_foldl _ (fun _ _ _ => ?_) ?_
    | refine keeps_foldlP _ (fun _ _ _ => ?_) ?_
    | refine tripleKeeps_foldl _ (fun _ _ _ => ?_) ?_
    | refine objStepKeeps_foldl _ (fun _ _ _ => ?_) ?_
    | refine of_done ?_ (by assumption)
    | refine of_jump ?_ (by assumption)
    | refine of_exc ?_ (by assumption)
    | refine of_excFree ?_ (by assumption)
    | refine of_away ?_ (by assumption)
    | split

theorem kept_vec1 {P : List Part} {base : State} {c : Nat} {vd : Nat} {va : Nat} {pg : Nat} {es : Nat} {zm : Bool} {f : List Byte → List Nat} {s : State} (hP : sub [.free, .ctl, .ev, .knc] P) (h_s : Keeps P base s) :
    Keeps P base (vec1 c vd va pg es zm f s) := by
  unfold vec1
  try dsimp only
  with_reducible repeat' first
    | assumption
    | refine keeps_ite ?_ ?_
    | refine effKeeps_ite ?_ ?_
    | refine keeps_done ?_
    | refine keeps_jump ?_
    | refine keeps_exc ?_
    | refine keeps_excFree ?_
    | refine keeps_away ?_
    | refine keeps_hold
    | refine kept_issue (sub_trans (by decide) hP) (fun _ _ => ?_) ?_
    | refine kept_setV (sub_trans (by decide) hP) ?_
    | refine of_done ?_ (by assumption)
    | refine of_jump ?_ (by assumption)
    | refine of_exc ?_ (by assumption)
    | refine of_excFree ?_ (by assumption)
    | refine of_away ?_ (by assumption)
    | split

theorem kept_vcmp {P : List Part} {base : State} {c : Nat} {pd : Nat} {va : Nat} {vb : Nat} {pg : Nat} {es : Nat} {cc : Nat} {s : State} (hP : sub [.free, .ctl, .ev, .knc] P) (h_s : Keeps P base s) :
    Keeps P base (vcmp c pd va vb pg es cc s) := by
  unfold vcmp
  try dsimp only
  with_reducible repeat' first
    | assumption
    | refine keeps_ite ?_ ?_
    | refine effKeeps_ite ?_ ?_
    | refine keeps_done ?_
    | refine keeps_jump ?_
    | refine keeps_exc ?_
    | refine keeps_excFree ?_
    | refine keeps_away ?_
    | refine keeps_hold
    | refine kept_issue (sub_trans (by decide) hP) (fun _ _ => ?_) ?_
    | refine kept_setP (sub_trans (by decide) hP) ?_
    | refine optKeeps_map (fun _ => ?_)
    | refine of_done ?_ (by assumption)
    | refine of_jump ?_ (by assumption)
    | refine of_exc ?_ (by assumption)
    | refine of_excFree ?_ (by assumption)
    | refine of_away ?_ (by assumption)
    | split

theorem kept_scrLoadV {P : List Part} {base : State} {c : Nat} {v : Nat} {ga : Nat} {pg : Nat} {disp : BitVec 14} {s : State} (hP : sub [.free, .ctl, .ev, .knc, .cores] P) (h_s : Keeps P base s) :
    Keeps P base (scrLoadV c v ga pg disp s) := by
  unfold scrLoadV
  try dsimp only
  with_reducible repeat' first
    | assumption
    | refine keeps_ite ?_ ?_
    | refine effKeeps_ite ?_ ?_
    | refine pairKeeps_ite ?_ ?_
    | refine keeps_done ?_
    | refine keeps_jump ?_
    | refine keeps_exc ?_
    | refine keeps_excFree ?_
    | refine keeps_away ?_
    | refine keeps_hold
    | refine snd_of ?_
    | refine kept_issue (sub_trans (by decide) hP) (fun _ _ => ?_) ?_
    | refine kept_scrRead (sub_trans (by decide) hP) ?_
    | refine kept_setV (sub_trans (by decide) hP) ?_
    | refine of_pair ?_ (by assumption)
    | refine of_done ?_ (by assumption)
    | refine of_jump ?_ (by assumption)
    | refine of_exc ?_ (by assumption)
    | refine of_excFree ?_ (by assumption)
    | refine of_away ?_ (by assumption)
    | split
    | refine keeps_pair ?_

theorem kept_lutLoad {P : List Part} {base : State} {c : Nat} {t : Nat} {gs : Nat} {s : State} (hP : sub [.free, .ctl, .ev, .knc, .cores] P) (h_s : Keeps P base s) :
    Keeps P base (lutLoad c t gs s) := by
  unfold lutLoad
  try dsimp only
  with_reducible repeat' first
    | assumption
    | refine keeps_ite ?_ ?_
    | refine effKeeps_ite ?_ ?_
    | refine pairKeeps_ite ?_ ?_
    | refine keeps_done ?_
    | refine keeps_jump ?_
    | refine keeps_exc ?_
    | refine keeps_excFree ?_
    | refine keeps_away ?_
    | refine keeps_hold
    | refine snd_of ?_
    | refine kept_issue (sub_trans (by decide) hP) (fun _ _ => ?_) ?_
    | refine kept_scrRead (sub_trans (by decide) hP) ?_
    | refine optKeeps_map (fun _ => ?_)
    | refine of_pair ?_ (by assumption)
    | refine of_done ?_ (by assumption)
    | refine of_jump ?_ (by assumption)
    | refine of_exc ?_ (by assumption)
    | refine of_excFree ?_ (by assumption)
    | refine of_away ?_ (by assumption)
    | split
    | refine keeps_pair ?_
  all_goals try (with_reducible refine keeps_with_cores (sub_trans (by decide) hP) ?_ (fun q => by first | exact q | exact wf_memPuts _ _ q | exact wf_memZero _ _ q | exact wf_filter _ q))
  all_goals with_reducible repeat' first
    | assumption
    | refine keeps_ite ?_ ?_
    | refine effKeeps_ite ?_ ?_
    | refine pairKeeps_ite ?_ ?_
    | refine keeps_done ?_
    | refine keeps_jump ?_
    | refine keeps_exc ?_
    | refine keeps_excFree ?_
    | refine keeps_away ?_
    | refine keeps_hold
    | refine snd_of ?_
    | refine kept_issue (sub_trans (by decide) hP) (fun _ _ => ?_) ?_
    | refine kept_scrRead (sub_trans (by decide) hP) ?_
    | refine optKeeps_map (fun _ => ?_)
    | refine of_pair ?_ (by assumption)
    | refine of_done ?_ (by assumption)
    | refine of_jump ?_ (by assumption)
    | refine of_exc ?_ (by assumption)
    | refine of_excFree ?_ (by assumption)
    | refine of_away ?_ (by assumption)
    | split
    | refine keeps_pair ?_

theorem kept_vbcast {P : List Part} {base : State} {c : Nat} {v : Nat} {g : Nat} {pg : Nat} {es : Nat} {s : State} (hP : sub [.free, .ctl, .ev, .knc] P) (h_s : Keeps P base s) :
    Keeps P base (vbcast c v g pg es s) := by
  unfold vbcast
  try dsimp only
  with_reducible repeat' first
    | assumption
    | refine keeps_ite ?_ ?_
    | refine effKeeps_ite ?_ ?_
    | refine keeps_done ?_
    | refine keeps_jump ?_
    | refine keeps_exc ?_
    | refine keeps_excFree ?_
    | refine keeps_away ?_
    | refine keeps_hold
    | refine kept_issue (sub_trans (by decide) hP) (fun _ _ => ?_) ?_
    | refine kept_setV (sub_trans (by decide) hP) ?_
    | refine of_done ?_ (by assumption)
    | refine of_jump ?_ (by assumption)
    | refine of_exc ?_ (by assumption)
    | refine of_excFree ?_ (by assumption)
    | refine of_away ?_ (by assumption)
    | split

theorem kept_scalar2 {P : List Part} {base : State} {c : Nat} {rd : Nat} {ra : Nat} {rb : Nat} {f : Nat → Nat → Nat} {s : State} (hP : sub [.free, .ctl, .ev, .knc] P) (h_s : Keeps P base s) :
    Keeps P base (scalar2 c rd ra rb f s) := by
  unfold scalar2
  try dsimp only
  with_reducible repeat' first
    | assumption
    | refine keeps_ite ?_ ?_
    | refine effKeeps_ite ?_ ?_
    | refine keeps_done ?_
    | refine keeps_jump ?_
    | refine keeps_exc ?_
    | refine keeps_excFree ?_
    | refine keeps_away ?_
    | refine keeps_hold
    | refine kept_issue (sub_trans (by decide) hP) (fun _ _ => ?_) ?_
    | refine kept_setG (sub_trans (by decide) hP) ?_
    | refine of_done ?_ (by assumption)
    | refine of_jump ?_ (by assumption)
    | refine of_exc ?_ (by assumption)
    | refine of_excFree ?_ (by assumption)
    | refine of_away ?_ (by assumption)
    | split

theorem kept_vrq {P : List Part} {base : State} {c : Nat} {vd : Nat} {va : Nat} {gs : Nat} {pg : Nat} {tfmt : Nat} {s : State} (hP : sub [.free, .ctl, .ev, .knc] P) (h_s : Keeps P base s) :
    Keeps P base (vrq c vd va gs pg tfmt s) := by
  unfold vrq
  try dsimp only
  with_reducible repeat' first
    | assumption
    | refine keeps_ite ?_ ?_
    | refine effKeeps_ite ?_ ?_
    | refine keeps_done ?_
    | refine keeps_jump ?_
    | refine keeps_exc ?_
    | refine keeps_excFree ?_
    | refine keeps_away ?_
    | refine keeps_hold
    | refine kept_bump (sub_trans (by decide) hP) ?_
    | refine kept_issue (sub_trans (by decide) hP) (fun _ _ => ?_) ?_
    | refine kept_setV (sub_trans (by decide) hP) ?_
    | refine optKeeps_map (fun _ => ?_)
    | refine of_done ?_ (by assumption)
    | refine of_jump ?_ (by assumption)
    | refine of_exc ?_ (by assumption)
    | refine of_excFree ?_ (by assumption)
    | refine of_away ?_ (by assumption)
    | split

theorem kept_rqScalar {P : List Part} {base : State} {c : Nat} {rd : Nat} {ra : Nat} {rb : Nat} {f : Fmt} {s : State} (hP : sub [.free, .ctl, .ev, .knc] P) (h_s : Keeps P base s) :
    Keeps P base (rqScalar c rd ra rb f s) := by
  unfold rqScalar
  try dsimp only
  with_reducible repeat' first
    | assumption
    | refine keeps_ite ?_ ?_
    | refine effKeeps_ite ?_ ?_
    | refine keeps_done ?_
    | refine keeps_jump ?_
    | refine keeps_exc ?_
    | refine keeps_excFree ?_
    | refine keeps_away ?_
    | refine keeps_hold
    | refine kept_bump (sub_trans (by decide) hP) ?_
    | refine kept_issue (sub_trans (by decide) hP) (fun _ _ => ?_) ?_
    | refine kept_setG (sub_trans (by decide) hP) ?_
    | refine of_done ?_ (by assumption)
    | refine of_jump ?_ (by assumption)
    | refine of_exc ?_ (by assumption)
    | refine of_excFree ?_ (by assumption)
    | refine of_away ?_ (by assumption)
    | split

theorem kept_scrStore {P : List Part} {base : State} {c : Nat} {rs : Nat} {ra : Nat} {imm : BitVec 16} {n : Nat} {s : State} (hP : sub [.free, .ctl, .ev, .knc, .cores] P) (h_s : Keeps P base s) :
    Keeps P base (scrStore c rs ra imm n s) := by
  unfold scrStore
  try dsimp only
  with_reducible repeat' first
    | assumption
    | refine keeps_ite ?_ ?_
    | refine effKeeps_ite ?_ ?_
    | refine keeps_done ?_
    | refine keeps_jump ?_
    | refine keeps_exc ?_
    | refine keeps_excFree ?_
    | refine keeps_away ?_
    | refine keeps_hold
    | refine kept_issue (sub_trans (by decide) hP) (fun _ _ => ?_) ?_
    | refine kept_scrWrite (sub_trans (by decide) hP) ?_
    | refine of_done ?_ (by assumption)
    | refine of_jump ?_ (by assumption)
    | refine of_exc ?_ (by assumption)
    | refine of_excFree ?_ (by assumption)
    | refine of_away ?_ (by assumption)
    | split

theorem kept_lookup {P : List Part} {base : State} {c : Nat} {vd : Nat} {va : Nat} {t : Nat} {pg : Nat} {f : LutCfg → List Int → Int → Int × Bool} {s : State} (hP : sub [.free, .ctl, .ev, .knc] P) (h_s : Keeps P base s) :
    Keeps P base (lookup c vd va t pg f s) := by
  unfold lookup
  try dsimp only
  with_reducible repeat' first
    | assumption
    | refine keeps_ite ?_ ?_
    | refine effKeeps_ite ?_ ?_
    | refine keeps_done ?_
    | refine keeps_jump ?_
    | refine keeps_exc ?_
    | refine keeps_excFree ?_
    | refine keeps_away ?_
    | refine keeps_hold
    | refine kept_bump (sub_trans (by decide) hP) ?_
    | refine kept_issue (sub_trans (by decide) hP) (fun _ _ => ?_) ?_
    | refine kept_setV (sub_trans (by decide) hP) ?_
    | refine optKeeps_map (fun _ => ?_)
    | refine of_done ?_ (by assumption)
    | refine of_jump ?_ (by assumption)
    | refine of_exc ?_ (by assumption)
    | refine of_excFree ?_ (by assumption)
    | refine of_away ?_ (by assumption)
    | split

theorem kept_branch {P : List Part} {base : State} {c : Nat} {ra : Nat} {off : BitVec 21} {t : Nat → Bool} {s : State} (hP : sub [.free, .ctl, .ev, .knc] P) (h_s : Keeps P base s) :
    Keeps P base (branch c ra off t s) := by
  unfold branch
  try dsimp only
  with_reducible repeat' first
    | assumption
    | refine keeps_ite ?_ ?_
    | refine effKeeps_ite ?_ ?_
    | refine keeps_done ?_
    | refine keeps_jump ?_
    | refine keeps_exc ?_
    | refine keeps_excFree ?_
    | refine keeps_away ?_
    | refine keeps_hold
    | refine kept_issue (sub_trans (by decide) hP) (fun _ _ => ?_) ?_
    | refine of_done ?_ (by assumption)
    | refine of_jump ?_ (by assumption)
    | refine of_exc ?_ (by assumption)
    | refine of_excFree ?_ (by assumption)
    | refine of_away ?_ (by assumption)
    | split

end Sys2Proof.Machine
end

