-- ==== Sys2Proof/Laws/KncMem.lean ====
section
/-! SUPPORT. For each operation of Machine/KncMem.lean, which parts of the state it may change: `kept_f` says that `f` keeps
everything but the parts listed in its first hypothesis, from any state that the states it is given were kept from. -/

namespace Sys2Proof.Machine

theorem kept_pushAcc {P : List Part} {base : State} {c : Nat} {a : CtxAcc} {s : State} (hP : sub [.knc] P) (h_s : Keeps P base s) :
    Keeps P base (pushAcc c a s) := by
  unfold pushAcc
  try dsimp only
  with_reducible repeat' first
    | assumption
    | refine keeps_ite ?_ ?_
    | refine kept_updCtx (sub_trans (by decide) hP) ?_
    | split

theorem kept_storeRuns {P : List Part} {base : State} {c : Nat} {a : Nat} {runs : List (Nat × List Byte)} {s : State} (hP : sub [.ctl, .mem, .ev, .ms, .mxes, .persist] P) (h_s : Keeps P base s) :
    PairKeeps P base (storeRuns c a runs s) := by
  unfold storeRuns
  try dsimp only
  with_reducible repeat' first
    | assumption
    | refine keeps_ite ?_ ?_
    | refine pairKeeps_ite ?_ ?_
    | refine snd_of ?_
    | refine kept_writeRange (sub_trans (by decide) hP) ?_
    | refine keeps_foldl _ (fun _ _ _ => ?_) ?_
    | refine keeps_foldlP _ (fun _ _ _ => ?_) ?_
    | refine tripleKeeps_foldl _ (fun _ _ _ => ?_) ?_
    | refine objStepKeeps_foldl _ (fun _ _ _ => ?_) ?_
    | refine of_pair ?_ (by assumption)
    | split
    | refine keeps_pair ?_

theorem kept_driftStore {P : List Part} {base : State} {c : Nat} {a : Nat} {n : Nat} {runs : List (Nat × List Byte)} {s : State} (hP : sub [.ctl, .mem, .ev, .ms, .mxes, .knc, .tags, .fabQ, .persist] P) (h_s : Keeps P base s) :
    EffKeeps P base (driftStore c a n runs s) := by
  unfold driftStore
  try dsimp only
  with_reducible repeat' first
    | assumption
    | refine keeps_ite ?_ ?_
    | refine pairKeeps_ite ?_ ?_
    | refine optKeeps_ite ?_ ?_
    | refine effKeeps_ite ?_ ?_
    | refine optPairKeeps_ite ?_ ?_
    | refine keeps_some ?_
    | refine keeps_none
    | refine keeps_someP ?_
    | refine keeps_noneP
    | refine keeps_done ?_
    | refine keeps_jump ?_
    | refine keeps_exc ?_
    | refine keeps_excFree ?_
    | refine keeps_away ?_
    | refine keeps_hold
    | refine snd_of ?_
    | refine kept_fabSend (sub_trans (by decide) hP) ?_
    | refine kept_pushAcc (sub_trans (by decide) hP) ?_
    | refine kept_storeRuns (sub_trans (by decide) hP) ?_
    | refine of_pair ?_ (by assumption)
    | refine of_some ?_ (by assumption)
    | refine of_someP ?_ (by assumption)
    | refine of_done ?_ (by assumption)
    | refine of_jump ?_ (by assumption)
    | refine of_exc ?_ (by assumption)
    | refine of_excFree ?_ (by assumption)
    | refine of_away ?_ (by assumption)
    | split
    | refine keeps_pair ?_

theorem kept_accGate {P : List Part} {base : State} {c : Nat} {a : Nat} {n : Nat} {align : Nat} {need : Nat} {s : State} {f : Unit → Eff} (hP : sub [] P) (h_s : Keeps P base s) (h_f : ∀ x0, EffKeeps P base (f x0)) :
    EffKeeps P base (accGate c a n align need s f) := by
  unfold accGate
  try dsimp only
  with_reducible repeat' first
    | assumption
    | refine keeps_ite ?_ ?_
    | refine effKeeps_ite ?_ ?_
    | refine keeps_done ?_
    | refine keeps_jump ?_
    | refine keeps_exc ?_
    | refine keeps_excFree ?_
    | refine keeps_away ?_
    | refine keeps_hold
    | refine h_f _ 
    | refine of_done ?_ (by assumption)
    | refine of_jump ?_ (by assumption)
    | refine of_exc ?_ (by assumption)
    | refine of_excFree ?_ (by assumption)
    | refine of_away ?_ (by assumption)
    | split

theorem kept_gamo {P : List Part} {base : State} {c : Nat} {fn : Nat} {rd : Nat} {a : Nat} {rb : Nat} {cmp : Nat} {s : State} (hP : sub [.ctl, .mem, .ev, .ms, .mxes, .knc, .tags, .fabQ, .persist] P) (h_s : Keeps P base s) :
    EffKeeps P base (gamo c fn rd a rb cmp s) := by
  unfold gamo
  try dsimp only
  with_reducible repeat' first
    | assumption
    | refine keeps_ite ?_ ?_
    | refine effKeeps_ite ?_ ?_
    | refine pairKeeps_ite ?_ ?_
    | refine optKeeps_ite ?_ ?_
    | refine optPairKeeps_ite ?_ ?_
    | refine keeps_some ?_
    | refine keeps_none
    | refine keeps_someP ?_
    | refine keeps_noneP
    | refine keeps_done ?_
    | refine keeps_jump ?_
    | refine keeps_exc ?_
    | refine keeps_excFree ?_
    | refine keeps_away ?_
    | refine keeps_hold
    | refine snd_of ?_
    | refine kept_accGate (sub_trans (by decide) hP) ?_ (fun _ => ?_)
    | refine kept_fabSend (sub_trans (by decide) hP) ?_
    | refine kept_memAmo (sub_trans (by decide) hP) ?_
    | refine kept_pushAcc (sub_trans (by decide) hP) ?_
    | refine kept_writeRange (sub_trans (by decide) hP) ?_
    | refine of_pair ?_ (by assumption)
    | refine of_some ?_ (by assumption)
    | refine of_someP ?_ (by assumption)
    | refine of_done ?_ (by assumption)
    | refine of_jump ?_ (by assumption)
    | refine of_exc ?_ (by assumption)
    | refine of_excFree ?_ (by assumption)
    | refine of_away ?_ (by assumption)
    | split
    | refine keeps_pair ?_

theorem kept_gstore {P : List Part} {base : State} {c : Nat} {a : Nat} {n : Nat} {align : Nat} {runs : List (Nat × List Byte)} {s : State} (hP : sub [.free, .ctl, .locks, .mem, .ev, .ms, .t3, .mxes, .semNow, .slots, .refetch, .qos, .knc, .hp0, .engs, .pool, .plt, .tags, .fabQ, .mgmt, .persist, .out] P) (h_s : Keeps P base s) :
    EffKeeps P base (gstore c a n align runs s) := by
  unfold gstore
  try dsimp only
  with_reducible repeat' first
    | assumption
    | refine keeps_ite ?_ ?_
    | refine effKeeps_ite ?_ ?_
    | refine pairKeeps_ite ?_ ?_
    | refine keeps_done ?_
    | refine keeps_jump ?_
    | refine keeps_exc ?_
    | refine keeps_excFree ?_
    | refine keeps_away ?_
    | refine keeps_hold
    | refine snd_of ?_
    | refine kept_accGate (sub_trans (by decide) hP) ?_ (fun _ => ?_)
    | refine kept_ctlWrite (sub_trans (by decide) hP) ?_
    | refine kept_driftStore (sub_trans (by decide) hP) ?_
    | refine kept_pushAcc (sub_trans (by decide) hP) ?_
    | refine kept_storeRuns (sub_trans (by decide) hP) ?_
    | refine optKeeps_map (fun _ => ?_)
    | refine of_pair ?_ (by assumption)
    | refine of_done ?_ (by assumption)
    | refine of_jump ?_ (by assumption)
    | refine of_exc ?_ (by assumption)
    | refine of_excFree ?_ (by assumption)
    | refine of_away ?_ (by assumption)
    | split
    | refine keeps_pair ?_

theorem kept_storeG {P : List Part} {base : State} {c : Nat} {rs : Nat} {ra : Nat} {imm : BitVec 16} {n : Nat} {s : State} (hP : sub [.free, .ctl, .locks, .mem, .ev, .ms, .t3, .mxes, .semNow, .slots, .refetch, .qos, .knc, .hp0, .engs, .pool, .plt, .tags, .fabQ, .mgmt, .persist, .out] P) (h_s : Keeps P base s) :
    Keeps P base (storeG c rs ra imm n s) := by
  unfold storeG
  try dsimp only
  with_reducible repeat' first
    | assumption
    | refine keeps_ite ?_ ?_
    | refine effKeeps_ite ?_ ?_
    | refine keeps_done ?_
    | refine keeps_jump ?_
    | refine keeps_exc ?_
    | refine keeps_excFree ?_
    | refine keeps_away ?_
    | refine keeps_hold
    | refine kept_gstore (sub_trans (by decide) hP) ?_
    | refine kept_issue (sub_trans (by decide) hP) (fun _ _ => ?_) ?_
    | refine of_done ?_ (by assumption)
    | refine of_jump ?_ (by assumption)
    | refine of_exc ?_ (by assumption)
    | refine of_excFree ?_ (by assumption)
    | refine of_away ?_ (by assumption)
    | split

theorem kept_driftGet {P : List Part} {base : State} {c : Nat} {kind : AccKind} {a : Nat} {n : Nat} {s : State} (hP : sub [.knc, .tags, .fabQ] P) (h_s : Keeps P base s) :
    EffKeeps P base (driftGet c kind a n s) := by
  unfold driftGet
  try dsimp only
  with_reducible repeat' first
    | assumption
    | refine keeps_ite ?_ ?_
    | refine optKeeps_ite ?_ ?_
    | refine effKeeps_ite ?_ ?_
    | refine optPairKeeps_ite ?_ ?_
    | refine keeps_some ?_
    | refine keeps_none
    | refine keeps_someP ?_
    | refine keeps_noneP
    | refine keeps_done ?_
    | refine keeps_jump ?_
    | refine keeps_exc ?_
    | refine keeps_excFree ?_
    | refine keeps_away ?_
    | refine keeps_hold
    | refine kept_fabSend (sub_trans (by decide) hP) ?_
    | refine kept_pushAcc (sub_trans (by decide) hP) ?_
    | refine of_some ?_ (by assumption)
    | refine of_someP ?_ (by assumption)
    | refine of_done ?_ (by assumption)
    | refine of_jump ?_ (by assumption)
    | refine of_exc ?_ (by assumption)
    | refine of_excFree ?_ (by assumption)
    | refine of_away ?_ (by assumption)
    | split

theorem kept_samo {P : List Part} {base : State} {c : Nat} {fn : Nat} {rd : Nat} {a : Nat} {rb : Nat} {cmp : Nat} {s : State} (hP : sub [.ctl, .knc, .cores] P) (h_s : Keeps P base s) :
    EffKeeps P base (samo c fn rd a rb cmp s) := by
  unfold samo
  try dsimp only
  with_reducible repeat' first
    | assumption
    | refine keeps_ite ?_ ?_
    | refine pairKeeps_ite ?_ ?_
    | refine effKeeps_ite ?_ ?_
    | refine keeps_done ?_
    | refine keeps_jump ?_
    | refine keeps_exc ?_
    | refine keeps_excFree ?_
    | refine keeps_away ?_
    | refine keeps_hold
    | refine snd_of ?_
    | refine kept_scrRead (sub_trans (by decide) hP) ?_
    | refine kept_scrWrite (sub_trans (by decide) hP) ?_
    | refine kept_setG (sub_trans (by decide) hP) ?_
    | refine of_pair ?_ (by assumption)
    | refine of_done ?_ (by assumption)
    | refine of_jump ?_ (by assumption)
    | refine of_exc ?_ (by assumption)
    | refine of_excFree ?_ (by assumption)
    | refine of_away ?_ (by assumption)
    | split
    | refine keeps_pair ?_

theorem kept_gload {P : List Part} {base : State} {c : Nat} {a : Nat} {n : Nat} {align : Nat} {kind : AccKind} {s : State} (hP : sub [.free, .ctl, .latch, .mem, .ev, .ms, .knc, .tags, .fabQ, .persist] P) (h_s : Keeps P base s) :
    EffKeeps P base (gload c a n align kind s) := by
  unfold gload
  try dsimp only
  with_reducible repeat' first
    | assumption
    | refine keeps_ite ?_ ?_
    | refine effKeeps_ite ?_ ?_
    | refine pairKeeps_ite ?_ ?_
    | refine keeps_done ?_
    | refine keeps_jump ?_
    | refine keeps_exc ?_
    | refine keeps_excFree ?_
    | refine keeps_away ?_
    | refine keeps_hold
    | refine snd_of ?_
    | refine kept_accGate (sub_trans (by decide) hP) ?_ (fun _ => ?_)
    | refine kept_ctlRead (sub_trans (by decide) hP) ?_
    | refine kept_driftGet (sub_trans (by decide) hP) ?_
    | refine kept_pushAcc (sub_trans (by decide) hP) ?_
    | refine kept_readRange (sub_trans (by decide) hP) ?_
    | refine of_pair ?_ (by assumption)
    | refine of_done ?_ (by assumption)
    | refine of_jump ?_ (by assumption)
    | refine of_exc ?_ (by assumption)
    | refine of_excFree ?_ (by assumption)
    | refine of_away ?_ (by assumption)
    | split
    | refine keeps_pair ?_

theorem kept_loadG {P : List Part} {base : State} {c : Nat} {rd : Nat} {ra : Nat} {imm : BitVec 16} {n : Nat} {s : State} (hP : sub [.free, .ctl, .latch, .mem, .ev, .ms, .knc, .tags, .fabQ, .persist] P) (h_s : Keeps P base s) :
    Keeps P base (loadG c rd ra imm n s) := by
  unfold loadG
  try dsimp only
  with_reducible repeat' first
    | assumption
    | refine keeps_ite ?_ ?_
    | refine effKeeps_ite ?_ ?_
    | refine keeps_done ?_
    | refine keeps_jump ?_
    | refine keeps_exc ?_
    | refine keeps_excFree ?_
    | refine keeps_away ?_
    | refine keeps_hold
    | refine kept_gload (sub_trans (by decide) hP) ?_
    | refine kept_issue (sub_trans (by decide) hP) (fun _ _ => ?_) ?_
    | refine of_done ?_ (by assumption)
    | refine of_jump ?_ (by assumption)
    | refine of_exc ?_ (by assumption)
    | refine of_excFree ?_ (by assumption)
    | refine of_away ?_ (by assumption)
    | split

theorem kept_amoG {P : List Part} {base : State} {c : Nat} {rd : Nat} {ra : Nat} {rb : Nat} {fn : Nat} {scr : Bool} {s : State} (hP : sub [.free, .ctl, .mem, .ev, .ms, .mxes, .knc, .cores, .tags, .fabQ, .persist] P) (h_s : Keeps P base s) :
    Keeps P base (amoG c rd ra rb fn scr s) := by
  unfold amoG
  try dsimp only
  with_reducible repeat' first
    | assumption
    | refine keeps_ite ?_ ?_
    | refine effKeeps_ite ?_ ?_
    | refine keeps_done ?_
    | refine keeps_jump ?_
    | refine keeps_exc ?_
    | refine keeps_excFree ?_
    | refine keeps_away ?_
    | refine keeps_hold
    | refine kept_gamo (sub_trans (by decide) hP) ?_
    | refine kept_issue (sub_trans (by decide) hP) (fun _ _ => ?_) ?_
    | refine kept_samo (sub_trans (by decide) hP) ?_
    | refine of_done ?_ (by assumption)
    | refine of_jump ?_ (by assumption)
    | refine of_exc ?_ (by assumption)
    | refine of_excFree ?_ (by assumption)
    | refine of_away ?_ (by assumption)
    | split

end Sys2Proof.Machine
end

