-- ==== Sys2Proof/Laws/KncSys.lean ====
section
/-! SUPPORT. For each operation of Machine/KncSys.lean, which parts of the state it may change: `kept_f` says that `f` keeps
everything but the parts listed in its first hypothesis, from any state that the states it is given were kept from. -/

namespace Sys2Proof.Machine

theorem kept_tqPush {P : List Part} {base : State} {m : Nat} {q : Nat} {cmd : BitVec 128} {s : State} (hP : sub [.mxes] P) (h_s : Keeps P base s) :
    Keeps P base (tqPush m q cmd s) := by
  unfold tqPush
  try dsimp only
  with_reducible repeat' first
    | assumption
    | refine keeps_ite ?_ ?_
    | refine kept_updQ (sub_trans (by decide) hP) ?_
    | split

theorem kept_withErrs {P : List Part} {base : State} {c : Nat} {s : State} {f : Unit → Eff} (hP : sub [.ctl, .ev, .knc] P) (h_s : Keeps P base s) (h_f : ∀ x0, EffKeeps P base (f x0)) :
    EffKeeps P base (withErrs c s f) := by
  unfold withErrs
  try dsimp only
  with_reducible repeat' first
    | assumption
    | refine keeps_ite ?_ ?_
    | refine effKeeps_ite ?_ ?_
    | refine keeps_done ?_
    | refine keeps_jump ?_
    | refine keeps_exc ?_
    | refine keeps_excFree ?_
    | refine keeps_away ?_
    | refine keeps_hold
    | refine kept_takeErr (sub_trans (by decide) hP) ?_
    | refine h_f _ 
    | refine of_done ?_ (by assumption)
    | refine of_jump ?_ (by assumption)
    | refine of_exc ?_ (by assumption)
    | refine of_excFree ?_ (by assumption)
    | refine of_away ?_ (by assumption)
    | split

theorem kept_tqGate {P : List Part} {base : State} {c : Nat} {mxp : Nat} {q : Nat} {s : State} {f : Nat → Eff} (hP : sub [] P) (h_s : Keeps P base s) (h_f : ∀ x0, EffKeeps P base (f x0)) :
    EffKeeps P base (tqGate c mxp q s f) := by
  unfold tqGate
  try dsimp only
  with_reducible repeat' first
    | assumption
    | refine keeps_ite ?_ ?_
    | refine effKeeps_ite ?_ ?_
    | refine keeps_done ?_
    | refine keeps_jump ?_
    | refine keeps_exc ?_
    | refine keeps_excFree ?_
    | refine keeps_away ?_
    | refine keeps_hold
    | refine h_f _ 
    | refine of_done ?_ (by assumption)
    | refine of_jump ?_ (by assumption)
    | refine of_exc ?_ (by assumption)
    | refine of_excFree ?_ (by assumption)
    | refine of_away ?_ (by assumption)
    | split

theorem kept_wake {P : List Part} {base : State} {c : Nat} {rd : Nat} {v : Nat} {s : State} (hP : sub [.ctl, .knc] P) (h_s : Keeps P base s) :
    Keeps P base (wake c rd v s) := by
  unfold wake
  try dsimp only
  with_reducible repeat' first
    | assumption
    | refine keeps_ite ?_ ?_
    | refine kept_retire (sub_trans (by decide) hP) ?_
    | refine kept_setCtxState (sub_trans (by decide) hP) ?_
    | refine kept_setG (sub_trans (by decide) hP) ?_
    | refine kept_updCtx (sub_trans (by decide) hP) ?_
    | split

theorem kept_reported {P : List Part} {base : State} {c : Nat} {hit : Nat} {s : State} (hP : sub [.knc] P) (h_s : Keeps P base s) :
    Keeps P base (reported c hit s) := by
  unfold reported
  try dsimp only
  with_reducible repeat' first
    | assumption
    | refine keeps_ite ?_ ?_
    | refine kept_updCtx (sub_trans (by decide) hP) ?_
    | split

end Sys2Proof.Machine
end

