-- ==== Sys2Proof/Laws/Lanes.lean ====
section
/-! SUPPORT. Bytes and lanes: little-endian strings and the parts of a vector register. -/

namespace Sys2Proof.Machine


/-! ### Byte strings -/

theorem length_leBytes (n v : Nat) : (leBytes n v).length = n := by
  induction n generalizing v with
  | zero => rfl
  | succ n ih => simp [leBytes, ih]

theorem leNat_leBytes (n v : Nat) : leNat (leBytes n v) = v % 256 ^ n := by
  induction n generalizing v with
  | zero => simp [leBytes, leNat, Nat.mod_one]
  | succ n ih =>
    simp only [leBytes, leNat, ih, BitVec.toNat_ofNat]
    rw [show (256 : Nat) ^ (n + 1) = 256 * 256 ^ n by rw [Nat.pow_succ, Nat.mul_comm], Nat.mod_mul]

theorem leNat_lt (bs : List Byte) : leNat bs < 256 ^ bs.length := by
  induction bs with
  | nil => simp [leNat]
  | cons b t ih =>
    have := b.isLt
    simp only [leNat, List.length_cons, Nat.pow_succ]
    omega

theorem leBytes_leNat (bs : List Byte) : leBytes bs.length (leNat bs) = bs := by
  induction bs with
  | nil => rfl
  | cons b t ih =>
    have hb : (b.toNat + 256 * leNat t) / 256 = leNat t := by have := b.isLt; omega
    simp only [List.length_cons, leBytes, leNat, hb, ih]
    congr 1
    apply BitVec.eq_of_toNat_eq
    rw [BitVec.toNat_ofNat]
    have := b.isLt
    omega

theorem getElem_leBytes (n v i : Nat) (h : i < n) : ((leBytes n v).getD i 0).toNat = v / 256 ^ i % 256 := by
  induction n generalizing v i with
  | zero => omega
  | succ n ih =>
    cases i with
    | zero => simp [leBytes]
    | succ i =>
      simp only [leBytes, List.getD_cons_succ]
      rw [ih (v / 256) i (by omega), Nat.div_div_eq_div_mul, Nat.pow_succ, Nat.mul_comm 256]

/-! ### Vector registers -/

theorem length_v (s : State) (c i : Nat) : (s.v c i).length = 64 := by
  simp [State.v, List.length_flatMap, length_leBytes]

/-- A byte string in words of 8 bytes. -/
theorem words_of_bytes (n : Nat) (bs : List Byte) (h : bs.length = 8 * n) :
    ((List.range n).flatMap fun w => leBytes 8 (leAt bs (8 * w) 8)) = bs := by
  induction n generalizing bs with
  | zero => cases bs with
    | nil => rfl
    | cons b t => simp at h
  | succ n ih =>
    rw [List.range_succ_eq_map, List.flatMap_cons, List.flatMap_map]
    have h8 : (bs.take 8).length = 8 := by rw [List.length_take]; omega
    have e0 : leBytes 8 (leAt bs (8 * 0) 8) = bs.take 8 := by
      have := leBytes_leNat (bs.take 8)
      rw [h8] at this
      simpa [leAt] using this
    have hd : (bs.drop 8).length = 8 * n := by rw [List.length_drop]; omega
    have e1 := ih (bs.drop 8) hd
    have e2 : (fun w => leBytes 8 (leAt bs (8 * Nat.succ w) 8)) = fun w => leBytes 8 (leAt (bs.drop 8) (8 * w) 8) := by
      funext w
      simp only [leAt, List.drop_drop]
      rw [show 8 * Nat.succ w = 8 + 8 * w by simp [Nat.succ_eq_add_one]; omega]
    rw [e0]
    show bs.take 8 ++ _ = bs
    rw [show ((List.range n).flatMap fun a => leBytes 8 (leAt bs (8 * Nat.succ a) 8)) = bs.drop 8 from by rw [e2]; exact e1]
    exact List.take_append_drop 8 bs

theorem setV_words (c i : Nat) (bs : List Byte) (s : State) (n : Nat) (r : Reg) :
    ((List.range n).foldl (fun s w => setReg (ctxV c i w) (leAt bs (8 * w) 8) s) s).reg r =
      if ∃ w < n, r.off = (ctxV c i w).off then leAt bs (r.off - (ctxV c i 0).off) 8 % 2 ^ 64 else s.reg r := by
  induction n with
  | zero => simp
  | succ n ih =>
    rw [List.range_succ, List.foldl_append, List.foldl_cons, List.foldl_nil, reg_setReg, ih]
    by_cases h : r.off = (ctxV c i n).off
    · rw [if_pos h, if_pos ⟨n, Nat.lt_succ_self n, h⟩, h]
      congr 2
      simp only
      omega
    · rw [if_neg h]
      refine if_congr ⟨fun ⟨w, hw, e⟩ => ⟨w, by omega, e⟩, fun ⟨w, hw, e⟩ => ⟨w, ?_, e⟩⟩ rfl rfl
      rcases Nat.lt_succ_iff_lt_or_eq.1 hw with q | q
      · exact q
      · subst q; exact absurd e h

theorem reg_setV (c i : Nat) (bs : List Byte) (s : State) (r : Reg) :
    (setV c i bs s).reg r = if ∃ w < 8, r.off = (ctxV c i w).off then leAt bs (r.off - (ctxV c i 0).off) 8 % 2 ^ 64
      else s.reg r := by
  rw [setV, reg_wroteReg, setV_words]

theorem leAt_lt (bs : List Byte) (o n : Nat) : leAt bs o n < 256 ^ n := by
  have := leNat_lt ((bs.drop o).take n)
  refine lt_of_lt_of_le this (Nat.pow_le_pow_right (by decide) ?_)
  rw [List.length_take]; omega

/-- A vector register that has just been written reads as the bytes written. -/
theorem v_setV {c i : Nat} {bs : List Byte} {s : State} (h : bs.length = 64) : (setV c i bs s).v c i = bs := by
  refine Eq.trans ?_ (words_of_bytes 8 bs h)
  unfold State.v
  apply List.flatMap_congr
  intro w hw
  have hw8 : w < 8 := List.mem_range.1 hw
  rw [reg_setV, if_pos ⟨w, hw8, rfl⟩]
  have e : (ctxV c i w).off - (ctxV c i 0).off = 8 * w := by simp only; omega
  rw [e, Nat.mod_eq_of_lt (lt_of_lt_of_le (leAt_lt bs (8 * w) 8) (by norm_num))]

theorem onlyRegs_setV (c i : Nat) (bs : List Byte) (s : State) : OnlyRegs (destV c i) s (setV c i bs s) := by
  intro r hr
  rw [reg_setV, if_neg]
  rintro ⟨w, hw, e⟩
  exact hr (by simp only [destV, List.map_map, List.mem_map, List.mem_range, Function.comp]; exact ⟨w, hw, e.symm⟩)

theorem kc_foldl_setReg {α : Type} (l : List α) (f : α → Reg) (g : α → Nat) (s : State) (d : Nat) :
    (l.foldl (fun s x => setReg (f x) (g x) s) s).kc d = s.kc d := by
  induction l generalizing s with
  | nil => rfl
  | cons x t ih => rw [List.foldl_cons, ih, kc_setReg]

theorem acted_setV {c i : Nat} (hi : i < 16) (bs : List Byte) (s : State) : Acted c (destV c i) s (setV c i bs s) := by
  refine ⟨?_, ?_, ?_, onlyRegs_setV c i bs s, ?_⟩
  · refine onlyRegs_setV c i bs s _ ?_
    simp only [destV, List.map_map, List.mem_map, List.mem_range, Function.comp]
    rintro ⟨w, hw, e⟩
    omega
  · refine onlyRegs_setV c i bs s _ ?_
    simp only [destV, List.map_map, List.mem_map, List.mem_range, Function.comp]
    rintro ⟨w, hw, e⟩
    simp only [coreOf] at e; omega
  · have := congrArg Ctx.instret (kc_wroteReg_same (s := (List.range 8).foldl (fun s w => setReg (ctxV c i w) (leAt bs (8 * w) 8) s) s)
      (c := c) (d := 32 + i))
    refine this.trans ?_
    rw [kc_foldl_setReg]
  · intro d hd
    rw [setV, kc_wroteReg_ne hd, kc_foldl_setReg]

theorem ctxSame_setV {c i : Nat} (bs : List Byte) (s : State) : CtxSame c s (setV c i bs s) := by
  have h := kc_wroteReg_same (s := (List.range 8).foldl (fun s w => setReg (ctxV c i w) (leAt bs (8 * w) 8) s) s)
    (c := c) (d := 32 + i)
  have := congrArg (fun x => { x with instret := 0 }) h
  rw [kc_foldl_setReg] at this
  exact this

theorem v_retire {c next d i : Nat} (hi : i < 16) : (retire c next s).v d i = s.v d i := by
  refine v_congr fun w hw => ?_
  rw [retire, reg_setReg_ne, reg_updCtx]
  simp only [ne_eq]; omega

theorem v_bump {k d i : Nat} {s : State} (hi : i < 16) : (bump (R.KNC_CNT_ISSUE k) 1 s).v d i = s.v d i := by
  refine v_congr fun w hw => ?_
  rw [reg_bump_ne]
  simp only [ne_eq]; omega

theorem p_retire {c next d i : Nat} {s : State} (hi : i < 8) : (retire c next s).p d i = s.p d i := by
  unfold State.p
  rw [retire, reg_setReg_ne, reg_updCtx]
  simp only [ne_eq]; omega

theorem p_bump {k d i : Nat} {s : State} (hi : i < 8) : (bump (R.KNC_CNT_ISSUE k) 1 s).p d i = s.p d i := by
  unfold State.p
  rw [reg_bump_ne]
  simp only [ne_eq]; omega

theorem p_lt (s : State) (c i : Nat) : s.p c i < 2 ^ 64 := by
  unfold State.p
  split
  · decide
  · exact reg_lt (Nat.two_pow_pos 64)

/-- An instruction whose effect is to write a vector register. -/
theorem regDone_setV {c i : Nat} {bs : List Byte} {s : State} (hi : i < 16) (h : bs.length = 64) :
    let t := retire c (s.reg (ctxPc c) + 4) (setV c i bs (bump (R.KNC_CNT_ISSUE (coreOf c)) 1 s))
    t.v c i = bs ∧ RegDone c (destV c i) s t := by
  refine ⟨?_, retired_of (acted_setV hi bs _), ?_, ?_⟩
  · rw [v_retire hi, v_setV h]
  · exact ctxSame_retire (ctxSame_setV bs (bump (R.KNC_CNT_ISSUE (coreOf c)) 1 s))
  · exact kept_retire (by decide) (kept_setV (by decide) (kept_bump (by decide) (keeps_refl _ _)))

/-! ### Lanes -/

theorem lane_lt (es : Nat) (v : List Byte) (k : Nat) : lane es v k < 2 ^ (8 * 2 ^ es) := by
  have := leNat_lt ((v.drop (k * 2 ^ es)).take (2 ^ es))
  refine lt_of_lt_of_le this ?_
  rw [show (256 : Nat) = 2 ^ 8 from rfl, ← pow_mul]
  refine Nat.pow_le_pow_right (by decide) (Nat.mul_le_mul_left 8 ?_)
  rw [List.length_take]; omega

theorem getD_lanesOf {es : Nat} {v : List Byte} (h : v.length = 64) (he : es < 4) {k : Nat} (hk : k < 64 / 2 ^ es) :
    (lanesOf es v).getD k 0 = lane es v k := by
  have hn : (64 + 2 ^ es - 1) / 2 ^ es = 64 / 2 ^ es := by interval_cases es <;> rfl
  rw [lanesOf, chunksOf, laneBytes, h, hn, List.map_map, List.getD_eq_getElem?_getD, List.getElem?_map,
    List.getElem?_range hk]
  rfl

theorem length_lanesOf {es : Nat} {v : List Byte} (h : v.length = 64) (he : es < 4) : (lanesOf es v).length = 64 / 2 ^ es := by
  have hn : (64 + 2 ^ es - 1) / 2 ^ es = 64 / 2 ^ es := by interval_cases es <;> rfl
  rw [lanesOf, chunksOf, laneBytes, h, hn, List.length_map, List.length_map, List.length_range]

theorem length_packLanes (es : Nat) (xs : List Nat) : (packLanes es xs).length = 2 ^ es * xs.length := by
  induction xs with
  | nil => simp [packLanes]
  | cons x t ih =>
    simp only [packLanes, List.flatMap_cons, List.length_append, length_leBytes, laneBytes, List.length_cons] at ih ⊢
    rw [ih]; ring

theorem lane_packLanes (es : Nat) (xs : List Nat) (k : Nat) : lane es (packLanes es xs) k = xs.getD k 0 % 2 ^ (8 * 2 ^ es) := by
  have hp : 256 ^ 2 ^ es = 2 ^ (8 * 2 ^ es) := by rw [show (256 : Nat) = 2 ^ 8 from rfl, ← pow_mul]
  induction xs generalizing k with
  | nil => simp [packLanes, lane, leNat]
  | cons x t ih =>
    cases k with
    | zero =>
      simp only [packLanes, List.flatMap_cons, lane, laneBytes, Nat.zero_mul, List.drop_zero, List.getD_cons_zero]
      rw [List.take_append_of_le_length (by rw [length_leBytes]), List.take_of_length_le (by rw [length_leBytes]), leNat_leBytes, hp]
    | succ k =>
      rw [List.getD_cons_succ, ← ih k]
      simp only [packLanes, List.flatMap_cons, lane, laneBytes]
      rw [show (k + 1) * 2 ^ es = (leBytes (2 ^ es) x).length + k * 2 ^ es by rw [length_leBytes]; ring, List.drop_append]
      simp [List.drop_eq_nil_of_le]

theorem length_mergeLanes (es p : Nat) (zm : Bool) (old new : List Nat) : (mergeLanes es p zm old new).length = 64 / 2 ^ es := by
  simp [mergeLanes, laneCount, laneBytes]

theorem laneOn_eq (es p k : Nat) : laneOn es p k = laneActive es p k := by
  rw [laneOn, laneActive, bitAt, laneBytes, Nat.testBit, Nat.mul_comm, Nat.one_and_eq_mod_two]
  rcases Nat.mod_two_eq_zero_or_one (p >>> (k * 2 ^ es)) with h | h <;> rw [h] <;> rfl

theorem getD_mergeLanes {es p : Nat} {zm : Bool} {old new : List Nat} {k : Nat} (hk : k < 64 / 2 ^ es) :
    (mergeLanes es p zm old new).getD k 0 =
      if laneActive es p k then new.getD k 0 else if zm then 0 else old.getD k 0 := by
  rw [← laneOn_eq]
  simp [mergeLanes, laneCount, laneBytes, List.getD_eq_getElem?_getD, List.getElem?_map, List.getElem?_range hk]

/-- The lanes of a vector that has been written under a predicate. -/
theorem lane_merged {es p : Nat} {zm : Bool} {old : List Byte} {new : List Nat} (ho : old.length = 64) (he : es < 4) {k : Nat}
    (hk : k < 64 / 2 ^ es) : lane es (packLanes es (mergeLanes es p zm (lanesOf es old) new)) k =
      if laneActive es p k then new.getD k 0 % 2 ^ (8 * 2 ^ es) else if zm then 0 else lane es old k := by
  rw [lane_packLanes, getD_mergeLanes hk, getD_lanesOf ho he hk]
  split
  · rfl
  · split
    · exact Nat.zero_mod _
    · exact Nat.mod_eq_of_lt (lane_lt es old k)

theorem length_merged {es p : Nat} {zm : Bool} {old : List Nat} {new : List Nat} (he : es < 4) :
    (packLanes es (mergeLanes es p zm old new)).length = 64 := by
  rw [length_packLanes, length_mergeLanes]
  interval_cases es <;> rfl

end Sys2Proof.Machine
end

