-- ==== Sys2Proof/Laws/Memory.lean ====
section
/-! SUPPORT. A byte of memory after a write: what was written inside it, and as before outside. -/

namespace Sys2Proof.Machine


/-! ### Reading a byte after a write -/

theorem mapFind_filter_ne (m : List Host.Cell) (p : Host.Cell → Bool) (k : Nat) (h : ∀ v, p (k, v) = true) :
    mapFind (m.filter p) k = mapFind m k := by
  induction m with
  | nil => rfl
  | cons q t ih =>
    obtain ⟨x, w⟩ := q
    rw [List.filter_cons]
    by_cases hk : k = x
    · subst hk
      simp [h w, mapFind]
    · split
      · simp only [mapFind, hk, if_false]; exact ih
      · simp only [mapFind, hk, if_false]; exact ih

theorem mapFind_filter_none (m : List Host.Cell) (p : Host.Cell → Bool) (k : Nat) (h : ∀ v, p (k, v) = false) :
    mapFind (m.filter p) k = none := by
  induction m with
  | nil => rfl
  | cons q t ih =>
    obtain ⟨x, w⟩ := q
    rw [List.filter_cons]
    by_cases hk : k = x
    · subst hk
      simp only [h w, Bool.false_eq_true, if_false]; exact ih
    · split
      · simp only [mapFind, hk, if_false]; exact ih
      · exact ih

theorem memByte_memPut (m : List Host.Cell) (a x : Nat) (b : Byte) :
    memByte (memPut m a b) x = if x = a then b else memByte m x := by
  unfold memByte memPut mapGet
  by_cases hb : b = 0
  · rw [if_pos hb]
    by_cases h : x = a
    · subst h
      rw [mapErase, mapFind_filter_none _ _ _ (fun v => by simp), if_pos rfl, hb]; rfl
    · rw [mapErase, mapFind_filter_ne _ _ _ (fun v => by simpa using h), if_neg h]
  · rw [if_neg hb, mapFind_mapPut]
    split <;> rfl

theorem memByte_memPuts (m : List Host.Cell) (a x : Nat) (bs : List Byte) :
    memByte (memPuts m a bs) x = if a ≤ x ∧ x < a + bs.length then bs.getD (x - a) 0 else memByte m x := by
  induction bs generalizing m a with
  | nil => rw [memPuts, if_neg (by simp)]
  | cons b t ih =>
    rw [memPuts, ih, memByte_memPut]
    by_cases h : x = a
    · subst h
      rw [if_neg (by omega), if_pos rfl, if_pos (by simp)]
      simp
    · rw [if_neg h]
      by_cases h2 : a + 1 ≤ x ∧ x < a + 1 + t.length
      · rw [if_pos h2, if_pos (by simp only [List.length_cons]; omega), show x - a = (x - (a + 1)) + 1 by omega,
          List.getD_cons_succ]
      · rw [if_neg h2, if_neg (by simp only [List.length_cons]; omega)]

theorem memGets_eq (m : List Host.Cell) (a n : Nat) : memGets m a n = (List.range n).map fun i => memByte m (a + i) := by
  induction n generalizing a with
  | zero => rfl
  | succ n ih =>
    rw [memGets, ih, List.range_succ_eq_map, List.map_cons, List.map_map]
    congr 1
    apply List.map_congr_left
    intro i _
    simp only [Function.comp]
    rw [show a + 1 + i = a + Nat.succ i by omega]

theorem memByte_memZero (m : List Host.Cell) (a n x : Nat) :
    memByte (memZero m a n) x = if a ≤ x ∧ x < a + n then 0 else memByte m x := by
  unfold memByte memZero mapGet
  split
  · rename_i h
    rw [mapFind_filter_none _ _ _ (fun v => by simpa using h)]; rfl
  · rename_i h
    rw [mapFind_filter_ne _ _ _ (fun v => by
      simp only [Bool.not_eq_true', Bool.and_eq_false_iff, decide_eq_false_iff_not]
      exact not_and_or.1 h)]

/-- What was stored at an address reads back. -/
theorem memGets_memPuts (m : List Host.Cell) (a : Nat) (bs : List Byte) : memGets (memPuts m a bs) a bs.length = bs := by
  rw [memGets_eq]
  apply List.ext_getElem (by simp)
  intro i h1 h2
  rw [List.getElem_map, List.getElem_range, memByte_memPuts, if_pos (by omega), Nat.add_sub_cancel_left,
    List.getD_eq_getElem _ _ h2]

end Sys2Proof.Machine
end

