-- ==== Sys2Proof/Laws/Nvme.lean ====
section
/-! SUPPORT. For each operation of Machine/Nvme.lean, which parts of the state it may change: `kept_f` says that `f` keeps
everything but the parts listed in its first hypothesis, from any state that the states it is given were kept from. -/

namespace Sys2Proof.Machine

theorem kept_nvmeDone {P : List Part} {base : State} {c : NvmeCmd} {ok : Bool} {s : State} (hP : sub [.free, .ctl, .mem, .ev, .ms, .t3, .mxes, .qos, .pool, .persist, .out] P) (h_s : Keeps P base s) :
    Keeps P base (nvmeDone c ok s) := by
  unfold nvmeDone
  try dsimp only
  with_reducible repeat' first
    | assumption
    | refine keeps_ite ?_ ?_
    | refine kept_nvmeEnd (sub_trans (by decide) hP) ?_
    | refine kept_poolNvmeEnd (sub_trans (by decide) hP) ?_
    | split
  all_goals try (with_reducible refine keeps_with_t3 (sub_trans (by decide) hP) ?_ (fun q => by first | exact q | exact wf_memPuts _ _ q | exact wf_memZero _ _ q | exact wf_filter _ q))
  all_goals with_reducible repeat' first
    | assumption
    | refine keeps_ite ?_ ?_
    | refine kept_nvmeEnd (sub_trans (by decide) hP) ?_
    | refine kept_poolNvmeEnd (sub_trans (by decide) hP) ?_
    | split

theorem kept_ssdReady {P : List Part} {base : State} {port : Nat} {units : Nat} {usable : Bool} {volatile : Bool} {s : State} (hP : sub [.ctl, .ev, .t3] P) (h_s : Keeps P base s) :
    Keeps P base (ssdReady port units usable volatile s) := by
  unfold ssdReady
  try dsimp only
  with_reducible repeat' first
    | assumption
    | refine keeps_ite ?_ ?_
    | refine kept_nvmeEvent (sub_trans (by decide) hP) ?_
    | refine kept_qosRefresh (sub_trans (by decide) hP) ?_
    | refine kept_updSsd (sub_trans (by decide) hP) ?_
    | split

theorem kept_ssdCompletion {P : List Part} {base : State} {port : Nat} {id : Nat} {ok : Bool} {s : State} (hP : sub [.free, .ctl, .mem, .ev, .ms, .t3, .mxes, .qos, .pool, .persist, .out] P) (h_s : Keeps P base s) :
    Keeps P base (ssdCompletion port id ok s) := by
  unfold ssdCompletion
  try dsimp only
  with_reducible repeat' first
    | assumption
    | refine keeps_ite ?_ ?_
    | refine kept_nvmeDone (sub_trans (by decide) hP) ?_
    | refine optKeeps_map (fun _ => ?_)
    | refine keeps_id ?_
    | split
  all_goals try (with_reducible refine keeps_with_t3 (sub_trans (by decide) hP) ?_ (fun q => by first | exact q | exact wf_memPuts _ _ q | exact wf_memZero _ _ q | exact wf_filter _ q))
  all_goals with_reducible repeat' first
    | assumption
    | refine keeps_ite ?_ ?_
    | refine kept_nvmeDone (sub_trans (by decide) hP) ?_
    | refine optKeeps_map (fun _ => ?_)
    | refine keeps_id ?_
    | split
  all_goals try (with_reducible refine keeps_with_t3 (sub_trans (by decide) hP) ?_ (fun q => by first | exact q | exact wf_memPuts _ _ q | exact wf_memZero _ _ q | exact wf_filter _ q))
  all_goals with_reducible repeat' first
    | assumption
    | refine keeps_ite ?_ ?_
    | refine kept_nvmeDone (sub_trans (by decide) hP) ?_
    | refine optKeeps_map (fun _ => ?_)
    | refine keeps_id ?_
    | split

theorem kept_nvmeFailAll {P : List Part} {base : State} {port : Nat} {s : State} (hP : sub [.free, .ctl, .mem, .ev, .ms, .t3, .mxes, .qos, .pool, .persist, .out] P) (h_s : Keeps P base s) :
    Keeps P base (nvmeFailAll port s) := by
  unfold nvmeFailAll
  try dsimp only
  with_reducible repeat' first
    | assumption
    | refine keeps_ite ?_ ?_
    | refine kept_nvmeDone (sub_trans (by decide) hP) ?_
    | refine keeps_foldl _ (fun _ _ _ => ?_) ?_
    | refine keeps_foldlP _ (fun _ _ _ => ?_) ?_
    | refine tripleKeeps_foldl _ (fun _ _ _ => ?_) ?_
    | refine objStepKeeps_foldl _ (fun _ _ _ => ?_) ?_
    | split

end Sys2Proof.Machine
end

