-- ==== Sys2Proof/Laws/Sideband.lean ====
section
/-! SUPPORT. For each operation of Machine/Sideband.lean, which parts of the state it may change: `kept_f` says that `f` keeps
everything but the parts listed in its first hypothesis, from any state that the states it is given were kept from. -/

namespace Sys2Proof.Machine

theorem kept_reply {P : List Part} {base : State} {path : Nat} {msg : List Byte} {s : State} (hP : sub [.out] P) (h_s : Keeps P base s) :
    Keeps P base (reply path msg s) := by
  unfold reply
  try dsimp only
  with_reducible repeat' first
    | assumption
    | refine keeps_ite ?_ ?_
    | refine kept_send (sub_trans (by decide) hP) ?_
    | split

theorem kept_spdmAnswer {P : List Part} {base : State} {mctp : Bool} {code : Nat} {need : Nat} {len : Nat} {req : List Byte} {f : State → List Byte × State} {s : State} (hP : sub [.out] P) (h_f : ∀ x0, Keeps P base x0 → PairKeeps P base (f x0)) (h_s : Keeps P base s) :
    Keeps P base (spdmAnswer mctp code need len req f s) := by
  unfold spdmAnswer
  try dsimp only
  with_reducible repeat' first
    | assumption
    | refine keeps_ite ?_ ?_
    | refine snd_of ?_
    | refine kept_reply (sub_trans (by decide) hP) ?_
    | refine h_f _ ?_
    | refine of_pair ?_ (by assumption)
    | split

theorem kept_measBlock {P : List Part} {base : State} {i : Nat} {s : State} (hP : sub [.free] P) (h_s : Keeps P base s) :
    PairKeeps P base (measBlock i s) := by
  unfold measBlock
  try dsimp only
  with_reducible repeat' first
    | assumption
    | refine keeps_ite ?_ ?_
    | refine pairKeeps_ite ?_ ?_
    | refine snd_of ?_
    | refine kept_freshWord (sub_trans (by decide) hP) ?_
    | refine of_pair ?_ (by assumption)
    | split
    | refine keeps_pair ?_

theorem kept_measBlocks {P : List Part} {base : State} {a : List Nat} {ax : State} (hP : sub [.free] P) (h_ax : Keeps P base ax) :
    PairKeeps P base (measBlocks a ax) := by
  induction a generalizing ax with
  | nil =>
    unfold measBlocks
    try dsimp only
    with_reducible repeat' first
      | assumption
      | refine keeps_ite ?_ ?_
      | refine pairKeeps_ite ?_ ?_
      | refine snd_of ?_
      | refine kept_measBlock (sub_trans (by decide) hP) ?_
      | refine of_pair ?_ (by assumption)
      | split
      | refine keeps_pair ?_
  | cons x t ih =>
    unfold measBlocks
    try dsimp only
    with_reducible repeat' first
      | assumption
      | refine keeps_ite ?_ ?_
      | refine pairKeeps_ite ?_ ?_
      | refine snd_of ?_
      | refine kept_measBlock (sub_trans (by decide) hP) ?_
      | refine ih ?_
      | refine of_pair ?_ (by assumption)
      | split
      | refine keeps_pair ?_

theorem kept_mctpReply {P : List Part} {base : State} {cmd : Nat} {completion : Nat} {data : List Byte} {s : State} (hP : sub [.out] P) (h_s : Keeps P base s) :
    Keeps P base (mctpReply cmd completion data s) := by
  unfold mctpReply
  try dsimp only
  with_reducible repeat' first
    | assumption
    | refine keeps_ite ?_ ?_
    | refine kept_reply (sub_trans (by decide) hP) ?_
    | split

theorem kept_updSpdm {P : List Part} {base : State} {mctp : Bool} {f : Spdm → Spdm} {s : State} (hP : sub [.mgmt] P) (h_s : Keeps P base s) :
    Keeps P base (updSpdm mctp f s) := by
  unfold updSpdm
  try dsimp only
  with_reducible repeat' first
    | assumption
    | refine keeps_ite ?_ ?_
    | refine kept_updMgmt (sub_trans (by decide) hP) (by first | exact fun _ q => q | exact fun _ q => wf_memPuts _ _ q) ?_
    | split

end Sys2Proof.Machine
end

