-- ==== Sys2Proof/Laws/TileRows.lean ====
section
/-! SUPPORT. A tile command that is alone on its engine: it issues, starts on its unit and runs, and nothing else of the
queues changes; and what reading and writing a crew's slice gives where nothing of it is damaged or under repair. -/

namespace Sys2Proof.Machine


/-! ### The parts of an MXE after a change -/
@[simp] theorem mx_setMx (m : Nat) (x : Mxe) (s : State) : (setMx m x s).mx m = x := by simp [State.mx, setMx]
@[simp] theorem q_setQ (x : Mxe) (i : Nat) (y : MQueue) : (x.setQ i y).q i = y := by simp [Mxe.q, Mxe.setQ]
theorem q_setQ_ne (x : Mxe) {i j : Nat} (y : MQueue) (h : j ≠ i) : (x.setQ i y).q j = x.q j := by
  simp [Mxe.q, Mxe.setQ, mapGet_mapPut_ne _ _ _ h]
@[simp] theorem mq_updQ (m q : Nat) (f : MQueue → MQueue) (s : State) : (updQ m q f s).mq m q = f (s.mq m q) := by
  simp [updQ, State.mq]
theorem mq_updQ_ne (m : Nat) {q j : Nat} (f : MQueue → MQueue) (s : State) (h : j ≠ q) :
    (updQ m q f s).mq m j = s.mq m j := by simp [updQ, State.mq, q_setQ_ne _ _ h]
theorem mq_updQ_if (m q j : Nat) (f : MQueue → MQueue) (s : State) :
    (updQ m q f s).mq m j = if j = q then f (s.mq m q) else s.mq m j := by
  split
  · rename_i h; subst h; exact mq_updQ ..
  · rename_i h; exact mq_updQ_ne _ _ _ h
theorem mq_of_mxes {s t : State} (h : t.mxes = s.mxes) (m q : Nat) : t.mq m q = s.mq m q := by
  simp [State.mq, State.mx, h]

/-- A run of the pump over a queue of units: what the head of one unit's buffer is when one command waits. -/
theorem unitHead_none {s : State} {m u : Nat} (h : ∀ j < 4, ∀ t ∈ (s.mq m j).issued, t.unit ≠ u) : s.unitHead m u = none := by
  have : ((List.range 4).filterMap fun q => ((s.mq m q).issued.find? fun t => t.unit == u).map fun t => (q, t)) = [] := by
    rw [List.filterMap_eq_nil_iff]
    intro j hj
    have hj : j < 4 := by simpa using hj
    have : ((s.mq m j).issued.find? fun t => t.unit == u) = none := by
      rw [List.find?_eq_none]; intro t ht; simpa using h j hj t ht
    simp [this]
  simp [State.unitHead, this]

theorem unitHead_one {s : State} {m q : Nat} {e : TIss} (hq : q < 4) (h : (s.mq m q).issued = [e])
    (ho : ∀ j < 4, j ≠ q → (s.mq m j).issued = []) : s.unitHead m e.unit = some (q, e) := by
  have : ((List.range 4).filterMap fun j => ((s.mq m j).issued.find? fun t => t.unit == e.unit).map fun t => (j, t)) = [(q, e)] := by
    have hr : List.range 4 = [0, 1, 2, 3] := rfl
    rw [hr]
    have h0 := ho 0; have h1 := ho 1; have h2 := ho 2; have h3 := ho 3
    interval_cases q <;> simp_all
  simp [State.unitHead, this]

/-- One command, and nothing else, waits in front of the units of an MXE and may start. -/
structure Alone (s : State) (m q : Nat) (e : TIss) : Prop where
  q4 : q < 4
  mine : (s.mq m q).issued = [e]
  others : ∀ j < 4, j ≠ q → (s.mq m j).issued = []
  still : ∀ j < 4, (s.mq m j).running = [] ∧ (s.mq m j).hold ≠ .rel ∧ (s.mq m j).closing ≠ .failedWait
  replays : (s.mx m).replays = []
  unit : e.unit < 3

theorem Alone.mayStart {s : State} {m q : Nat} {e : TIss} (h : Alone s m q e) (hr : s.refetchHeld m e = false) :
    s.mayStart m q e = true := by
  obtain ⟨hq, hm, ho, hs, hp, hu⟩ := h
  have hr4 : List.range 4 = [0, 1, 2, 3] := rfl
  have hrun : ∀ j < 4, (s.mq m j).running = [] := fun j hj => (hs j hj).1
  have h1 : s.unitFree m e.unit = true := by
    simp only [State.unitFree, hr4, List.all_cons, List.all_nil, hrun 0 (by omega), hrun 1 (by omega), hrun 2 (by omega), hrun 3 (by omega)]
    rfl
  have h2 : s.waitsIn m q e = false := by
    simp [State.waitsIn, hm, hrun q hq]
  have h3 : s.waitsOut m q e = false := by
    have : ∀ j < 4, (j != q && (((s.mq m j).issued.any fun f => f.unit == 1 && overwrites e f true) ||
      (s.mq m j).running.any fun r => r.unit == 1 && overwrites e r.toTIss r.reads)) = false := by
      intro j hj
      by_cases e1 : j = q
      · simp [e1]
      · simp [ho j hj e1, hrun j hj]
    simp only [State.waitsOut, hr4, List.any_cons, List.any_nil, this 0 (by omega), this 1 (by omega), this 2 (by omega), this 3 (by omega)]
    rfl
  simp [State.mayStart, h1, h2, h3, hr]

/-- What starting a command keeps of the queues. -/
def SameQueues (m : Nat) (s t : State) : Prop :=
  ∀ j < 4, (t.mq m j).issued = (s.mq m j).issued ∧ (t.mq m j).running = (s.mq m j).running ∧
    (t.mq m j).hold = (s.mq m j).hold ∧ (t.mq m j).closing = (s.mq m j).closing

theorem replayOne_nil {s : State} {m : Nat} (h : (s.mx m).replays = []) : replayOne m s = s := by
  unfold replayOne
  dsimp only
  split
  · rename_i h2; rw [h] at h2; simp at h2
  · rfl

theorem resolveRel_none {s : State} {m q : Nat} (h : (s.mq m q).hold ≠ .rel) : resolveRel m s q = s := by
  unfold resolveRel
  dsimp only
  split
  · rename_i h1 h2; exact absurd h1 h
  · rfl

theorem settleWait_none {s : State} {m q : Nat} (h : (s.mq m q).closing ≠ .failedWait) : settleWait m s q = s := by
  simp [settleWait, h]

theorem pumpUnit_none {s : State} {m u : Nat} (h : ∀ j < 4, ∀ t ∈ (s.mq m j).issued, t.unit ≠ u) : pumpUnit m s u = s := by
  simp [pumpUnit, unitHead_none h]

/-- The pump, where one command waits and may start: it starts, and that is all. -/
theorem pump_alone {s s3 : State} {m q : Nat} {e : TIss} {st d : Nat} {cyc : List UCyc}
    (h : Alone s m q e) (ho : s.computeOpen = true) (hc : s.crewUp (crewOf m) = true) (hr : s.refetchHeld m e = false)
    (hf : e.failed = false) (hb : beginCmd m q e s = .go st d cyc s3) (hs : SameQueues m s s3) :
    pump m s = updQ m q (fun y => { y with running := y.running ++ [{ e with status := st, detail := d, cycles := cyc }] })
      (dropIssued m q e.seq s3) := by
  obtain ⟨hq, hm, hoth, hstill, hp, hu⟩ := id h
  set t := updQ m q (fun y => { y with running := y.running ++ [{ e with status := st, detail := d, cycles := cyc }] })
      (dropIssued m q e.seq s3) with ht
  have hstart : startUnit m q e s = t := by simp [startUnit, hf, hb, ht]
  have htodo : (s.mx m).todo = 1 := by
    have hr4 : List.range 4 = [0, 1, 2, 3] := rfl
    have hm' : ((s.mx m).q q).issued = [e] := hm
    have hoth' : ∀ j < 4, j ≠ q → ((s.mx m).q j).issued = [] := hoth
    have h0 := hoth' 0; have h1 := hoth' 1; have h2 := hoth' 2; have h3 := hoth' 3
    simp only [Mxe.todo, hp, hr4]
    interval_cases q <;> simp_all
  have tq : ∀ j < 4, (t.mq m j).issued = [] ∧ (t.mq m j).hold ≠ .rel ∧ (t.mq m j).closing ≠ .failedWait := by
    intro j hj
    obtain ⟨i1, i2, i3, i4⟩ := hs j hj
    rw [ht, mq_updQ_if]
    split
    · rename_i e1; subst e1
      simp only [dropIssued, mq_updQ, i1, i3, i4, hm]
      exact ⟨by simp, (hstill j hj).2⟩
    · rename_i e1
      rw [dropIssued, mq_updQ_ne _ _ _ e1, i1, i3, i4, hoth j hj e1]
      exact ⟨rfl, (hstill j hj).2⟩
  have hnone : ∀ u, pumpUnit m t u = t := fun u => pumpUnit_none fun j hj => by simp [(tq j hj).1]
  have hskip : ∀ u, u ≠ e.unit → pumpUnit m s u = s := fun u hu => pumpUnit_none fun j hj x hx => by
    by_cases e1 : j = q
    · subst e1; rw [hm] at hx; simp at hx; subst hx; exact fun e2 => hu e2.symm
    · rw [hoth j hj e1] at hx; simp at hx
  have hgo : pumpUnit m s e.unit = t := by
    simp [pumpUnit, unitHead_one hq hm hoth, h.mayStart hr, hstart]
  have hr3 : List.range 3 = [0, 1, 2] := rfl
  have hr4 : List.range 4 = [0, 1, 2, 3] := rfl
  have hunits : [0, 1, 2].foldl (pumpUnit m) s = t := by
    have : e.unit = 0 ∨ e.unit = 1 ∨ e.unit = 2 := by omega
    rcases this with e1 | e1 | e1 <;> rw [e1] at hgo hskip <;>
      simp [List.foldl, hgo, hnone, hskip 0, hskip 1]
  have hrel : [0, 1, 2, 3].foldl (resolveRel m) t = t := by
    simp only [List.foldl, resolveRel_none (tq 0 (by omega)).2.1, resolveRel_none (tq 1 (by omega)).2.1,
      resolveRel_none (tq 2 (by omega)).2.1, resolveRel_none (tq 3 (by omega)).2.1]
  have hset : [0, 1, 2, 3].foldl (settleWait m) t = t := by
    simp only [List.foldl, settleWait_none (tq 0 (by omega)).2.2, settleWait_none (tq 1 (by omega)).2.2,
      settleWait_none (tq 2 (by omega)).2.2, settleWait_none (tq 3 (by omega)).2.2]
  simp only [List.foldl_cons, List.foldl_nil] at hunits hrel hset
  unfold pump
  rw [ho, hc, htodo]
  simp only [Bool.not_true, Bool.or_self, Bool.false_eq_true, if_false, List.range_one, List.foldl_cons, List.foldl_nil,
    replayOne_nil hp, hr3, hr4, hunits, hrel, hset]

theorem Begin.go_inj {a b a' b' : Nat} {c c' : List UCyc} {s s' : State} (h : Begin.go a b c s = .go a' b' c' s') :
    a = a' ∧ b = b' ∧ c = c' ∧ s = s' := by injection h with h1 h2 h3 h4; exact ⟨h1, h2, h3, h4⟩

theorem endRestore_nil {s : State} {m : Nat} (h : (s.mx m).restore = []) : endRestore m s = s := by
  simp [endRestore, h]

theorem headFor_spec {s : State} {m q op : Nat} {c : BitVec 128} (h : s.headFor m q op = some c) :
    (s.mq m q).waiting.head? = some c ∧ s.canIssue m q = true ∧ tOpcode c = op := by
  unfold State.headFor at h
  split at h
  · rename_i w rest e
    by_cases hc : (s.canIssue m q && tOpcode w == op) = true
    · have hw : w = c := by
        rw [hc] at h
        simp only [Bool.true_and] at h
        by_contra hn
        split_ifs at h; simp_all
      subst hw
      simp only [Bool.and_eq_true, beq_iff_eq] at hc
      exact ⟨by simp [e], hc.1, hc.2⟩
    · simp only [Bool.not_eq_true] at hc
      rw [hc] at h
      simp at h
  · cases h

@[simp] theorem mapPut_mapPut {α : Type} (m : SMap α) (k : Nat) (v w : α) : mapPut (mapPut m k v) k w = mapPut m k w := by
  induction m with
  | nil => simp [mapPut]
  | cons p t ih =>
    obtain ⟨x, y⟩ := p
    by_cases h1 : k = x
    · simp [mapPut, h1]
    · by_cases h2 : k < x
      · simp [mapPut, h1, h2]
      · simp [mapPut, h1, h2, ih]

@[simp] theorem setMx_setMx (m : Nat) (x y : Mxe) (s : State) : setMx m x (setMx m y s) = setMx m x s := by
  simp [setMx]

@[simp] theorem setQ_setQ (x : Mxe) (i : Nat) (y z : MQueue) : (x.setQ i y).setQ i z = x.setQ i z := by simp [Mxe.setQ]

/-- A queue once its head command has been issued to a unit. -/
def MQueue.issue (y : MQueue) (seq unit : Nat) (c : BitVec 128) : MQueue :=
  let y := { y with waiting := y.waiting.drop 1, hist := y.hist ++ [({ seq, unit, status := none } : Covered)] }
  y.enter (y.entry seq unit c false)

theorem issueUnit_eq (m q unit : Nat) (c : BitVec 128) (s : State) :
    issueUnit m q unit c s =
      setMx m { (s.mx m).setQ q ((s.mq m q).issue (s.mx m).seq unit c) with seq := (s.mx m).seq + 1 } s := by
  simp only [issueUnit, enqueue, addHist, popHead, updQ, State.mq, mx_setMx, setMx_setMx, Mxe.setQ, Mxe.q,
    mapGet_mapPut_self, mapPut_mapPut, MQueue.issue]
  rfl

theorem run_alone {s s3 : State} {m q u op : Nat} {c : BitVec 128} {st d : Nat} {cyc : List UCyc} (hq : q < 4)
    (hi : s.issuesTile m q op c) (hu : u < 3) (hQ : s.quiet m)
    (e : TIss) (he : e = (s.mq m q).entry (s.mx m).seq u c false)
    (hr : s.refetchHeld m e = false)
    (hb : beginCmd m q e (issueUnit m q u c s) = .go st d cyc s3) (hs : SameQueues m (issueUnit m q u c s) s3) :
    runTile m q op (issueUnit m q u) s =
      updQ m q (fun y => { y with running := y.running ++ [{ e with status := st, detail := d, cycles := cyc }] })
        (dropIssued m q e.seq s3) := by
  obtain ⟨h1, h2⟩ := hi
  obtain ⟨hh, hcan, hop⟩ := headFor_spec h1
  obtain ⟨ha, hp, hres⟩ := hQ
  simp only [runTile, h1, endRestore_nil hres, h2]
  have hc' := hcan
  simp only [State.canIssue, Bool.and_eq_true] at hc'
  have hcan1 : s.computeOpen = true := hc'.1.1.1.1.1.1.1
  have hcan2 : s.crewUp (crewOf m) = true := hc'.1.1.1.1.1.1.2
  have hsame : ∀ j, j ≠ q → (issueUnit m q u c s).mq m j = s.mq m j := by
    intro j hj
    rw [issueUnit_eq, State.mq, mx_setMx]
    simp [Mxe.q, Mxe.setQ, mapGet_mapPut_ne _ _ _ hj, State.mq]
  have hmine : (issueUnit m q u c s).mq m q = (s.mq m q).issue (s.mx m).seq u c := by
    rw [issueUnit_eq, State.mq, mx_setMx]
    simp [Mxe.q, Mxe.setQ]
  have hAlone : Alone (issueUnit m q u c s) m q e := by
    refine ⟨hq, ?_, ?_, ?_, ?_, ?_⟩
    · rw [hmine, MQueue.issue]
      simp only [MQueue.enter]
      split <;> rw [he] <;> simp only [(ha q hq).1] <;> rfl
    · intro j hj hne
      rw [hsame j hne]; exact (ha j hj).1
    · intro j hj
      by_cases e1 : j = q
      · subst e1
        rw [hmine, MQueue.issue]
        simp only [MQueue.enter]
        split <;> exact (ha j hj).2
      · rw [hsame j e1]; exact (ha j hj).2
    · rw [issueUnit_eq, mx_setMx]; exact hp
    · rw [he]; exact hu
  refine pump_alone hAlone ?_ ?_ ?_ ?_ hb hs
  · rw [issueUnit_eq]; exact hcan1
  · rw [issueUnit_eq]; exact hcan2
  · rw [issueUnit_eq]; exact hr
  · rw [he]; rfl

/-- The commands start with everything but what a queue remembers of its loads as it was. -/
structure KeepsQueues (m q : Nat) (s t : State) : Prop where
  mine : ∃ L T, t.mq m q = { s.mq m q with loads := L, tile := T }
  others : ∀ j < 4, j ≠ q → t.mq m j = s.mq m j

theorem KeepsQueues.refl (m q : Nat) (s : State) : KeepsQueues m q s s := ⟨⟨_, _, rfl⟩, fun _ _ _ => rfl⟩

theorem KeepsQueues.of_queues {m q : Nat} {s t : State} (h : (t.mx m).queues = (s.mx m).queues) : KeepsQueues m q s t := by
  refine ⟨⟨(s.mq m q).loads, (s.mq m q).tile, ?_⟩, fun j _ _ => ?_⟩ <;> simp [State.mq, Mxe.q, h]

theorem mq_issueUnit (m q u : Nat) (c : BitVec 128) (s : State) :
    (issueUnit m q u c s).mq m q = (s.mq m q).issue (s.mx m).seq u c := by
  rw [issueUnit_eq, State.mq, mx_setMx]
  simp [Mxe.q, Mxe.setQ]

theorem mq_issueUnit_ne {m q j u : Nat} {c : BitVec 128} {s : State} (hj : j ≠ q) :
    (issueUnit m q u c s).mq m j = s.mq m j := by
  rw [issueUnit_eq, State.mq, mx_setMx]
  simp [Mxe.q, Mxe.setQ, mapGet_mapPut_ne _ _ _ hj, State.mq]

theorem runs_alone {s s3 : State} {m q u op : Nat} {c : BitVec 128} {st d : Nat} {cyc : List UCyc} (hq : q < 4)
    (hi : s.issuesTile m q op c) (hu : u < 3) (hQ : s.quiet m)
    (e : TIss) (he : e = (s.mq m q).entry (s.mx m).seq u c false)
    (hr : s.refetchHeld m e = false)
    (hb : beginCmd m q e (issueUnit m q u c s) = .go st d cyc s3) (hs : KeepsQueues m q (issueUnit m q u c s) s3) :
    let t := runTile m q op (issueUnit m q u) s
    Runs m q u c st d s t ∧ t.mem = s3.mem ∧ t.mx m = { s3.mx m with queues := (t.mx m).queues } ∧
      (t.mq m q).curWb = ((s.mq m q).issue (s.mx m).seq u c).curWb ∧
      (t.mq m q).nextWb = ((s.mq m q).issue (s.mx m).seq u c).nextWb := by
  obtain ⟨⟨L, T, h1⟩, h2⟩ := hs
  have hSame : SameQueues m (issueUnit m q u c s) s3 := by
    intro j hj
    by_cases e1 : j = q
    · subst e1; rw [h1]; exact ⟨rfl, rfl, rfl, rfl⟩
    · rw [h2 j hj e1]; exact ⟨rfl, rfl, rfl, rfl⟩
  have hrun := run_alone hq hi hu hQ e he hr hb hSame
  intro t
  have ht : t = _ := hrun
  have hmq : t.mq m q = { s3.mq m q with
      issued := (s3.mq m q).issued.filter fun f => f.seq != e.seq,
      running := (s3.mq m q).running ++ [{ e with status := st, detail := d, cycles := cyc }] } := by
    rw [ht, mq_updQ, dropIssued, mq_updQ]
  have hne : ∀ j, j ≠ q → t.mq m j = s3.mq m j := by
    intro j hj
    rw [ht, mq_updQ_ne _ _ _ hj, dropIssued, mq_updQ_ne _ _ _ hj]
  rw [h1, mq_issueUnit] at hmq
  have hiss : ((s.mq m q).issue (s.mx m).seq u c).issued = [e] := by
    rw [MQueue.issue]
    simp only [MQueue.enter]
    split <;> rw [he] <;> simp only [(hQ.1 q hq).1] <;> rfl
  have hother : ((s.mq m q).issue (s.mx m).seq u c).running = [] ∧
      ((s.mq m q).issue (s.mx m).seq u c).entries = (s.mq m q).entries ∧
      ((s.mq m q).issue (s.mx m).seq u c).waiting = (s.mq m q).waiting.drop 1 := by
    rw [MQueue.issue]
    simp only [MQueue.enter]
    split <;> exact ⟨(hQ.1 q hq).2.1, rfl, rfl⟩
  refine ⟨⟨?_, ?_, ⟨{ e with status := st, detail := d, cycles := cyc }, ?_, ?_⟩, ?_, ?_⟩, ?_, ?_, ?_, ?_⟩
  · rw [hmq]; exact hother.2.2
  · rw [hmq]; simp [hiss]
  · rw [hmq]; simp [hother.1]
  · subst he; exact ⟨rfl, rfl, rfl, rfl⟩
  · rw [hmq]; exact hother.2.1
  · intro j hj hn; rw [hne j hn, h2 j hj hn, mq_issueUnit_ne hn]
  · rw [ht]; rfl
  · rw [ht]; simp [updQ, dropIssued, Mxe.setQ]
  · rw [hmq]
  · rw [hmq]

/-! ### Reading and writing a slice -/

theorem memPuts_append (m : List Host.Cell) (a : Nat) (x y : List Byte) :
    memPuts m a (x ++ y) = memPuts (memPuts m a x) (a + x.length) y := by
  induction x generalizing m a with
  | nil => rfl
  | cons b t ih => simp only [List.cons_append, memPuts, List.length_cons, ih]; congr 1; omega

/-- The pieces of a write, landed one by one, are the write. -/
theorem memPuts_pieces (m : List Host.Cell) (a : Nat) (bs : List Byte) :
    (pieces a bs).foldl (fun m p => memPuts m p.1 p.2) m = memPuts m a bs := by
  by_cases h0 : bs.length = 0
  · simp [pieces, pagesOf, List.length_eq_zero_iff.1 h0, memPuts]
  · have key : ∀ k, k ≤ (a + bs.length - 1) / 4096 - a / 4096 + 1 →
        (((List.range k).map fun i => a / 4096 + i).map fun p =>
          (max a (p * 4096), (bs.drop (max a (p * 4096) - a)).take (min (a + bs.length) ((p + 1) * 4096) - max a (p * 4096)))).foldl
          (fun m p => memPuts m p.1 p.2) m = memPuts m a (bs.take (if k = 0 then 0 else (a / 4096 + k) * 4096 - a)) := by
      intro k
      induction k with
      | zero => intro _; simp [memPuts]
      | succ k ih =>
        intro hk
        rw [List.range_succ, List.map_append, List.map_append, List.foldl_append, ih (by omega)]
        simp only [List.map_cons, List.map_nil, List.foldl_cons, List.foldl_nil]
        have e1 : (if k = 0 then 0 else (a / 4096 + k) * 4096 - a) = max a ((a / 4096 + k) * 4096) - a := by
          split
          · rename_i h; subst h; omega
          · omega
        rw [e1, if_neg (by omega)]
        have hlt : max a ((a / 4096 + k) * 4096) - a ≤ bs.length := by omega
        have e2 : bs.take ((a / 4096 + (k + 1)) * 4096 - a) =
            bs.take (max a ((a / 4096 + k) * 4096) - a) ++
              (bs.drop (max a ((a / 4096 + k) * 4096) - a)).take
                (min (a + bs.length) ((a / 4096 + k + 1) * 4096) - max a ((a / 4096 + k) * 4096)) := by
          apply List.ext_getElem?
          intro i
          simp only [List.getElem?_append, List.getElem?_take, List.getElem?_drop, List.length_take]
          by_cases hi : i < bs.length
          · split_ifs <;> first | rfl | (congr 1; omega) | omega
          · have : bs[i]? = none := List.getElem?_eq_none (by omega)
            split_ifs <;> first | rfl | (rw [this]; done) | (rw [this, eq_comm, List.getElem?_eq_none_iff]; omega) | (rw [eq_comm, List.getElem?_eq_none_iff]; omega)
        rw [e2, memPuts_append]
        congr 1
        rw [List.length_take]; omega
    have hk := key _ (le_refl _)
    rw [if_neg (by omega)] at hk
    simp only [pieces, pagesOf, h0, if_false]
    rw [hk, List.take_of_length_le (by omega)]

/-- Nothing but the held COLUMN tables of the MXEs changes. -/
def TablesOnly (s t : State) : Prop := ∀ j, ∃ tb, t.mx j = { s.mx j with table := tb }

theorem TablesOnly.refl (s : State) : TablesOnly s s := fun j => ⟨(s.mx j).table, rfl⟩
theorem TablesOnly.trans {s t u : State} (h1 : TablesOnly s t) (h2 : TablesOnly t u) : TablesOnly s u := fun j => by
  obtain ⟨a, ha⟩ := h1 j
  obtain ⟨b, hb⟩ := h2 j
  exact ⟨b, by rw [hb, ha]⟩
theorem TablesOnly.of_mxes {s t : State} (h : t.mxes = s.mxes) : TablesOnly s t := fun j => ⟨(s.mx j).table, by simp [State.mx, h]⟩

theorem mapFind_map {α : Type} (m : SMap α) (f : Nat × α → α) (k : Nat) :
    mapFind (m.map fun p => (p.1, f p)) k = (mapFind m k).map fun v => f (k, v) := by
  induction m with
  | nil => rfl
  | cons p t ih =>
    obtain ⟨x, y⟩ := p
    simp only [List.map_cons, mapFind]
    split
    · rename_i h; subst h; rfl
    · exact ih

theorem tables_map (f : Nat × Mxe → Bool) (l : SMap Mxe) (j : Nat) :
    ∃ tb, mapGet (l.map fun p => if f p = true then (p.1, { p.2 with table := none }) else p) j mxe0 =
      { mapGet l j mxe0 with table := tb } := by
  have : (fun p : Nat × Mxe => if f p = true then (p.1, { p.2 with table := none }) else p) =
      fun p => (p.1, if f p = true then { p.2 with table := none } else p.2) := by
    funext p; split <;> rfl
  simp only [mapGet]
  rw [this, mapFind_map]
  cases hf : mapFind l j with
  | none => exact ⟨mxe0.table, rfl⟩
  | some x =>
    simp only [Option.map_some, Option.getD_some]
    split
    · exact ⟨none, rfl⟩
    · exact ⟨x.table, rfl⟩

theorem dropTables_tables (a n : Nat) (s : State) : TablesOnly s (dropTables a n s) := by
  unfold dropTables
  split
  · exact .refl s
  · dsimp only
    split
    · exact fun j => tables_map _ _ j
    · exact .refl s

theorem dropTables_mem (a n : Nat) (s : State) : (dropTables a n s).mem = s.mem ∧ (dropTables a n s).ms = s.ms := by
  unfold dropTables
  split
  · exact ⟨rfl, rfl⟩
  · dsimp only; split <;> exact ⟨rfl, rfl⟩

theorem rewriteFlips_spec (a n : Nat) (s : State) :
    (rewriteFlips a n s).mem = s.mem ∧ (rewriteFlips a n s).mxes = s.mxes ∧
      (rewriteFlips a n s).ms.rcv = s.ms.rcv ∧ (rewriteFlips a n s).ms.rcvWait = s.ms.rcvWait := by
  unfold rewriteFlips
  split <;> exact ⟨rfl, rfl, rfl, rfl⟩

/-- What landing bytes in T0 does to memory and to the MXEs, where no word is written in part. -/
structure Landed (a : Nat) (bs : List Byte) (s t : State) : Prop where
  mem : t.mem = memPuts s.mem a bs
  tables : TablesOnly s t
  rcv : t.ms.rcv = s.ms.rcv
  wait : t.ms.rcvWait = s.ms.rcvWait

theorem readEdges_aligned {a n : Nat} (s : State) (ha : a % 8 = 0) (hn : n % 8 = 0) (h0 : 0 < n) : readEdges a n s = s := by
  unfold readEdges
  split
  · rfl
  · have : ((s.flippedIn a n).filter fun w => decide (8 * w < a) || decide (a + n < 8 * w + 8)) = [] := by
      rw [List.filter_eq_nil_iff]
      intro w hw
      simp only [State.flippedIn, List.mem_map, List.mem_filter, Bool.and_eq_true, decide_eq_true_eq] at hw
      obtain ⟨p, ⟨-, h1, h2⟩, rfl⟩ := hw
      simp only [Bool.or_eq_true, decide_eq_true_eq]
      omega
    rw [this]; rfl

theorem landBytes_t0 {mark : Bool} {a : Nat} {bs : List Byte} (s : State) (hs : spaceOf a = .t0) (ha : a % 8 = 0)
    (hn : bs.length % 8 = 0) (h0 : 0 < bs.length) : Landed a bs s (landBytes mark a bs s) := by
  have e1 : (spaceOf a == Space.t2) = false := by rw [hs]; rfl
  have e2 : (spaceOf a != Space.t1) = true := by rw [hs]; rfl
  have e3 : (spaceOf a == Space.t0) = true := by rw [hs]; rfl
  have : landBytes mark a bs s = dropTables a bs.length (rewriteFlips a bs.length { s with mem := memPuts s.mem a bs }) := by
    simp only [landBytes, landPlain, readEdges_aligned s ha hn h0, touchRanks, e1, ckWrite, e2, inject, e3, markDirty, hs]
    simp
  rw [this]
  obtain ⟨r1, r2, r3, r4⟩ := rewriteFlips_spec a bs.length { s with mem := memPuts s.mem a bs }
  obtain ⟨d1, d2⟩ := dropTables_mem a bs.length (rewriteFlips a bs.length { s with mem := memPuts s.mem a bs })
  refine ⟨by rw [d1, r1], TablesOnly.trans (TablesOnly.of_mxes r2 : TablesOnly s (rewriteFlips a bs.length { s with mem := memPuts s.mem a bs })) (fun j => dropTables_tables a bs.length _ j), by rw [d2, r3], by rw [d2, r4]⟩

theorem writePiece_t0 {w : Waiter} {mark : Bool} {p : Nat × List Byte} (s : State) (hs : spaceOf p.1 = .t0) (ha : p.1 % 8 = 0)
    (hn : p.2.length % 8 = 0) (h0 : 0 < p.2.length) (hr : s.rcvOf (.t0Page (p.1 / 4096)) = none) :
    Landed p.1 p.2 s (writePiece w mark s p) := by
  have e1 : s.unitOf p.1 = .t0Page (p.1 / 4096) := by simp [State.unitOf, hs]
  have hsp : spaceOf (p.1 / 4096 * 4096) = .t0 := by
    have : p.1 / 4096 * 4096 / 2 ^ 60 = p.1 / 2 ^ 60 := by omega
    simp only [spaceOf, this] at hs ⊢; exact hs
  have e2 : s.pageOut (p.1 / 4096) = false := by simp [State.pageOut, hsp]
  have e3 : s.readsFirst p.1 = [] := by simp [State.readsFirst, hs]
  have : writePiece w mark s p = landBytes mark p.1 p.2 s := by
    simp [writePiece, e1, hr, e2, e3, readFirst]
  rw [this]; exact landBytes_t0 s hs ha hn h0

theorem Landed.trans {a : Nat} {x y : List Byte} {s t u : State} (h1 : Landed a x s t) (h2 : Landed (a + x.length) y t u) :
    Landed a (x ++ y) s u :=
  ⟨by rw [h2.mem, h1.mem, memPuts_append], h1.tables.trans h2.tables, h2.rcv.trans h1.rcv, h2.wait.trans h1.wait⟩

theorem rcvOf_congr {s t : State} (h1 : t.ms.rcv = s.ms.rcv) (h2 : t.ms.rcvWait = s.ms.rcvWait) (k : UnitKey) :
    t.rcvOf k = s.rcvOf k := by simp [State.rcvOf, h1, h2]

theorem pieces_spec {a : Nat} {bs : List Byte} {p : Nat × List Byte} (h : p ∈ pieces a bs) (h0 : 0 < bs.length) :
    p.1 / 4096 ∈ pagesOf a bs.length ∧ a ≤ p.1 ∧ 0 < p.2.length ∧ p.1 + p.2.length ≤ a + bs.length ∧
      (a % 8 = 0 → bs.length % 8 = 0 → p.1 % 8 = 0 ∧ p.2.length % 8 = 0) := by
  simp only [pieces, List.mem_map] at h
  obtain ⟨k, hk, rfl⟩ := h
  have hk' := hk
  simp only [pagesOf, if_neg (show ¬ bs.length = 0 by omega), List.mem_map, List.mem_range] at hk'
  obtain ⟨i, hi, rfl⟩ := hk'
  simp only [List.length_take, List.length_drop]
  have e1 : max a ((a / 4096 + i) * 4096) / 4096 = a / 4096 + i := by omega
  rw [e1]
  exact ⟨hk, by omega, by omega, by omega, fun h1 h2 => by omega⟩

theorem writePieces_t0 {w : Waiter} {mark : Bool} {a : Nat} {bs : List Byte} (s : State) (hs : a + bs.length ≤ 2 ^ 60)
    (ha : a % 8 = 0) (hn : bs.length % 8 = 0) (h0 : 0 < bs.length)
    (hr : ∀ p ∈ pagesOf a bs.length, s.rcvOf (.t0Page p) = none) : Landed a bs s (writePieces w mark a bs s) := by
  have key : ∀ (l : List (Nat × List Byte)) (t : State), (∀ p ∈ l, p ∈ pieces a bs) →
      t.ms.rcv = s.ms.rcv → t.ms.rcvWait = s.ms.rcvWait →
      let u := l.foldl (writePiece w mark) t
      u.mem = l.foldl (fun m p => memPuts m p.1 p.2) t.mem ∧ TablesOnly t u ∧ u.ms.rcv = s.ms.rcv ∧ u.ms.rcvWait = s.ms.rcvWait := by
    intro l
    induction l with
    | nil => intro t _ h1 h2; exact ⟨rfl, .refl t, h1, h2⟩
    | cons p l ih =>
      intro t hl h1 h2
      obtain ⟨p1, p2, p3, p4, p5⟩ := pieces_spec (hl p (by simp)) h0
      obtain ⟨p5, p6⟩ := p5 ha hn
      have hsp : spaceOf p.1 = .t0 := by
        have : p.1 / 2 ^ 60 = 0 := Nat.div_eq_of_lt (by omega)
        simp only [spaceOf, this]
      have hL := writePiece_t0 (w := w) (mark := mark) (p := p) t hsp p5 p6 p3
        (by rw [rcvOf_congr h1 h2]; exact hr _ p1)
      obtain ⟨i1, i2, i3, i4⟩ := ih (writePiece w mark t p) (fun x hx => hl x (by simp [hx]))
        (hL.rcv.trans h1) (hL.wait.trans h2)
      exact ⟨i1.trans (by rw [hL.mem]; rfl), hL.tables.trans i2, i3, i4⟩
  obtain ⟨k1, k2, k3, k4⟩ := key (pieces a bs) s (fun _ h => h) rfl rfl
  exact ⟨by rw [writePieces, k1, memPuts_pieces], k2, k3, k4⟩

theorem t0Write_free {crew off : Nat} {bs : List Byte} (s : State) (hc : crew < 64) (hs : off + bs.length ≤ 2 ^ 24)
    (ha : off % 8 = 0) (hn : bs.length % 8 = 0) (h0 : 0 < bs.length) (hr : s.t0Free crew off bs.length) :
    Landed (sliceBase crew + off) bs s (t0Write crew off bs s) := by
  refine writePieces_t0 s ?_ ?_ hn h0 hr
  · simp only [sliceBase]; omega
  · simp only [sliceBase]; omega

theorem t0Read_clean {s : State} {crew off n : Nat} (h : s.t0Clean crew off n) :
    t0Read crew off n s = (.ok (s.t0Bytes crew off n), s) := by
  obtain ⟨h1, h2⟩ := h
  have hf : ((pagesOf (sliceBase crew + off) n).find? fun p => (s.rcvOf (.t0Page p)).isSome) = none := by
    rw [List.find?_eq_none]
    intro p hp
    simp [h1 p hp]
  simp only [t0Read, hf, h2, readWords, List.foldl_nil, Bool.false_eq_true, if_false]
  rfl

theorem t0Clean_iff {s t : State} (h : t.ms = s.ms) {crew off n : Nat} : t.t0Clean crew off n ↔ s.t0Clean crew off n := by
  simp only [State.t0Clean, State.t0Free, State.rcvOf, State.flippedIn, h]

theorem t0Clean_issue {m q u : Nat} {c : BitVec 128} {s : State} {crew off n : Nat} (h : s.t0Clean crew off n) :
    (issueUnit m q u c s).t0Clean crew off n := (t0Clean_iff (by rw [issueUnit_eq]; rfl)).2 h

theorem getLsbD_tb (c : BitVec 128) (i : Nat) : tb c i = c.getLsbD i := by
  rw [tb, bitAt, BitVec.getLsbD, Nat.testBit, Nat.and_comm, Nat.and_one_is_mod]
  rcases Nat.mod_two_eq_zero_or_one (c.toNat >>> i) with h | h <;> simp [h]
theorem packElems_len (f : Fmt) (xs : List Int) (h : xs.length = 128) : (packElems f xs).length = packedLen f 128 := by
  cases f <;> simp [packElems, packedLen, Fmt.bits, h, chunksOf, List.length_flatMap, leBytes]

theorem mx_issue (m q u : Nat) (c : BitVec 128) (s : State) : (issueUnit m q u c s).mx m =
    { (s.mx m).setQ q ((s.mq m q).issue (s.mx m).seq u c) with seq := (s.mx m).seq + 1 } := by
  rw [issueUnit_eq, mx_setMx]

section
variable {s : State} {m q : Nat} {c : BitVec 128}

theorem bank_setBank_self (x : Mxe) (b : Nat) (k : Bank) : (x.setBank b k).bank b = k := by simp [Mxe.bank, Mxe.setBank]
theorem bank_setBank_ne (x : Mxe) {b j : Nat} (k : Bank) (h : j ≠ b) : (x.setBank b k).bank j = x.bank j := by
  simp [Mxe.bank, Mxe.setBank, mapGet_mapPut_ne _ _ _ h]

/-- The entry of a command that is no stationary load names no slot that a refetch could hold. -/
theorem refetchHeld_of {t : TIss} (h : tOpcode t.cmd ≠ 0x01) : s.refetchHeld m t = false := by
  simp [State.refetchHeld, h]

theorem touchBank_clean {b : Nat} (h1 : ((s.mx m).bank b).single = 0) (h2 : ((s.mx m).bank b).double = false) :
    touchBank m b s = s := by simp [touchBank, h1, h2]

theorem touchStream_clean {ws : List Nat} (hw : ∀ w ∈ ws, w ∉ (s.mx m).sb.single ∧ w ∉ (s.mx m).sb.double) :
    touchStream m ws s = (true, s) := by
  have e1 : ((s.mx m).sb.single.filter ws.contains) = [] := by
    rw [List.filter_eq_nil_iff]; intro w hm h; exact (hw w (by simpa using h)).1 hm
  have e2 : ((s.mx m).sb.double.filter ws.contains) = [] := by
    rw [List.filter_eq_nil_iff]; intro w hm h; exact (hw w (by simpa using h)).2 hm
  simp [touchStream, e1, e2]

theorem bytes_length (b : StreamBuf) (ws : List Nat) : (b.bytes ws).length = 128 * ws.length := by
  simp only [StreamBuf.bytes, List.length_flatMap]
  have : ∀ w, (sliceBytes (mapGet b.words w []) 0 128).length = 128 := by
    intro w; simp only [sliceBytes, List.length_append, List.length_replicate, List.length_take, List.length_drop]; omega
  simp [this, Nat.mul_comm]

theorem crewOf_lt (m : Fin 192) : crewOf m < 64 := by simp only [crewOf]; omega

theorem t0Free_congr {t : State} (h1 : t.ms.rcv = s.ms.rcv) (h2 : t.ms.rcvWait = s.ms.rcvWait) {crew off n : Nat}
    (h : s.t0Free crew off n) : t.t0Free crew off n := fun p hp => by rw [rcvOf_congr h1 h2]; exact h p hp

theorem TablesOnly.keeps {s t : State} (h : TablesOnly s t) (m q : Nat) : KeepsQueues m q s t :=
  KeepsQueues.of_queues (by obtain ⟨tb, h⟩ := h m; rw [h])

theorem issueUnit_mem (m q u : Nat) (c : BitVec 128) (s : State) : (issueUnit m q u c s).mem = s.mem := by rw [issueUnit_eq]; rfl
theorem issueUnit_ms (m q u : Nat) (c : BitVec 128) (s : State) : (issueUnit m q u c s).ms = s.ms := by rw [issueUnit_eq]; rfl
theorem issueUnit_ctl (m q u : Nat) (c : BitVec 128) (s : State) : (issueUnit m q u c s).ctl = s.ctl := by rw [issueUnit_eq]; rfl

end

end Sys2Proof.Machine
end

