-- ==== Sys2Proof/Laws/Time.lean ====
section
/-! SUPPORT. For each operation of Machine/Time.lean, which parts of the state it may change: `kept_f` says that `f` keeps
everything but the parts listed in its first hypothesis, from any state that the states it is given were kept from. -/

namespace Sys2Proof.Machine

theorem kept_noteDenied {P : List Part} {base : State} {m : Nat} {den : List Nat} {s : State} (hP : sub [.mxes] P) (h_s : Keeps P base s) :
    Keeps P base (noteDenied m den s) := by
  unfold noteDenied
  try dsimp only
  with_reducible repeat' first
    | assumption
    | refine keeps_ite ?_ ?_
    | refine kept_setMx (sub_trans (by decide) hP) ?_
    | refine optKeeps_map (fun _ => ?_)
    | split

theorem kept_unitCycle {P : List Part} {base : State} {m : Nat} {s : State} {u : Nat} (hP : sub [.mxes] P) (h_s : Keeps P base s) :
    Keeps P base (unitCycle m s u) := by
  unfold unitCycle
  try dsimp only
  with_reducible repeat' first
    | assumption
    | refine keeps_ite ?_ ?_
    | refine kept_setMx (sub_trans (by decide) hP) ?_
    | refine kept_updQ (sub_trans (by decide) hP) ?_
    | refine optKeeps_map (fun _ => ?_)
    | split

theorem kept_mxeCycle {P : List Part} {base : State} {t : Nat} {den : List (Nat × Nat)} {s : State} {m : Nat} (hP : sub [.ctl, .mxes] P) (h_s : Keeps P base s) :
    Keeps P base (mxeCycle t den s m) := by
  unfold mxeCycle
  try dsimp only
  with_reducible repeat' first
    | assumption
    | refine keeps_ite ?_ ?_
    | refine kept_bump (sub_trans (by decide) hP) ?_
    | refine kept_noteDenied (sub_trans (by decide) hP) ?_
    | refine kept_unitCycle (sub_trans (by decide) hP) ?_
    | refine keeps_foldl _ (fun _ _ _ => ?_) ?_
    | refine keeps_foldlP _ (fun _ _ _ => ?_) ?_
    | refine tripleKeeps_foldl _ (fun _ _ _ => ?_) ?_
    | refine objStepKeeps_foldl _ (fun _ _ _ => ?_) ?_
    | refine optKeeps_map (fun _ => ?_)
    | split

theorem kept_crewCycle {P : List Part} {base : State} {t : Nat} {s : State} {h : Nat} (hP : sub [.ctl, .mem, .ev, .ms, .mxes, .slots, .refetch, .persist] P) (h_s : Keeps P base s) :
    Keeps P base (crewCycle t s h) := by
  unfold crewCycle
  try dsimp only
  with_reducible repeat' first
    | assumption
    | refine keeps_ite ?_ ?_
    | refine kept_mxeCycle (sub_trans (by decide) hP) ?_
    | refine kept_pumpCrew (sub_trans (by decide) hP) ?_
    | refine keeps_foldl _ (fun _ _ _ => ?_) ?_
    | refine keeps_foldlP _ (fun _ _ _ => ?_) ?_
    | refine tripleKeeps_foldl _ (fun _ _ _ => ?_) ?_
    | refine objStepKeeps_foldl _ (fun _ _ _ => ?_) ?_
    | split

theorem kept_fillWaitCycle {P : List Part} {base : State} {s : State} {k : Nat} (hP : sub [.ctl] P) (h_s : Keeps P base s) :
    Keeps P base (fillWaitCycle s k) := by
  unfold fillWaitCycle
  try dsimp only
  with_reducible repeat' first
    | assumption
    | refine keeps_ite ?_ ?_
    | refine kept_bump (sub_trans (by decide) hP) ?_
    | split

theorem kept_dutyMillisecond {P : List Part} {base : State} {s : State} (hP : sub [.ctl] P) (h_s : Keeps P base s) :
    Keeps P base (dutyMillisecond s) := by
  unfold dutyMillisecond
  try dsimp only
  with_reducible repeat' first
    | assumption
    | refine keeps_ite ?_ ?_
    | refine kept_bump (sub_trans (by decide) hP) ?_
    | split

theorem kept_heartbeat {P : List Part} {base : State} {s : State} {f : Nat} (hP : sub [.ctl, .mgmt] P) (h_s : Keeps P base s) :
    Keeps P base (heartbeat s f) := by
  unfold heartbeat
  try dsimp only
  with_reducible repeat' first
    | assumption
    | refine keeps_ite ?_ ?_
    | refine kept_setFld (sub_trans (by decide) hP) ?_
    | refine kept_updForeman (sub_trans (by decide) hP) ?_
    | split

theorem kept_tick {P : List Part} {base : State} {s : State} (hP : sub [.nclk, .ctl, .mem, .ev, .ms, .mxes, .semNow, .slots, .refetch, .mgmt, .persist] P) (h_s : Keeps P base s) :
    Keeps P base (tick s) := by
  unfold tick
  try dsimp only
  with_reducible repeat' first
    | assumption
    | refine keeps_ite ?_ ?_
    | refine kept_crewCycle (sub_trans (by decide) hP) ?_
    | refine kept_dutyMillisecond (sub_trans (by decide) hP) ?_
    | refine kept_fillWaitCycle (sub_trans (by decide) hP) ?_
    | refine kept_heartbeat (sub_trans (by decide) hP) ?_
    | refine keeps_foldl _ (fun _ _ _ => ?_) ?_
    | refine keeps_foldlP _ (fun _ _ _ => ?_) ?_
    | refine tripleKeeps_foldl _ (fun _ _ _ => ?_) ?_
    | refine objStepKeeps_foldl _ (fun _ _ _ => ?_) ?_
    | refine optKeeps_map (fun _ => ?_)
    | split
  all_goals try (with_reducible refine keeps_mk ?_ rfl (Or.inr (sub_trans (by decide) hP)) (Or.inl rfl) (Or.inl rfl) (Or.inl rfl) (Or.inl rfl) (Or.inl rfl) (Or.inl rfl) (Or.inl rfl) (Or.inl rfl) (Or.inl rfl) (Or.inl rfl) (Or.inr (sub_trans (by decide) hP)) (Or.inl rfl) (Or.inl rfl) (Or.inl rfl) (Or.inl rfl) (Or.inl rfl) (Or.inl rfl) (Or.inl rfl) (Or.inl rfl) (Or.inl rfl) (Or.inl rfl) (Or.inl rfl) (Or.inl rfl) (Or.inl rfl) (Or.inl rfl) bytesWf_same)
  all_goals with_reducible repeat' first
    | assumption
    | refine keeps_ite ?_ ?_
    | refine kept_crewCycle (sub_trans (by decide) hP) ?_
    | refine kept_dutyMillisecond (sub_trans (by decide) hP) ?_
    | refine kept_fillWaitCycle (sub_trans (by decide) hP) ?_
    | refine kept_heartbeat (sub_trans (by decide) hP) ?_
    | refine keeps_foldl _ (fun _ _ _ => ?_) ?_
    | refine keeps_foldlP _ (fun _ _ _ => ?_) ?_
    | refine tripleKeeps_foldl _ (fun _ _ _ => ?_) ?_
    | refine objStepKeeps_foldl _ (fun _ _ _ => ?_) ?_
    | refine optKeeps_map (fun _ => ?_)
    | split

end Sys2Proof.Machine
end

