-- ==== Sys2Proof/Machine/CfgSpace.lean ====
section
/-! DEFINITION. What the configuration space of HP0's functions and the component registers of HP1 report (R14, R260, R262,
R290): the values the table of R260 gives, and every feature that is not taken as absent. The bit places are those of the
PCI Express and CXL specifications (log 106). -/

namespace Sys2Proof.Machine

/-- R260, R262: a register of a function's configuration space, by its name in the PCI Express specification; a capability by
its identifier. -/
inductive CfgReg where
  | classCode | command | interruptPin
  | bar (n : Fin 6)
  | deviceCap | deviceControl | deviceCap2 | deviceControl2
  | msixControl | pmControl
  | totalVfs | firstVfOffset | vfStride | numVfs | sriovControl
  | vfBar (n : Fin 6)
  | aerStatus | aerMask | aerSeverity
  | capability (id : Nat)
  | extended (id : Nat)
deriving DecidableEq, Repr

/-- R260: the capabilities of a function: power management, PCI Express and MSI-X; MSI is not among them. -/
def capsTaken : List Nat := [0x01, 0x10, 0x11]

/-- R260: the extended capabilities of a function: error reporting and ARI; on PF0 also SR-IOV, data object exchange and
those of the link rates. ATS, PRI, PASID, TPH, LTR, L1 substates, Resizable BAR, PTM, IDE, multicast and lightweight
notification are not among them. -/
def extCapsTaken (f : Nat) : List Nat :=
  [0x01, 0x0E] ++ if f = 0 then [0x10, 0x2E, 0x19, 0x25, 0x26, 0x27, 0x2A, 0x31] else []

/-- What a read of a configuration register returns. A function has MSI-X and no interrupt pin; a VF reads no base register and
no SR-IOV register. -/
def State.cfgRead (s : State) (f : Nat) (r : CfgReg) : Nat :=
  let c := s.fnCfg f
  let pf (v : Nat) : Nat := if f = 0 then v else 0
  match r with
  | .classCode => 0x120000
  | .command => c.mse.toNat * 2 + c.bme.toNat * 4
  | .interruptPin => 0
  | .bar n => pf (barReads c.bars n)
  -- payloads of 512 bytes, extended tags, role-based errors, function-level reset
  | .deviceCap => 2 + 2 ^ 5 + 2 ^ 15 + 2 ^ 28
  | .deviceControl => c.devCtl
  -- completion timeout ranges A to D and disable, 10-bit tags both ways; no AtomicOps, LTR or TPH
  | .deviceCap2 => 0xF + 2 ^ 4 + 2 ^ 16 + 2 ^ 17
  | .deviceControl2 => c.devCtl2
  | .msixControl => c.msixEn.toNat * 2 ^ 15 + c.fmask.toNat * 2 ^ 14 + 2047
  | .pmControl => if c.d3 then 3 else 0
  | .totalVfs => pf 256
  | .firstVfOffset => pf 1
  | .vfStride => pf 1
  | .numVfs => pf c.numVfs
  | .sriovControl => pf (c.vfEn.toNat + c.vfMse.toNat * 8 + c.ari.toNat * 16)
  | .vfBar n => pf (barReads c.vfBars n)
  | .aerStatus => c.aer.status
  | .aerMask => c.aer.mask
  | .aerSeverity => c.aer.severity
  | .capability id => (capsTaken.contains id).toNat
  | .extended id => ((extCapsTaken f).contains id).toNat

/-- R290: what the component registers of HP1 can report of CXL. -/
inductive CxlFeature where
  | io | mem | cache | portBasedRouting | dynamicCapacity | backInvalidation | memInv | loadTelemetry | poison | fmApi
  | multiLogicalDevice | persistentMemory | persistentFlush | ide | tsp | unorderedIo | directPeer | memorySparing
  | scanMedia | sanitize | atomics
deriving DecidableEq, Repr

/-- R14, R290: a feature is reported where the table takes it, and as absent where it does not. -/
def CxlFeature.reported : CxlFeature → Bool
  | .io => true
  | .mem => true
  | .portBasedRouting => true
  | .dynamicCapacity => true
  | .backInvalidation => true
  | .memInv => true
  | .loadTelemetry => true
  | .poison => true
  | .fmApi => true
  | .cache => false
  | .multiLogicalDevice => false
  | .persistentMemory => false
  | .persistentFlush => false
  | .ide => false
  | .tsp => false
  | .unorderedIo => false
  | .directPeer => false
  | .memorySparing => false
  | .scanMedia => false
  | .sanitize => false
  | .atomics => false

end Sys2Proof.Machine
end

