-- ==== Sys2Proof/WellFormed.lean ====
section
/-! DEFINITION. Which commands are well formed: the operands whose type admits more than the spec's row does. -/

namespace Sys2Proof

/-- R11: an offset in control space. -/
def offsetOk (off : Nat) : Bool := decide (off < 2 ^ 60)

/-- Data of one 64-byte entry or line, where there is any. -/
def lineOk (d : Option (List Byte)) : Bool := match d with
  | some l => l.length == 64
  | none => true

/-- R286: a request moves at least one byte. -/
def WinOp.wf : WinOp → Bool
  | .read n => decide (1 ≤ n)
  | .write bs => decide (1 ≤ bs.length)

/-- R11, R355: a regulated request reaches a space that the part has. -/
def RegTarget.wf : RegTarget → Bool
  | .part a _ => [0, 1, 2, 4, 15].contains (a.toNat / 2 ^ 60)
  | .ssd _ _ => true
  | .host _ => true

/-- A command with operands that the spec gives its row. -/
def Instr.wf (i : Instr) : Bool :=
  match i with
  -- Registers, counters and seam links (spec/00, spec/01)
  | .registerWrite _ off _ _ => offsetOk off
  | .counterLowRead off => offsetOk off
  | .seamFlitReceive _ _ _ _ => true
  | .seamRetrain _ => true
  | .seamRetrainDone _ _ => true
  | .seamFailoverComplete _ => true
  -- Matrix engines and crews (spec/03)
  | .mxeQctlWrite _ _ _ _ => true
  | .mxeReleaseDone _ _ => true
  | .mxeQueueSwitch _ _ => true
  | .mxeCancelDone _ _ => true
  | .mxeCntClearEvent _ _ => true
  | .mxeCntClearCycle _ _ => true
  -- Tile commands (spec/04): the command at the head of queue `q` of MXE `m`
  | .tNop _ _ => true
  | .wload _ _ => true
  | .hoistRefetchDone _ _ _ => true
  | .tload _ _ => true
  | .cbload _ _ => true
  | .mma _ _ => true
  | .aclr _ _ => true
  | .amove _ _ => true
  | .requant _ _ => true
  | .tstore _ _ => true
  | .semsig _ _ => true
  | .semsigFire _ _ => true
  | .semwait _ _ => true
  | .semwaitSatisfied _ _ => true
  | .semwaitTimeout _ _ => true
  | .hswait _ _ => true
  | .hswaitResolve _ _ => true
  | .hswaitTimeout _ _ => true
  | .hsrel _ _ => true
  | .mxeCommandComplete _ _ _ => true
  | .mxeSemWrite _ _ _ _ => true
  | .mxeSemAdd _ _ _ _ => true
  | .reservedTileOpcode _ _ => true
  -- Idvoan-K scalar instructions (spec/05): the instruction at the PC of context `c` issues
  | .kAdd _ _ _ _ => true
  | .kSub _ _ _ _ => true
  | .kAnd _ _ _ _ => true
  | .kOr _ _ _ _ => true
  | .kXor _ _ _ _ => true
  | .kSll _ _ _ _ => true
  | .kSrl _ _ _ _ => true
  | .kSra _ _ _ _ => true
  | .kSlt _ _ _ _ => true
  | .kSltu _ _ _ _ => true
  | .kMin _ _ _ _ => true
  | .kMax _ _ _ _ => true
  | .kMul _ _ _ _ => true
  | .kMulh _ _ _ _ => true
  | .kMulhu _ _ _ _ => true
  | .kDiv _ _ _ _ => true
  | .kRem _ _ _ _ => true
  | .kClz _ _ _ => true
  | .kPopc _ _ _ => true
  | .kSextb _ _ _ => true
  | .kSexth _ _ _ => true
  | .kSextw _ _ _ => true
  | .kAdds _ _ _ _ => true
  | .kCtz _ _ _ => true
  | .kRq8 _ _ _ _ => true
  | .kRq16 _ _ _ _ => true
  | .kRq32 _ _ _ _ => true
  -- Idvoan-K immediate instructions
  | .kAddi _ _ _ _ => true
  | .kAndi _ _ _ _ => true
  | .kOri _ _ _ _ => true
  | .kXori _ _ _ _ => true
  | .kSlti _ _ _ _ => true
  | .kShi _ _ _ _ => true
  | .kShori _ _ _ _ => true
  -- Idvoan-K scratch loads and stores
  | .kLsb _ _ _ _ => true
  | .kLsh _ _ _ _ => true
  | .kLsw _ _ _ _ => true
  | .kLsd _ _ _ _ => true
  | .kSsb _ _ _ _ => true
  | .kSsh _ _ _ _ => true
  | .kSsw _ _ _ _ => true
  | .kSsd _ _ _ _ => true
  | .kVls _ _ _ _ _ => true
  | .kVss _ _ _ _ _ => true
  -- Idvoan-K vector arithmetic
  | .kVadd _ _ _ _ _ _ _ => true
  | .kVsub _ _ _ _ _ _ _ => true
  | .kVadds _ _ _ _ _ _ _ => true
  | .kVsubs _ _ _ _ _ _ _ => true
  | .kVmul _ _ _ _ _ _ _ => true
  | .kVmin _ _ _ _ _ _ _ => true
  | .kVmax _ _ _ _ _ _ _ => true
  | .kVand _ _ _ _ _ _ _ => true
  | .kVor _ _ _ _ _ _ _ => true
  | .kVxor _ _ _ _ _ _ _ => true
  | .kVsll _ _ _ _ _ _ _ => true
  | .kVsrl _ _ _ _ _ _ _ => true
  | .kVsra _ _ _ _ _ _ _ => true
  | .kVclz _ _ _ _ _ _ => true
  | .kVabs _ _ _ _ _ _ => true
  | .kVmov _ _ _ _ _ _ => true
  | .kVwidl _ _ _ _ _ _ => true
  | .kVwidh _ _ _ _ _ _ => true
  | .kVdot4 _ _ _ _ _ _ _ => true
  | .kVpfx _ _ _ _ _ _ => true
  -- Idvoan-K predicates and reductions
  | .kVcmp _ _ _ _ _ _ _ => true
  | .kPand _ _ _ _ => true
  | .kPor _ _ _ _ => true
  | .kPxor _ _ _ _ => true
  | .kPandn _ _ _ _ => true
  | .kPnot _ _ _ => true
  | .kPtog _ _ _ => true
  | .kGtop _ _ _ => true
  | .kVredSum _ _ _ _ _ => true
  | .kVredMax _ _ _ _ _ => true
  | .kVredMin _ _ _ _ _ => true
  | .kVredArgmax _ _ _ _ _ => true
  | .kVredArgmin _ _ _ _ _ => true
  | .kVredPopc _ _ _ _ _ => true
  | .kVbcast _ _ _ _ _ => true
  | .kVextr _ _ _ _ _ => true
  | .kVins _ _ _ _ _ => true
  -- Idvoan-K lookups and vector requantisation
  | .kLut _ _ _ _ _ => true
  | .kLutn _ _ _ _ _ => true
  | .kLutld _ _ _ => true
  | .kVrq _ _ _ _ _ _ => true
  -- Idvoan-K branches
  | .kBeqz _ _ _ => true
  | .kBnez _ _ _ => true
  | .kBltz _ _ _ => true
  | .kBgez _ _ _ => true
  | .kJal _ _ _ => true
  | .kJalr _ _ _ _ => true
  | .kBp _ _ _ _ => true
  -- Idvoan-K part-address loads, stores and AMOs
  | .kLgb _ _ _ _ => true
  | .kLgh _ _ _ _ => true
  | .kLgw _ _ _ _ => true
  | .kLgd _ _ _ _ => true
  | .kSgb _ _ _ _ => true
  | .kSgh _ _ _ _ => true
  | .kSgw _ _ _ _ => true
  | .kSgd _ _ _ _ => true
  | .kncAccessResponse _ _ => true
  | .kncAccessTimeout _ _ => true
  | .kAmoadd _ _ _ _ _ => true
  | .kAmoswap _ _ _ _ _ => true
  | .kAmocas _ _ _ _ _ => true
  | .kAmomax _ _ _ _ _ => true
  | .kAmomin _ _ _ _ _ => true
  | .kAmoand _ _ _ _ _ => true
  | .kAmoor _ _ _ _ _ => true
  | .kVlg _ _ _ _ _ => true
  | .kVsg _ _ _ _ _ => true
  -- Idvoan-K fences, tile queues, intake and system instructions
  | .kFence _ _ _ => true
  | .kTqpush _ _ _ _ _ _ _ => true
  | .kTqpushResume _ => true
  | .kTqstat _ _ _ _ => true
  | .kTqcancel _ _ _ _ => true
  | .kTqdepth _ _ _ _ => true
  | .kCsrr _ _ _ => true
  | .kCsrw _ _ _ => true
  | .kWaitev _ _ _ => true
  | .kWaitevWake _ => true
  | .kYield _ => true
  | .kStop _ _ => true
  | .kBrk _ => true
  | .kRng _ _ => true
  | .kIntk _ _ _ => true
  | .kCmpl _ _ _ _ => true
  | .illegalInstruction _ _ => true
  -- Kneader context and core registers
  | .kncCtxCtlWrite _ _ _ => true
  | .ctxStart _ _ => true
  | .ctxStop _ _ => true
  | .ctxClear _ _ => true
  | .kncCntClear _ _ => true
  -- Expander (spec/06)
  | .mxeXpCntClear _ _ => true
  -- Hoist window, recovery and leases (spec/07)
  | .fillSourceResident _ _ => true
  | .slotFillLanded _ _ => true
  | .layerDeadlineMiss _ _ => true
  | .slotDiscard _ _ _ => true
  | .recoveryEntryAllocate _ => true
  | .repairComplete _ _ => true
  | .repairFail _ _ => true
  | .leaseOffer _ _ => true
  | .leaseAccept _ _ => true
  | .leaseReturn _ _ => true
  | .leaseRevoke _ _ => true
  | .leaseGrow _ _ _ => true
  | .leaseMsgOffer _ => true
  | .leaseMsgAccept _ => true
  | .leaseMsgGrow _ => true
  | .leaseMsgGrown _ => true
  | .leaseMsgNotice _ => true
  | .leaseMsgReturn _ => true
  | .leaseDrainDone _ => true
  | .leaseMsgDrainDone _ => true
  | .leaseMsgClosed _ => true
  | .leaseMsgResend _ _ => true
  | .leaseHoldStart _ => true
  | .leaseHoldEnd _ _ => true
  | .leaseUnreachable _ _ => true
  | .leaseReachableAgain _ _ => true
  | .leaseUnreachableClose _ _ => true
  -- Memory controllers and SSDs (spec/08, spec/07 on T3)
  | .memRead a _ _ _ _ => a.toNat % 8 == 0
  | .memWrite a _ _ => a.toNat % 8 == 0
  | .refresh _ _ => true
  | .rdTableClear _ => true
  | .laneRecentre _ _ _ _ => true
  | .scrubLine _ => true
  | .memTrainDone _ _ => true
  | .memSelftestDone _ _ _ => true
  | .memFillDone _ => true
  | .pprDone _ _ => true
  | .selfRefreshEnter _ _ => true
  | .selfRefreshExit _ _ => true
  | .selfRefreshRefillDone _ => true
  | .rankPowerDown _ _ => true
  | .injectArm _ _ _ => true
  | .memCntClear _ _ => true
  | .nvmeCompletion _ _ _ => true
  | .nvmeCommandTimeout _ _ => true
  | .nvmeResetTimeout _ => true
  -- Trams and hoists (spec/09): engines 0 to 319 are trams, 320 to 383 hoists
  | .descriptorFetch _ => true
  | .engCopy _ _ => true
  | .engCfill _ => true
  | .engCompare _ _ _ => true
  | .engCodec _ _ => true
  | .engProof _ _ => true
  | .engEncode _ _ => true
  | .objCreate _ => true
  | .objCopy _ => true
  | .objDrop _ => true
  | .objFlush _ => true
  | .objRehome _ => true
  | .objFree _ => true
  | .objRefill _ => true
  | .engWait _ => true
  | .waitPoll _ => true
  | .waitTimeout _ => true
  | .engLoop _ => true
  | .lfill _ => true
  | .hstStep _ => true
  | .halfNotification _ => true
  | .descriptorComplete _ => true
  | .engineAccessTimeout _ _ _ => true
  | .engGo _ _ => true
  | .engResume _ _ => true
  | .engSkip _ _ => true
  | .engAbort _ _ => true
  | .engAbortDone _ => true
  -- HP0 (spec/10): function 0 is PF0, function 1 + v is VF v
  | .sqDoorbell _ _ _ _ _ => true
  | .cqDoorbell _ _ _ _ _ => true
  | .submissionFetch _ _ entry => lineOk entry
  | .qrouteWrite _ _ _ => true
  | .queueEnable _ _ _ _ => true
  | .queueDisable _ _ _ _ => true
  | .queueEnableRelease _ _ => true
  | .completionWrite _ => true
  | .msixCoalesceTimer _ _ => true
  | .irqDelayedSend _ => true
  | .hostAbort _ _ _ => true
  | .hotReset => true
  | .functionLevelReset _ => true
  | .pf0FunctionReset => true
  | .flrChargeRelease _ => true
  | .busMasterEnable _ _ => true
  | .peerWindowRequest _ _ _ _ _ _ op => op.wf
  | .windowCommit _ _ _ _ => true
  | .windowCommitDone _ _ => true
  | .hp0CntClear _ => true
  | .adminCommand _ _ => true
  | .d3hot _ _ => true
  | .pcieLinkStateChange _ _ _ _ _ => true
  -- HP1 and the pool (spec/11)
  | .poolRead req => req.data.isNone
  | .poolWrite req => req.data.isSome && lineOk req.data
  | .biResponse _ _ data => lineOk data
  | .biTimeout _ _ => true
  | .frameCacheEvict _ => true
  | .extentAssign _ _ _ => true
  | .extentClearDone _ => true
  | .rangeOffer _ _ => true
  | .dcAddResponse _ _ => true
  | .rangeWithdraw _ _ => true
  | .dcRelease _ _ => true
  | .withdrawCutoff _ => true
  | .withdrawClose _ => true
  | .snapOpen _ _ _ _ => true
  | .snapPublish _ _ _ _ => true
  | .snapDiscard _ _ _ _ => true
  | .snapClose _ _ _ _ => true
  | .hp1CntClear _ => true
  | .hp1HostBucketRefill _ _ => true
  -- Plotre fabric (spec/12)
  | .portEnable _ _ _ => true
  | .portLightCheck _ _ => true
  | .portLockDone _ _ => true
  | .portPartnerLight _ _ => true
  | .portFecLock _ => true
  | .exchangeRecord _ _ => true
  | .portRetryTimer _ => true
  | .codewordReceive _ _ _ => true
  | .dataFlitReceive _ _ _ _ payload => payload.length == 60
  | .controlFlitReceive _ _ _ credits => credits.length == 8 && credits.all fun k => decide (k < 256)
  | .controlFlitSend _ => true
  | .portRetrain _ _ => true
  | .portRetrainDone _ _ _ => true
  | .partnerLightLoss _ => true
  | .feedOutOfLimits _ _ => true
  | .packetForward _ => true
  | .pktRd _ => true
  | .pktWr _ => true
  | .pktWrmask _ => true
  | .pktAmo _ => true
  | .pktRdReply _ => true
  | .pktWrAck _ => true
  | .pktAmoReply _ => true
  | .pktNack _ => true
  | .fabricRequestTimeout _ _ => true
  | .pktMgmt _ => true
  | .collGo _ _ => true
  | .collectiveAbort _ _ => true
  | .pktCollUp _ => true
  | .pktCollDown _ => true
  | .pktCollAbort _ => true
  | .collTimeout _ => true
  | .pltTestCtlWrite _ _ _ => true
  | .pltCntClear _ => true
  | .reservedPacketType _ _ => true
  -- Bandwidth regulation (spec/13)
  | .qosLevelReport occ => occ.all fun p => decide (p.1 < 21) && decide (p.2 ≤ 8)
  | .qosGuarWrite _ _ _ _ => true
  | .regulatedRequestIssue _ _ target _ => target.wf
  | .latClear _ _ _ => true
  | .qosCntClear _ => true
  -- Event recorder (spec/14)
  | .eventAccept _ _ => true
  | .eventBucketRefill _ _ _ => true
  | .mainRingBaseSet _ _ => true
  | .tenantRingEnable _ _ => true
  | .tenantRingFillDone _ => true
  | .evrCntClear _ => true
  -- Foremen, identity and sideband (spec/15)
  | .electionStand _ => true
  | .electionDecide _ => true
  | .splitResolve => true
  | .heartbeatTimeout _ => true
  | .foremanReset _ => true
  | .foremanBootDone _ unread => unread.all fun k => decide (k < 2)
  | .recoveryFlashWrite off data => decide (off.toNat + data.length ≤ 2 ^ 26)
  | .recoveryRestart => true
  | .fuseRevoke _ _ => true
  | .fuseSvnRaise _ _ => true
  | .fuseProgDone => true
  | .spdmGetVersion _ _ => true
  | .spdmGetCapabilities _ _ => true
  | .spdmNegotiate _ _ => true
  | .spdmGetDigests _ _ => true
  | .spdmGetCertificate _ _ => true
  | .spdmChallenge _ _ => true
  | .spdmGetMeasurements _ _ => true
  | .mctpSetEid _ => true
  | .mctpGetEid => true
  | .mctpGetVersion _ => true
  | .mctpGetTypes => true
  | .fatalRecordCollect => true
  | .testModeEnable enable => enable.length == 128
  | .powerSample _ => true
  | .powerCapDivide _ _ => true
  | .tempSample dies => dies.length == 6
  -- Supplies, clocks, resets and start-up (spec/16)
  | .supplyFault _ _ => true
  | .perstAssert => true
  | .refclkLoss => true
  | .pllLoss _ => true
  | .release _ _ _ => true
  | .ondieFillDone => true
  | .seamTrainDone links _ _ => links.length == 8
  | .configRetryEnd => true
  | .runtimeLoadDone _ => true
  | .computeRelease => true
  | .hostRelease => true

end Sys2Proof
end

