-- ==== Sys2Proof/Tests/Slice0.lean ====
section
/-! SUPPORT. Tests: an ill-formed term for each check of WellFormed; for each statement with hypotheses, a concrete state
and operands that meet them, at the ends of their ranges; the worked examples of the manual; and single steps whose results
are taken from the rules they name. -/

-- The tests are checked one after another: side by side, each would hold a thread and its stack while it waits.
set_option Elab.async false

namespace Sys2Proof.Tests

open Sys2Proof Sys2Proof.Machine

/-! ### The state the tests start from -/

/-- A part that serves hosts: every clock gate is open, foreman 0 leads and runs its firmware, foreman 1 stands by, the
crews, dies and memory controllers are in service, and the links are up. -/
def live : State :=
  let s : State :=
    { State.reset with
      nclk := 1000
      mgmt := { State.reset.mgmt with released := true, filled := true, seamed := true, runtime := true, cfgOpen := true }
      hp0 := { State.reset.hp0 with cfg := [(0, { fnCfg0 with bme := true, mse := true, msixEn := true, vfEn := true, vfMse := true, numVfs := 2 })] } }
  let s := setFld R.CLK_START_STAT F.CLK_START_STAT_PHASE 4 s
  let s := setFld R.FMN_CREW_PRESENT F.FMN_CREW_PRESENT_CREW (2 ^ 64 - 1) s
  let s := setFld R.FMN_TOPO_CAP F.FMN_TOPO_CAP_DIE_PRESENT 0x3F s
  let s := setReg R.FMN_LEAD_STAT (2 ^ 32) s
  let s := setFld (R.FMN_CLAIM 0) F.FMN_CLAIM_ASSERT 1 s
  let s := setFld (R.FMN_BOOT_STAT 0) F.FMN_BOOT_STAT_STATE 2 s
  let s := setFld (R.FMN_BOOT_STAT 1) F.FMN_BOOT_STAT_STATE 2 s
  let s := setFld (R.T1C_STAT 0) F.T1C_STAT_STATE 4 s
  let s := setFld (R.T2C_STAT 0) F.T1C_STAT_STATE 4 s
  let s := setFld R.HP0_LINK_STAT F.HP0_LINK_STAT_STATE 2 s
  let s := setFld R.HP1_LINK_STAT F.HP1_LINK_STAT_STATE 2 s
  setFld R.HP1_LINK_STAT F.HP1_LINK_STAT_PBR 1 s

/-- `live`, and context 0 runs, with PRIV set, at PC 0, with 1 KiB of scratch; context 4 is stopped. -/
def runs : State :=
  let s := setFld (ctxCtl 0) F.KNC_CTX_CTL_VALID 1 live
  let s := setFld (ctxCtl 0) F.KNC_CTX_CTL_PRIV 1 s
  let s := setFld (ctxCtl 0) F.KNC_CTX_CTL_SCR_SIZE 1 s
  let s := setFld (ctxStat 0) F.KNC_CTX_STAT_STATE 2 s
  let s := setFld (ctxCtl 4) F.KNC_CTX_CTL_VALID 1 s
  setFld (ctxStat 4) F.KNC_CTX_STAT_STATE 1 s

/-! ### Which commands are well formed: an ill-formed term for each check -/

theorem test_wf_register_offset : (Instr.registerWrite .pf0 (2 ^ 60) 8 0).wf = false := by decide
theorem test_wf_counter_offset : (Instr.counterLowRead (2 ^ 60)).wf = false := by decide
theorem test_wf_read_alignment : (Instr.memRead 4 0 false 0 none).wf = false := by decide
theorem test_wf_write_alignment : (Instr.memWrite 4 0 none).wf = false := by decide
theorem test_wf_submission_length : (Instr.submissionFetch 0 0 (some [0])).wf = false := by decide
theorem test_wf_window_read : (Instr.peerWindowRequest 0 0 0 0 false false (.read 0)).wf = false := by decide
theorem test_wf_window_write : (Instr.peerWindowRequest 0 0 0 0 false false (.write [])).wf = false := by decide
theorem test_wf_pool_read : (Instr.poolRead ⟨0, 0, 0, false, false, some [], 0⟩).wf = false := by decide
theorem test_wf_pool_write : (Instr.poolWrite ⟨0, 0, 0, false, false, none, 0⟩).wf = false := by decide
theorem test_wf_pool_write_length : (Instr.poolWrite ⟨0, 0, 0, false, false, some [0], 0⟩).wf = false := by decide
theorem test_wf_snoop_data : (Instr.biResponse 0 0 (some [])).wf = false := by decide
theorem test_wf_flit_payload : (Instr.dataFlitReceive 0 0 0 true []).wf = false := by decide
theorem test_wf_flit_credits : (Instr.controlFlitReceive 0 0 false [0, 0, 0, 0, 0, 0, 0, 256]).wf = false := by decide
theorem test_wf_credit_count : (Instr.controlFlitReceive 0 0 false []).wf = false := by decide
theorem test_wf_level_resource : (Instr.qosLevelReport [(21, 0)]).wf = false := by decide
theorem test_wf_level_value : (Instr.qosLevelReport [(0, 9)]).wf = false := by decide
theorem test_wf_target : (Instr.regulatedRequestIssue 0 0 (.part 0x3000000000000000 false) 64).wf = false := by decide
theorem test_wf_boot_slot : (Instr.foremanBootDone 0 [2]).wf = false := by decide
theorem test_wf_flash_range : (Instr.recoveryFlashWrite 0x3FFFFFF [0, 0]).wf = false := by decide
theorem test_wf_enable_length : (Instr.testModeEnable []).wf = false := by decide
theorem test_wf_die_count : (Instr.tempSample []).wf = false := by decide
theorem test_wf_link_count : (Instr.seamTrainDone [] 0 0).wf = false := by decide
theorem test_wf_flit : (Instr.dataFlitReceive 0 0 0 true (List.replicate 60 0)).wf = true := by decide

/-! ### Instructions issue -/

/-- The hypothesis of every statement about an instruction that issues, for any registers it uses. -/
theorem witness_issues (u : Use) : runs.issues 0 u :=
  ⟨rfl, by decide, rfl, by
    have h : (runs.kc 0).parity = [] := rfl
    rw [h]
    induction u.reads <;> simp_all⟩

/-- Every predicate bit is set in p0: each lane is active. -/
theorem witness_active_lanes : runs.p 0 0 = 2 ^ 64 - 1 ∧ laneActive 2 (runs.p 0 0) 15 = true := by decide
/-- The kinds of SHI, at their ends. -/
theorem witness_shi_kinds : 0x3FFF / 2 ^ 14 = 0 ∧ 0x4000 / 2 ^ 14 = 1 ∧ 0x7FFF / 2 ^ 14 = 1 ∧ 0x8000 / 2 ^ 14 = 2 ∧
    0xBFFF / 2 ^ 14 = 2 := by decide
/-- A reserved record, and one that is not. -/
theorem witness_records : (scaleOf 0).rnd ≠ 3 ∧ ∃ n, (scaleOf n).rnd = 3 := by
  refine ⟨by decide, 0xC00000, ?_⟩; decide
/-- The ends of a context's scratch. -/
theorem witness_scratch : runs.scrSize 0 = 1024 ∧ runs.scrBad (runs.scrAddr 0 1016) 8 = [] ∧
    runs.scrBad (runs.scrAddr 0 960) 64 = [] ∧ runs.scrBad (runs.scrAddr 0 0) 2048 = [] := by decide

/-! ### Contexts -/

/-- `runs` with a full list of outstanding loads to g1. -/
def waiting : State := updCtx 0 (fun x => { x with out := List.replicate 16 ⟨.load 1, 0, 8, 8, 0, .ready (List.replicate 8 1)⟩ }) runs

/-- Addresses in each kind of space, at their ends, for accesses of the part; and one the part does not have. -/
theorem witness_part_addresses : spaceOf 0 = .t0 ∧ spaceOf (2 ^ 60 - 8) = .t0 ∧ spaceOf (2 ^ 60) = .t1 ∧
    spaceOf (2 * 2 ^ 60) = .t2 ∧ spaceOf (15 * 2 ^ 60) = .control ∧ runs.reachable 0 8 = true ∧
    runs.reachable (2 ^ 30 - 8) 8 = true ∧ runs.reachable (2 ^ 30) 8 = false ∧ runs.ctxPriv 0 = true ∧
    live.ctxPriv 0 = false ∧ live.rgnOk 0 0 8 2 = false := by decide
/-- A read and a store that succeed. -/
theorem witness_part_accesses : (readRange (.ctx 0) 0 8 (bump (R.KNC_CNT_ISSUE 0) 1 runs)).1 = .ok (List.replicate 8 0) ∧
    (storeRuns 0 0 [(0, [1])] (bump (R.KNC_CNT_ISSUE 0) 1 runs)).1 = false ∧
    (bump (R.KNC_CNT_ISSUE 0) 1 runs).ownHeld 0 0 4 = false := by decide
/-- An atomic operation that succeeds. -/
theorem witness_atomic : (memAmo (.ctx 0) 0 0 1 0 (bump (R.KNC_CNT_ISSUE 0) 1 runs)).1 = .ok (List.replicate 8 0) := by decide
/-- Outstanding accesses: one of each kind that answers, and none. -/
theorem witness_responses : (waiting.kc 0).out[15]? = some ⟨.load 1, 0, 8, 8, 0, .ready (List.replicate 8 1)⟩ ∧
    (waiting.kc 0).out[16]? = none ∧ (runs.kc 0).out = [] := by decide
/-- MXE 0's queue 0 is bound, and owned by context 0; queue 1 is not. -/
def queued : State :=
  let s := setFld (R.MXE_QCTL 0 0) F.MXE_QCTL_VALID 1 runs
  setMx 0 { s.mx 0 with cur := some 0 } s
/-- A context that waits for a place in a queue. -/
def pushing : State := updCtx 0 (fun x => { x with wait := .push 1 0 0 0 }) (setFld (ctxStat 0) F.KNC_CTX_STAT_STATE 3 queued)
theorem witness_tile_queues : queued.qBound 0 0 = true ∧ queued.fld (R.MXE_QCTL 0 0) F.MXE_QCTL_OWNER_CTX = 0 ∧
    queued.qBound 0 1 = false ∧ (queued.mq 0 0).depth = 0 ∧ queued.sliceOwed 0 = false ∧
    (pushing.kc 0).wait = .push 1 0 0 0 ∧ pushing.ctxState 0 = 3 ∧ pushing.computeOpen = true ∧
    pushing.crewUp 0 = true ∧ (pushing.mq 0 0).closing = .none := by decide
/-- The four tables, a table that is denied and one that is not, and the numbers beside them. -/
theorem witness_csrs : (0x10 : BitVec 12).toNat - 0x10 = 0 ∧ (0x13 : BitVec 12).toNat - 0x10 = 3 ∧
    runs.lutDenied 0 3 = false ∧ live.lutDenied 0 0 = true ∧ 24 < 25 * 2 ^ 32 / 2 ^ 32 % 32 := by decide
/-- A context that waits for an event, with none and with one pending. -/
def waitingEvent (m : Nat) : State :=
  updCtx 0 (fun x => { x with wait := .event 1 m }) (setFld (ctxStat 0) F.KNC_CTX_STAT_STATE 3 runs)
theorem witness_events : (waitingEvent 8).ctxPending 0 &&& 8 = 0 ∧ (waitingEvent 16).ctxPending 0 &&& 16 = 16 ∧
    ((waitingEvent 8).kc 0).wait = .event 1 8 ∧ (waitingEvent 8).ctxState 0 = 3 := by decide
theorem witness_system : (runs.kc 0).errs = [] ∧ illegalWord 0xFFFFFFFF = true ∧ illegalWord 0x0400001A = false ∧
    illegalWord 0x0400001B = true ∧ (waiting.kc 0).out ≠ [] := by decide
/-- An entry in the intake FIFO of context 0, and a token in flight. -/
def intaken : State := updCtx 0 (fun x => { x with intake := [List.replicate 64 1] }) runs
theorem witness_intake : (intaken.kc 0).intake = [List.replicate 64 1] ∧ intaken.hp0.notices = [] ∧
    (runs.kc 0).intake = [] ∧ (runs.kc 0).unsent.length < 16 ∧ runs.qpStat 1 0 F.HP0_QP_STAT_EPOCH = 0 := by decide
theorem witness_context_control : runs.bindWriter (.foreman 0) = true ∧ runs.whoOpen (.foreman 0) = true ∧
    runs.ctxLive 4 = false ∧ runs.ctxHalted 4 = true ∧ runs.flag (ctxCtl 4) F.KNC_CTX_CTL_VALID = true ∧
    runs.computeOpen = true ∧ runs.ctxLive 0 = true ∧ runs.fetchFault 4 = some Cause.address ∧
    runs.bindWriter .pf0 = false ∧ runs.whoOpen .pf0 = true ∧ runs.blockWriter .pf0 = true := by decide

/-! ### Tile commands -/

/-- `queued`, with all banks and granules, a stationary load done, a view of slot 0, and a command at the head. -/
def headed (c : BitVec 128) : State :=
  let s := setFld (R.MXE_QCTL 0 0) F.MXE_QCTL_BANK_MASK 0xF queued
  let s := setFld (R.MXE_QCTL 0 0) F.MXE_QCTL_SLOT_MASK 0xFFFFFFFF s
  let v : SlotView := { bind := 0, standby := false, layer := 0, units := [], idxOff := 0, areaOff := 0, tiles := 1, areaLen := 32 }
  updQ 0 0 (fun y => { y with waiting := [c], curWb := some 0, views := [(0, v)] }) s
/-- Every command starts somewhere: its version and opcode, and the fields that may not be zero. -/
theorem witness_tile_starts : ∀ x ∈ [((0x00 : Nat), (0x100 : BitVec 128)), (0x01, 0x101), (0x02, 0x102 + 2 ^ 80), (0x03, 0x103),
      (0x10, 0x110), (0x20, 0x120), (0x21, 0x121 + 2 ^ 36), (0x22, 0x122), (0x23, 0x123 + 2 ^ 80), (0x30, 0x130),
      (0x31, 0x131), (0x32, 0x132 + 2 ^ 32), (0x33, 0x133)],
    (headed x.2).headFor 0 0 x.1 = some x.2 ∧ issueCheck (headed x.2) 0 0 x.2 = none := by decide +kernel
/-- Commands that fail the first check and the last, one that may not issue, and a reserved opcode. -/
theorem witness_tile_checks : issueCheck (headed 0x000) 0 0 0x000 = some 1 ∧
    issueCheck (setFld (semReg 0 0) F.MXE_SEM_TENANT 1 (headed 0x131)) 0 0 0x131 = some 8 ∧
    (headed 0).headFor 0 0 0 = some 0 ∧ queued.headFor 0 0 0 = none ∧
    (headed 0x1FF).canIssue 0 0 = true ∧ tOpcodes.contains (tOpcode 0x1FF) = false := by decide
/-- A pending signal whose work is done; a wait on a semaphore and one on a slot, with a limit that has passed and one
that has not; and an executing command. -/
def held (h : QHold) (c : BitVec 128) : State := updQ 0 0 (fun y => { y with hold := h }) (headed c)
/-- An MMA that has acted. -/
def done1 : TRun :=
  { seq := 0, unit := 1, cmd := 0x110, wb := 0, view := none, slot := none, failed := false, status := 0, detail := 0, cycles := [] }
theorem witness_tile_completions :
    ((updQ 0 0 (fun y => { y with sigs := [⟨0x130, []⟩] }) queued).mq 0 0).sigs = [⟨0x130, []⟩] ∧ queued.mgmt.tripped = false ∧
    (held (.sem (some 0)) 0x131).heldSem 0 0 = some (0x131, some 0) ∧ 0 ≤ (held (.sem (some 0)) 0x131).mclk ∧
    (held (.sem (some 9999)) 0x131).mclk < 9999 ∧ (held (.slot (some 0)) 0x132).heldSlot 0 0 = some (0x132, some 0) ∧
    (held (.sem none) 0x131).fld (semReg 0 0) F.MXE_SEM_COUNT = 0 ∧
    ((updQ 0 0 (fun y => { y with running := [done1] }) queued).mq 0 0).running = [done1] := by
  decide
/-- A queue that may be rebound, one that is being released, and a semaphore that takes a write and refuses one. -/
theorem witness_queue_registers : queued.bindWriter (.foreman 0) = true ∧ queued.qState 0 0 = 0 ∧
    queued.qctlBad 0 0 1 = false ∧ (queued.qctlBad 0 1 (1 + 16 * 64)) = true ∧
    ((updQ 0 0 (fun y => { y with closing := .release 1 }) queued).mq 0 0).closing = .release 1 ∧
    ((updQ 0 0 (fun y => { y with closing := .cancel 2 }) queued).mq 0 0).closing = .cancel 2 ∧
    (headed 0x100).qReady 0 0 = true ∧ (headed 0x100).rrAllows 0 0 = true ∧ (runs.mx 0).cur = none ∧
    queued.semRefused (.foreman 0) 0 0 = false ∧ queued.semRefused (.vf 0) 0 0 = true ∧ queued.whoOpen .pf0 = true := by
  decide
/-- A VF inside its page and outside it; a shut gate; a mirror, a bad access, a reserved offset, and registers. -/
theorem witness_register_accesses : whoReaches (.vf 0) 0 = false ∧ whoReaches (.vf 0) 0x10040000 = true ∧
    live.whoOpen (.foreman 1) = false ∧ gateExempt (.foreman 1) 0 = false ∧ live.whoOpen .pf0 = true ∧
    mirrorOf 0x10001000 ≠ none ∧ ctlAt 0 3 = .bad ∧ mirrorOf 0 = none ∧ ctlAt (2 ^ 60 - 8) 8 = .reserved ∧
    (match ctlAt R.FMN_LEAD_STAT.off 8 with | .reg r => r.desc.fields.all (fun f => decide (f.acc = .ro)) | _ => false) = true ∧
    (match ctlAt R.EVR_CTL.off 4 with | .reg r => decide (r.desc.base = R.EVR_CTL.off) | _ => false) = true ∧
    live.privWriter .pf0 = true ∧ live.blockWriter (.foreman 0) = true ∧ live.rootWriter .pf0 = true ∧
    live.blockWriter (.vf 0) = false := by decide

/-! ### Objects, hoists, recovery and leases -/

/-- `live` with an object table of two entries in T1, of which entry 1 holds a live object of one 4 KiB page at home in T1
(or in another state). -/
def tabled (state : Nat) : State :=
  let lock (r : Reg) (s : State) : State := { s with locks := mapPut s.locks r.off (BitVec.allOnes 64) }
  let s := setReg R.T1C_OBJ_BASE (2 ^ 60) (setReg R.T1C_OBJ_ENTRIES 2 live)
  let s := lock R.T1C_OBJ_BASE (lock R.T1C_OBJ_MIRROR (lock R.T1C_OBJ_ENTRIES s))
  let entry := [0x10 + BitVec.ofNat 8 state, 0, 0, 0, 1, 2] ++ List.replicate 2 (0 : Byte) ++ leBytes 4 4096 ++ leBytes 4 4096 ++
    leBytes 8 0 ++ leBytes 8 (2 ^ 60 + 65536) ++ List.replicate 32 0
  { s with mem := memPuts s.mem (2 ^ 60 + 64) entry }
/-- A slot of hoist 0 that fills from the object of entry 1, read or not, with a deadline, its policy and its standby. -/
def filling (reading : Bool) (policy : Nat) : State :=
  let d : HSlot :=
    { policy := policy, releases := 1, deadline := 100, primary := 2 ^ 24, idxOff := 0, areaOff := 64, tiles := 1,
      areaLen := 32, standby := 0, sbyIdx := 0, sbyArea := 0, mark := 0, missed := false, reading := reading,
      absent := false, halted := false }
  let s := setFld (R.HST_SLOT_STAT 0 0) F.HST_SLOT_STAT_STATE slotFilling (tabled 1)
  setFld (engStat 320) F.TRM_STAT_STATE 1 { s with slots := [(0, d)], refetch := [(0, [⟨0, 0, true, 0, false⟩])] }

theorem witness_objects : (tabled 1).handleOk (2 ^ 24) = true ∧ (tabled 3).handleOk (2 ^ 24) = true ∧
    ((tabled 3).obj 1).state = objLost ∧ (tabled 0).createOk (2 ^ 24) = true ∧ (tabled 1).createOk (2 ^ 24) = false ∧
    live.handleOk (2 ^ 24) = false := by decide +kernel
theorem witness_slot_fill : (filling false 0).slotState 0 0 = slotFilling ∧ mapFind live.slots 0 = none ∧
    (filling false 0).handleOk (2 ^ 24) = true ∧ fillTier ((filling false 0).obj 1) = some 1 ∧
    (filling true 0).engState 320 = 1 ∧ ((filling true 0).eng 320).acted = false := by decide +kernel
/-- The reads of a fill that succeed. -/
theorem witness_slot_landing :
    let s := filling true 0
    let ly := s.objIn (s.obj 1) 1
    (objRead (.fill 0 0) ly 0 8 s).1 = .ok (List.replicate 8 0) ∧
      (objRead (.fill 0 0) ly 64 32 (objRead (.fill 0 0) ly 0 8 s).2).1 = .ok (List.replicate 32 0) := by decide +kernel
/-- A deadline that has passed, under each policy, without a standby copy; a slot that may be discarded; a refetch. -/
theorem witness_slot_degrade : ((mapFind (filling true 0).slots 0).map (filling true 0).deadlinePassed) = some true ∧
    ((mapFind (filling true 1).slots 0).map ((filling true 1).standbyResident 0)) = some false := by decide +kernel
theorem witness_slot_discard : live.privWriter (.foreman 0) = true ∧ live.slotState 0 0 = slotEmpty ∧
    (filling true 0).refetchOf 0 0 0 = some ⟨0, 0, true, 0, false⟩ ∧ live.refetchOf 0 0 0 = none := by decide +kernel
/-- Recovery entries: one that waits and one that is open, one whose unit is repaired from nowhere near and may fail. -/
def recov (k : UnitKey) : State := { live with ms := { live.ms with rcvWait := [⟨0, k, [], []⟩], rcv := [⟨0, k, [], []⟩] } }
theorem witness_recovery : takeFirst (fun e : RcvEntry => e.hdie == 0) (recov (.t1Page 0)).ms.rcvWait =
      some (⟨0, .t1Page 0, [], []⟩, []) ∧ (recov (.t1Page 0)).rcvAt 0 0 = some ⟨0, .t1Page 0, [], []⟩ ∧
    live.rcvAt 0 0 = none ∧ (recov (.t3Stripe 0)).farSource (.t3Stripe 0) = true ∧
    (recov (.t2Stripe 0)).repair (.t2Stripe 0) = some [] ∧ (recov (.t2Stripe 0)).farSource (.t2Stripe 0) = false := by
  decide +kernel
/-- Leases with part 1 in a state, incoming (0) or outgoing (64), at epoch 0. -/
def leased (i state : Nat) : State :=
  let s := setFld (leaseCtl i) F.PLT_LIN_CTL_PEER 1 live
  updLease i (fun x => { x with msgs := [(1, 0)] }) (setFld (leaseCtl i) F.PLT_LIN_CTL_STATE state s)
theorem witness_lease_commands : live.privWriter .pf0 = true ∧ (leased 64 0).leasePeer 64 ≠ (leased 64 0).ownCoords ∧
    (leased 64 0).leaseState 64 = 0 ∧ (leased 64 0).openLease 64 1 = none ∧ (leased 0 1).leaseState 0 = 1 ∧
    (leased 0 2).leaseState 0 = 2 ∧ (leased 64 2).leaseState 64 = 2 ∧ live.leasePeer 0 = live.ownCoords ∧
    live.privWriter (.tram 0) = false := by decide
theorem witness_lease_messages : (leased 64 1).openLease 64 1 = some 64 ∧ (leased 64 1).leaseEpoch 64 = 0 ∧
    (leased 0 2).openLease 0 1 = some 0 ∧ (leased 0 0).openLease 0 1 = none ∧
    (List.range 64).find? (fun i => (leased 0 0).leaseState i == 0 && (leased 0 0).leasePeer i == 1) = some 0 ∧
    mapFind ((leased 64 1).lease 64).msgs 1 = some 0 ∧ leaseNum true 63 = 127 := by decide
/-- The limits of the times of a lease, at them and before. -/
theorem witness_lease_times : usCycles 2000 ≤ ({ leased 64 3 with nclk := usCycles 2000 } : State).nclk ∧
    ((leased 64 3).lease 64).t0 = 0 ∧ (leased 64 3).nclk < usCycles 100 ∧ usCycles 102000 = 102 * usCycles 1000 ∧
    usCycles 100000 = 180000000 := by decide

/-! ### Memory controllers, SSDs and engines -/

/-- `live` with stack 0's controller in a state, and at a phase of its self-test. -/
def brought (state : Nat) (phase : Option Nat) : State :=
  let s := setFld (R.T1C_STAT 0) F.T1C_STAT_STATE state live
  match phase with
  | none => s
  | some k => { s with ms := { s.ms with bring := [(0, k)] } }
theorem witness_bring_up : (brought 1 none).memState 0 = 1 ∧ mapFind (brought 1 none).ms.bring 0 = none ∧
    mapFind (brought 1 (some 0)).ms.bring 0 = some 0 ∧ (brought 2 (some 5)).memState 0 = 2 ∧
    mapFind (brought 2 (some 5)).ms.bring 0 = some 5 ∧ mapFind (brought 3 (some 4)).ms.bring 0 = some 4 ∧
    live.flag R.FMN_LEAD_STAT F.FMN_LEAD_STAT_NONE = false ∧ (brought 3 (some 4)).ctrlAddrOf (2 ^ 60) = some (0, 0) := by decide
theorem witness_memory_service : live.mapped 0 8 = true ∧ live.mapped (2 ^ 30 - 8) 8 = true ∧ live.mapped (2 ^ 30) 8 = false ∧
    spaceOf 0 = .t0 ∧ live.mapped (2 ^ 60) 8 = true ∧ live.memState 0 = 4 ∧ live.flipMask 0 = 0 ∧
    live.reachableBy false (2 ^ 60) 8 = true ∧ live.rcvOf (live.unitOf (2 ^ 60)) = none ∧ live.pageOut (2 ^ 60 / 4096) = false ∧
    live.sleeping 0 = false := by decide
theorem witness_low_power : live.privWriter .pf0 = true ∧ live.fld (R.T2C_LP 0) F.T2C_LP_PD_TIMER = 0 ∧
    (∃ c : Fin 12, privChannel c = true) ∧ live.memState 16 = 4 ∧ live.rootWriter .pf0 = true := by
  refine ⟨by decide, by decide, ?_, by decide, by decide⟩; decide
/-- An SSD that is present, with a command of an engine and one of a stripe in flight. -/
def drives : State :=
  let d : Ssd := { ssd0 with present := true }
  { live with t3 := { live.t3 with ssds := [(0, d)], cmds := [⟨0, 0, 0, 0, true, false, 0, [1], 0⟩, ⟨1, 0, 0, 0, true, false, 383, [1], 0⟩] } }
theorem witness_ssds : (drives.ssd 0).present = true ∧ (drives.ssd 0).outOfService = false ∧ drives.computeOpen = true ∧
    drives.t3.cmds.find? (fun c => c.port == 0 && c.id == 1) = some ⟨1, 0, 0, 0, true, false, 383, [1], 0⟩ ∧
    live.t3.cmds.find? (fun c => c.port == 0 && c.id == 1) = none ∧ (live.ssd 0).present = false := by decide
/-- An engine that runs a descriptor of an operation, or has halted, stopped or waits. -/
def engined (e op state stage : Nat) (len : Nat) : State :=
  let d : List Byte := leBytes 1 op ++ [0x10, 0, 0] ++ leBytes 4 len ++ List.replicate 56 0
  let s := setFld (engStat e) F.TRM_STAT_STATE state (setFld (engCtl e) F.TRM_CTL_VALID 1 (tabled 1))
  let s := setFld (engCtl e) F.TRM_CTL_OWNER_KIND 3 s
  updEng e (fun x => { x with desc := some d, checked := true, stage, waitAt := some 0 }) s
theorem witness_engine_commands : ∀ st ∈ [0, 1, 2, 3, 4], (engined 0 1 st 0 0).engMayCmd (.foreman 0) 0 = true ∧
    (engined 0 1 st 0 0).engState 0 = st ∧ (engined 0 1 st 0 0).engValid 0 = true ∧ (engined 0 1 st 0 0).engRuns 0 = true ∧
    (engined 0 1 st 0 0).fabBusy (.engine 0) (fun _ => true) = false := by decide +kernel
theorem witness_engine_runs : ∀ op ∈ [0x01, 0x02, 0x03, 0x10, 0x11, 0x12, 0x20, 0x30, 0x31, 0x40, 0x41],
    (engined 320 op 1 0 64).engRuns 320 = true ∧ (engined 320 op 1 0 64).engState 320 = 1 ∧
    ((engined 320 op 1 0 64).eng 320).acted = false ∧ dOp ((engined 320 op 1 0 64).engDesc 320) = op ∧
    dLen ((engined 320 op 1 0 64).engDesc 320) = 64 := by decide +kernel
/-- The accesses of a descriptor that succeed: its fetch, its data and its STATUS word; and a fetch that is refused. -/
theorem witness_engine_accesses : (engRead 0 0 64 .other (engined 0 1 1 0 0)).1 = .ok (List.replicate 64 0) ∧
    (engWrite 0 0 [1] .dataWrite (engined 0 1 1 0 0)).1 = .ok () ∧ (putStatus 0 0 0 (engined 0 1 1 0 0)).1 = .ok () ∧
    spaceOf 0 ≠ .drift ∧ (∃ x, (engRead 0 (2 ^ 30) 64 .other (engined 0 1 1 0 0)).1 = .fail St.busError x) := by
  refine ⟨by decide +kernel, by decide +kernel, by decide +kernel, by decide, 2 ^ 30, by decide +kernel⟩
/-- A wait that holds and one that is over; an object operation that may start, of a foreman whose gate is open. -/
theorem witness_engine_waits : (engined 0 0x30 2 0 0).waitOver 0 ((engined 0 0x30 2 0 0).engDesc 0) = false ∧
    waitHolds ((engined 0 0x30 2 0 0).engDesc 0) 0 = true ∧ (engined 0 0x20 1 0 0).objBusy 0 0 = false ∧
    (engined 0 0x20 1 0 0).engOwnerKind 0 = 3 ∧ (engined 0 0x20 1 0 0).leads = true ∧
    (engined 0 0x20 1 1 0).handleOk 0 = false ∧ ((engined 0 0x20 1 1 0).eng 0).stage = 1 := by decide +kernel

/-! ### Drift accesses, responses, and the units of an engine -/

/-- `runs`, with 64 KiB leased from part 1 and a port towards it up. -/
def borrows : State :=
  let s := setFld (leaseCtl 0) F.PLT_LIN_CTL_PEER 1 (setFld (leaseCtl 0) F.PLT_LIN_CTL_STATE 2 runs)
  setFld (R.PLT_LIN_DIRTY 0) F.PLT_LIN_DIRTY_LIMIT 4 (setFld (R.PLT_LIN_SIZE 0) F.PLT_LIN_SIZE_UNITS 1 s)
/-- The base of the part's lease from part 1. -/
abbrev leaseBase : Nat := 4 * 2 ^ 60 + 2 ^ 45
/-- Accesses to the first and past the last bytes of a lease, and the request that one becomes. -/
theorem witness_drift_accesses : spaceOf leaseBase = .drift ∧
    (let s1 := bump (R.KNC_CNT_ISSUE 0) 1 borrows
     s1.driftCheck false (leaseBase + 65528) 8 = none ∧ (s1.driftCheck false (leaseBase + 65536) 8).isSome = true ∧
     s1.driftCheck true leaseBase 8 = none ∧ s1.driftStalls leaseBase 8 = false ∧
     (fabSend (.ctx 0) 1 0 leaseBase 8 [] s1).isSome = true ∧
     (fabSend (.ctx 0) 2 0 leaseBase 8 (List.replicate 8 7) s1).isSome = true ∧
     (storeRuns 0 (leaseBase) [(0, List.replicate 8 7)] s1).1 = false) ∧
    (runs.driftCheck true leaseBase 8).isSome = true ∧ spaceOf (3 * 2 ^ 60) = .reserved := by decide +kernel
/-- Two accesses to one page, one to another page, one that has failed and one past its time. -/
def answering : State :=
  let a (kind : AccKind) (addr : Nat) (st : AccState) : CtxAcc := ⟨kind, 0, addr, 8, 0, st⟩
  let s := updCtx 0 (fun x => { x with
    out := [a (.vload 1 (2 ^ 64 - 1)) 0 (.ready (List.replicate 64 1)), a (.amo 0 2 1 0) 8 (.ready (List.replicate 8 1)),
            a .store 4096 (.ready []), a (.load 3) 8192 .failed] }) runs
  { s with nclk := 1800000 }
theorem witness_response_order :
    (∃ b ∈ (answering.kc 0).out.take 1, b.addr / 4096 = 8 / 4096) ∧
    (∀ b ∈ (answering.kc 0).out.take 2, b.addr / 4096 ≠ 4096 / 4096) ∧
    (∀ b ∈ (answering.kc 0).out.take 3, b.addr / 4096 ≠ 8192 / 4096) ∧ answering.heldByOn (.ctx 0) 4096 8 = false ∧
    ((answering.kc 0).out[3]?.map CtxAcc.state) = some .failed ∧ 0 + 1800000 ≤ answering.nclk ∧ spaceOf 8192 ≠ .drift := by
  decide
/-- `headed`, on an engine whose buffers, banks and granules are clean and hold something. -/
def filled (c : BitVec 128) : State :=
  let s := headed c
  let w : WBuf := { valid := true, rows := [], int4 := false, scales := none, standby := false, slot := none, single := 0, double := false }
  setMx 0 { s.mx 0 with wb0 := w, wb1 := w, sb := { valid := true, words := [], single := [], double := [] }, table := some (0, []) } s
/-- The engine is quiet, and every command of a unit runs on it. -/
theorem witness_tile_units : (∀ x ∈ [((0x01 : Nat), (0x101 : BitVec 128)), (0x02, 0x102 + 2 ^ 80), (0x03, 0x103), (0x10, 0x110),
      (0x20, 0x120), (0x21, 0x121 + 2 ^ 36), (0x22, 0x122), (0x23, 0x123 + 2 ^ 80)],
      (filled x.2).issuesTile 0 0 x.1 x.2 ∧ (tUnit x.1).isSome = true) := by
  unfold State.issuesTile; decide +kernel
theorem witness_quiet : (filled 0x110).quiet 0 := by unfold State.quiet; decide +kernel
/-- The reads of a tile, of its scales and of a stream that succeed. -/
theorem witness_tile_loads :
    (match (loadTile 0 0 none 0x101 (issueUnit 0 0 0 0x101 (filled 0x101))).1 with | .rows _ _ => true | _ => false) = true ∧
    (match (loadScales 0 0x101 (filled 0x101)).1 with | .inl _ => true | _ => false) = true ∧
    (loadScales 0 0x101 (filled 0x101)).2.1 = false ∧
    (match (loadStream 0 0 (0x102 + 2 ^ 80) (issueUnit 0 0 0 (0x102 + 2 ^ 80) (filled (0x102 + 2 ^ 80)))).1 with
      | .rows _ _ => true | _ => false) = true := by decide +kernel
/-- What a unit reads and writes is clean and free: whole slices, buffers, banks and column tables. -/
theorem witness_tile_operands : (filled 0x110).t0Clean 0 0 16384 ∧ (filled 0x110).t0Free 0 (2 ^ 24 - 65536) 65536 ∧
    (((filled 0x110).mx 0).wb 0).valid = true ∧ (((filled 0x110).mx 0).wb 0).single = 0 ∧
    (((filled 0x110).mx 0).bank 0).single = 0 ∧ (((filled 0x110).mx 0).bank 0).double = false ∧
    (((filled 0x110).mx 0).bank 0).poisoned = false ∧ ((filled 0x110).mx 0).sb.valid = true ∧
    ((filled 0x110).mx 0).sb.single = [] ∧ ((filled 0x110).mx 0).sb.double = [] ∧
    (match ((filled 0x110).mx 0).table with | some p => p.1 | none => 1) = 0 ∧ (scaleOf 0x00184282).reserved = false := by
  unfold State.t0Clean State.t0Free; decide +kernel
/-- A slot that a HSREL releases, and one whose wait finds its layer, is ahead, is behind, and is lost. -/
def released (state layer : Nat) (c : BitVec 128) : State :=
  let s := setFld (R.HST_SLOT_STAT 0 0) F.HST_SLOT_STAT_STATE state (headed c)
  let s := setFld (R.HST_SLOT_STAT 0 0) F.HST_SLOT_STAT_LAYER layer s
  let d : HSlot :=
    { policy := 0, releases := 2, deadline := 100, primary := 2 ^ 24, idxOff := 0, areaOff := 64, tiles := 1, areaLen := 32,
      standby := 0, sbyIdx := 0, sbyArea := 0, mark := 0, missed := false, reading := true, absent := false, halted := false }
  { s with slots := [(0, d)] }
theorem witness_slot_waits : (∀ x ∈ [(2, 0), (3, 0), (4, 0), (2, 1), (2, 65535)],
      (let s := updQ 0 0 (fun y => { y with hold := .slot none }) (released x.1 x.2 0x132)
       s.heldSlot 0 0 = some (0x132, none) ∧ s.slotState 0 0 = x.1 ∧ s.slotLayer 0 0 = x.2)) ∧
    (released 2 0 0x133).headFor 0 0 0x33 = some 0x133 ∧ issueCheck (released 2 0 0x133) 0 0 0x133 = none ∧
    (released 2 0 0x133).fld (R.HST_SLOT_STAT 0 0) F.HST_SLOT_STAT_RELEASED + 1 < 2 ∧ (1 + 65536 - 0) % 65536 ≤ 32767 := by
  decide +kernel
/-- Pending signals: what they cover is done, is not, and has failed; a command that is the oldest of its unit; a queue that
is ready while another has spent its quantum; and adds of this cycle. -/
def signals (st : Option Nat) : State := updQ 0 0 (fun y => { y with sigs := [⟨0x130, [⟨0, 0, st⟩]⟩] }) queued
theorem witness_signals : (∃ h ∈ ((signals none).mq 0 0).sigs.flatMap (·.cov), h.status = none) ∧
    (∀ h ∈ ((signals (some St.ok)).mq 0 0).sigs.flatMap (·.cov), h.status = some St.ok) ∧
    (∀ h ∈ ((signals (some St.aborted)).mq 0 0).sigs.flatMap (·.cov), h.status = some St.aborted) ∧
    ((signals none).seamRoute 0 0 false).isSome = true ∧ (signals none).fld (semReg 0 0) F.MXE_SEM_TENANT = (signals none).qTenant 0 0 ∧
    (let s := updQ 0 0 (fun y => { y with running := [done1] }) queued
     (s.mq 0 0).running.find? (fun r => r.unit == 1) = some done1 ∧ s.runsBefore 0 done1 = false ∧
     s.writeHeld 0 done1.cmd = false ∧ (s.mq 0 0).hold ≠ .rel ∧ (∀ j < 4, (s.mq 0 j).issued = []) ∧ (s.mx 0).replays = []) ∧
    (0 : Nat) ∈ queued.waitOrder ∧ queued.semNow = [] ∧ queued.semOwnerWriter .pf0 = true ∧ runs.mayLeave 0 = true := by
  decide

/-! ### Seams, slots, recovery and leases: what the statements ask besides -/

/-- `live` with every seam link up at full width, link 0 in a state, and failing or not. -/
def seamed (state : Nat) (failing : Bool) : State :=
  let s := updSeams (fun x => { x with failing := if failing then [0] else [] }) (setReg R.FMN_SEAM_STATE 0x5555 live)
  setReg R.FMN_SEAM_STATE (0x5554 + state) s
theorem witness_seams : (seamed 1 false).seamLink 0 = 1 ∧ (seamed 1 false).seamCarries 0 = true ∧
    (seamed 3 false).seamLink 0 = 3 ∧ (seamed 0 false).seamCarries 0 = false ∧
    (let d : SeamDir := { rxSeq := 4, acked := 0, sent := 0, replays := 15, winFlits := 0, winErrors := 1, delivered := 0 }
     (d.count true).winErrors = 2 ∧ ({ d with replays := 16 } : SeamDir).due = true ∧ d.due = false) ∧
    0 ∈ (seamed 3 true).seams.failing ∧
    (let s1 := setSeam 0 0 (updSeams (fun x => { x with failing := x.failing.filter (· != 0) }) (seamed 3 true))
     s1.seamUp 6 = true ∧ s1.hasDetour 0 = true ∧ ∀ d < 6, s1.dieUp d = true → d ∈ s1.keptDies (List.range 6)) := by decide +kernel
/-- A fill that lands before its deadline, and one in each state it needs. -/
def landing : State :=
  let s := setFld (engCtl 320) F.TRM_CTL_OWNER_KIND 3 (setFld (engCtl 320) F.TRM_CTL_VALID 1 (filling true 0))
  { s with slots := s.slots.map fun x => (x.1, { x.2 with deadline := 5000, areaOff := 64 }) }
theorem witness_slot_lands : (∃ d, mapFind landing.slots 0 = some d ∧ landing.nclk ≤ d.mark + d.deadline ∧ d.reading = true ∧
      (match fillSource 0 0 (landing.objIn (landing.obj (handleIndex d.primary)) 1) d landing with
        | (.ok p, s1) => (match putSlot 0 0 p.1 p.2 s1 with
          | (.ok _, s2) => s2.slotDamage 0 0 d == [] && s2.slotState 0 0 == slotFilling
          | _ => false)
        | _ => false) = true ∧ landing.refetchSource 0 0 d ≠ none) ∧
    landing.engActive 320 1 = true ∧ landing.slotState 0 0 = slotFilling := by
  refine ⟨⟨_, rfl, ?_⟩, ?_⟩ <;> decide +kernel
theorem witness_slot_shut : (filling false 0).slotState 0 0 = slotFilling ∧ live.slotState 0 1 ≠ slotFilling ∧
    fillTier ((tabled 1).obj 1) ≠ none ∧ (tabled 1).handleOk (2 ^ 24 * 3) = false := by decide +kernel
/-- A repair and a failure that nothing waits for. -/
theorem witness_recovery_alone : (recov (.t2Stripe 0)).ms.credit = [] ∧ (recov (.t2Stripe 0)).hp0.winWait = [] ∧
    (recov (.t2Stripe 0)).rcvAt 0 0 = some ⟨0, .t2Stripe 0, [], []⟩ ∧ (recov (.t1Page 0)).repair (.t1Page 0) = none ∧
    ((recov (.t1Page 0)).ms.rcv.filter fun e => e.hdie == 0).length < 64 := by decide +kernel
/-- An OFFER of the open lease, one of an old epoch, a message that is due, and a lease that has nothing left to drain. -/
theorem witness_lease_corners :
    (let m : LeaseMsg := { peer := 1, epoch := 0, units := 1 }
     (leased 0 1).openLease 0 m.peer.toNat = some 0 ∧ (leased 0 0).offerStale 0 m = false ∧
     (updLease 0 (fun x => { x with last := some 1 }) (setFld (leaseCtl 0) F.PLT_LIN_CTL_EPOCH 1 (leased 0 0))).offerStale 0 m
       = true ∧
     (let s : State := { leased 64 1 with nclk := usCycles 100 }
      (s.lease 64).msgs.filter (fun m => decide (m.2 + usCycles 100 ≤ s.nclk)) = [(1, 0)])) ∧
    (leased 0 3).draining 0 = none ∧ (leased 0 3).leaseObjects 1 = [] ∧ mapFind ((leased 0 3).lease 0).msgs 7 = none ∧
    (leased 0 3).leaseState 0 = 3 := by decide
/-- The ladder of rates: the next rate of a stack and of a channel, none below the lowest, and what fits. -/
theorem witness_training : (setFld (R.T1C_STAT 0) F.T1C_STAT_RATE 6400 (brought 1 none)).rateBelow 0 = none ∧
    (brought 1 none).rateBelow 0 = some 8000 ∧ (brought 1 none).rateBelow 16 = some 8000 ∧
    (brought 1 none).ratesLeft 16 = [8800, 8000, 6400] ∧ (brought 1 none).trainFits 16 8800 19 true = true ∧
    (brought 1 none).trainFits 16 8800 18 true = false ∧ (brought 1 none).trainFits 16 8800 19 false = false := by decide
/-- A rank that may power down, a stack that reads and writes, and a channel in self-refresh. -/
def asleep1 : State :=
  let s := setFld (R.T2C_LP 0) F.T2C_LP_PD_TIMER 1 live
  setFld (R.T2C_STAT 0) F.T1C_STAT_STATE 5 s
theorem witness_low_power_ranks : (∀ n : Nat, 0 < 2 ^ (Config.rankBits n % 5)) ∧ 16 * 1 ≤ live.nclk - 0 ∧ 0 ∉ live.ms.pdRanks ∧
    asleep1.memState 16 = 5 ∧ asleep1.fld (R.T2C_LP 0) F.T2C_LP_PD_TIMER ≠ 0 ∧ asleep1.sleeping 16 = true ∧
    live.asleep (2 ^ 60) 8 = false ∧ live.ctrlAddrOf (2 ^ 60) = some (0, 0) ∧
    (let s : State := setFld (R.T2C_STAT 0) F.T1C_STAT_STATE 3 { live with ms := { live.ms with srMask := [(16, 0)] } }
     mapFind s.ms.srMask 16 ≠ none ∧ s.memState 16 = 3) := by
  refine ⟨fun n => Nat.two_pow_pos _, ?_⟩; decide
/-- SSDs: a command that ends, one that runs out of time, and a drive that does not come back. -/
def late : State :=
  let d : Ssd := { ssd0 with present := true, ready := true, queues := 1, volatile := true }
  { drives with t3 := { drives.t3 with ssds := [(0, d), (1, { ssd0 with present := true })] }, nclk := usCycles 30000000 }
theorem witness_ssd_ends : (late.nvmeQueued 0).find? (fun c => c.id == 1) = some ⟨1, 0, 0, 0, true, false, 383, [1], 0⟩ ∧
    (late.nvmeQueued 0).find? (fun c => c.id == 7) = none ∧ 0 + nvmeLimit ≤ late.nclk ∧ (late.ssd 1).ready = false ∧
    late.ssdSince (late.ssd 1) + nvmeResetLimit ≤ late.nclk ∧ ¬ (1024 ≤ 383 ∧ 383 ≠ orphanOwner) := by decide

/-! ### Engines -/

theorem witness_engine_at_work : ∀ op ∈ [0x01, 0x02, 0x03, 0x10, 0x11, 0x12, 0x20, 0x31, 0x40, 0x41],
    (engined 320 op 1 0 64).runs 320 op (((engined 320 op 1 0 64).eng 320).desc.getD []) ∧
    (engined 320 op 1 0 64).engWritesOut 320 = false ∧ srcHost ((engined 320 op 1 0 64).engDesc 320) = false := by
  unfold State.runs; decide +kernel
/-- Engine 0 fetches a descriptor, checks one, has a half to tell, has ended one, and is halting. -/
def telling (told : Nat) (halting acted half : Bool) : State :=
  updEng 0 (fun x => { x with
    told, acted, half, pos := 64, halting := if halting then some ⟨St.busError, 0, 0, 0⟩ else none }) (engined 0 1 1 0 64)
theorem witness_descriptor_stages :
    (updEng 0 (fun x => { x with desc := none, checked := false }) (engined 0 1 1 0 64)).engActive 0 1 = true ∧
    (let s := updEng 0 (fun x => { x with checked := false }) (engined 0 1 1 0 64)
     (s.eng 0).checked = false ∧ (s.eng 0).desc ≠ none ∧ dOp (s.engDesc 0) ≠ 0x11) ∧
    (telling 0 false true true).halfDue 0 = false ∧ (telling 1 false true true).engWritesOut 0 = false ∧
    (telling 0 false true false).engState 0 = 1 ∧ ((telling 2 false true true).eng 0).failed = none ∧
    ((telling 0 true true true).eng 0).halting = some ⟨St.busError, 0, 0, 0⟩ ∧ (telling 0 true true true).engRuns 0 = true ∧
    (match (putStatus 0 St.busError 0 (telling 0 true true true)).1 with | .ok _ => true | _ => false) = true := by
  decide +kernel
theorem witness_half : (let s := updEng 0 (fun x => { x with desc := some (leBytes 1 1 ++ [0x10, 1, 0] ++ leBytes 4 64 ++
        List.replicate 24 0 ++ leBytes 8 8192 ++ List.replicate 24 0), pos := 32 }) (engined 0 1 1 0 64)
    s.halfDue 0 = true ∧ (s.eng 0).checked = true ∧ (s.eng 0).failed = none ∧ s.engWritesOut 0 = false ∧
    (match (engNotify 0 (s.engDesc 0) false s).1 with | .ok _ => true | _ => false) = true) := by decide +kernel
/-- A layer descriptor in T0, read by an LFILL into an empty slot. -/
theorem witness_layer_fill : (let s := engined 320 0x40 1 0 64
    (match (engRead 320 (dsc (s.engDesc 320) 8 8) 64 .other s).1 with | .ok _ => true | _ => false) = true ∧
    s.slotState 0 (dsc (s.engDesc 320) 44 1 % 16) = slotEmpty ∧ mapFind s.slots 0 = none ∧ (s.eng 320).stage = 0 ∧
    spaceOf (dsc (s.engDesc 320) 8 8) ≠ .drift) := by decide +kernel
/-- A step of an object operation on a live and on a lost object. -/
theorem witness_object_steps : (tabled 1).handleOk (2 ^ 24) = true ∧ (engined 0 0x20 1 0 0).createOk 0 = false ∧
    (engined 0 0x20 1 0 0).writesOut 0 = false ∧ (touchObj (2 ^ 24) (tabled 3)).handleOk (2 ^ 24) = true ∧
    ((touchObj (2 ^ 24) (tabled 3)).obj 1).state = objLost ∧
    (let v := toStage 0 1 (touchObj (2 ^ 24) (engined 0 0x20 1 0 0)); v.engState 0 = 1 ∧ v.objWrites (v.obj 1) = false) := by
  decide +kernel

/-! ### HP0, the pool and the fabric -/

/-- `runs` with VF 0 configured, and its queue pair 0 enabled, with one entry to fetch, routed to context 0; and a tram of
the queue engine. -/
def hosted : State :=
  let on : FnCfg := { fnCfg0 with bme := true, msixEn := true }
  let s : State := { runs with hp0 := { runs.hp0 with cfg := mapPut runs.hp0.cfg 1 on } }
  let s := setFld (R.HP0_QP_CFG 1 0) F.HP0_QP_CFG_ENABLE 1 s
  let s := setFld (R.HP0_QP_CFG 1 0) F.HP0_QP_CFG_SQ_SIZE_M1 3 (setFld (R.HP0_QP_CFG 1 0) F.HP0_QP_CFG_CQ_SIZE_M1 3 s)
  let s := setFld (R.HP0_QP_STAT 1 0) F.HP0_QP_STAT_SQ_TAIL 1 s
  let s := setFld (R.HP0_QROUTE 0) F.HP0_QROUTE_VALID 1 s
  let s := setFld (R.QOS_TEN_CTL 0) F.QOS_TEN_CTL_INFLIGHT_LIMIT 8 s
  setFld (engCtl 256) F.TRM_CTL_OWNER_KIND 1 (setFld (engCtl 256) F.TRM_CTL_VALID 1 s)
theorem witness_queue_pairs : hosted.barOpen 1 = true ∧ hosted.qpOn 1 0 = true ∧ hosted.sqSize 1 0 = 4 ∧
    hosted.fnWriter 1 .pf0 = true ∧ qpCount 1 = 1024 ∧ qpCount 0 = 64 ∧ hosted.qpOn 1 1 = false ∧
    hosted.qpBusy 1 0 = false ∧ hosted.routeOk 1 0 = true ∧ hosted.barOpen 3 = false ∧ hosted.fnWriter 2 (.vf 0) = false := by decide
/-- A command in flight, and a completion on its way. -/
def tokened : State :=
  let k : Token := { fn := 1, q := 0, epoch := 0, slot := 0, fetchUs := 0, cls := 0, due := none, head := [], ctx := some 0 }
  { hosted with hp0 := { hosted.hp0 with tokens := [k], own := [⟨k, List.replicate 16 0⟩], resetting := [2], admin := [[]],
                                          coal := [(qpKey 1 0, (1, 0))], irqWait := [(0, [5])] } }
theorem witness_host_commands : hosted.canFetch 1 0 = true ∧ live.canFetch 1 0 = false ∧ (hosted.kc 0).intake.length < 32 ∧
    hosted.sqeOk (0x10 :: List.replicate 63 0) = true ∧ hosted.sqeOk (List.replicate 64 0) = false ∧
    tokened.hp0.own.length = 1 ∧ tokened.hostOk 1 = true ∧ tokened.cqRoom 1 0 = true ∧
    mapFind tokened.hp0.coal (qpKey 1 0) = some (1, 0) ∧ mapFind hosted.hp0.coal (qpKey 1 0) = none ∧
    mapGet tokened.hp0.irqWait 0 [] = [5] ∧ mapGet tokened.hp0.irqWait 1 [] = [] ∧
    tokened.hp0.tokens.find? (fun x => x.fn == 1 && x.value == 0) ≠ none ∧
    tokened.flag R.FMN_LEAD_STAT F.FMN_LEAD_STAT_NONE = false ∧ tokened.hp0.admin = [[]] := by decide
theorem witness_host_resets : 2 ∈ tokened.hp0.resetting ∧ 1 ∉ tokened.hp0.resetting ∧ tokened.flrQuiet 2 = true ∧
    0 ∉ tokened.hp0.resetting ∧ tokened.mgmt.released = true ∧ isWindowReg (R.HP0_WIN_ACT_CTL 0 0).off = true ∧
    isWindowReg (R.HP0_QROUTE 0).off = false := by decide +kernel
/-- A window of PF0 onto the first 64 KiB of T0, and one whose shadow is being committed. -/
def windowed : State :=
  let c := R.HP0_WIN_ACT_CTL 0 0
  let s := setFld c F.HP0_WIN_ACT_CTL_VALID 1 (setFld c F.HP0_WIN_ACT_CTL_RD 1 (setFld c F.HP0_WIN_ACT_CTL_WR 1 live))
  setFld (R.HP0_WIN_ACT_CTL 0 1) F.HP0_WIN_ACT_CTL_PENDING 1 (setFld c F.HP0_WIN_ACT_CTL_LIMIT 1 s)
/-- A read of eight bytes through BAR4 of PF0. -/
def asked (off : Nat) : WinReq :=
  { id := 0, ro := false, ido := false, held := false, parked := false, fn := 0, off, rid := 0, tag := 0, len := 8, data := none }
theorem witness_windows : windowed.winTarget (asked 65528) = some 65528 ∧
    windowed.winTarget (asked 65536) = none ∧ (readRange (.host 0) 65528 8 windowed).1 = .ok (List.replicate 8 0) ∧
    (writeRange (.host 0) true 0 [1] windowed).1 = .ok ∧ windowed.flag (R.HP0_WIN_ACT_CTL 0 1) F.HP0_WIN_ACT_CTL_PENDING = true ∧
    windowed.hp0.winWait = [] ∧ windowed.shadowOk 0 0 = true ∧ windowed.privWriter .pf0 = true := by decide
/-- A pool of two extents at home in T2, of which extent 0 is assigned to a SNAPSHOT region and range entry 0, accepted
(or in another state), opens it to host 5; host 6 has spent its bucket. -/
def pooled (state : Nat) : State :=
  let s := setFld R.HP1_POOL_T2 F.HP1_POOL_T2_EXTENTS 2 (setFld (R.HP1_EXT 0) F.HP1_EXT_STATE 1 live)
  let s := setFld (R.HP1_REGION_CFG 0) F.HP1_REGION_CFG_MODE 1 s
  let s := setFld (R.HP1_RANGE_A 0) F.HP1_RANGE_A_SPID 5 s
  let b := R.HP1_RANGE_B 0
  let s := setFld b F.HP1_RANGE_B_RD 1 (setFld b F.HP1_RANGE_B_WR 1 (setFld b F.HP1_RANGE_B_STATE state s))
  setFld (R.HP1_HOST 6) F.HP1_HOST_RATE 1 s
theorem witness_pool : (pooled 2).poolOpen = true ∧ (pooled 2).rangeMatch 5 0 = some 0 ∧ (pooled 2).rangeMatch 4 0 = none ∧
    (pooled 2).rangeMatch 5 (2 ^ 28 - 64) = some 0 ∧ (pooled 2).rangeMatch 5 (2 ^ 28) = none ∧
    (pooled 2).rangeExtsOk 0 = true ∧ (pooled 3).rangeState 0 = 3 ∧ (pooled 2).bucketHolds 5 = false ∧
    (pooled 2).regionMode ((pooled 2).extRegion 0) = 1 ∧ (pooled 2).pageAt 0 0 = 0 ∧ (pooled 2).bucketOn 6 = true ∧
    (pooled 2).bucketOn 5 = false ∧ (pooled 2).mgmt.tripped = false ∧ live.poolOpen = true := by decide
/-- Snoops: one that is due, and none. -/
def snooped : State := { pooled 2 with pool := { live.pool with snoops := [⟨9, 1, 0⟩] }, nclk := usCycles 1000 }
theorem witness_snoops : snooped.pool.snoops.find? (fun n => n.spid == 9 && n.line == 1) = some ⟨9, 1, 0⟩ ∧
    0 + usCycles 1000 ≤ snooped.nclk ∧ snooped.pool.biWait = [] ∧ (∀ e ∈ snooped.ranges, snooped.rangeSpid e ≠ 9) ∧
    live.pool.snoops.any (fun n => n.spid == 9 && n.line == 1) = false ∧ live.frameIn 0 = none ∧
    live.cacheDirty 0 = false := by decide
theorem witness_pool_capacity : (pooled 0).extBad 1 0 = false ∧ (pooled 0).extBad 2 0 = true ∧ (pooled 0).rangeState 0 = 0 ∧
    (pooled 0).rangeClash 0 = false ∧ (pooled 0).rangeExtsOk 0 = true ∧ (pooled 1).rangeState 0 = 1 ∧
    mapFind (pooled 3).pool.drawn 0 = none ∧
    mapFind ({ pooled 3 with pool := { live.pool with drawn := [(0, ⟨0, false, 0, true⟩)] } } : State).pool.drawn 0 =
      some ⟨0, false, 0, true⟩ ∧ usCycles 64 = 115200 ∧ live.privWriter .pf0 = true := by decide

/-- A port that is enabled, of a system of three parts in each dimension, at a step of its bring-up and in a state. -/
def ported (step state : Nat) : State :=
  let s := setReg R.PLT_SYS (2 * 2 ^ 42 + 2 * 2 ^ 37 + 2 * 2 ^ 32) live
  let s : State := { s with locks := mapPut s.locks R.PLT_SYS.off (BitVec.allOnes 64) }
  let s := setFld R.PLT_CTL F.PLT_CTL_PORT_EN 0xFFFF s
  let s := setFld (R.PLT_PORT_LAMBDA 0) F.PLT_PORT_LAMBDA_TX_LOCK 0xFF s
  let s := setFld (R.PLT_PORT_LAMBDA 0) F.PLT_PORT_LAMBDA_RX_GOOD 0xFF s
  updPort 0 (fun x => { x with step }) (setFld (R.PLT_PORT_STAT 0) F.PLT_PORT_STAT_STATE state s)
theorem witness_port_steps : ∀ k ∈ [1, 2, 3, 4, 6], (ported k 0).portMayTrain 0 = true ∧ ((ported k 0).port 0).step = k := by decide
theorem witness_port_enable : live.privWriter .pf0 = true ∧ bitAt (live.fld R.PLT_CTL F.PLT_CTL_PORT_EN) 0 = false ∧
    bitAt ((ported 1 0).fld R.PLT_CTL F.PLT_CTL_PORT_EN) 0 = true ∧ (∀ c < 64, (ported 1 0).collState c ≠ 1) ∧
    lambdas 0x07 = 3 ∧ lambdas 0x0F = 4 ∧ (ported 1 6).portState 0 = 6 := by decide +kernel
/-- Exchange records: the second of two like ones, of a known version and the right cabling, and of an unknown version. -/
def exchanged (r : ExchRecord) : State := updPort 0 (fun x => { x with record := some r }) (ported 6 3)
def wiredRec : ExchRecord :=
  ⟨BitVec.ofNat 15 ((ported 6 3).neighbour 0), BitVec.ofNat 15 (bitsOf ((ported 6 3).reg R.PLT_SYS) 46 32), 1, 2, 0xFF⟩
theorem witness_exchange : (ported 6 3).portMayTrain 0 = true ∧ ((ported 6 3).port 0).record = none ∧
    ((exchanged wiredRec).port 0).record = some wiredRec ∧ ((exchanged wiredRec).port 0).step = 6 ∧
    bitAt wiredRec.versions.toNat 1 = true ∧ bitAt 0 1 = false ∧ wiredRec.coords.toNat = (ported 6 3).neighbour 0 ∧
    wiredRec.size.toNat = bitsOf ((ported 6 3).reg R.PLT_SYS) 46 32 ∧ wiredRec.port.val = partnerPort 0 ∧
    wiredRec.coords.toNat ≠ live.ownCoords ∧
    4 ≤ lambdas ((ported 6 3).fld (R.PLT_PORT_LAMBDA 0) F.PLT_PORT_LAMBDA_TX_LOCK &&& wiredRec.good.toNat) := by decide
theorem witness_port_up : (ported 0 4).portState 0 = 4 ∧ (ported 0 5).portState 0 = 5 ∧ (ported 0 3).portState 0 = 3 ∧
    ((ported 0 4).port 0).rxSeq = 0 ∧ (0 : BitVec 12).toNat = 0 ∧ (∀ c < 64, (ported 0 4).collState c ≠ 1) ∧
    lambdas (0xFF &&& 0x1F) = 5 ∧ lambdas (0xFF &&& 0x07) = 3 := by decide +kernel

/-- A packet, with its type, function or status, source, address and payload. -/
def pkt (type fn src addr : Nat) (payload : List Byte) : Packet :=
  { type, version := 1, dl := 0, rev := 0, dst := 0, src, tag := 0, tagEpoch := 0, epoch2 := 0, lenM8 := 0, fnStatus := fn,
    addr, payload }
/-- `live` with a packet that came by port 0, a lease of 64 KiB to part 1 at epoch 0, one from part 1, and a request in
flight in tag slot 0. -/
def arrived (p : Packet) : State :=
  let s := setFld (R.PLT_LOUT_CTL 0) F.PLT_LOUT_CTL_PEER 1 (setFld (R.PLT_LOUT_CTL 0) F.PLT_LOUT_CTL_STATE 2 live)
  let s := setFld (R.PLT_LIN_CTL 0) F.PLT_LIN_CTL_PEER 1 (setFld (R.PLT_LIN_CTL 0) F.PLT_LIN_CTL_STATE 2 s)
  let s := setFld (R.PLT_LOUT_SIZE 0) F.PLT_LOUT_SIZE_UNITS 1 s
  let r : FabReq := { pkt := { p with type := 1, dst := 1 }, who := .engine 0, time := 0 }
  { s with plt := { s.plt with inq := [(2, p)] }, tags := [(0, { epoch := 0, req := some r })] }
theorem witness_remote : ∀ x ∈ [(1, 0), (2, 8), (3, 0), (4, 16)],
    let p := { pkt x.1 0 1 0 (List.replicate x.2 0) with lenM8 := if x.1 = 3 then 8 else 0 }
    (arrived p).arrival 0 0 = some ((2, p), []) ∧ p.bad = false ∧ (arrived p).grant p (x.1 != 1) = .at_ 0 ∧
    (arrived p).ms.failed.contains (.remote 1 0) = false := by decide
/-- Requests of a stale epoch, past the lease, of no lease, and of a reserved type; the last byte of the lease. -/
theorem witness_remote_refused : (arrived (pkt 1 0 1 0 [])).grant { pkt 1 0 1 0 [] with epoch2 := 1 } false = .stale ∧
    (arrived (pkt 1 0 1 0 [])).grant (pkt 1 0 1 8192 []) false = .none ∧
    (arrived (pkt 1 0 1 0 [])).grant (pkt 1 0 1 8191 []) false = .at_ 65528 ∧
    (arrived (pkt 1 0 1 0 [])).grant (pkt 1 0 2 0 []) false = .none ∧ (pkt 0x07 0 1 0 []).bad = true ∧
    maskRuns (pkt 3 0 1 0 (List.replicate 72 0)) = [] ∧
    maskRuns (pkt 3 0 1 0 (leBytes 8 1 ++ List.replicate 64 7)) = [(0, [7])] := by decide
theorem witness_replies : ∀ t ∈ [0x08, 0x09, 0x0A, 0x0B],
    (arrived (pkt t 0 1 0 [])).arrival 0 1 = some ((2, pkt t 0 1 0 []), []) ∧ (pkt t 0 1 0 []).bad = false ∧
    ((arrived (pkt t 0 1 0 [])).tagSlot (tagIndex 0)).epoch = 0 ∧
    ((arrived (pkt t 0 1 0 [])).tagSlot (tagIndex 0)).req.map FabReq.target = some (4 * 2 ^ 60 + 2 ^ 45) ∧
    (arrived (pkt t 0 1 0 [])).leaseOf (4 * 2 ^ 60 + 2 ^ 45) = some 0 ∧
    (arrived (pkt t 0 1 0 [])).fld (R.PLT_LIN_CTL 0) F.PLT_LIN_CTL_EPOCH = 0 ∧
    (live.tagSlot 8191).req = none := by decide
/-- Ways of packets: to the next part in X with its port up and room for it; to no port that is up; for the foremen. -/
def routed (dst : Nat) (up : Bool) : State :=
  let s := if up then ported 0 4 else ported 0 0
  { s with fabQ := [(0, { pkt 1 0 0 0 [] with dst })], plt := { s.plt with inq := [(2, pkt 0x1C 0 1 0 [0])] } }
theorem witness_packet_ways :
    takeFirst (fun x => planeOf x.1 == 0 && pktVc x.2.type == 0) (routed 1024 true).fabQ =
      some ((0, { pkt 1 0 0 0 [] with dst := 1024 }), []) ∧
    (routed 1024 true).route 0 { pkt 1 0 0 0 [] with dst := 1024 } = some (0, 0, false) ∧
    (routed 1024 true).portState 0 = 4 ∧ (routed 1024 true).portRoom 0 (pkt 1 0 0 0 []) = true ∧
    (routed 1024 false).route 0 { pkt 1 0 0 0 [] with dst := 1024 } = none ∧
    (routed 1024 true).arrival 0 3 = some ((2, pkt 0x1C 0 1 0 [0]), []) ∧ (pkt 0x1C 0 1 0 [0]).bad = false ∧
    (routed 1024 true).leader = some 0 := by decide
/-- A collective that may start, one that runs, and one with packets of its SEQ, of the next one and of another. -/
def collecting (state : Nat) (seq : Nat) (p : Packet) : State :=
  let s := setFld (R.PLT_COLL_CTL 0) F.PLT_COLL_CTL_SEQ seq (arrived p)
  let s := setFld R.PLT_CTL F.PLT_CTL_COLL_TIMEOUT 1 s
  { setFld (R.PLT_COLL_STAT 0) F.PLT_COLL_STAT_STATE state s with nclk := 1800000 }
theorem witness_collectives : live.privWriter .pf0 = true ∧ live.reg (R.PLT_COLL_NOTIFY 0) = 0 ∧
    (collecting 1 0 (pkt 0x10 0 1 0 [])).collState 0 = 1 ∧ live.collState 0 ≠ 1 ∧ live.collBad 0 = true ∧
    (∀ t ∈ [0x10, 0x11, 0x12], (collecting 1 0 (pkt t 0 1 0 [])).arrival 0 2 = some ((2, pkt t 0 1 0 []), []) ∧
      (pkt t 0 1 0 []).bad = false) ∧ (collecting 1 0 (pkt 0x10 0 1 0 [])).collSeq 0 = 0 ∧
    collSeqAhead 0 255 = true ∧ collSeqAhead 0 1 = false ∧
    ((collecting 1 0 (pkt 0x10 0 1 0 [])).coll 0).time + 1800000 * 1 ≤ (collecting 1 0 (pkt 0x10 0 1 0 [])).nclk := by decide
/-- A collective of part 0, the root of a box of one part, that is in order. -/
def rooted : State :=
  let s := setFld (R.PLT_COLL_CTL 0) F.PLT_COLL_CTL_COUNT 1 (ported 0 4)
  setReg (R.PLT_COLL_DST 0) 64 s
theorem witness_collective_go : rooted.collBad 0 = false ∧ rooted.treeWhole 0 = true ∧ rooted.isRoot 0 = true ∧
    (rooted.coll 0).ahead = [] ∧ (rooted.childDims 0) = [] ∧ bitAt 1 0 = true := by decide

/-! ### Bandwidth, events, the foremen and start-up -/

theorem witness_test_mode : (setFld R.PLT_TEST_EN F.PLT_TEST_EN_ARMED 1 live).flag R.PLT_TEST_EN F.PLT_TEST_EN_ARMED = true ∧
    live.whoOpen .pf0 = true ∧ live.leaderRuns = some 0 ∧ State.reset.leaderRuns = none ∧ live.enableOk [] = false := by decide
theorem witness_bandwidth : live.qosLevel 0 8 = 3 ∧ live.qosLevel 0 0 = 0 ∧ live.qosHeld 0 0 20 = qosBucketMax ∧
    [((20 : Nat), (8 : Nat))] = [(20, 8)] ∧ live.privWriter .pf0 = true ∧ (64 + 63) / 64 * 64 = 64 := by decide
/-- A record that waits at a source, before the main ring has a base and after. -/
def recorded (based : Bool) : State :=
  let e : EvRec := { code := 0x102, kind := 0, inst := 0, p0 := 0, p1 := 0, p2 := 0, p3 := 0, time := 0, tenant := none }
  let s := updEv (fun r => { r with queues := [(evSource 0 0, [e])], fatal := [e], filling := [3], buckets := [(evBucketKey 1 1, ⟨1, 0, 0⟩)],
                                     trBucket := [(2, ⟨1, 0, 0⟩)] }) live
  let s := setFld (R.EVR_CODE_CFG 0x102) F.EVR_CODE_CFG_ENABLE 1 s
  let lock (r : Reg) (s : State) : State := { s with locks := mapPut s.locks r.off (BitVec.allOnes 64) }
  if based then lock R.EVR_MAIN_BASE (setReg R.EVR_MAIN_BASE (2 ^ 60) s) else s
theorem witness_events_recorded : (recorded false).recorderRuns = true ∧
    (mapGet (recorded false).ev.queues (evSource 0 0) []).length = 1 ∧ evFatal 0x102 = false ∧
    (recorded false).flag (R.EVR_CODE_CFG 0x102) F.EVR_CODE_CFG_ENABLE = true ∧ (bucketTake 0 0 0 ⟨1, 0, 9⟩).1 = true ∧
    (bucketTake 0 1 1 ⟨1, 0, 9⟩).1 = false ∧ (bucketTake 0 1 2 ⟨1, 0, 9⟩).1 = true ∧ (recorded false).locked R.EVR_MAIN_BASE = false ∧
    (recorded true).locked R.EVR_MAIN_BASE = true ∧ (recorded true).ringOk (2 ^ 60) = true ∧
    (recorded true).ringOk (2 ^ 30) = false ∧ (recorded false).ev.preBase = [] ∧
    mapFind (recorded false).ev.trBucket 2 = some ⟨1, 0, 0⟩ ∧ mapFind (recorded false).ev.buckets (evBucketKey 1 1) = some ⟨1, 0, 0⟩ := by
  decide
theorem witness_rings : live.privWriter .pf0 = true ∧ spaceOf (2 ^ 60) = .t1 ∧ live.locked R.EVR_MAIN_BASE = false ∧
    3 ∈ (recorded false).ev.filling ∧ live.flag (R.EVR_TR_CTL 0) F.EVR_TR_CTL_VALID = false := by decide
/-- Foremen: one that may stand, one whose election is due and won, a split claim, and one that has no leader. -/
def electing (leader standing : Bool) (splitAt : Option Nat) : State :=
  let s := setFld R.FMN_LEAD_STAT F.FMN_LEAD_STAT_NONE (!leader).toNat (setFld (R.FMN_CLAIM 0) F.FMN_CLAIM_ASSERT leader.toNat live)
  let s := updForeman 0 (fun x => { x with standAt := if standing then some 0 else none }) s
  let s := setFld (R.FMN_CLAIM 0) F.FMN_CLAIM_TERM 1 s
  { s with nclk := usCycles 1000, mgmt := { s.mgmt with splitAt } }
theorem witness_elections : (electing false false none).foremanUp 0 = true ∧ (electing false false none).asserts 0 = false ∧
    ((electing false false none).foreman 0).standAt = none ∧ ((electing false true none).foreman 0).standAt = some 0 ∧
    ¬ (electing false true none).nclk < 0 + usCycles 1000 ∧ (electing false true none).winsElection 0 = true ∧
    (electing false true none).winsElection 1 = false ∧ (electing false true none).asserts 1 = false ∧
    (electing true false (some 0)).mgmt.splitAt = some 0 ∧ (electing true false none).leader = some 0 ∧
    (electing true false none).asserts 0 = true ∧ live.nclk < 0 + usCycles 1000 ∧ live.hp0.tokens = [] ∧
    (∀ e < 384, live.engValid e = false) := by decide +kernel
/-- Booting: a foreman of a part whose dies are up, with equal fuses, and one whose fuses differ. -/
def booting (differ : Bool) : State :=
  let s := setFld (R.FMN_BOOT_STAT 0) F.FMN_BOOT_STAT_STATE 0 live
  { s with mgmt := { s.mgmt with fuses := if differ then [{ fusesBlank with usage := 1 }, fusesBlank]
                                          else [{ fusesBlank with usage := 5 }, { fusesBlank with usage := 5 }] } }
theorem witness_boot : (booting false).bootState 0 = 0 ∧ (booting false).dieUp 4 = true ∧ (booting false).fuseMismatch = false ∧
    (booting true).fuseMismatch = true ∧ (booting false).slotReason 0 (booting false).activeSlot true ≠ 0 ∧
    live.gateOpen 0 = true ∧ live.flag R.FMN_FUSE_PROG F.FMN_FUSE_PROG_BUSY = false ∧
    (booting false).fwKey 0 = true ∧ bitAt ((booting false).keyRevoke ||| 2) 0 = false ∧ live.svnFloor = 0 ∧
    (setFld R.FMN_FUSE_STAT F.FMN_FUSE_STAT_MISMATCH 1 live).recovering = true ∧ live.recovering = false ∧
    0x3FFFFFF < 2 ^ 26 := by decide
/-- Requests that are in order, at the stages of a connection, and one that comes too early; an endpoint that is up. -/
def talking (stage : Nat) : State := { live with mgmt := { live.mgmt with mctp := { spdmReset with stage } } }
theorem witness_attestation :
    (∀ x ∈ [(0x84, 0, 4), (0xE1, 1, 20), (0xE3, 2, 32), (0x81, 3, 4), (0x82, 3, 8), (0x83, 3, 36), (0xE0, 3, 4)],
      (talking x.2.1).spdmReaches true = true ∧ (talking x.2.1).leaderRuns.isSome = true ∧
      leAt (leBytes 1 (if x.1 = 0x84 then 0x10 else 0x12) ++ leBytes 1 x.1 ++ List.replicate (x.2.2 - 2) 0) 1 1 = x.1 ∧
      x.2.1 ≤ ((talking x.2.1).spdm true).stage) ∧ live.spdmReaches false = true ∧ State.reset.spdmReaches true = false ∧
    live.endpointUp = true ∧ State.reset.endpointUp = false ∧ (3 : BitVec 8).toNat ∉ mctpTypes ∧
    (setFld R.FMN_LEAD_STAT F.FMN_LEAD_STAT_NONE 1 live).leader = none := by decide
theorem witness_power : live.mgmt.released = true ∧ live.halfControlled 0 = true ∧ live.dieUp 0 = true ∧
    5 * live.fld R.PWR_CAP_CFG F.PWR_CAP_CFG_CAP_W < 4 * 2751 ∧ 4 * 2750 ≤ 5 * live.fld R.PWR_CAP_CFG F.PWR_CAP_CFG_CAP_W ∧
    hottest 0 (List.replicate 6 (some 109)) = some (0, 109) ∧ live.fld R.PWR_THERM_CFG F.PWR_THERM_CFG_THROTTLE_C = 100 ∧
    (List.replicate 6 (none : Option Nat))[5]? = some none := by decide
/-- `live` with every stack in service. -/
def settled : State := (List.range 16).foldl (fun s n => setFld (R.T1C_STAT n) F.T1C_STAT_STATE 4 s) live
theorem witness_start_up : State.reset.mgmt.released = false ∧ live.leaderRuns = some 0 ∧
    (List.replicate 8 LinkWidth.full).length = 8 ∧ (∀ w ∈ List.replicate 8 LinkWidth.half, w ≠ .down) ∧
    (List.range 16).all settled.memSettled = true ∧ settled.mgmt.runtime = true ∧ settled.leader.isSome = true ∧
    (setFld R.CLK_START_STAT F.CLK_START_STAT_PHASE 2 settled).fld R.CLK_START_STAT F.CLK_START_STAT_PHASE = 2 ∧
    usCycles 50000 = 90000000 := by decide +kernel
theorem witness_idle : State.reset.pending = [] ∧ live.pending = [] ∧ live.crewUp 63 = true ∧ live.foremanUp 0 = true ∧
    1800000 % msCycles = 0 := by decide
/-- The state after reset meets the invariant of the byte lists, and so does a state that lists bytes. -/
theorem witness_canonical : State.reset.bytesWf = true ∧ (tabled 1).bytesWf = true ∧ (tabled 1).mem ≠ [] := by decide

/-! ### Hosts, the pool, the fabric, events and the foremen: what the statements ask besides -/

theorem witness_host_access : hosted.cfgReaches 0 = true ∧ live.cfgReaches 5 = false ∧ (setReg (msixData 1 0) 0 hosted).msixMasked 1 0 = false ∧
    hosted.hostPosted = [] ∧ tokened.irqToken 1 = true ∧ (hosted.fnCfg 1).msixEn = true ∧ qpKey 1 0 ∉ hosted.hp0.heldErr ∧
    hosted.flag R.FMN_LEAD_STAT F.FMN_LEAD_STAT_FROZEN = false ∧ hosted.computeOpen = true := by decide
/-- A peer read that is performed, one that waits for its window, and one that waits for a posted write before it. -/
theorem witness_window_order : (windowed.hp0.winWait = [] ∧ windowed.winMayGo (asked 0) = true ∧
    windowed.flag (R.HP0_WIN_ACT_CTL 0 0) F.HP0_WIN_ACT_CTL_PENDING = false) ∧
    (let posted : WinReq := { asked 0 with data := some [1] }
     (updHp0 (fun h => { h with winWait := [posted] }) windowed).winMayGo { asked 0 with id := 1 } = false ∧
     (updHp0 (fun h => { h with winWait := [posted] }) windowed).winMayGo { posted with id := 1, ro := true } = true) := by decide
/-- A host's request that is served, and its command on the control page of a region. -/
theorem witness_pool_order : (pooled 2).pool.linkQ = [] ∧ (pooled 2).linkFull = false ∧ (pooled 2).mgmt.tripped = false ∧
    ((pooled 2).snap 0).host 5 = snapHost0 ∧ snapHost0.busy ≤ (pooled 2).nclk ∧ snapHost0.clean = true ∧ snapHost0.full = false ∧
    (pooled 2).pageAt 0 0 = (pooled 2).fld (R.HP1_REGION_CFG 0) F.HP1_REGION_CFG_FIRST_EXT * 65536 ∧
    ((pooled 2).snap 0).tooMany 5 = false ∧ (pooled 2).flag (R.HP1_RANGE_B 0) F.HP1_RANGE_B_WR = true ∧
    (pooled 2).pool.biWait = [] ∧ mapGet (pooled 2).pool.hostQ 5 [] = [] := by decide
/-- Frames of the cache: clean, dirty with a home in T2, and dirty with one in T3. -/
def cachedPage (page : Nat) (dirty : Bool) : State := updPool (fun x => { x with cache := [⟨page, dirty, zeroFrame⟩] }) (pooled 2)
theorem witness_frames : ((cachedPage 0 false).frameIn 0).map (·.dirty) = some false ∧
    ((cachedPage 0 true).frameIn 0).map (·.dirty) = some true ∧ (cachedPage 0 true).homeIsT2 0 = true ∧
    (writeHome 0 zeroFrame (cachedPage 0 true)).isSome = true ∧ (cachedPage (2 * 65536) true).homeIsT2 (2 * 65536) = false ∧
    ((cachedPage (2 * 65536) true).t3.cmds.any fun x => x.owner == pageOwner (2 * 65536) && x.write) = false := by decide +kernel
/-- A port that is due to retrain, and one that is not; a packet whose turn it is. -/
theorem witness_port_turns : (updPort 0 (fun x => { x with again := 16 }) (ported 0 4)).retrainDue 0 = true ∧
    (ported 0 4).retrainDue 0 = false ∧ (updPort 0 (fun x => { x with record := some wiredRec }) (ported 0 4)).sending 0 &&& 0xFE ≠
      (updPort 0 (fun x => { x with record := some wiredRec }) (ported 0 4)).sending 0 ∧ lambdas (0xFF &&& 0xFE) = 7 ∧
    (let s := routed 1024 true
     s.nextVc 0 = some 0 ∧ s.nextInput 0 0 = some 0 ∧ (takeFirst (fun x => (s.leaves x.1 x.2).isNone) s.fabQ) = none ∧
     (takeFirst (s.isFor 0 0 0) s.fabQ).isSome = true) ∧
    (takeFirst (fun x => ((routed 1024 false).leaves x.1 x.2).isNone) (routed 1024 false).fabQ).isSome = true ∧
    pktVc 0x10 = 2 ∧ pktVc 1 = 0 := by decide +kernel
/-- The lender's accesses that succeed. -/
theorem witness_lender : (readRange (.remote 1 0) 0 8 (arrived (pkt 1 0 1 0 []))).1 = .ok (List.replicate 8 0) ∧
    (writeRange (.remote 1 0) true 0 [1] (arrived (pkt 2 0 1 0 [1]))).1 = .ok ∧
    (arrived (pkt 3 0 1 0 [])).asleep 0 64 = false ∧
    (memAmo (.remote 1 0) 0 0 1 0 (arrived (pkt 4 0 1 0 []))).1 = .ok (List.replicate 8 0) ∧
    fabTimeout ≤ ({ arrived (pkt 8 0 1 0 []) with nclk := 1800000 } : State).nclk := by decide
/-- Packets of a collective that runs: of another operation, past its chunks, and in order; and what a part gives. -/
def gathering : State := setFld (R.PLT_COLL_CTL 0) F.PLT_COLL_CTL_COUNT 256 (collecting 1 0 (pkt 0x10 0 1 0 (List.replicate 512 0)))
theorem witness_collective_packets : gathering.collOp 0 = 0 ∧ gathering.collKind 0 = 0 ∧ gathering.collChunks 0 = 2 ∧
    bitsOf 1 1 0 ≠ gathering.collOp 0 ∧ (gathering.coll 0).done = [] ∧ (mapGet (gathering.coll 0).chunks 0 chunk0).gave = [] ∧
    gathering.isRoot 0 = true ∧ gathering.childDims 0 = [] ∧ (0 : Nat) + 1 < 2 ∧ gathering.collState 0 = 1 ∧
    gathering.reg (R.PLT_COLL_NOTIFY 0) = 0 := by decide
/-- A request whose way is free, with a full bucket, and one whose way stands still. -/
theorem witness_regulated : (∃ l p, (seamed 1 false).qosPath 1 (.part 0 false) = some (l, p) ∧
      (∀ x ∈ l, (seamed 1 false).seamStalled x = false) ∧ p.Nodup ∧ ∀ k ∈ p, k < 32 ∧ 64 ≤ (seamed 1 false).qosHeld 1 0 k) ∧
    (∃ l p, (seamed 3 false).qosPath 0 (.host true) = some (l, p) ∧ ∃ x ∈ l, (seamed 3 false).seamStalled x = true) ∧
    live.qos.nextReport ≤ live.nclk := by
  refine ⟨⟨_, _, rfl, ?_⟩, ⟨_, _, rfl, ?_⟩, ?_⟩ <;> decide
/-- A bucket in the middle of its period and past it; a record that is written, and a copy that a tenant's ring takes. -/
theorem witness_buckets : 0 < gainPeriod 100 ∧ 0 < (⟨3, 0, 10⟩ : EvBucket).spent ∧ (⟨3, 0, 10⟩ : EvBucket).ends ≤ 20 ∧
    (recorded true).reg R.EVR_MAIN_WR - (recorded true).reg R.EVR_MAIN_RD < mainSlots ∧
    (recorded true).flag R.EVR_CTL F.EVR_CTL_IEN = false ∧ (recorded false).ev.preBase.length < preBaseMax ∧
    (let s := setFld (R.EVR_TR_BASE 0) F.EVR_TR_BASE_ADDR (2 ^ 48) (recorded true)
     0 ∉ s.ev.filling ∧ (bucketTake 0 0 0 evBucket0).1 = true ∧ s.reg (R.EVR_TR_WR 1) - s.reg (R.EVR_TR_RD 1) ≠ s.trSlots 0 ∧
     s.ringOk (2 ^ 60) = true ∧ s.flag (R.EVR_TR_CTL 0) F.EVR_TR_CTL_IEN = false) := by decide
/-- Two foremen that both assert their claims, the second one OUT, at equal and at different terms. -/
def rivals (term : Nat) : State :=
  let s := setFld (R.FMN_CLAIM 1) F.FMN_CLAIM_ASSERT 1 (electing false true none)
  setFld (R.FMN_CLAIM 1) F.FMN_CLAIM_OUT 1 (setFld (R.FMN_CLAIM 1) F.FMN_CLAIM_TERM term s)
theorem witness_rivals : ∀ t ∈ [0, 1, 2], (rivals t).winsElection 0 = true ∧ (rivals t).asserts 1 = true ∧
    ((rivals t).foreman 0).standAt = some 0 ∧ (rivals t).claim 0 F.FMN_CLAIM_TERM = 1 ∧
    (rivals t).claim 1 F.FMN_CLAIM_TERM = t ∧ usCycles 1000 ≤ (rivals t).nclk := by decide
theorem witness_fuses : live.gateOpen 0 = true ∧ live.flag R.FMN_FUSE_PROG F.FMN_FUSE_PROG_BUSY = false ∧
    (∃ k < 4, (booting false).fwKey k = true ∧ bitAt ((booting false).keyRevoke ||| 2) k = false) ∧
    (setFld R.FMN_FUSE_PROG F.FMN_FUSE_PROG_BUSY 1 live).flag R.FMN_FUSE_PROG F.FMN_FUSE_PROG_BUSY = true := by decide
/-- Dies at the temperatures where the rows of R414 meet, and a release of compute. -/
theorem witness_heat : hottest 0 (List.replicate 6 (some 105)) = some (0, 105) ∧ hottest 0 (List.replicate 6 (some 98)) = some (0, 98) ∧
    hottest 0 (List.replicate 6 (some 97)) = some (0, 97) ∧ 8 < (live.half 0).thermDuty ∧ (live.half 0).thermHalf = false ∧
    live.nclk < (live.half 0).fellAt + usCycles 1000 ∧ usCycles 10000 ≤ ({ live with nclk := 18000000 } : State).nclk := by decide

/-! ### Worked examples of the manual -/

/-- spec/02, the three modes at and near ties: p / 4 for p = 10, −10, 6, −6 and 7. -/
theorem test_rounding : [10, -10, 6, -6, 7].map (fun p => (requantCore p 1 2 0, requantCore p 1 2 1, requantCore p 1 2 2)) =
    [(2, 3, 2), (-2, -3, -3), (2, 2, 1), (-2, -2, -2), (2, 2, 1)] := by decide
/-- spec/02, a column record: MULT 17 026, SHIFT 24. -/
theorem test_scale_record : scaleOf 0x00184282 = { mult := 17026, shift := 24, rnd := 0 } := by decide
/-- spec/02, a scaled dot product: block alignment, and the requantised output, clamped for its neighbour. -/
theorem test_scaled_dot : requantCore 96 20000 14 0 = 117 ∧ requantCore (-576) 13107 14 0 = -461 ∧
    requantise (-344) { mult := 23831, shift := 20, rnd := 0 } .int8 = (-8, false) ∧
    requantise 5900 { mult := 23831, shift := 20, rnd := 0 } .int8 = (127, true) := by decide
/-- spec/00, a drift address of the part at (3, 17, 30). -/
theorem test_drift_address : spaceOf 0x41C7C00001000000 = .drift ∧ bitsOf 0x41C7C00001000000 59 45 = 3646 ∧
    3646 = 3 * 1024 + 17 * 32 + 30 := by decide
/-- spec/08, two flips in one word: its check bits, and the decode. -/
theorem test_two_flips : eccEncode 1 = (0x89, 0x48) ∧ eccDecode (maskOf [0, 67]) = .corrected [0, 67] := by decide +kernel
/-- spec/08, a T1 word: its stack and its pseudo-channel. -/
theorem test_t1_word : stackOf 0x2BCDF0E780 = 4 ∧ 0x2BCDF0E780 % stackBytes = 4886783872 ∧ 4886783872 / 256 % 32 = 7 := by decide
/-- spec/06, an index entry. -/
theorem test_index_entry : indexEntry 0x00210C8000002150 =
    { codec := 2, zero := false, valid := true, length := 3200, offset := 0x2150 } := by decide
/-- spec/12, the header of a read around a dead part, as its bytes on the fibre. -/
theorem test_packet_header :
    { pkt 1 0 3646 0x200008 [] with dst := 6690, tag := 0x123, tagEpoch := 5, epoch2 := 2, lenM8 := 7 }.bytes =
    [0x21, 0x88, 0x68, 0x7C, 0x1C, 0x23, 0x01, 0x05, 0x02, 0x07, 0x00, 0x02, 0x00, 0x08, 0x00, 0x00] := by decide
/-- spec/13, one lode channel lost: ADMIT_MAX, and the rate under HIGH. -/
theorem test_qos_feedback : admitMax 8448 = 6758 ∧ admitMax 7744 = 6195 ∧ qosAdjust 4000 2750 4000 2 7744 = 3375 ∧
    qosAdjust 3375 2750 4000 2 7744 = 3063 ∧ qosAdjust 3063 2750 4000 2 7744 = 2907 := by decide
/-- spec/04, an MMA: its fields. -/
theorem test_mma_fields : tOpcode 0x0000000AC0001FC101530110 = 0x10 ∧ tf 0x0000000AC0001FC101530110 71 48 = 0x0AC000 ∧
    tf 0x0000000AC0001FC101530110 44 38 = 127 ∧ tf 0x0000000AC0001FC101530110 31 16 = 0x153 := by decide
/-- spec/05, the lookups of the softmax: LUTCFG0 and LUTCFG1, the interpolated exponential and the reciprocal. -/
theorem test_softmax_lookups :
    (lutLane ((setReg (R.KNC_LUTCFG 0 0) 0x00000001FFFFF802 live).lutCfg 0 0)
      ((List.range 1024).map fun i => if i = 639 then 816 else 822) (-767)).1 = 819 ∧
    (lutLane ((setReg (R.KNC_LUTCFG 0 0) 0x0000001440000000 live).lutCfg 0 0)
      ((List.range 1024).map fun i => if i = 566 then 10552 else 10545) 1667694592).1 = 10549 := by decide +kernel

/-! ### One step each -/

/-- What a command leaves, where it answers a next state. -/
def after {α : Type} (i : Instr) (s : State) (f : State → α) : Option α :=
  match exec i s with
  | .next t => some (f t)
  | _ => none
/-- `runs` with values in g1 and g2 of context 0. -/
def values (a b : Nat) : State := setReg (ctxG 0 1) a (setReg (ctxG 0 2) b runs)

/-- R111: ADD wraps, and its destination may be a source. -/
theorem test_add : after (.kAdd 0 1 1 2) (values (2 ^ 64 - 1) 2) (fun t => (t.g 0 1, t.g 0 2, t.reg (ctxPc 0))) = some (1, 2, 4) := by
  decide
/-- R112: division by zero, and of the most negative number by −1. -/
theorem test_div : after (.kDiv 0 3 1 2) (values 5 0) (fun t => t.g 0 3) = some (2 ^ 64 - 1) ∧
    after (.kDiv 0 3 1 2) (values (2 ^ 63) (2 ^ 64 - 1)) (fun t => t.g 0 3) = some (2 ^ 63) ∧
    after (.kRem 0 3 1 2) (values 5 0) (fun t => t.g 0 3) = some 5 := by decide
/-- R108: g0 discards a result. -/
theorem test_g0 : after (.kAdd 0 0 1 2) (values 1 2) (fun t => (t.g 0 0, t.reg (ctxPc 0))) = some (0, 4) := by decide
/-- R114: a misaligned load raises MISALIGN and is not performed. -/
theorem test_misaligned : after (.kLsw 0 3 1 2) (values 0 0) (fun t => (t.ctxState 0, t.fld (ctxStat 0) F.KNC_CTX_STAT_CAUSE,
    t.reg (ctxExcaddr 0), t.g 0 3)) = some (4, Cause.misalign, 2, 0) := by decide
/-- R114: a store to scratch is read back in the bytes it wrote. -/
theorem test_scratch_store : after (.kSsh 0 1 2 8) (values 0x1234 0) (fun t => memGets t.cores.scratch (t.scrAddr 0 7) 4) =
    some [0, 0x34, 0x12, 0] := by decide
/-- R116: a branch that is taken goes back. -/
theorem test_branch : after (.kBeqz 0 3 0x1FFFFF) (setReg (ctxPc 0) 8 runs) (fun t => t.reg (ctxPc 0)) = some 4 := by decide
/-- R78: NOP completes with OK at issue, and writes an entry because NOTIFY is set. -/
theorem test_tile_nop : after (.tNop 0 0) (headed 0x00071100) (fun t => ((t.mq 0 0).waiting, (t.mq 0 0).entries)) =
    some ([], [0x0007000000000000]) := by decide
/-- R93: an add to a semaphore saturates and sets OVF. -/
theorem test_semaphore_add : after (.mxeSemAdd (.foreman 0) 0 0 0xFFFF) (setFld (semReg 0 0) F.MXE_SEM_COUNT 0xFFFFFFFF live)
    (fun t => (t.fld (semReg 0 0) F.MXE_SEM_COUNT, t.flag (semReg 0 0) F.MXE_SEM_OVF)) = some (0xFFFFFFFF, true) := by decide
/-- R21: a flit that is in order is delivered, and one whose CRC fails is replayed and counted. -/
theorem test_seam_flit : after (.seamFlitReceive 0 false 0 true) (setReg R.FMN_SEAM_STATE 1 live)
      (fun t => ((t.seamDir 0 false).rxSeq, (t.seamDir 0 false).delivered)) = some (1, 1) ∧
    after (.seamFlitReceive 0 false 0 false) (setReg R.FMN_SEAM_STATE 1 live)
      (fun t => ((t.seamDir 0 false).rxSeq, t.reg (R.FMN_SEAM_RETRY_CNT 0))) = some (0, 1) := by decide
/-- R267: a doorbell sets SQ_TAIL, and a stale one is counted and dropped. -/
theorem test_doorbell : after (.sqDoorbell 1 0 0 8 3) hosted (fun t => t.qpStat 1 0 F.HP0_QP_STAT_SQ_TAIL) = some 3 ∧
    after (.sqDoorbell 1 0 0 8 0x10003) hosted (fun t => (t.qpStat 1 0 F.HP0_QP_STAT_SQ_TAIL, t.reg R.HP0_CNT_STALE)) =
      some (1, 1) := by decide
/-- R425: PERST_N resets a running context. -/
theorem test_perst : after .perstAssert runs (fun t => (t.ctxState 0, t.fld R.CLK_RESET_CAUSE F.CLK_RESET_CAUSE_CAUSE)) =
    some (0, 1) := by decide
/-- Log 1: a step runs the command at the front of the queue and leaves the rest. -/
theorem test_step_queue : (match step { runs with pending := [.perstAssert, .refclkLoss] } with
    | .next t => t.pending.length | _ => 0) = 1 := by decide
/-- Log 76: past an absolute limit the model stops. -/
theorem test_absolute_limit : exec (.supplyFault 0 true) live = .fault .beyondAbsoluteLimits := rfl
/-- R19: the routes from H0 to C3 and back, by bit 12; R23: with S1 down, the shortest way that is left. -/
theorem test_routes : (seamed 1 false).seamRoute 4 3 false = some [1, 7] ∧ (seamed 1 false).seamRoute 4 3 true = some [0, 6, 5] ∧
    (seamed 1 false).seamRoute 3 4 true = some [5, 6, 0] ∧ (setSeam 1 0 (seamed 1 false)).seamRoute 4 1 false = some [0, 4] := by
  decide +kernel
/-- R336: the management VC goes before the requests, and a VC passed over for 64 slots before it. -/
theorem test_vc_order :
    (let s := { routed 1024 true with fabQ := [(0, { pkt 1 0 0 0 [] with dst := 1024 }), (0, { pkt 0x1C 0 0 0 [0] with dst := 1024 })] }
     s.nextVc 0 = some 3 ∧ (updPort 0 (fun x => { x with passed := [(0, 64)] }) s).nextVc 0 = some 0) := by decide +kernel
/-- R50: a row of INT8 by INT16 is added in two parts, which saturate each on its own: 2^31 − 1 + 255 − 256. -/
theorem test_int16_parts : addElem 2 none 0 2147483647 [-1] [1] = (2147483391, 1) := by decide

end Sys2Proof.Tests
end

section
/-! SUPPORT. The operand arithmetic of the kneader on machine words (R2, R111 to R113): the model's numbers and exact integers are
the values of `BitVec`s. -/

namespace Sys2Proof.Machine

/-! ### Numbers, integers and words -/

theorem bitAt_eq_testBit (v i : Nat) : bitAt v i = v.testBit i := by
  rw [bitAt, Nat.testBit, Nat.one_and_eq_mod_two]
  rcases Nat.mod_two_eq_zero_or_one (v >>> i) with h | h <;> rw [h] <;> rfl

/-- The signed value of the low bits of a number is that of the word they form. -/
theorem sextNat_eq_toInt {w : Nat} (hw : 0 < w) (n : Nat) : sextNat w n = (BitVec.ofNat w n).toInt := by
  have h2 : 2 ^ w = 2 * 2 ^ (w - 1) := by rw [← Nat.pow_succ']; congr 1; omega
  simp only [sextNat, BitVec.toInt, BitVec.toNat_ofNat]
  congr 1
  exact propext ⟨fun h => by omega, fun h => by omega⟩

theorem wrapNat_eq_toNat (w : Nat) (x : Int) : wrapNat w x = (BitVec.ofInt w x).toNat := (BitVec.toNat_ofInt x).symm

@[simp] theorem s64_toNat (a : BitVec 64) : s64 a.toNat = a.toInt := by
  rw [s64, sextNat_eq_toInt (by decide), BitVec.ofNat_toNat, BitVec.setWidth_eq]

@[simp] theorem ofNat_w64 (x : Int) : BitVec.ofNat 64 (w64 x) = BitVec.ofInt 64 x := by
  rw [w64, wrapNat_eq_toNat, BitVec.ofNat_toNat, BitVec.setWidth_eq]

theorem ofNat_eq_of_mod {n : Nat} {v : BitVec 64} (h : n % 2 ^ 64 = v.toNat) : BitVec.ofNat 64 n = v :=
  BitVec.eq_of_toNat_eq ((BitVec.toNat_ofNat ..).trans h)

theorem ofInt_sub_toInt (a b : BitVec 64) : BitVec.ofInt 64 (a.toInt - b.toInt) = a - b := by
  rw [Int.sub_eq_add_neg, BitVec.ofInt_add, BitVec.ofInt_neg, BitVec.ofInt_toInt, BitVec.ofInt_toInt, BitVec.sub_eq_add_neg]

/-! ### Shifts and comparisons -/

theorem shiftK_left (a : BitVec 64) (k : Nat) : BitVec.ofNat 64 (shiftK 0 k a.toNat) = a <<< k :=
  ofNat_eq_of_mod (by simp [shiftK, BitVec.toNat_shiftLeft, Nat.shiftLeft_eq])

theorem shiftK_right (a : BitVec 64) (k : Nat) : BitVec.ofNat 64 (shiftK 1 k a.toNat) = a >>> k := by
  have h : a.toNat / 2 ^ k < 2 ^ 64 := (Nat.div_le_self ..).trans_lt a.isLt
  exact ofNat_eq_of_mod (by rw [shiftK, Nat.mod_eq_of_lt h, BitVec.toNat_ushiftRight, Nat.shiftRight_eq_div_pow])

theorem shiftK_arith (a : BitVec 64) (k : Nat) : BitVec.ofNat 64 (shiftK 2 k a.toNat) = a.sshiftRight k := by
  rw [shiftK, ofNat_w64, s64_toNat, ← Int.shiftRight_eq_div_pow, ← BitVec.toInt_sshiftRight, BitVec.ofInt_toInt]
  all_goals simp

theorem ofNat_decide (p : Prop) [Decidable p] : BitVec.ofNat 64 (decide p).toNat = if p then 1 else 0 := by
  by_cases h : p <;> simp [h]

/-! ### Products, quotients and remainders (R112) -/

theorem mulHigh_signed (a b : BitVec 64) : BitVec.ofNat 64 (w64 (s64 a.toNat * s64 b.toNat / 2 ^ 64)) =
    ((a.signExtend 128 * b.signExtend 128) >>> 64).setWidth 64 := by
  have hp : a.signExtend 128 * b.signExtend 128 = BitVec.ofInt 128 (a.toInt * b.toInt) := by
    rw [BitVec.ofInt_mul]; rfl
  rw [ofNat_w64, s64_toNat, s64_toNat, hp]
  apply BitVec.eq_of_toNat_eq
  rw [BitVec.toNat_setWidth, BitVec.toNat_ushiftRight, Nat.shiftRight_eq_div_pow, BitVec.toNat_ofInt, BitVec.toNat_ofInt]
  omega

theorem mulHigh_unsigned (a b : BitVec 64) : BitVec.ofNat 64 (a.toNat * b.toNat / 2 ^ 64) =
    ((a.setWidth 128 * b.setWidth 128) >>> 64).setWidth 64 := by
  have h : a.toNat * b.toNat < 2 ^ 128 := by
    have := Nat.mul_lt_mul'' a.isLt b.isLt
    norm_num at this ⊢
    exact this
  apply BitVec.eq_of_toNat_eq
  rw [BitVec.toNat_setWidth, BitVec.toNat_ushiftRight, Nat.shiftRight_eq_div_pow, BitVec.toNat_ofNat, BitVec.toNat_mul,
    BitVec.toNat_setWidth, BitVec.toNat_setWidth, Nat.mod_eq_of_lt (a := a.toNat) (by omega),
    Nat.mod_eq_of_lt (a := b.toNat) (by omega), Nat.mod_eq_of_lt h]

theorem ofInt_tdiv (a b : BitVec 64) : BitVec.ofInt 64 (a.toInt.tdiv b.toInt) = a.sdiv b := by
  apply BitVec.eq_of_toInt_eq
  rw [BitVec.toInt_ofInt, BitVec.toInt_sdiv]

theorem ofNat_divK (a b : BitVec 64) : BitVec.ofNat 64 (divK a.toNat b.toNat) =
    if b = 0 then BitVec.allOnes 64 else a.sdiv b := by
  by_cases h : b = 0
  · subst h; rfl
  · have hb : b.toNat ≠ 0 := fun e => h (BitVec.eq_of_toNat_eq e)
    rw [divK, if_neg hb, if_neg h, ofNat_w64, s64_toNat, s64_toNat, ofInt_tdiv]

theorem ofInt_sub_mul (a b : BitVec 64) (n : Int) :
    BitVec.ofInt 64 (a.toInt - b.toInt * n) = a - b * BitVec.ofInt 64 n := by
  rw [Int.sub_eq_add_neg, BitVec.ofInt_add, BitVec.ofInt_neg, BitVec.ofInt_mul, BitVec.ofInt_toInt, BitVec.ofInt_toInt,
    BitVec.sub_eq_add_neg]

/-- The remainder is `a − b · (a / b)` even where the quotient wraps (R112). -/
theorem ofNat_remK (a b : BitVec 64) : BitVec.ofNat 64 (remK a.toNat b.toNat) = if b = 0 then a else a.srem b := by
  by_cases h : b = 0
  · subst h; simp [remK]
  · have hb : b.toNat ≠ 0 := fun e => h (BitVec.eq_of_toNat_eq e)
    have hq : s64 (divK a.toNat b.toNat) = (a.sdiv b).toInt := by
      rw [s64, sextNat_eq_toInt (by decide), ofNat_divK, if_neg h]
    rw [remK, if_neg hb, if_neg h, ofNat_w64, s64_toNat, s64_toNat, hq]
    calc BitVec.ofInt 64 (a.toInt - b.toInt * (a.sdiv b).toInt)
        = a - b * a.sdiv b := by rw [ofInt_sub_mul, BitVec.ofInt_toInt]
      _ = BitVec.ofInt 64 (a.toInt - b.toInt * a.toInt.tdiv b.toInt) := by rw [ofInt_sub_mul, ofInt_tdiv]
      _ = a.srem b := by rw [← Int.tmod_def, ← BitVec.toInt_srem, BitVec.ofInt_toInt]

/-- Clamping to a signed range is the nearest value of the range. -/
theorem clampBits_eq (w : Nat) (x : Int) :
    clampBits w x = max (-(2 : Int) ^ (w - 1)) (min ((2 : Int) ^ (w - 1) - 1) x) := by
  have : (0 : Int) < 2 ^ (w - 1) := by positivity
  simp only [clampBits, Nat.cast_pow, Nat.cast_ofNat]
  split_ifs <;> omega

theorem ofInt_clamp_add (a b : BitVec 64) : BitVec.ofInt 64 (clampBits 64 (a.toInt + b.toInt)) =
    if a.saddOverflow b then (if a.msb then BitVec.intMin 64 else BitVec.intMax 64) else a + b := by
  have ha := BitVec.two_mul_toInt_lt (x := a)
  have ha' := BitVec.le_two_mul_toInt (x := a)
  have hb := BitVec.two_mul_toInt_lt (x := b)
  have hb' := BitVec.le_two_mul_toInt (x := b)
  rw [BitVec.msb_eq_toInt, BitVec.saddOverflow, clampBits_eq]
  simp only [Bool.or_eq_true, decide_eq_true_eq]
  by_cases hi : a.toInt + b.toInt ≥ 2 ^ 63
  · rw [if_pos (Or.inl hi), if_neg (by omega), min_eq_left (by omega), max_eq_right (by omega)]
    rfl
  by_cases lo : a.toInt + b.toInt < -2 ^ 63
  · rw [if_pos (Or.inr lo), if_pos (by omega), max_eq_left (by omega)]
    rfl
  · rw [if_neg (by omega), min_eq_right (by omega), max_eq_right (by omega), BitVec.ofInt_add, BitVec.ofInt_toInt,
      BitVec.ofInt_toInt]

/-! ### Bit counts -/

theorem findIdx_range_eq {n i : Nat} {p : Nat → Bool} (h : i < n) (hp : p i = true) (hj : ∀ j < i, p j = false) :
    (List.range n).findIdx p = i := by
  rw [List.findIdx_eq (by simpa using h)]
  simpa using ⟨hp, hj⟩

theorem clzBits_eq (a : BitVec 64) :
    clzBits 64 a.toNat = (List.range 65).findIdx fun n => n == 64 || a.getLsbD (63 - n) := by
  symm
  rw [clzBits, Nat.mod_eq_of_lt a.isLt]
  by_cases h : a.toNat = 0
  · rw [if_pos h]
    exact findIdx_range_eq (by decide) rfl fun j hj => by simp [BitVec.getLsbD, h]; omega
  · have hl : a.toNat.log2 < 64 := (Nat.log2_lt h).2 a.isLt
    rw [if_neg h]
    refine findIdx_range_eq (by omega) ?_ fun j hj => ?_
    · rw [BitVec.getLsbD, show 63 - (64 - 1 - a.toNat.log2) = a.toNat.log2 by omega, Nat.testBit_log2 h, Bool.or_true]
    · have hz : a.toNat.testBit (63 - j) = false :=
        Nat.testBit_lt_two_pow (Nat.lt_log2_self.trans_le (Nat.pow_le_pow_right (by decide) (by omega)))
      simp [BitVec.getLsbD, hz]; omega

/-- The first number below `n` that passes a test, or `n` where none does. -/
theorem find?_range_getD (n : Nat) (p : Nat → Bool) :
    ((List.range n).find? p).getD n = (List.range (n + 1)).findIdx fun k => k == n || p k := by
  symm
  cases h : (List.range n).find? p with
  | none =>
    rw [List.find?_range_eq_none] at h
    exact findIdx_range_eq (Nat.lt_succ_self n) (by simp) fun j hj => by simpa using ⟨hj.ne, by simpa using h j hj⟩
  | some i =>
    rw [List.find?_range_eq_some] at h
    obtain ⟨hp, hi, hj⟩ := h
    have hin := List.mem_range.1 hi
    exact findIdx_range_eq (by simp; omega) (by simp [hp]) fun j hji => by simpa [(hji.trans hin).ne] using hj j hji

theorem ctzBits_eq (a : BitVec 64) : ctzBits 64 a.toNat = (List.range 65).findIdx fun n => n == 64 || a.getLsbD n := by
  rw [ctzBits, find?_range_getD]
  simp only [bitAt_eq_testBit, BitVec.getLsbD]

theorem popBits_eq (a : BitVec 64) : popBits 64 a.toNat = (List.range 64).countP a.getLsbD := by
  rw [popBits, ← List.countP_eq_length_filter]
  simp only [bitAt_eq_testBit]
  rfl

theorem ofNat_sext {w : Nat} (hw : 0 < w) (a : BitVec 64) :
    BitVec.ofNat 64 (w64 (sextNat w a.toNat)) = (a.setWidth w).signExtend 64 := by
  rw [ofNat_w64, sextNat_eq_toInt hw, BitVec.ofNat_toNat]
  rfl

/-! ### Instructions that write a general register (R111, R112) -/

theorem toNat_gv (s : State) (c i : Nat) : (s.gv c i).toNat = s.g c i := by
  rw [State.gv, BitVec.toNat_ofNat, Nat.mod_eq_of_lt (g_lt s c i)]

/-- The instruction completes, leaves a word in rd (or nothing where rd is g0), and changes nothing else. -/
def GivesG (c rd : Nat) (i : Instr) (v : BitVec 64) (s : State) : Prop :=
  ∃ t, exec i s = .next t ∧ t.g c rd = (if rd = 0 then 0 else v.toNat) ∧ RegDone c (destG c rd) s t

/-- An instruction that issues and whose effect is to write a number to rd. -/
theorem givesG_issue {c rd n : Nat} {u : Use} {eff : State → Eff} {i : Instr} {v : BitVec 64} {s : State} (hr : rd < 32)
    (h : s.issues c u) (hi : exec i s = .next (issue c u eff s))
    (he : eff (bump (R.KNC_CNT_ISSUE (coreOf c)) 1 s) = .done (setG c rd n (bump (R.KNC_CNT_ISSUE (coreOf c)) 1 s)))
    (hv : BitVec.ofNat 64 n = v) : GivesG c rd i v s := by
  refine ⟨_, hi, ?_⟩
  rw [issue_of eff h, he, ← hv, BitVec.toNat_ofNat]
  exact regDone_setG hr

theorem givesG_scalar2 {c rd ra rb : Nat} {f : Nat → Nat → Nat} {i : Instr} {v : BitVec 64} {s : State} (hr : rd < 32)
    (ha : ra < 32) (hb : rb < 32) (h : s.issues c ⟨[ra, rb], [rd]⟩) (hi : exec i s = .next (scalar2 c rd ra rb f s))
    (hv : BitVec.ofNat 64 (f (s.gv c ra).toNat (s.gv c rb).toNat) = v) : GivesG c rd i v s :=
  givesG_issue (n := f (s.g c ra) (s.g c rb)) hr h hi (by rw [g_bump (c := c) ha, g_bump (c := c) hb])
    (by rw [← hv, toNat_gv, toNat_gv])

theorem givesG_scalar1 {c rd ra : Nat} {f : Nat → Nat} {i : Instr} {v : BitVec 64} {s : State} (hr : rd < 32)
    (ha : ra < 32) (h : s.issues c ⟨[ra], [rd]⟩) (hi : exec i s = .next (scalar1 c rd ra f s))
    (hv : BitVec.ofNat 64 (f (s.gv c ra).toNat) = v) : GivesG c rd i v s :=
  givesG_issue (n := f (s.g c ra)) hr h hi (by rw [g_bump (c := c) ha]) (by rw [← hv, toNat_gv])

/-- Settles O2: each instruction issues as `scalar2` or `scalar1` (R111), and its arithmetic is that of words (R112). -/
theorem scalarRegisterResults : Obligations.ScalarRegisterResults := by
  unfold Obligations.ScalarRegisterResults
  intro c rd ra rb s a b gives
  refine ⟨fun h => ?_, fun h => ?_⟩
  · have on {i : Instr} {f : Nat → Nat → Nat} {v : BitVec 64} (hi : exec i s = .next (scalar2 c rd ra rb f s))
        (hv : BitVec.ofNat 64 (f a.toNat b.toNat) = v) : gives i v := givesG_scalar2 rd.isLt ra.isLt rb.isLt h hi hv
    refine ⟨on rfl ?add, on rfl ?sub, on rfl ?and, on rfl ?or, on rfl ?xor, on rfl (shiftK_left a _), on rfl (shiftK_right a _),
      on rfl (shiftK_arith a _), on rfl ?slt, on rfl ?sltu, on rfl ?min, on rfl ?max, on rfl ?mul, on rfl (mulHigh_signed a b),
      on rfl (mulHigh_unsigned a b), on rfl (ofNat_divK a b), on rfl (ofNat_remK a b), on rfl ?adds⟩
    case add => rw [ofNat_w64, s64_toNat, s64_toNat, BitVec.ofInt_add, BitVec.ofInt_toInt, BitVec.ofInt_toInt]
    case sub => rw [ofNat_w64, s64_toNat, s64_toNat, ofInt_sub_toInt]
    case and => rw [← BitVec.toNat_and, BitVec.ofNat_toNat, BitVec.setWidth_eq]
    case or => rw [← BitVec.toNat_or, BitVec.ofNat_toNat, BitVec.setWidth_eq]
    case xor => rw [← BitVec.toNat_xor, BitVec.ofNat_toNat, BitVec.setWidth_eq]
    case slt => simp only [ofNat_decide, s64_toNat, BitVec.slt_eq_decide, decide_eq_true_eq]
    case sltu => simp only [ofNat_decide, BitVec.ult, decide_eq_true_eq]
    case min =>
      simp only [s64_toNat, BitVec.slt_eq_decide, decide_eq_true_eq, apply_ite (BitVec.ofNat 64), BitVec.ofNat_toNat,
        BitVec.setWidth_eq]
    case max =>
      simp only [s64_toNat, BitVec.slt_eq_decide, decide_eq_true_eq, apply_ite (BitVec.ofNat 64), BitVec.ofNat_toNat,
        BitVec.setWidth_eq]
    case mul => rw [← BitVec.toNat_mul, BitVec.ofNat_toNat, BitVec.setWidth_eq]
    case adds => rw [ofNat_w64, s64_toNat, s64_toNat, ofInt_clamp_add]
  · have on {i : Instr} {f : Nat → Nat} {v : BitVec 64} (hi : exec i s = .next (scalar1 c rd ra f s))
        (hv : BitVec.ofNat 64 (f a.toNat) = v) : gives i v := givesG_scalar1 rd.isLt ra.isLt h hi hv
    exact ⟨on rfl (congrArg _ (clzBits_eq a)), on rfl (congrArg _ (ctzBits_eq a)), on rfl (congrArg _ (popBits_eq a)),
      on rfl (ofNat_sext (by decide) a), on rfl (ofNat_sext (by decide) a), on rfl (ofNat_sext (by decide) a)⟩

end Sys2Proof.Machine
end

section
/-! SUPPORT. Branches and jumps (R116). -/

namespace Sys2Proof.Machine

/-! ### Targets -/

theorem branchTo_eq (s : State) (c : Nat) (off : BitVec 21) :
    branchTo (s.reg (ctxPc c)) off = (BitVec.ofNat 64 (s.reg (ctxPc c)) + 4 * off.signExtend 64).toNat := by
  rw [branchTo, wrapNat_eq_toNat, BitVec.ofInt_add, BitVec.ofInt_mul, BitVec.ofInt_natCast]
  rfl

theorem addrI_eq (a : BitVec 64) (imm : BitVec 16) : addrI a.toNat imm = (a + imm.signExtend 64).toNat := by
  rw [addrI, wrapNat_eq_toNat, BitVec.ofInt_add, BitVec.ofInt_natCast, BitVec.ofNat_toNat, BitVec.setWidth_eq]
  rfl

theorem s64_beq_zero (a : BitVec 64) : (s64 a.toNat == 0) = decide (a = 0) := by
  rw [s64_toNat, beq_eq_decide]
  exact decide_eq_decide.2 (BitVec.toInt_inj (y := 0))

theorem pc_bump (s : State) (c k : Nat) : (bump (R.KNC_CNT_ISSUE k) 1 s).reg (ctxPc c) = s.reg (ctxPc c) :=
  reg_bump_ne s 1 (pc_ne_issue c k)

/-- Only the low 64 bits of the next PC count. -/
theorem Retired.congr {c m n : Nat} {rs : List Reg} {s t : State} (h : Retired c m rs s t) (e : m % 2 ^ 64 = n % 2 ^ 64) :
    Retired c n rs s t := ⟨h.pc.trans e, h.issued, h.instret, h.regs, h.others⟩

theorem next_pc_eq (n : Nat) : (BitVec.ofNat 64 n + 4).toNat = (n + 4) % 2 ^ 64 := by
  rw [BitVec.toNat_add, BitVec.toNat_ofNat, Nat.mod_add_mod]; rfl

/-! ### Instructions that only move the PC -/

/-- The instruction completes with a next PC and changes nothing else. -/
def Goes (c next : Nat) (i : Instr) (s : State) : Prop :=
  ∃ t, exec i s = .next t ∧ Retired c next [] s t ∧ CtxSame c s t ∧ Keeps [.ctl, .knc] s t

theorem retired_bump {c next : Nat} {s : State} :
    let t := retire c next (bump (R.KNC_CNT_ISSUE (coreOf c)) 1 s)
    Retired c next [] s t ∧ CtxSame c s t ∧ Keeps [.ctl, .knc] s t :=
  ⟨retired_of (acted_refl ..), ctxSame_retire rfl, kept_retire (by decide) (kept_bump (by decide) (keeps_refl _ _))⟩

/-- A conditional branch: it goes to its target where it is taken, and else to the next instruction. -/
theorem goes_issue {c : Nat} {u : Use} {i : Instr} {off : BitVec 21} {taken : Bool} {eff : State → Eff} {s : State}
    (h : s.issues c u) (hi : exec i s = .next (issue c u eff s))
    (he : let b := bump (R.KNC_CNT_ISSUE (coreOf c)) 1 s
      eff b = if taken then .jump (branchTo (b.reg (ctxPc c)) off) b else .done b) :
    Goes c (if taken then (BitVec.ofNat 64 (s.reg (ctxPc c)) + 4 * off.signExtend 64).toNat
      else (BitVec.ofNat 64 (s.reg (ctxPc c)) + 4).toNat) i s := by
  refine ⟨_, hi, ?_⟩
  rw [issue_of eff h, he, pc_bump, branchTo_eq]
  cases taken with
  | true => exact retired_bump
  | false =>
    obtain ⟨hr, hc, hk⟩ := retired_bump (c := c) (next := s.reg (ctxPc c) + 4) (s := s)
    exact ⟨hr.congr (by rw [if_neg Bool.false_ne_true, next_pc_eq, Nat.mod_mod]), hc, hk⟩

theorem goes_branch {c ra : Nat} {i : Instr} {off : BitVec 21} {p : Nat → Bool} {s : State} (ha : ra < 32)
    (h : s.issues c ⟨[ra], []⟩) (hi : exec i s = .next (branch c ra off p s)) {taken : Bool}
    (ht : p (s.gv c ra).toNat = taken) :
    Goes c (if taken then (BitVec.ofNat 64 (s.reg (ctxPc c)) + 4 * off.signExtend 64).toNat
      else (BitVec.ofNat 64 (s.reg (ctxPc c)) + 4).toNat) i s :=
  goes_issue h hi (by rw [← ht, toNat_gv, ← g_bump (c := c) (k := coreOf c) ha])

/-! ### Jumps that link -/

/-- A jump that leaves a word in rd. -/
theorem retired_setG {c rd next : Nat} {v : BitVec 64} {s : State} (hr : rd < 32) :
    let t := retire c next (setG c rd v.toNat (bump (R.KNC_CNT_ISSUE (coreOf c)) 1 s))
    t.g c rd = (if rd = 0 then 0 else v.toNat) ∧ Retired c next (destG c rd) s t ∧ CtxSame c s t ∧
      Keeps [.ctl, .knc] s t := by
  refine ⟨?_, retired_of (acted_setG hr _ _), ctxSame_retire (ctxSame_setG _ (bump _ 1 s)),
    kept_retire (by decide) (kept_setG (by decide) (kept_bump (by decide) (keeps_refl _ _)))⟩
  rw [g_retire hr, g_setG, Nat.mod_eq_of_lt v.isLt]

/-- Settles O9: a branch goes by its condition, and a jump links and goes where its target is aligned (R116). -/
theorem branchResults : Obligations.BranchResults := by
  unfold Obligations.BranchResults
  intro c rd ra pa sense off imm s pc there goes
  refine ⟨fun h => ?_, fun h => ?_, fun h => ?_, fun h => ?_⟩
  · have on {i : Instr} {p : Nat → Bool} {taken : Bool} (hi : exec i s = .next (branch c ra off p s))
        (ht : p (s.gv c ra).toNat = taken) : goes i taken := goes_branch ra.isLt h hi ht
    refine ⟨on rfl ?eq, on rfl ?ne, on rfl ?lt, on rfl ?ge⟩
    case eq => exact s64_beq_zero _
    case ne => rw [bne, s64_beq_zero, ← decide_not]
    case lt => rw [s64_toNat, BitVec.msb_eq_toInt]
    case ge => rw [s64_toNat, BitVec.msb_eq_toInt, ← decide_not]; simp only [not_lt, ge_iff_le]
  · refine goes_issue h rfl ?_
    dsimp only
    rw [p_bump pa.isLt]
    cases sense <;> by_cases h0 : s.p c pa = 0 <;> simp [h0]
  · refine ⟨_, rfl, ?_⟩
    rw [issue_of _ h]
    dsimp only
    rw [pc_bump, branchTo_eq, ← next_pc_eq]
    exact retired_setG rd.isLt
  · intro dest
    refine ⟨_, rfl, ?_⟩
    have hd : addrI ((bump (R.KNC_CNT_ISSUE (coreOf c)) 1 s).g c ra) imm = dest := by
      rw [g_bump (c := c) ra.isLt, ← toNat_gv, addrI_eq]
    rw [issue_of _ h]
    dsimp only
    rw [hd, pc_bump, ← next_pc_eq]
    split
    · exact exceptedAt_of c.isLt (by decide) (BitVec.isLt _) (excBase_bump s)
    · exact retired_setG rd.isLt

end Sys2Proof.Machine
end

section
/-! SUPPORT. The lanes of a vector as a list over their numbers (R108, R117), and what writes a predicate register (R119). -/

namespace Sys2Proof.Machine

/-! ### Lanes by number -/

theorem laneS_eq_toInt (es x : Nat) : laneS es x = (BitVec.ofNat (8 * 2 ^ es) x).toInt :=
  sextNat_eq_toInt (Nat.mul_pos (by decide) (Nat.two_pow_pos es)) x

theorem lanesOf_eq_map {es : Nat} {v : List Byte} (h : v.length = 64) (he : es < 4) :
    lanesOf es v = (List.range (64 / 2 ^ es)).map (lane es v) := by
  have hl := length_lanesOf h he
  refine List.ext_getElem (by rw [hl, List.length_map, List.length_range]) fun k h1 _ => ?_
  have hk : k < 64 / 2 ^ es := hl ▸ h1
  have hg := getD_lanesOf h he hk
  rw [List.getD_eq_getElem _ _ h1] at hg
  rw [hg, List.getElem_map, List.getElem_range]

theorem zipIdx_map_range {α : Type} (n : Nat) (f : Nat → α) :
    ((List.range n).map f).zipIdx = (List.range n).map fun k => (f k, k) :=
  List.ext_getElem (by simp) fun k _ _ => by simp

theorem getD_map_range {α : Type} {n k : Nat} (f : Nat → α) (d : α) (hk : k < n) :
    ((List.range n).map f).getD k d = f k := by
  rw [List.getD_eq_getElem _ _ (by simpa using hk), List.getElem_map, List.getElem_range]

/-! ### The bits of a predicate -/

theorem lanePred_cons (es : Nat) (b : Bool) (ls : List Bool) :
    lanePred es (b :: ls) = 2 ^ 2 ^ es * lanePred es ls + if b then 2 ^ 2 ^ es - 1 else 0 := by
  have shift : (fun x : Bool × Nat => if x.1 then (2 ^ 2 ^ es - 1) * 2 ^ (2 ^ es * (x.2 + 1)) else 0) =
      fun x => 2 ^ 2 ^ es * if x.1 then (2 ^ 2 ^ es - 1) * 2 ^ (2 ^ es * x.2) else 0 := by
    funext x
    rw [Nat.mul_succ, pow_add, mul_ite, Nat.mul_zero]
    congr 1
    ring
  simp only [lanePred, laneBytes, List.zipIdx_cons', List.map_cons, List.sum_cons, List.map_map, Function.comp_def, Prod.map,
    id, Nat.mul_zero, pow_zero, Nat.mul_one]
  rw [shift, List.sum_map_mul_left, Nat.add_comm]

/-- Each lane's test fills the bits of the lane. -/
theorem testBit_lanePred (es : Nat) (ls : List Bool) (j : Nat) : (lanePred es ls).testBit j = ls.getD (j / 2 ^ es) false := by
  induction ls generalizing j with
  | nil => simp [lanePred]
  | cons b ls ih =>
    have hw : 0 < 2 ^ es := Nat.two_pow_pos es
    have hb : (if b then 2 ^ 2 ^ es - 1 else 0) < 2 ^ 2 ^ es := by
      have := Nat.two_pow_pos (2 ^ es)
      split <;> omega
    rw [lanePred_cons, Nat.testBit_two_pow_mul_add _ hb]
    by_cases h : j < 2 ^ es
    · rw [if_pos h, Nat.div_eq_of_lt h, List.getD_cons_zero]
      cases b <;> simp [Nat.testBit_two_pow_sub_one, h]
    · obtain ⟨m, rfl⟩ := Nat.exists_eq_add_of_le (Nat.le_of_not_lt h)
      rw [if_neg h, ih, Nat.add_sub_cancel_left, Nat.add_div_left _ hw, List.getD_cons_succ]

/-! ### Instructions that write a predicate register -/

theorem acted_setP {c pd : Nat} (hp : pd < 8) (v : Nat) (s : State) : Acted c (destP c pd) s (setP c pd v s) := by
  unfold setP destP
  by_cases h : pd = 0
  · rw [if_pos h, if_pos h]; exact acted_refl ..
  · rw [if_neg h, if_neg h]
    refine ⟨reg_setReg_ne _ _ ?_, reg_setReg_ne _ _ ?_, rfl,
      onlyRegs_setReg (onlyRegs_refl _ s) v List.mem_cons_self, fun _ _ => rfl⟩
    · simp only [ne_eq]; omega
    · simp only [ne_eq, coreOf]; omega

theorem ctxSame_setP {c pd : Nat} (v : Nat) (s : State) : CtxSame c s (setP c pd v s) := by
  unfold setP
  split <;> rfl

theorem p_setP {c pd : Nat} (v : Nat) (s : State) : (setP c pd v s).p c pd = if pd = 0 then ones64 else v % 2 ^ 64 := by
  unfold setP State.p
  split
  · rfl
  · rw [reg_setReg_self]

/-- An instruction whose effect is to write a predicate register. -/
theorem regDone_setP {c pd v : Nat} {s : State} (hp : pd < 8) :
    let t := retire c (s.reg (ctxPc c) + 4) (setP c pd v (bump (R.KNC_CNT_ISSUE (coreOf c)) 1 s))
    t.p c pd = (if pd = 0 then ones64 else v % 2 ^ 64) ∧ RegDone c (destP c pd) s t := by
  refine ⟨?_, retired_of (acted_setP hp v _), ctxSame_retire (ctxSame_setP v (bump (R.KNC_CNT_ISSUE (coreOf c)) 1 s)),
    kept_retire (by decide) (kept_setP (by decide) (kept_bump (by decide) (keeps_refl _ _)))⟩
  rw [p_retire hp, p_setP]

/-- The instruction completes, leaves a word in pd (or nothing where pd is p0), and changes nothing else. -/
def GivesP (c pd : Nat) (i : Instr) (v : BitVec 64) (s : State) : Prop :=
  ∃ t, exec i s = .next t ∧ t.p c pd = (if pd = 0 then 2 ^ 64 - 1 else v.toNat) ∧ RegDone c (destP c pd) s t

/-- An instruction that issues and whose effect is to write a number to pd. -/
theorem givesP_issue {c pd n : Nat} {u : Use} {eff : State → Eff} {i : Instr} {v : BitVec 64} {s : State} (hp : pd < 8)
    (h : s.issues c u) (hi : exec i s = .next (issue c u eff s))
    (he : eff (bump (R.KNC_CNT_ISSUE (coreOf c)) 1 s) = .done (setP c pd n (bump (R.KNC_CNT_ISSUE (coreOf c)) 1 s)))
    (hv : BitVec.ofNat 64 n = v) : GivesP c pd i v s := by
  refine ⟨_, hi, ?_⟩
  rw [issue_of eff h, he, ← hv, BitVec.toNat_ofNat]
  exact regDone_setP hp

theorem givesP_pred2 {c pd pa pb : Nat} {f : Nat → Nat → Nat} {i : Instr} {v : BitVec 64} {s : State} (hp : pd < 8)
    (ha : pa < 8) (hb : pb < 8) (h : s.issues c ⟨[], []⟩) (hi : exec i s = .next (pred2 c pd pa pb f s))
    (hv : BitVec.ofNat 64 (f (s.p c pa) (s.p c pb)) = v) : GivesP c pd i v s :=
  givesP_issue hp h hi (by rw [p_bump ha, p_bump hb]) hv

theorem ofNat_ones_sub {n : Nat} (h : n < 2 ^ 64) : BitVec.ofNat 64 (ones64 - n) = ~~~BitVec.ofNat 64 n :=
  ofNat_eq_of_mod (by
    rw [BitVec.toNat_not, BitVec.toNat_ofNat, Nat.mod_eq_of_lt h, ones64]
    exact Nat.mod_eq_of_lt (by omega))

/-- A reserved operand of an instruction that issues (R110). -/
theorem excepted_reserved {c cause : Nat} {u : Use} {i : Instr} {s : State} (hc : c < 1024) (hk : cause < 256)
    (h : s.issues c u) (hi : exec i s = .next (issue c u (fun s => .excFree cause s) s)) :
    ∃ t, exec i s = .next t ∧ Excepted c cause s t := by
  refine ⟨_, hi, ?_⟩
  rw [issue_of _ h]
  exact excepted_excFree hc hk

/-! ### VCMP -/

theorem compareCC_one (a b : Int) : compareCC 1 a b = decide (a ≠ b) := by
  rw [compareCC, bne, beq_eq_decide, ← decide_not]

/-- The tests of VCMP, lane by lane. -/
def cmpLanes (s : State) (c va vb pg es cc : Nat) : List Bool :=
  (List.range (64 / 2 ^ es)).map fun k =>
    laneActive es (s.p c pg) k && compareCC cc (laneS es (lane es (s.v c va) k)) (laneS es (lane es (s.v c vb) k))

theorem exec_kVcmp {c : Fin 1024} {pd pg cc : Fin 8} {va vb : Fin 16} {es : Fin 4} {s : State} (hcc : cc.val < 6)
    (h : s.issues c ⟨[32 + va.val, 32 + vb.val], []⟩) :
    exec (.kVcmp c pd va vb pg es cc) s = .next (retire c (s.reg (ctxPc c) + 4)
      (setP c pd (lanePred es (cmpLanes s c va vb pg es cc)) (bump (R.KNC_CNT_ISSUE (coreOf c)) 1 s))) := by
  refine congrArg Host.Outcome.next ((if_neg (Nat.not_le.2 hcc)).trans ?_)
  rw [vcmp, issue_of _ h]
  dsimp only
  rw [v_bump va.isLt, v_bump vb.isLt, p_bump pg.isLt, lanesOf_eq_map (length_v ..) es.isLt,
    lanesOf_eq_map (length_v ..) es.isLt, List.zip_map', zipIdx_map_range, List.map_map]
  simp only [cmpLanes, Function.comp_def, laneOn_eq]

theorem testBit_cmpLanes {s : State} {c va vb pg es cc j : Nat} (he : es < 4) (hj : j < 64) :
    (lanePred es (cmpLanes s c va vb pg es cc) % 2 ^ 64).testBit j =
      (laneActive es (s.p c pg) (j / 2 ^ es) && compareCC cc (laneS es (lane es (s.v c va) (j / 2 ^ es)))
        (laneS es (lane es (s.v c vb) (j / 2 ^ es)))) := by
  have hk : j / 2 ^ es < 64 / 2 ^ es := Nat.div_lt_div_of_lt_of_dvd (pow_dvd_pow 2 (show es ≤ 6 by omega)) hj
  rw [Nat.testBit_mod_two_pow, decide_eq_true hj, Bool.true_and, testBit_lanePred, cmpLanes, getD_map_range _ _ hk]

/-- Settles O6: the predicate operations are those of words, and VCMP fills the bits of the lanes that pass (R119). -/
theorem predicateResults : Obligations.PredicateResults := by
  unfold Obligations.PredicateResults
  intro c pd pa pb pg va vb g es cc s a b gives
  refine ⟨fun h => ?_, fun h => ?_, fun h => ?_, fun hcc h => ?_⟩
  · have on {i : Instr} {f : Nat → Nat → Nat} {v : BitVec 64} {pb : Fin 8} (hi : exec i s = .next (pred2 c pd pa pb f s))
        (hv : BitVec.ofNat 64 (f (s.p c pa) (s.p c pb)) = v) : gives i v :=
      givesP_pred2 pd.isLt pa.isLt pb.isLt h hi hv
    refine ⟨on rfl BitVec.ofNat_and, on rfl BitVec.ofNat_or, on rfl BitVec.ofNat_xor, on rfl ?andn,
      on rfl (ofNat_ones_sub (p_lt ..)), fun hcc => ?reserved⟩
    case andn => rw [BitVec.ofNat_and, ofNat_ones_sub (p_lt ..)]
    case reserved => exact excepted_reserved c.isLt (by decide) h (congrArg _ (if_pos hcc))
  · exact givesG_issue g.isLt h rfl (by rw [p_bump pa.isLt]) rfl
  · exact givesP_issue pd.isLt h rfl (by rw [g_bump (c := c) g.isLt]) rfl
  · intro w x y holds
    obtain ⟨hp, hd⟩ := regDone_setP (c := c) (v := lanePred es (cmpLanes s c va vb pg es cc)) (s := s) pd.isLt
    refine ⟨_, exec_kVcmp hcc h, fun h0 j hj => ?_, hd⟩
    have hc : compareCC cc (x (j / 2 ^ es.val)) (y (j / 2 ^ es.val)) = holds (j / 2 ^ es.val) := by
      simp only [holds]
      rcases cc.val with _ | _ | _ | _ | _ | n
      case succ.zero => exact compareCC_one _ _
      all_goals rfl
    rw [hp, if_neg h0, testBit_cmpLanes es.isLt hj, laneS_eq_toInt, laneS_eq_toInt, ← hc]

end Sys2Proof.Machine
end

section
/-! SUPPORT. Reductions over the active lanes of a vector, and moves between lanes and a general register (R120). -/

namespace Sys2Proof.Machine

/-! ### The active lanes -/

/-- The numbers of the active lanes, in order. -/
def activeOn (es p : Nat) : List Nat := (List.range (64 / 2 ^ es)).filter (laneActive es p)

theorem activeLanes_eq {es : Nat} {v : List Byte} (p : Nat) (h : v.length = 64) (he : es < 4) :
    activeLanes es p v = (activeOn es p).map fun k => (k, laneS es (lane es v k)) := by
  rw [activeLanes, lanesOf_eq_map h he, zipIdx_map_range, List.filter_map, List.map_map, activeOn]
  simp only [Function.comp_def, laneOn_eq]

theorem pairwise_activeOn (es p : Nat) : (activeOn es p).Pairwise (· < ·) := List.pairwise_lt_range.filter _

theorem map_snd_lanes (l : List Nat) (x : Nat → Int) : (l.map fun k => (k, x k)).map (·.2) = l.map x := by
  rw [List.map_map]; rfl

/-! ### The largest, the smallest and the first best lane -/

theorem max?_map_eq {l : List Nat} {x : Nat → Int} {k : Nat} (hk : k ∈ l) (h : ∀ j ∈ l, x j ≤ x k) :
    (l.map x).max? = some (x k) := by
  rw [List.max?_eq_some_iff]
  exact ⟨List.mem_map_of_mem hk, by simpa using h⟩

theorem min?_map_eq {l : List Nat} {x : Nat → Int} {k : Nat} (hk : k ∈ l) (h : ∀ j ∈ l, x k ≤ x j) :
    (l.map x).min? = some (x k) := by
  rw [List.min?_eq_some_iff]
  exact ⟨List.mem_map_of_mem hk, by simpa using h⟩

variable {better : Int → Int → Bool}

/-- One more lane is the best where it betters the best so far, or is the first. -/
theorem argBest_concat (ls : List (Nat × Int)) (z : Nat × Int) :
    argBest better (ls ++ [z]) = some (((argBest better ls).filter fun y => !better z.2 y.2).getD z) := by
  rw [argBest, List.foldl_append, ← argBest]
  cases argBest better ls with
  | none => rfl
  | some y => cases h : better z.2 y.2 <;> simp [Option.filter_some, h]

theorem argBest_mem {ls : List (Nat × Int)} {y : Nat × Int} (h : argBest better ls = some y) : y ∈ ls := by
  induction ls using List.reverseRecOn generalizing y with
  | nil => simp [argBest] at h
  | append_singleton ls z ih =>
    rw [argBest_concat, Option.some_inj] at h
    cases hb : (argBest better ls).filter fun y => !better z.2 y.2 with
    | none => rw [hb] at h; simp [← h]
    | some b =>
      rw [hb, Option.getD_some] at h
      exact List.mem_append_left _ (ih (h ▸ (Option.filter_eq_some_iff.1 hb).1))

/-- A lane that betters every lane before it, and that none after it betters, is the best. -/
theorem argBest_append {l r : List (Nat × Int)} {z : Nat × Int} (hl : ∀ y ∈ l, better z.2 y.2 = true)
    (hr : ∀ y ∈ r, better y.2 z.2 = false) : argBest better (l ++ z :: r) = some z := by
  induction r using List.reverseRecOn with
  | nil =>
    rw [argBest_concat]
    cases h : argBest better l with
    | none => rfl
    | some y => simp [Option.filter_some, hl y (argBest_mem h)]
  | append_singleton r w ih =>
    rw [← List.cons_append, ← List.append_assoc, argBest_concat, ih fun y hy => hr y (List.mem_append_left _ hy)]
    simp [Option.filter_some, hr w (by simp)]

/-- In the order of the lanes, the best is the one that betters all before it and that none betters. -/
theorem argBest_lanes {l : List Nat} {x : Nat → Int} {k : Nat} (hs : l.Pairwise (· < ·)) (hk : k ∈ l)
    (hle : ∀ j ∈ l, better (x j) (x k) = false) (hlt : ∀ j ∈ l, j < k → better (x k) (x j) = true) :
    argBest better (l.map fun j => (j, x j)) = some (k, x k) := by
  obtain ⟨a, b, rfl⟩ := List.append_of_mem hk
  have hak : ∀ j ∈ a, j < k := fun j hj => (List.pairwise_append.1 hs).2.2 j hj k List.mem_cons_self
  rw [List.map_append, List.map_cons]
  refine argBest_append ?_ ?_
  · simpa using fun j hj => hlt j (List.mem_append_left _ hj) (hak j hj)
  · simpa using fun j hj => hle j (List.mem_append_right _ (List.mem_cons_of_mem _ hj))

/-! ### Instructions -/

theorem givesG_vred {c rd v pg es : Nat} {f : List (Nat × Int) → Nat} {i : Instr} {s : State} (hr : rd < 32) (hv : v < 16)
    (hg : pg < 8) (he : es < 4) (h : s.issues c ⟨[32 + v], [rd]⟩) (hi : exec i s = .next (vred c rd v pg es f s)) :
    GivesG c rd i (BitVec.ofNat 64 (f ((activeOn es (s.p c pg)).map fun k => (k, laneS es (lane es (s.v c v) k))))) s :=
  givesG_issue hr h hi (by rw [p_bump hg, v_bump hv, activeLanes_eq _ (length_v ..) he]) rfl

theorem vbcast_done {c v g pg es : Nat} {s : State} (hv : v < 16) (hg : g < 32) (hp : pg < 8) (he : es < 4)
    (h : s.issues c ⟨[g, 32 + v], [32 + v]⟩) :
    (∀ k < 64 / 2 ^ es, lane es ((vbcast c v g pg es s).v c v) k =
      if laneActive es (s.p c pg) k then s.g c g % 2 ^ (8 * 2 ^ es) else lane es (s.v c v) k) ∧
    RegDone c (destV c v) s (vbcast c v g pg es s) := by
  rw [vbcast, issue_of _ h]
  dsimp only
  rw [v_bump hv, p_bump hp, g_bump (c := c) hg]
  obtain ⟨hb, hd⟩ := regDone_setV (c := c) (s := s) hv (length_merged (es := es) (p := s.p c pg) (zm := false)
    (old := lanesOf es (s.v c v)) (new := List.replicate (laneCount es) (s.g c g)) he)
  refine ⟨fun k hk => ?_, hd⟩
  have hr : (List.replicate (laneCount es) (s.g c g)).getD k 0 = s.g c g := by
    rw [List.getD_eq_getElem _ _ (by rwa [List.length_replicate]), List.getElem_replicate]
  rw [hb, lane_merged (length_v ..) he hk, hr]
  rfl

theorem length_packLanes_set {es : Nat} {v : List Byte} (ln n : Nat) (h : v.length = 64) (he : es < 4) :
    (packLanes es ((lanesOf es v).set ln n)).length = 64 := by
  rw [length_packLanes, List.length_set, length_lanesOf h he]
  exact Nat.mul_div_cancel' (pow_dvd_pow 2 (show es ≤ 6 by omega))

theorem lane_packLanes_set {es k : Nat} {v : List Byte} (ln n : Nat) (h : v.length = 64) (he : es < 4) (hk : k < 64 / 2 ^ es) :
    lane es (packLanes es ((lanesOf es v).set ln n)) k = if k = ln then n % 2 ^ (8 * 2 ^ es) else lane es v k := by
  rw [lane_packLanes, List.getD_eq_getElem _ _ (by rwa [List.length_set, length_lanesOf h he]), List.getElem_set]
  by_cases e : ln = k
  · rw [if_pos e, if_pos e.symm]
  · have hl : k < (lanesOf es v).length := by rwa [length_lanesOf h he]
    rw [if_neg e, if_neg (Ne.symm e), ← List.getD_eq_getElem _ 0 hl, getD_lanesOf h he hk, Nat.mod_eq_of_lt (lane_lt ..)]

theorem exec_kVins {c : Fin 1024} {v : Fin 16} {g : Fin 32} {ln : Fin 64} {es : Fin 4} {s : State}
    (hln : ln.val < 64 / 2 ^ es.val) (h : s.issues c ⟨[32 + v.val, g.val], [32 + v.val]⟩) :
    ∃ t, exec (.kVins c v g ln es) s = .next t ∧
      (∀ k < 64 / 2 ^ es.val, lane es (t.v c v) k =
        if k = ln.val then s.g c g % 2 ^ (8 * 2 ^ es.val) else lane es (s.v c v) k) ∧
      RegDone c (destV c v) s t := by
  refine ⟨_, congrArg Host.Outcome.next (if_neg (Nat.not_le.2 hln)), ?_⟩
  rw [issue_of _ h]
  dsimp only
  rw [v_bump v.isLt, g_bump (c := c) g.isLt]
  obtain ⟨hb, hd⟩ := regDone_setV (c := c) (s := s) v.isLt
    (length_packLanes_set ln (s.g c g) (length_v s c v) es.isLt)
  exact ⟨fun k hk => by rw [hb, lane_packLanes_set _ _ (length_v ..) es.isLt hk], hd⟩

/-- Settles O7: each reduction is a fold over the active lanes, and a lane moves by its number (R120). -/
theorem reductionResults : Obligations.ReductionResults := by
  unfold Obligations.ReductionResults
  intro c rd v pg ln es s w x on put gives
  have hx (k : Nat) : laneS es (lane es (s.v c v) k) = x k := laneS_eq_toInt ..
  refine ⟨fun h => ?_, fun h => ?_, fun hln h => ?_, fun hln h => ⟨?_, ?_⟩⟩
  · have hs : on.Pairwise (· < ·) := pairwise_activeOn ..
    have red {i : Instr} {f : List (Nat × Int) → Nat} {q : State → Prop} (hi : exec i s = .next (vred c rd v pg es f s))
        (hq : ∀ t, (∀ n, BitVec.ofNat 64 (f (on.map fun k => (k, x k))) = n → put t n) → q t) : gives i q := by
      obtain ⟨t, ht, hg, hd⟩ := givesG_vred rd.isLt v.isLt pg.isLt es.isLt h hi
      simp only [hx] at hg
      exact ⟨t, ht, hq t fun n hn => hn ▸ hg, hd⟩
    refine ⟨red rfl fun t ht => ht _ ?sum,
      red rfl fun t ht => ⟨fun h0 => ht _ ?max0, fun k hk hle => ht _ ?max⟩,
      red rfl fun t ht => ⟨fun h0 => ht _ ?min0, fun k hk hle => ht _ ?min⟩,
      red rfl fun t ht => ⟨fun h0 => ht _ ?argmax0, fun k hk hle hlt => ht _ ?argmax⟩,
      red rfl fun t ht => ⟨fun h0 => ht _ ?argmin0, fun k hk hle hlt => ht _ ?argmin⟩,
      red rfl fun t ht => ht _ (by rw [List.length_map]), fun hl => ?extr⟩
    case sum => rw [ofNat_w64, clampBits_eq, map_snd_lanes]
    case max0 => rw [h0, ofNat_w64]; simp [w, laneBytes]
    case max => rw [ofNat_w64, map_snd_lanes, max?_map_eq hk hle, Option.getD_some]
    case min0 => rw [h0, ofNat_w64]; simp [w, laneBytes]
    case min => rw [ofNat_w64, map_snd_lanes, min?_map_eq hk hle, Option.getD_some]
    case argmax0 => rw [h0]; rfl
    case argmin0 => rw [h0]; rfl
    case argmax =>
      rw [argBest_lanes hs hk (fun j hj => decide_eq_false (not_lt.2 (hle j hj))) fun j hj h => decide_eq_true (hlt j hj h)]
      rfl
    case argmin =>
      rw [argBest_lanes hs hk (fun j hj => decide_eq_false (not_lt.2 (hle j hj))) fun j hj h => decide_eq_true (hlt j hj h)]
      rfl
    case extr =>
      exact givesG_issue rd.isLt h (congrArg Host.Outcome.next (if_neg (Nat.not_le.2 hl)))
        (by rw [v_bump v.isLt, getD_lanesOf (length_v ..) es.isLt hl, hx]) (ofNat_w64 _)
  · exact ⟨_, rfl, vbcast_done v.isLt rd.isLt pg.isLt es.isLt h⟩
  · exact exec_kVins hln h
  · exact excepted_reserved c.isLt (by decide) h (congrArg _ (if_pos hln))
  · exact excepted_reserved c.isLt (by decide) h (congrArg _ (if_pos hln))

end Sys2Proof.Machine
end

section
/-! SUPPORT. What a fundamental reset leaves (R425, R426): every register at its reset value but CLK_RESET_CAUSE and
CLK_RAIL_STAT (R420), and the part reset by PERST_N (R281). -/

namespace Sys2Proof.Machine

variable (cause die rails : Nat) (s : State)

/-- R426: only the two registers that say why and on which supplies the part was reset are written after the reset. -/
theorem reg_fundamentalReset {r : Reg} (hc : r.off ≠ R.CLK_RESET_CAUSE.off) (hg : r.off ≠ R.CLK_RAIL_STAT.off) :
    (fundamentalReset cause die rails s).reg r = State.reset.reg r := by
  rw [fundamentalReset, reg_setReg_ne _ _ hg, reg_setReg_ne _ _ hc]
  exact reg_of_ctl rfl r

theorem reg_resetCause_fundamentalReset :
    (fundamentalReset cause die rails s).reg R.CLK_RESET_CAUSE = (die * 16 + cause) % 2 ^ 64 := by
  rw [fundamentalReset, reg_setReg_ne _ _ (by decide), reg_setReg_self]

/-- The fields of a register that resets to 0, the epochs of R281 among them, take 0. -/
theorem fld_fundamentalReset_eq_zero {r : Reg} (f : Fld) (h0 : r.rst = 0) (hc : r.off ≠ R.CLK_RESET_CAUSE.off)
    (hg : r.off ≠ R.CLK_RAIL_STAT.off) : (fundamentalReset cause die rails s).fld r f = 0 := by
  have hr : State.reset.reg r = 0 := h0
  rw [State.fld, reg_fundamentalReset _ _ _ _ hc hg, hr, bitsOf_eq, Nat.zero_div, Nat.zero_mod]

/-- Settles O60: PERST_N is a fundamental reset of cause 1 (R281, R425); the epochs are fields of registers that reset to
0 (R281), and every other part of the state that is named is the one of `State.reset`. -/
theorem perstResetsThePart : Obligations.PerstResetsThePart := by
  unfold Obligations.PerstResetsThePart
  intro s
  refine ⟨_, rfl, fun r => reg_fundamentalReset _ _ _ s, ?cause, rfl, rfl, rfl, rfl, rfl, rfl, rfl, rfl, rfl, rfl, rfl,
    fun f hf => ⟨fun q hq => ?queue, fun w hw => ⟨?active, ?shadow⟩⟩⟩
  case cause => rw [State.fld, reg_resetCause_fundamentalReset]; rfl
  -- The queue pairs and the windows stand below the block of the two registers.
  case queue | active | shadow =>
    exact fld_fundamentalReset_eq_zero _ _ _ s _ rfl (by dsimp only; omega) (by dsimp only; omega)

end Sys2Proof.Machine
end
